-- ==== Sys2Proof/Word.lean ====
section
/-! DEFINITION. The plain words of the model: bytes, words, sparse tables in one canonical form, and the
fields of an instruction word (R299). -/

namespace Sys2Proof

abbrev Byte := BitVec 8
abbrev Word := BitVec 64

/-- A sparse table: pairs of a key and a value, keys strictly rising, no entry equal to the table's default. -/
abbrev Tab (α : Type) := List (Nat × α)

namespace Tab

/-- The value at key `k`; `d` is what an unlisted key reads as. -/
def get {α : Type} (d : α) : Tab α → Nat → α
  | [], _ => d
  | (k', v) :: t, k => if k' = k then v else get d t k

/-- The table with every entry of key `k` removed. -/
def del {α : Type} : Tab α → Nat → Tab α
  | [], _ => []
  | (k', v) :: t, k => if k' = k then del t k else (k', v) :: del t k

/-- The table with the entry of key `k` replaced, or put before the first greater key. -/
def put {α : Type} : Tab α → Nat → α → Tab α
  | [], k, v => [(k, v)]
  | (k', v') :: t, k, v =>
    if k' = k then (k, v) :: t
    else if k < k' then (k, v) :: (k', v') :: t
    else (k', v') :: put t k v

/-- Write `v` at key `k`; writing the default removes the entry, so equal tables are equal data. -/
def set {α : Type} [DecidableEq α] (d : α) (t : Tab α) (k : Nat) (v : α) : Tab α :=
  if v = d then del t k else put t k v

/-- Every key of the table is above `n`. -/
def above {α : Type} (n : Nat) : Tab α → Bool
  | [] => true
  | (k, _) :: t => n < k && above n t

/-- The canonical form: keys strictly rising and no entry equal to the default. -/
def wf {α : Type} [DecidableEq α] (d : α) : Tab α → Bool
  | [] => true
  | (k, v) :: t => !(v = d) && above k t && wf d t

end Tab

/-- The operand classes of R302, in the order of their codes. -/
inductive Cls where
  | G | P | T | Q | S | A | I | Z
deriving DecidableEq, Repr

/-- An operand field: a class and a 7-bit index (R302). -/
structure Operand where
  cls : Cls
  idx : BitVec 7
deriving DecidableEq, Repr

/-- The fields of a 96-bit instruction word other than OPC (R299). `hint` holds the ignored bits 75:70. -/
structure Fields where
  fn   : BitVec 4
  neg  : Bool
  grd  : BitVec 5
  yld  : Bool
  nt   : Bool
  hint : BitVec 6
  d    : Operand
  a    : Operand
  b    : Operand
  md   : BitVec 8
  imm  : BitVec 32
deriving DecidableEq, Repr

/-- Where a host write to a register goes: an offset of window A or B of a function (R44), or a register of
the root window to which the manual gives no offset. -/
inductive RegTarget where
  | winA (fn off : Nat)
  | winB (fn off : Nat)
  | powerLimit
  | routeMask (peer : Nat)
  | peerGrant (peer hold : Nat) (valid : Bool) (loc base limit : Nat) (r w a : Bool)
  | linkCounters (link : Nat)
deriving DecidableEq, Repr

/-- How a request that the part sent was answered (R67, R71, R79). -/
inductive CplStatus where
  | ok | poisoned | unsupported | aborted
deriving DecidableEq, Repr

/-- The MetaValue of a CXL.mem request (R57). -/
inductive MetaValue where
  | any | shared | invalid | none
deriving DecidableEq, Repr

/-- A bit of a function's configuration space that the part obeys (R49, R50, R67, R116). -/
inductive ConfigBit where
  | atsEnable | priEnable | atomicEnable | vfEnable | priAllocation (n : Nat)
deriving DecidableEq, Repr

/-- What the training of a Kryas link gives (R30). -/
inductive Trained where
  | up8 | up4 | failed
deriving DecidableEq, Repr

/-- The rotas of R37 and R466: a mesh output of a core (direction 0 north, 1 east, 2 south, 3 west), a Kryas
link, a host port, or the rota master. -/
inductive RotaId where
  | mesh (core dir : Nat)
  | kryas (link : Nat)
  | host (port : Nat)
  | master
deriving DecidableEq, Repr

/-- A message that a Kryas flit completes. The manual gives no encoding of messages inside a payload (R26),
so the message stands beside the payload's bytes. `chk` holds the check values of the data's beats (R26, R68); a write
carries the region and address of its source, which an error response brings back (R34). -/
inductive LinkMsg where
  | read (tag src hold : Nat) (off len : Nat)
  | write (src hold : Nat) (off : Nat) (data : List Byte) (chk : List Nat) (rgn : Nat) (addr : BitVec 64)
  | atomic (tag src hold : Nat) (fn : Nat) (off len : Nat) (a b : BitVec 128) (chk : List Nat)
  | readResp (tag : Nat) (status : CplStatus) (data : List Byte) (chk : List Nat)
  | denied (hold rgn : Nat) (addr : BitVec 64)
  | flush (src : Nat)
  | flushDone (src : Nat)
  | root (w : Word)
deriving DecidableEq, Repr

end Sys2Proof
end

