-- ==== Sys2Proof/Config.lean ====
section
/-! DEFINITION. What the manual leaves open as a value: constants without a body, applied to a counter of the state, so
that nothing can be proved of what they give. -/

namespace Sys2Proof.Config

/-- A word that the manual leaves undefined (overlapping copies R444, lost lines R110, destination mixes R486). -/
opaque freeWord : Nat → Word

/-- The key material of slot 0 that each start draws from the random source of the module (R88). -/
opaque freeKey : Nat → BitVec 512

/-- The serial number in the capability table (R93). -/
opaque serial : BitVec 64

/-- The firmware values that step 7 gives the words of holding 0's block that R481 does not list. -/
opaque rootWord : Nat → Word

/-- The words of DRAM that the firmware writes at step 7 for holding 0, beside its page table: address and value. -/
opaque rootImage : Nat → List (Nat × Word)

/-- Where the firmware puts holding 0's page table, the MVA at which it maps holding 0's memory, and the placement and kind of its pages
(R88). -/
opaque rootMap : Nat → Nat → Nat

/-- The Device ID of the physical function. -/
opaque deviceId : BitVec 16

/-- The VF Device ID, before it is made to differ from the physical function's (R43). -/
opaque vfDeviceId : BitVec 16

/-- The bytes of a Kryas payload into which messages are packed (R26). -/
opaque payloadByte : List LinkMsg → Nat → Byte

/-- The device certificate chain of SPDM slot 0 (R91). -/
opaque certificate : List Byte

/-- What the part measures of its boot ROM and of a firmware image, by measurement block (R91). -/
opaque measured : Nat → Nat → List Byte

/-- The bytes of a signed SPDM response (R91). -/
opaque spdmSigned : Nat → List Byte

/-- The number of holdings (R93, R96). -/
def holdings : Nat := 64

end Sys2Proof.Config
end

