-- ==== Sys2Proof/Syntax.lean ====
section
/-! DEFINITION. The steps of the part: one constructor for each row of the opcode table. A row that stands for
instruction words carries the word's fields (R299); a row that is an event of the part, the host or a peer
carries what comes with it from outside. -/

namespace Sys2Proof

/-- One step of the part. A step happens at a place that the state names (Machine/State.lean, Place): an instruction at a
core and slot, an event at the core, cluster, function, link or slice that it concerns. -/
inductive Instr where
  /-- NOP (R329). -/
  | nop (f : Fields)
  /-- BRA (R330). -/
  | bra (f : Fields)
  /-- BRX (R330). -/
  | brx (f : Fields)
  /-- CALL (R331). -/
  | call (f : Fields)
  /-- LOOP (R332). -/
  | loop (f : Fields)
  /-- REP (R311). -/
  | rep (f : Fields)
  /-- EXIT (R333). -/
  | exit (f : Fields)
  /-- KPOINT (R453). -/
  | kpoint (f : Fields)
  /-- TRAP (R334). -/
  | trap (f : Fields)
  /-- TRET (R335). -/
  | tret (f : Fields)
  /-- UIEN (R336). -/
  | uien (f : Fields)
  /-- ADD (R340). -/
  | add (f : Fields)
  /-- SUB (R340). -/
  | sub (f : Fields)
  /-- MUL (R340). -/
  | mul (f : Fields)
  /-- MULH (R340). -/
  | mulh (f : Fields)
  /-- MULHU (R340). -/
  | mulhu (f : Fields)
  /-- DIV (R340). -/
  | div (f : Fields)
  /-- DIVU (R340). -/
  | divu (f : Fields)
  /-- REM (R340). -/
  | rem (f : Fields)
  /-- REMU (R340). -/
  | remu (f : Fields)
  /-- AND (R340). -/
  | and (f : Fields)
  /-- OR (R340). -/
  | or (f : Fields)
  /-- XOR (R340). -/
  | xor (f : Fields)
  /-- ANDN (R340). -/
  | andn (f : Fields)
  /-- SHL (R340). -/
  | shl (f : Fields)
  /-- SHR (R340). -/
  | shr (f : Fields)
  /-- SAR (R340). -/
  | sar (f : Fields)
  /-- ROTL (R340). -/
  | rotl (f : Fields)
  /-- CLZ (R340). -/
  | clz (f : Fields)
  /-- CTZ (R340). -/
  | ctz (f : Fields)
  /-- POPC (R340). -/
  | popc (f : Fields)
  /-- BREV (R340). -/
  | brev (f : Fields)
  /-- MIN (R340). -/
  | min (f : Fields)
  /-- MAX (R340). -/
  | max (f : Fields)
  /-- MINU (R340). -/
  | minu (f : Fields)
  /-- MAXU (R340). -/
  | maxu (f : Fields)
  /-- ABS (R340). -/
  | abs (f : Fields)
  /-- SEXT (R342). -/
  | sext (f : Fields)
  /-- ZEXT (R342). -/
  | zext (f : Fields)
  /-- BFX (R343). -/
  | bfx (f : Fields)
  /-- BFI (R343). -/
  | bfi (f : Fields)
  /-- MOV (R344). -/
  | mov (f : Fields)
  /-- MOVHI (R344). -/
  | movhi (f : Fields)
  /-- SEL (R345). -/
  | sel (f : Fields)
  /-- ADDSH (R346). -/
  | addsh (f : Fields)
  /-- SEGP (R346). -/
  | segp (f : Fields)
  /-- MFS (R347). -/
  | mfs (f : Fields)
  /-- MTS (R348). -/
  | mts (f : Fields)
  /-- FADD (R351). -/
  | fadd (f : Fields)
  /-- FSUB (R351). -/
  | fsub (f : Fields)
  /-- FMUL (R351). -/
  | fmul (f : Fields)
  /-- FFMA (R351). -/
  | ffma (f : Fields)
  /-- FMIN (R353). -/
  | fmin (f : Fields)
  /-- FMAX (R353). -/
  | fmax (f : Fields)
  /-- FCVT (R354). -/
  | fcvt (f : Fields)
  /-- CMP (R356). -/
  | cmp (f : Fields)
  /-- CMPU (R356). -/
  | cmpu (f : Fields)
  /-- FCMP (R357). -/
  | fcmp (f : Fields)
  /-- PLOG (R358). -/
  | plog (f : Fields)
  /-- PGET (R359). -/
  | pget (f : Fields)
  /-- PSET (R359). -/
  | pset (f : Fields)
  /-- LD (R367). -/
  | ld (f : Fields)
  /-- ST (R367). -/
  | st (f : Fields)
  /-- LDP (R367). -/
  | ldp (f : Fields)
  /-- STP (R367). -/
  | stp (f : Fields)
  /-- LDACQ (R367). -/
  | ldacq (f : Fields)
  /-- STREL (R367). -/
  | strel (f : Fields)
  /-- PREF (R369). -/
  | pref (f : Fields)
  /-- TAGLD (R372). -/
  | tagld (f : Fields)
  /-- TAGST (R372). -/
  | tagst (f : Fields)
  /-- TAGCAS (R372). -/
  | tagcas (f : Fields)
  /-- TBLLD (R373). -/
  | tblld (f : Fields)
  /-- TSWAP (R374). -/
  | tswap (f : Fields)
  /-- FEGET (R375). -/
  | feget (f : Fields)
  /-- FESET (R375). -/
  | feset (f : Fields)
  /-- FECLR (R375). -/
  | feclr (f : Fields)
  /-- WBK (R370). -/
  | wbk (f : Fields)
  /-- LINV (R370). -/
  | linv (f : Fields)
  /-- ATOM (R377). -/
  | atom (f : Fields)
  /-- CAS (R379). -/
  | cas (f : Fields)
  /-- CAS2 (R379). -/
  | cas2 (f : Fields)
  /-- POOL (R380). -/
  | pool (f : Fields)
  /-- POOLF (R381). -/
  | poolf (f : Fields)
  /-- INCLD (R383). -/
  | incld (f : Fields)
  /-- INCOFR (R384). -/
  | incofr (f : Fields)
  /-- INCSET (R385). -/
  | incset (f : Fields)
  /-- FENCE (R387). -/
  | fence (f : Fields)
  /-- WAITC (R388). -/
  | waitc (f : Fields)
  /-- WAITTL (R389). -/
  | waittl (f : Fields)
  /-- TLGET (R390). -/
  | tlget (f : Fields)
  /-- TLGET_STAT (R279). -/
  | tlgetStat (f : Fields)
  /-- BARSET (R394). -/
  | barset (f : Fields)
  /-- BARARR (R395). -/
  | bararr (f : Fields)
  /-- BARWT (R396). -/
  | barwt (f : Fields)
  /-- BOINIT (R397). -/
  | boinit (f : Fields)
  /-- BOARR (R397). -/
  | boarr (f : Fields)
  /-- BOEXP (R397). -/
  | boexp (f : Fields)
  /-- BOWT (R397). -/
  | bowt (f : Fields)
  /-- QPUSH (R399). -/
  | qpush (f : Fields)
  /-- QPOP (R399). -/
  | qpop (f : Fields)
  /-- MBPUT (R400). -/
  | mbput (f : Fields)
  /-- MBTAKE (R400). -/
  | mbtake (f : Fields)
  /-- VADD (R408). -/
  | vadd (f : Fields)
  /-- VSUB (R408). -/
  | vsub (f : Fields)
  /-- VMUL (R408). -/
  | vmul (f : Fields)
  /-- VFMA (R408). -/
  | vfma (f : Fields)
  /-- VMIN (R408). -/
  | vmin (f : Fields)
  /-- VMAX (R408). -/
  | vmax (f : Fields)
  /-- VABS (R408). -/
  | vabs (f : Fields)
  /-- VAND (R408). -/
  | vand (f : Fields)
  /-- VOR (R408). -/
  | vor (f : Fields)
  /-- VXOR (R408). -/
  | vxor (f : Fields)
  /-- VSHL (R408). -/
  | vshl (f : Fields)
  /-- VSHR (R408). -/
  | vshr (f : Fields)
  /-- VCVT (R410). -/
  | vcvt (f : Fields)
  /-- VRED (R411). -/
  | vred (f : Fields)
  /-- VSCAN (R412). -/
  | vscan (f : Fields)
  /-- VCMP (R413). -/
  | vcmp (f : Fields)
  /-- VSEL (R414). -/
  | vsel (f : Fields)
  /-- VCOPY (R415). -/
  | vcopy (f : Fields)
  /-- VFILL (R415). -/
  | vfill (f : Fields)
  /-- VGATH (R416). -/
  | vgath (f : Fields)
  /-- VSCAT (R416). -/
  | vscat (f : Fields)
  /-- SFN (R418). -/
  | sfn (f : Fields)
  /-- VSFN (R420). -/
  | vsfn (f : Fields)
  /-- TLD (R424). -/
  | tld (f : Fields)
  /-- TST (R424). -/
  | tst (f : Fields)
  /-- THDR (R425). -/
  | thdr (f : Fields)
  /-- THSET (R425). -/
  | thset (f : Fields)
  /-- TCHK (R426). -/
  | tchk (f : Fields)
  /-- TCVT (R428). -/
  | tcvt (f : Fields)
  /-- TQNT (R429). -/
  | tqnt (f : Fields)
  /-- TENC (R430). -/
  | tenc (f : Fields)
  /-- TADD (R431). -/
  | tadd (f : Fields)
  /-- TMUL (R431). -/
  | tmul (f : Fields)
  /-- TFMA (R431). -/
  | tfma (f : Fields)
  /-- TMAX (R431). -/
  | tmax (f : Fields)
  /-- TTRN (R432). -/
  | ttrn (f : Fields)
  /-- TZERO (R427). -/
  | tzero (f : Fields)
  /-- MXA (R440). -/
  | mxa (f : Fields)
  /-- MXB (R440). -/
  | mxb (f : Fields)
  /-- MXOWN (R441). -/
  | mxown (f : Fields)
  /-- MXSPILL (R441). -/
  | mxspill (f : Fields)
  /-- MXFILL (R441). -/
  | mxfill (f : Fields)
  /-- CPY (R444). -/
  | cpy (f : Fields)
  /-- CPYS (R444). -/
  | cpys (f : Fields)
  /-- CPYM (R445). -/
  | cpym (f : Fields)
  /-- CPYT (R446). -/
  | cpyt (f : Fields)
  /-- CPYG (R447). -/
  | cpyg (f : Fields)
  /-- CPYX (R448). -/
  | cpyx (f : Fields)
  /-- CPYA (R449). -/
  | cpya (f : Fields)
  /-- SPAWN (R451). -/
  | spawn (f : Fields)
  /-- SPAWNB (R452). -/
  | spawnb (f : Fields)
  /-- BOUND (R453). -/
  | bound (f : Fields)
  /-- ROAM (R454). -/
  | roam (f : Fields)
  /-- MIGR (R454). -/
  | migr (f : Fields)
  /-- WAKE (R455). -/
  | wake (f : Fields)
  /-- DADD (R456). -/
  | dadd (f : Fields)
  /-- DSUB (R456). -/
  | dsub (f : Fields)
  /-- DMUL (R456). -/
  | dmul (f : Fields)
  /-- DFMA (R456). -/
  | dfma (f : Fields)
  /-- DDIV (R456). -/
  | ddiv (f : Fields)
  /-- DSQRT (R456). -/
  | dsqrt (f : Fields)
  /-- DCVT (R458). -/
  | dcvt (f : Fields)
  /-- DCMP (R459). -/
  | dcmp (f : Fields)
  /-- SPILL (R461). -/
  | spill (f : Fields)
  /-- RESTO (R462). -/
  | resto (f : Fields)
  /-- RESTO_FRAME (R462). -/
  | restoFrame (f : Fields)
  /-- RGNOP_CREATE (R106). -/
  | rgnopCreate (f : Fields)
  /-- RGNOP_RESIZE (R108). -/
  | rgnopResize (f : Fields)
  /-- RGNOP_FREEZE (R109). -/
  | rgnopFreeze (f : Fields)
  /-- RGNOP_THAW (R106). -/
  | rgnopThaw (f : Fields)
  /-- RGNOP_DESTROY (R110). -/
  | rgnopDestroy (f : Fields)
  /-- RGNOP_SLICE (R114). -/
  | rgnopSlice (f : Fields)
  /-- KEYSET (R464). -/
  | keyset (f : Fields)
  /-- KEYSET_CLEAR (R464). -/
  | keysetClear (f : Fields)
  /-- TLBINV (R465). -/
  | tlbinv (f : Fields)
  /-- ROTA (R466). -/
  | rota (f : Fields)
  /-- ROTA_CTL (R466). -/
  | rotaCtl (f : Fields)
  /-- SCALL (R467). -/
  | scall (f : Fields)
  /-- SRET (R467). -/
  | sret (f : Fields)
  /-- IDLE (R468). -/
  | idle (f : Fields)
  /-- PGVER_ARM (R469). -/
  | pgverArm (f : Fields)
  /-- PGVER_READ (R469). -/
  | pgverRead (f : Fields)
  /-- PGVER_COMMIT (R221). -/
  | pgverCommit (f : Fields)
  /-- PGVER_FREE (R469). -/
  | pgverFree (f : Fields)
  /-- MOD_RST_RISE (R17). -/
  | modRstRise (pos : BitVec 3) (boot : BitVec 2) (cxla : Bool)
  /-- RANBOR_BOOT (R19). -/
  | ranborBoot (ok : Bool)
  /-- POWER_MEASUREMENT (R11). -/
  | powerMeasurement (watts : Nat)
  /-- TEMPERATURE_MEASUREMENT (R14). -/
  | temperatureMeasurement (celsius : Nat)
  /-- PLL_LOCK (R85). -/
  | pllLock (ok : Bool)
  /-- BRIDGE_TRAINING (R85). -/
  | bridgeTraining (ok : Bool)
  /-- DRAM_TRAINING (R85). -/
  | dramTraining (ok : Bool)
  /-- FULL_SCRUB (R85). -/
  | fullScrub (ok : Bool)
  /-- PHY_EQUALISATION (R85). -/
  | phyEqualisation (links : List (Nat × Trained × BitVec 3))
  /-- FIRMWARE_VERIFICATION (R89). -/
  | firmwareVerification (rsa slh : Bool) (version minimum : BitVec 32)
  /-- FWGO (R90). -/
  | fwgo (value : Word)
  /-- CAPABILITY_TABLE_BUILD (R85). -/
  | capabilityTableBuild (ok : Bool)
  /-- REGISTER_WRITE (R45). -/
  | registerWrite (target : RegTarget) (size : Nat) (value : Word)
  /-- CTAIL_WRITE (R75). -/
  | ctailWrite (value : Word)
  /-- CHEAD_WRITE (R75). -/
  | cheadWrite (value : Word)
  /-- PAGE_REQUEST_QUARANTINE_CLEAR (R53). -/
  | pageRequestQuarantineClear (value : Word)
  /-- HDM_REGION_WRITE (R54). -/
  | hdmRegionWrite (value : Word)
  /-- WINDOW_M_ACCESS (R47). -/
  | windowMAccess (off len : Nat) (data : Option (List Byte))
  /-- ATS_INVALIDATE_REQUEST (R49). -/
  | atsInvalidateRequest (page size : Nat)
  /-- SPDM_REQUEST (R91). -/
  | spdmRequest (code : BitVec 8)
  /-- CXL_MEMRD (R57). -/
  | cxlMemrd (mv : MetaValue)
  /-- CXL_MEMWR (R57). -/
  | cxlMemwr (mv : MetaValue) (data : List (Option Byte))
  /-- BIRSP (R56). -/
  | birsp (shared : Bool) (dirty : Option (List Byte))
  /-- HOST_SNOOP (R65). -/
  | hostSnoop (inval : Bool)
  /-- KRYAS_FLIT_RECEIVE (R29). -/
  | kryasFlitReceive (hdr : BitVec 96) (payload : List Byte) (crc : BitVec 32) (msgs : List LinkMsg)
  /-- RETRAIN (R30). -/
  | retrain (lockLost : Bool)
  /-- ROTA_SLOT_START (R39). -/
  | rotaSlotStart (rota : RotaId)
  /-- ROTA_MARKER_ARRIVAL (R41). -/
  | rotaMarkerArrival (epoch : Option (BitVec 16)) (late : Int)
  /-- HOST_COMPLETION (R67). -/
  | hostCompletion (status : CplStatus) (data : List Byte)
  /-- CONFIG_SPACE_WRITE (R50). -/
  | configSpaceWrite (bit : ConfigBit) (value : Bool)
  /-- LINK_TRAINING_DONE (R30). -/
  | linkTrainingDone (result : Trained) (peer : BitVec 3)
  /-- HOST_PORT_LINK_UP (R18). -/
  | hostPortLinkUp (width rate : Nat)
  /-- HOST_REGISTER_READ (R45). -/
  | hostRegisterRead (winB : Bool) (off size : Nat)
  /-- VAUX_PRESENT (R10). -/
  | vauxPresent
  /-- VAUX_ABSENT (R10). -/
  | vauxAbsent
  /-- PWR_EN_HIGH (R19). -/
  | pwrEnHigh
  /-- PWR_EN_LOW (R21). -/
  | pwrEnLow
  /-- MOD_RST_FALL (R21). -/
  | modRstFall
  /-- PERST_ASSERT (R18). -/
  | perstAssert
  /-- PERST_DEASSERT (R18). -/
  | perstDeassert
  /-- RAIL_WITHIN_TOLERANCE (R19). -/
  | railWithinTolerance
  /-- RAIL_FAULT (R20). -/
  | railFault
  /-- START_WARM (R84). -/
  | startWarm
  /-- START_COLD (R86). -/
  | startCold
  /-- FWGO_TIMEOUT (R90). -/
  | fwgoTimeout
  /-- START_RESET (R87). -/
  | startReset
  /-- GO (R74). -/
  | go
  /-- RST (R35). -/
  | rst
  /-- RECORD_FETCH (R75). -/
  | recordFetch
  /-- LAUNCH (R77). -/
  | launch
  /-- COPYH (R77). -/
  | copyh
  /-- SIGNAL (R77). -/
  | signal
  /-- RESYNC (R94). -/
  | resync
  /-- FEATURE (R83). -/
  | feature
  /-- RECORD_COMPLETE (R78). -/
  | recordComplete
  /-- MIRROR_WRITE (R80). -/
  | mirrorWrite
  /-- FUNCTION_LEVEL_RESET (R115). -/
  | functionLevelReset
  /-- VF_ENABLE_CLEAR (R116). -/
  | vfEnableClear
  /-- PRI_SUCCESS (R50). -/
  | priSuccess
  /-- PRI_INVALID_REQUEST (R50). -/
  | priInvalidRequest
  /-- PRI_RESPONSE_FAILURE (R50). -/
  | priResponseFailure
  /-- BICONFLICT (R59). -/
  | biconflict
  /-- BISNP_TIMEOUT (R60). -/
  | bisnpTimeout
  /-- HOST_WRITE (R61). -/
  | hostWrite
  /-- NONPOSTED_TIMEOUT (R31). -/
  | nonpostedTimeout
  /-- PEER_REQUEST (R34). -/
  | peerRequest
  /-- PEER_FLUSH (R63). -/
  | peerFlush
  /-- FLIT_HOP (R42). -/
  | flitHop
  /-- TOKEN_WINDOW (R101). -/
  | tokenWindow
  /-- SLICE_PORT_SERVE (R101). -/
  | slicePortServe
  /-- POST_BUFFER_MOVE (R256). -/
  | postBufferMove
  /-- PORT_QUEUE_PERFORM (R257). -/
  | portQueuePerform
  /-- L1_EVICTION (R210). -/
  | l1Eviction
  /-- ENLIST (R214). -/
  | enlist
  /-- POOL_MERGE (R213). -/
  | poolMerge
  /-- ISSUE_CYCLE (R127). -/
  | issueCycle
  /-- SLOT_FILL (R126). -/
  | slotFill
  /-- DEAL_TILE (R124). -/
  | dealTile
  /-- LAUNCH_COMPLETE (R124). -/
  | launchComplete
  /-- MIGRATION_DEPARTURE (R133). -/
  | migrationDeparture
  /-- STILE_ARRIVAL (R134). -/
  | stileArrival
  /-- PAGE_PARK (R136). -/
  | pagePark
  /-- PAGE_ARRIVAL (R136). -/
  | pageArrival
  /-- SLOT_SPILL (R137). -/
  | slotSpill
  /-- TURN_END (R113). -/
  | turnEnd
  /-- SLICE_END_BROADCAST (R139). -/
  | sliceEndBroadcast
  /-- DRAIN_ALLOWANCE_EXPIRY (R139). -/
  | drainAllowanceExpiry
  /-- USER_INTERRUPT (R168). -/
  | userInterrupt
  /-- REMOTE_BANK_ANSWER (R486). -/
  | remoteBankAnswer
  /-- PARKED_ACCESS_WAKE (R183). -/
  | parkedAccessWake
  /-- FAULT_QUEUE_RECORD_ADD (R121). -/
  | faultQueueRecordAdd
  /-- HEAD_STORE (R121). -/
  | headStore
  /-- PART_ACCESS (R487). -/
  | partAccess
  /-- CRIER_MESSAGE (R152). -/
  | crierMessage
  /-- MATRIX_RECORD_ACCEPT (R280). -/
  | matrixRecordAccept
  /-- MATRIX_RECORD_START (R282). -/
  | matrixRecordStart
  /-- ZERO (R439). -/
  | zeroRec
  /-- LDB (R439). -/
  | ldbRec
  /-- MMA (R439). -/
  | mmaRec
  /-- MMAS (R439). -/
  | mmasRec
  /-- DRAIN (R287). -/
  | drainRec
  /-- LDACC (R439). -/
  | ldaccRec
  /-- STACC (R439). -/
  | staccRec
  /-- WAIT (R281). -/
  | waitRec
  /-- DRAIN_WAKE (R290). -/
  | drainWake
  /-- TIMELINE_ADVANCE (R269). -/
  | timelineAdvance
  /-- COPY_COMMAND_ACCEPT (R291). -/
  | copyCommandAccept
  /-- COPY_SECTOR (R291). -/
  | copySector
  /-- COPY_COMPLETE (R291). -/
  | copyComplete
  /-- SFU_SERVE (R298). -/
  | sfuServe
  /-- BARRIER_ARRIVAL_MESSAGE (R395). -/
  | barrierArrivalMessage
  /-- BARRIER_RELEASE_MESSAGE (R395). -/
  | barrierReleaseMessage
  /-- QUEUE_HOME_STEP (R399). -/
  | queueHomeStep
  /-- IDLE_LIMIT (R468). -/
  | idleLimit
deriving DecidableEq, Repr

end Sys2Proof
end

