-- ==== Sys2Proof/Machine/Encoding.lean ====
section
/-! DEFINITION. The encoding tables of the instruction set: for every instruction word its opcode (R314), its
function values (R310), its modifier rule (R308, R309), its IMM rule (R305) and the operand classes of its
three fields (R302-R304). -/

namespace Sys2Proof

/-- Which MOD values an instruction accepts (R308 and the entry's own limits). -/
inductive ModRule where
  | zero | int | intNoSat | sgnOnly | szOnly | mfs | mts | float | floatFmt | plog | load | atom | cas | cas2 | szWord
  | fence | vec | vecFmt | vfill | sfn | tcvt | tqnt | cpya | fp64 | fp64Fmt
deriving DecidableEq, Repr

/-- Which IMM values an instruction accepts (R305 and the entry's own limits). -/
inductive ImmRule where
  | zero | any | value | below (n : Nat) | within (mask : Nat) | low1 (v : Nat) | low2 (v : Nat) | trapCode | formV
  | cvt | vsel | tqnt | copy | copyDir | copyMask | slot | tlbinv
deriving DecidableEq, Repr

/-- Which operand classes a field accepts; a letter per class, `22` and `16` limit the register number, `pr` is a pair
at G 0-22 or, in a handler, h0-h2 (R366, R423), `sw` is a special register that MTS may name. -/
inductive OpRule where
  | z | g | p | t | s | sw | i | gz | gq | gi | gqz | gqi | pz | g16 | g22 | g22z | pr | prq | prz | any
deriving DecidableEq, Repr

/-- Further limits of an address form: M (R304, R361), V (R361), C the mask shape of VSEL (R414), A the form of
TLBINV (R460). -/
inductive FormRule where
  | none | M | V | C | A
deriving DecidableEq, Repr

/-- The encoding rules of one instruction. -/
structure EncRule where
  fns  : List Nat
  md   : ModRule
  imm  : ImmRule
  d    : OpRule
  a    : OpRule
  b    : OpRule
  form : FormRule
deriving DecidableEq, Repr

/-- The opcode and the encoding rules of every instruction word; `none` for an event, which has no word.
The rows are those of the encoding tables of R328, R338-R348, R350-R359, R366-R400, R407-R423, R440-R442, R450, R456, R460. -/
def encOf : Instr → Option (Nat × Fields × EncRule)
  | .nop f => some (0x00, f, ⟨[0], .zero, .any, .any, .any, .any, .none⟩)
  | .bra f => some (0x01, f, ⟨[0], .zero, .any, .z, .z, .z, .none⟩)
  | .brx f => some (0x02, f, ⟨[0], .zero, .any, .z, .g, .z, .none⟩)
  | .call f => some (0x03, f, ⟨[0], .zero, .any, .g, .gz, .z, .none⟩)
  | .loop f => some (0x04, f, ⟨[0], .zero, .any, .g, .z, .z, .none⟩)
  | .rep f => some (0x05, f, ⟨[0], .zero, (.below 0x1000), .z, .z, .z, .none⟩)
  | .exit f => some (0x06, f, ⟨[0], .zero, .zero, .z, .z, .z, .none⟩)
  | .kpoint f => some (0x07, f, ⟨[0], .zero, .zero, .z, .z, .z, .none⟩)
  | .trap f => some (0x08, f, ⟨[0], .zero, .trapCode, .z, .z, .z, .none⟩)
  | .tret f => some (0x09, f, ⟨[0], .zero, .zero, .z, .z, .z, .none⟩)
  | .uien f => some (0x0A, f, ⟨[0], .zero, (.below 2), .gz, .z, .z, .none⟩)
  | .add f => some (0x10, f, ⟨[0], .int, .value, .gqz, .gq, .gqi, .none⟩)
  | .sub f => some (0x11, f, ⟨[0], .int, .value, .gqz, .gq, .gqi, .none⟩)
  | .mul f => some (0x12, f, ⟨[0], .int, .value, .gqz, .gq, .gqi, .none⟩)
  | .mulh f => some (0x13, f, ⟨[0], .intNoSat, .value, .gqz, .gq, .gqi, .none⟩)
  | .mulhu f => some (0x14, f, ⟨[0], .intNoSat, .value, .gqz, .gq, .gqi, .none⟩)
  | .div f => some (0x15, f, ⟨[0], .intNoSat, .value, .gqz, .gq, .gqi, .none⟩)
  | .divu f => some (0x16, f, ⟨[0], .intNoSat, .value, .gqz, .gq, .gqi, .none⟩)
  | .rem f => some (0x17, f, ⟨[0], .intNoSat, .value, .gqz, .gq, .gqi, .none⟩)
  | .remu f => some (0x18, f, ⟨[0], .intNoSat, .value, .gqz, .gq, .gqi, .none⟩)
  | .and f => some (0x19, f, ⟨[0], .intNoSat, .value, .gqz, .gq, .gqi, .none⟩)
  | .or f => some (0x1A, f, ⟨[0], .intNoSat, .value, .gqz, .gq, .gqi, .none⟩)
  | .xor f => some (0x1B, f, ⟨[0], .intNoSat, .value, .gqz, .gq, .gqi, .none⟩)
  | .andn f => some (0x1C, f, ⟨[0], .intNoSat, .value, .gqz, .gq, .gqi, .none⟩)
  | .shl f => some (0x1D, f, ⟨[0], .intNoSat, .value, .gqz, .gq, .gqi, .none⟩)
  | .shr f => some (0x1E, f, ⟨[0], .intNoSat, .value, .gqz, .gq, .gqi, .none⟩)
  | .sar f => some (0x1F, f, ⟨[0], .intNoSat, .value, .gqz, .gq, .gqi, .none⟩)
  | .rotl f => some (0x20, f, ⟨[0], .intNoSat, .value, .gqz, .gq, .gqi, .none⟩)
  | .clz f => some (0x21, f, ⟨[0], .intNoSat, .value, .gqz, .gq, .z, .none⟩)
  | .ctz f => some (0x22, f, ⟨[0], .intNoSat, .value, .gqz, .gq, .z, .none⟩)
  | .popc f => some (0x23, f, ⟨[0], .intNoSat, .value, .gqz, .gq, .z, .none⟩)
  | .brev f => some (0x24, f, ⟨[0], .intNoSat, .value, .gqz, .gq, .z, .none⟩)
  | .min f => some (0x25, f, ⟨[0], .intNoSat, .value, .gqz, .gq, .gqi, .none⟩)
  | .max f => some (0x26, f, ⟨[0], .intNoSat, .value, .gqz, .gq, .gqi, .none⟩)
  | .minu f => some (0x27, f, ⟨[0], .intNoSat, .value, .gqz, .gq, .gqi, .none⟩)
  | .maxu f => some (0x28, f, ⟨[0], .intNoSat, .value, .gqz, .gq, .gqi, .none⟩)
  | .abs f => some (0x29, f, ⟨[0], .int, .value, .gqz, .gq, .z, .none⟩)
  | .sext f => some (0x2A, f, ⟨[0], .zero, .value, .gqz, .gq, .gqi, .none⟩)
  | .zext f => some (0x2B, f, ⟨[0], .zero, .value, .gqz, .gq, .gqi, .none⟩)
  | .bfx f => some (0x2C, f, ⟨[0], .sgnOnly, .value, .gqz, .gq, .gqi, .none⟩)
  | .bfi f => some (0x2D, f, ⟨[0], .zero, .value, .g, .gq, .gqi, .none⟩)
  | .mov f => some (0x2E, f, ⟨[0], .intNoSat, .value, .gqz, .gqi, .z, .none⟩)
  | .movhi f => some (0x2F, f, ⟨[0], .zero, .value, .g, .i, .z, .none⟩)
  | .sel f => some (0x30, f, ⟨[0], .intNoSat, (.below 64), .gqz, .gq, .gq, .none⟩)
  | .addsh f => some (0x31, f, ⟨[0], .zero, (.below 8), .gqz, .gq, .gq, .none⟩)
  | .segp f => some (0x32, f, ⟨[0], .zero, .value, .gqz, .gq, .gqi, .none⟩)
  | .mfs f => some (0x33, f, ⟨[0], .mfs, .zero, .gq, .s, .z, .none⟩)
  | .mts f => some (0x34, f, ⟨[0], .mts, .value, .sw, .gqi, .z, .none⟩)
  | .fadd f => some (0x38, f, ⟨[0], .float, .value, .gqz, .gq, .gqi, .none⟩)
  | .fsub f => some (0x39, f, ⟨[0], .float, .value, .gqz, .gq, .gqi, .none⟩)
  | .fmul f => some (0x3A, f, ⟨[0], .float, .value, .gqz, .gq, .gqi, .none⟩)
  | .ffma f => some (0x3B, f, ⟨[0], .float, .value, .g, .gq, .gqi, .none⟩)
  | .fmin f => some (0x3C, f, ⟨[0], .floatFmt, .value, .gqz, .gq, .gqi, .none⟩)
  | .fmax f => some (0x3D, f, ⟨[0], .floatFmt, .value, .gqz, .gq, .gqi, .none⟩)
  | .fcvt f => some (0x3E, f, ⟨[0], .float, .cvt, .gqz, .gq, .z, .none⟩)
  | .cmp f => some (0x40, f, ⟨[0, 1, 2, 3, 4, 5], .szOnly, .value, .p, .gq, .gqi, .none⟩)
  | .cmpu f => some (0x41, f, ⟨[0, 1, 2, 3, 4, 5], .szOnly, .value, .p, .gq, .gqi, .none⟩)
  | .fcmp f => some (0x42, f, ⟨[0, 1, 2, 3, 4, 5], .floatFmt, .value, .p, .gq, .gqi, .none⟩)
  | .plog f => some (0x43, f, ⟨[0, 1, 2, 3], .plog, .zero, .p, .p, .p, .none⟩)
  | .pget f => some (0x44, f, ⟨[0], .zero, .zero, .gq, .z, .z, .none⟩)
  | .pset f => some (0x45, f, ⟨[0], .zero, .any, .z, .gq, .z, .none⟩)
  | .ld f => some (0x48, f, ⟨[0], .load, .any, .gq, .g, .gz, .M⟩)
  | .st f => some (0x49, f, ⟨[0], .szOnly, .any, .gq, .g, .gz, .M⟩)
  | .ldp f => some (0x4A, f, ⟨[0], .zero, .any, .prq, .g, .gz, .M⟩)
  | .stp f => some (0x4B, f, ⟨[0], .zero, .any, .prq, .g, .gz, .M⟩)
  | .ldacq f => some (0x4C, f, ⟨[0], .load, .any, .gq, .g, .g, .none⟩)
  | .strel f => some (0x4D, f, ⟨[0], .szOnly, .any, .gq, .g, .g, .none⟩)
  | .pref f => some (0x4E, f, ⟨[0], .zero, .any, .z, .g, .gz, .M⟩)
  | .tagld f => some (0x4F, f, ⟨[0], .zero, .any, .gq, .g, .gz, .M⟩)
  | .tagst f => some (0x50, f, ⟨[0], .zero, .any, .gq, .g, .gz, .M⟩)
  | .tagcas f => some (0x51, f, ⟨[0], .zero, .formV, .g, .g, .gq, .V⟩)
  | .tblld f => some (0x52, f, ⟨[0], .zero, (.below 4), .z, .g, .z, .none⟩)
  | .tswap f => some (0x53, f, ⟨[0], .zero, (.below 4), .z, .z, .z, .none⟩)
  | .feget f => some (0x54, f, ⟨[0], .zero, .any, .gq, .g, .gz, .M⟩)
  | .feset f => some (0x55, f, ⟨[0], .zero, .any, .z, .g, .gz, .M⟩)
  | .feclr f => some (0x56, f, ⟨[0], .zero, .any, .z, .g, .gz, .M⟩)
  | .wbk f => some (0x57, f, ⟨[0], .zero, .any, .z, .g, .gz, .M⟩)
  | .linv f => some (0x58, f, ⟨[0], .zero, .any, .z, .g, .gz, .M⟩)
  | .atom f => some (0x60, f, ⟨[0, 1, 2, 3, 4, 5, 6, 7, 8, 9], .atom, .formV, .gqz, .g, .gq, .V⟩)
  | .cas f => some (0x61, f, ⟨[0], .cas, .formV, .g, .g, .gq, .V⟩)
  | .cas2 f => some (0x62, f, ⟨[0], .cas2, .formV, .g22, .g, .g22, .V⟩)
  | .pool f => some (0x63, f, ⟨[0, 1, 2, 3, 4, 5, 6, 7], .szWord, .any, .gq, .g, .gz, .M⟩)
  | .poolf f => some (0x64, f, ⟨[0], .szWord, .any, .gq, .g, .gz, .M⟩)
  | .incld f => some (0x65, f, ⟨[0], .zero, (.below 64), .g22, .pz, .z, .none⟩)
  | .incofr f => some (0x66, f, ⟨[0], .zero, (.below 64), .gqz, .gq, .gq, .none⟩)
  | .incset f => some (0x67, f, ⟨[0], .zero, (.within 0x13F), .z, .z, .z, .none⟩)
  | .fence f => some (0x70, f, ⟨[0], .fence, .zero, .z, .g, .z, .none⟩)
  | .waitc f => some (0x71, f, ⟨[0], .zero, (.below 16), .z, .z, .z, .none⟩)
  | .waittl f => some (0x72, f, ⟨[0], .zero, (.below 64), .g, .g, .gq, .none⟩)
  | .tlget f => some (0x73, f, ⟨[0], .zero, .zero, .gq, .g, .z, .none⟩)
  | .tlgetStat f => some (0x73, f, ⟨[1], .zero, .zero, .gq, .g, .z, .none⟩)
  | .barset f => some (0x74, f, ⟨[0], .zero, (.below 8), .z, .g, .g, .none⟩)
  | .bararr f => some (0x75, f, ⟨[0], .zero, (.below 8), .gqz, .z, .z, .none⟩)
  | .barwt f => some (0x76, f, ⟨[0], .zero, (.below 8), .z, .gz, .z, .none⟩)
  | .boinit f => some (0x77, f, ⟨[0], .zero, .any, .gq, .g, .gz, .M⟩)
  | .boarr f => some (0x78, f, ⟨[0], .zero, .any, .gqz, .g, .g, .none⟩)
  | .boexp f => some (0x79, f, ⟨[0], .zero, .any, .gq, .g, .gz, .M⟩)
  | .bowt f => some (0x7A, f, ⟨[0], .zero, .any, .g, .g, .g, .none⟩)
  | .qpush f => some (0x7B, f, ⟨[0], .zero, .any, .gq, .g, .gz, .M⟩)
  | .qpop f => some (0x7C, f, ⟨[0], .zero, .any, .gq, .g, .gz, .M⟩)
  | .mbput f => some (0x7D, f, ⟨[0], .zero, (.below 8), .z, .g16, .z, .none⟩)
  | .mbtake f => some (0x7E, f, ⟨[0], .zero, (.below 8), .g16, .z, .z, .none⟩)
  | .vadd f => some (0x80, f, ⟨[0], .vec, .value, .g, .g, .gi, .none⟩)
  | .vsub f => some (0x81, f, ⟨[0], .vec, .value, .g, .g, .gi, .none⟩)
  | .vmul f => some (0x82, f, ⟨[0], .vec, .value, .g, .g, .gi, .none⟩)
  | .vfma f => some (0x83, f, ⟨[0], .vec, .value, .g, .g, .gi, .none⟩)
  | .vmin f => some (0x84, f, ⟨[0], .vec, .value, .g, .g, .gi, .none⟩)
  | .vmax f => some (0x85, f, ⟨[0], .vec, .value, .g, .g, .gi, .none⟩)
  | .vabs f => some (0x86, f, ⟨[0], .vec, .zero, .g, .g, .z, .none⟩)
  | .vand f => some (0x87, f, ⟨[0], .vecFmt, .value, .g, .g, .gi, .none⟩)
  | .vor f => some (0x88, f, ⟨[0], .vecFmt, .value, .g, .g, .gi, .none⟩)
  | .vxor f => some (0x89, f, ⟨[0], .vecFmt, .value, .g, .g, .gi, .none⟩)
  | .vshl f => some (0x8A, f, ⟨[0], .vecFmt, .value, .g, .g, .gi, .none⟩)
  | .vshr f => some (0x8B, f, ⟨[0], .vecFmt, .value, .g, .g, .gi, .none⟩)
  | .vcvt f => some (0x8C, f, ⟨[0], .vec, .zero, .g, .g, .z, .none⟩)
  | .vred f => some (0x8D, f, ⟨[0, 4, 5], .vec, .zero, .g, .g, .z, .none⟩)
  | .vscan f => some (0x8E, f, ⟨[0], .vec, .zero, .g, .g, .z, .none⟩)
  | .vcmp f => some (0x8F, f, ⟨[0, 1, 2, 3, 4, 5], .vecFmt, .value, .g, .g, .gi, .none⟩)
  | .vsel f => some (0x90, f, ⟨[0], .vecFmt, .vsel, .g, .g, .g, .C⟩)
  | .vcopy f => some (0x91, f, ⟨[0], .vecFmt, .zero, .g, .g, .z, .none⟩)
  | .vfill f => some (0x92, f, ⟨[0], .vfill, .value, .g, .gi, .z, .none⟩)
  | .vgath f => some (0x93, f, ⟨[0], .zero, .zero, .g, .g, .g, .none⟩)
  | .vscat f => some (0x94, f, ⟨[0], .zero, .zero, .g, .g, .g, .none⟩)
  | .sfn f => some (0xA0, f, ⟨[0, 1, 2, 3, 4, 5, 6, 7, 8, 9], .sfn, .value, .gq, .gqi, .z, .none⟩)
  | .vsfn f => some (0xA1, f, ⟨[0, 1, 2, 3, 4, 5, 6, 7, 8, 9], .vec, .zero, .g, .g, .z, .none⟩)
  | .tld f => some (0xB0, f, ⟨[0], .zero, .any, .t, .g, .gz, .M⟩)
  | .tst f => some (0xB1, f, ⟨[0], .zero, .any, .t, .g, .gz, .M⟩)
  | .thdr f => some (0xB2, f, ⟨[0], .zero, .zero, .pr, .t, .z, .none⟩)
  | .thset f => some (0xB3, f, ⟨[0], .zero, .zero, .t, .pr, .z, .none⟩)
  | .tchk f => some (0xB4, f, ⟨[0], .zero, .zero, .gq, .t, .z, .none⟩)
  | .tcvt f => some (0xB5, f, ⟨[0], .tcvt, .zero, .t, .t, .z, .none⟩)
  | .tqnt f => some (0xB6, f, ⟨[0], .tqnt, .tqnt, .t, .t, .z, .none⟩)
  | .tenc f => some (0xB7, f, ⟨[0], .zero, (.below 128), .t, .t, .z, .none⟩)
  | .tadd f => some (0xB8, f, ⟨[0], .vec, .zero, .t, .t, .t, .none⟩)
  | .tmul f => some (0xB9, f, ⟨[0], .vec, .zero, .t, .t, .t, .none⟩)
  | .tfma f => some (0xBA, f, ⟨[0], .vec, (.below 16), .t, .t, .t, .none⟩)
  | .tmax f => some (0xBB, f, ⟨[0], .vec, .zero, .t, .t, .t, .none⟩)
  | .ttrn f => some (0xBC, f, ⟨[0], .zero, (.below 2), .t, .t, .z, .none⟩)
  | .tzero f => some (0xBD, f, ⟨[0], .zero, .zero, .t, .prz, .z, .none⟩)
  | .mxa f => some (0xC0, f, ⟨[0], .zero, .zero, .gz, .g, .g, .none⟩)
  | .mxb f => some (0xC1, f, ⟨[0, 1, 2, 3, 4, 5, 6, 7], .zero, .any, .gz, .g, .g22z, .none⟩)
  | .mxown f => some (0xC2, f, ⟨[0], .zero, .zero, .z, .g, .g, .none⟩)
  | .mxspill f => some (0xC3, f, ⟨[0], .zero, .zero, .g22, .g, .g, .none⟩)
  | .mxfill f => some (0xC4, f, ⟨[0], .zero, .zero, .g22, .g, .g, .none⟩)
  | .cpy f => some (0xD0, f, ⟨[0], .zero, .copy, .g, .g, .g, .none⟩)
  | .cpys f => some (0xD1, f, ⟨[0], .zero, .copyDir, .g, .g, .g, .none⟩)
  | .cpym f => some (0xD2, f, ⟨[0], .zero, .copyMask, .g, .g, .g, .none⟩)
  | .cpyt f => some (0xD3, f, ⟨[0], .zero, .copy, .g, .g, .g, .none⟩)
  | .cpyg f => some (0xD4, f, ⟨[0], .zero, .copy, .z, .g, .z, .none⟩)
  | .cpyx f => some (0xD5, f, ⟨[0], .szOnly, .copy, .g, .g, .g, .none⟩)
  | .cpya f => some (0xD6, f, ⟨[0, 1, 2, 3, 4, 5, 6, 7, 9], .cpya, .copy, .g, .g, .g, .none⟩)
  | .spawn f => some (0xE0, f, ⟨[0], .zero, .zero, .gq, .g, .gz, .none⟩)
  | .spawnb f => some (0xE1, f, ⟨[0], .zero, .zero, .gq, .g, .z, .none⟩)
  | .bound f => some (0xE2, f, ⟨[0], .zero, .zero, .z, .gq, .z, .none⟩)
  | .roam f => some (0xE3, f, ⟨[0], .zero, (.below 2), .gz, .z, .z, .none⟩)
  | .migr f => some (0xE4, f, ⟨[0], .zero, .zero, .z, .g, .z, .none⟩)
  | .wake f => some (0xE5, f, ⟨[0], .zero, .zero, .gq, .g, .g22, .none⟩)
  | .dadd f => some (0xE8, f, ⟨[0], .fp64, .value, .gq, .gq, .gqi, .none⟩)
  | .dsub f => some (0xE9, f, ⟨[0], .fp64, .value, .gq, .gq, .gqi, .none⟩)
  | .dmul f => some (0xEA, f, ⟨[0], .fp64, .value, .gq, .gq, .gqi, .none⟩)
  | .dfma f => some (0xEB, f, ⟨[0], .fp64, .value, .g, .gq, .gqi, .none⟩)
  | .ddiv f => some (0xEC, f, ⟨[0], .fp64, .value, .gq, .gq, .gqi, .none⟩)
  | .dsqrt f => some (0xED, f, ⟨[0], .fp64, .zero, .gq, .gq, .z, .none⟩)
  | .dcvt f => some (0xEE, f, ⟨[0], .fp64, .cvt, .gq, .gq, .z, .none⟩)
  | .dcmp f => some (0xEF, f, ⟨[0], .fp64Fmt, (.below 6), .p, .gq, .gq, .none⟩)
  | .spill f => some (0xF0, f, ⟨[0], .zero, .slot, .z, .gi, .z, .none⟩)
  | .resto f => some (0xF1, f, ⟨[0], .zero, (.low1 0), .z, .g, .z, .none⟩)
  | .restoFrame f => some (0xF1, f, ⟨[0], .zero, (.low1 1), .z, .g, .z, .none⟩)
  | .rgnopCreate f => some (0xF2, f, ⟨[0], .zero, .zero, .g, .g, .g, .none⟩)
  | .rgnopResize f => some (0xF2, f, ⟨[1], .zero, .zero, .g, .g, .g, .none⟩)
  | .rgnopFreeze f => some (0xF2, f, ⟨[2], .zero, .zero, .g, .g, .g, .none⟩)
  | .rgnopThaw f => some (0xF2, f, ⟨[3], .zero, .zero, .g, .g, .g, .none⟩)
  | .rgnopDestroy f => some (0xF2, f, ⟨[4], .zero, .zero, .g, .g, .g, .none⟩)
  | .rgnopSlice f => some (0xF2, f, ⟨[5], .zero, .zero, .g, .g, .g, .none⟩)
  | .keyset f => some (0xF3, f, ⟨[0], .zero, (.low1 0), .z, .g, .g, .none⟩)
  | .keysetClear f => some (0xF3, f, ⟨[0], .zero, (.low1 1), .z, .z, .g, .none⟩)
  | .tlbinv f => some (0xF4, f, ⟨[0], .zero, .tlbinv, .z, .gz, .z, .A⟩)
  | .rota f => some (0xF5, f, ⟨[0], .zero, (.low1 0), .z, .g, .g, .none⟩)
  | .rotaCtl f => some (0xF5, f, ⟨[0], .zero, (.low1 1), .z, .g, .g, .none⟩)
  | .scall f => some (0xF6, f, ⟨[0], .zero, .trapCode, .z, .z, .z, .none⟩)
  | .sret f => some (0xF7, f, ⟨[0], .zero, .zero, .z, .z, .z, .none⟩)
  | .idle f => some (0xF8, f, ⟨[0], .zero, .zero, .z, .g, .z, .none⟩)
  | .pgverArm f => some (0xF9, f, ⟨[0], .zero, (.low2 0), .g, .g, .gz, .none⟩)
  | .pgverRead f => some (0xF9, f, ⟨[0], .zero, (.low2 1), .g, .g, .gz, .none⟩)
  | .pgverCommit f => some (0xF9, f, ⟨[0], .zero, (.low2 2), .g, .g, .gz, .none⟩)
  | .pgverFree f => some (0xF9, f, ⟨[0], .zero, (.low2 3), .g, .g, .gz, .none⟩)
  | _ => none

/-- The format code of MOD[7:4] (R309). -/
def mdFmt (md : BitVec 8) : Nat := md.toNat / 16
/-- The SAT bit MOD[3] (R308). -/
def mdSat (md : BitVec 8) : Bool := md.getLsbD 3
/-- The SGN bit MOD[2] (R308). -/
def mdSgn (md : BitVec 8) : Bool := md.getLsbD 2
/-- The SZ field MOD[1:0] (R308). -/
def mdSz (md : BitVec 8) : Nat := md.toNat % 4
/-- The ORD field MOD[4:3] (R308). -/
def mdOrd (md : BitVec 8) : Nat := md.toNat / 8 % 4
/-- The RM field MOD[2:0] (R308). -/
def mdRm (md : BitVec 8) : Nat := md.toNat % 8

/-- The special registers that MTS may write: not RO and not %accown (R161, R348). -/
def mtsMay (idx : Nat) : Bool :=
  (11 ≤ idx && idx ≤ 20) || (23 ≤ idx && idx ≤ 28) || (31 ≤ idx && idx ≤ 36)

/-- The operand names one of %sg1-%sg6, whose upper half MOD bit 0 selects (R347, R348). -/
def namesSg (o : Operand) : Bool := o.cls = .S && 31 ≤ o.idx.toNat && o.idx.toNat ≤ 36

/-- MOD is accepted. -/
def modOk (r : ModRule) (f : Fields) : Bool :=
  let m := f.md
  match r with
  | .zero => m = 0
  | .int => m.toNat < 16
  | .intNoSat => m.toNat < 8
  | .sgnOnly => m = 0 || m = 4
  | .szOnly => m.toNat < 4
  | .mfs => m = 0 || (m = 1 && namesSg f.a)
  | .mts => m = 0 || (m = 1 && namesSg f.d)
  | .float => mdFmt m < 4 && mdRm m < 6
  | .floatFmt => mdFmt m < 4 && m.toNat % 16 = 0
  | .plog => m.toNat < 8
  | .load => m.toNat < 8
  | .atom => m.toNat < 32 && mdSz m < 2 && !(f.fn = 9 && mdSgn m)
  | .cas => m.toNat < 32 && mdSz m < 2
  | .cas2 => m.toNat < 32 && m.toNat % 8 = 0
  | .szWord => m.toNat < 2
  | .fence => m.toNat < 24 && m.toNat % 8 = 0
  | .vec => mdFmt m < 14 && mdRm m < 6
  | .vecFmt => mdFmt m < 14 && m.toNat % 16 = 0
  | .vfill => mdFmt m < 14 && mdRm m < 6 && (f.a.cls = .I || m.toNat % 16 = 0)
  | .sfn => mdFmt m < 3 && mdRm m < 6
  | .tcvt => 0 < mdFmt m && mdFmt m < 14 && mdRm m < 6
  | .tqnt => 4 ≤ mdFmt m && mdFmt m < 9 && !mdSat m && mdRm m < 6
  | .cpya => m.toNat < 2 && !(f.fn = 9 && m.toNat ≠ 1)
  | .fp64 => (mdFmt m = 0 || mdFmt m = 13) && mdRm m < 6
  | .fp64Fmt => (mdFmt m = 0 || mdFmt m = 13) && m.toNat % 16 = 0

/-- The field accepts class I, whose value is IMM (R303). -/
def OpRule.takesImm : OpRule → Bool
  | .i | .gi | .gqi => true
  | _ => false

/-- Some field in which the entry accepts class I names it, so that the entry defines IMM (R303, R305). -/
def hasImm (sh : EncRule) (f : Fields) : Bool :=
  (sh.d.takesImm && f.d.cls = .I) || (sh.a.takesImm && f.a.cls = .I) || (sh.b.takesImm && f.b.cls = .I)

/-- The plot register index of form V, IMM bits 28:24 (R361). -/
def plotIdx (imm : BitVec 32) : Nat := imm.toNat / 2 ^ 24 % 32

/-- The copy IMM layout of R442: CTX, IRQ, IB, OB, BOFF, XTRA. BOFF is used only with IB or OB. -/
def copyOk (imm : Nat) : Bool :=
  imm < 2 ^ 24 && (imm / 8 % 4 ≠ 0 || imm / 32 % 2 ^ 15 = 0)

/-- IMM is accepted. -/
def immOk (sh : EncRule) (f : Fields) : Bool :=
  let n := f.imm.toNat
  match sh.imm with
  | .zero => n = 0
  | .any => true
  | .value => hasImm sh f || n = 0
  | .below k => n < k
  | .within mask => n &&& mask = n
  | .low1 v => n = v
  | .low2 v => n = v
  | .trapCode => 0x80 ≤ n && n < 0x100
  | .formV => n < 2 ^ 29 && plotIdx f.imm < 28 && (mdOrd f.md ≠ 0 || plotIdx f.imm = 0)
  | .cvt => n < 32 && 1 ≤ n % 16 && n % 16 ≤ 7
  | .vsel => n < 28
  | .tqnt =>
    n < 2 ^ 11 && 1 ≤ n / 16 % 16 && n / 16 % 16 ≤ 3 && 1 ≤ n % 16 && n % 16 ≤ 4 && !(n % 16 = 2 && n / 16 % 16 ≠ 1)
  | .copy => copyOk n && n / 2 ^ 20 = 0
  | .copyDir => copyOk n && n / 2 ^ 20 < 2
  | .copyMask => copyOk n && n / 2 ^ 20 ≠ 0
  | .slot => if f.a.cls = .I then n < 16 else n = 0
  | .tlbinv => n &&& 0x3F01 = n

/-- An index inside its class's range (R302); h0-h3 need `hOK` (R166). -/
def idxOk (hOK : Bool) (o : Operand) : Bool :=
  let n := o.idx.toNat
  match o.cls with
  | .G => n < 24 || (hOK && n < 28)
  | .P => n < 32
  | .T => n < 16
  | .Q => n < 8
  | .S => n < 41
  | .A => n < 16
  | .I => n = 0
  | .Z => n = 0

/-- A register pair starts at G 0-22 or h0-h2 (R366, R423). -/
def pairIdx (n : Nat) : Bool := n < 23 || (24 ≤ n && n < 27)

/-- A field accepts its operand. `first` says whether another field already names class I (R303). -/
def opOk (hOK : Bool) (r : OpRule) (first : Bool) (o : Operand) : Bool :=
  let n := o.idx.toNat
  idxOk hOK o &&
  match r, o.cls with
  | .z, .Z | .g, .G | .p, .P | .t, .T | .s, .S | .i, .I => true
  | .sw, .S => mtsMay n
  | .gz, .G | .gz, .Z | .gq, .G | .gq, .Q | .gi, .G | .gi, .I => true
  | .gqz, .G | .gqz, .Q | .gqz, .Z | .gqi, .G | .gqi, .Q | .gqi, .I | .pz, .P | .pz, .Z => true
  | .g16, .G => n ≤ 16
  | .g22, .G | .g22z, .G => n < 23
  | .pr, .G | .prq, .G | .prz, .G => pairIdx n
  | .g22z, .Z | .prq, .Q | .prz, .Z => true
  | .any, .I => !first
  | .any, _ => true
  | _, _ => false

/-- An instruction meets ILLOP: FN, MOD or IMM not accepted (R316, first rows). -/
def illopOf (i : Instr) : Bool :=
  match encOf i with
  | none => false
  | some (_, f, sh) => !(sh.fns.contains f.fn.toNat) || !modOk sh.md f || !immOk sh f

/-- OPD and the two source fields that form limits reach (R304, R361, R414, R460). -/
def formOk (hOK : Bool) (sh : EncRule) (f : Fields) : Bool :=
  match sh.form with
  | .none => true
  | .M => f.b.cls = .Z || f.imm = 0
  | .V => mdOrd f.md = 0 || plotIdx f.imm < 24 || hOK
  | .C => f.imm.toNat < 24 || hOK
  | .A => true

/-- OPA of TLBINV is Z exactly when ALL = 1 (R460). -/
def formAOk (sh : EncRule) (f : Fields) : Bool :=
  match sh.form with
  | .A => decide (f.a.cls = .Z) == f.imm.getLsbD 0
  | _ => true

/-- The first offending field of ILLOPD, in the order OPD, OPA, OPB (R302): INFO 0, 1 or 2. -/
def illopdOf (hOK : Bool) (i : Instr) : Option Nat :=
  match encOf i with
  | none => none
  | some (_, f, sh) =>
    if !opOk hOK sh.d true f.d then some 0
    else if !(opOk hOK sh.a false f.a && formAOk sh f) then some 1
    else if !(opOk hOK sh.b (f.a.cls = .I) f.b && formOk hOK sh f) then some 2
    else none

/-- The instruction of an opcode and its fields (R314); rows that share an opcode are told apart by FN or IMM. -/
def build (opc : Nat) (f : Fields) : Option Instr :=
  match opc with
  | 0x00 => some (.nop f)
  | 0x01 => some (.bra f)
  | 0x02 => some (.brx f)
  | 0x03 => some (.call f)
  | 0x04 => some (.loop f)
  | 0x05 => some (.rep f)
  | 0x06 => some (.exit f)
  | 0x07 => some (.kpoint f)
  | 0x08 => some (.trap f)
  | 0x09 => some (.tret f)
  | 0x0A => some (.uien f)
  | 0x10 => some (.add f)
  | 0x11 => some (.sub f)
  | 0x12 => some (.mul f)
  | 0x13 => some (.mulh f)
  | 0x14 => some (.mulhu f)
  | 0x15 => some (.div f)
  | 0x16 => some (.divu f)
  | 0x17 => some (.rem f)
  | 0x18 => some (.remu f)
  | 0x19 => some (.and f)
  | 0x1A => some (.or f)
  | 0x1B => some (.xor f)
  | 0x1C => some (.andn f)
  | 0x1D => some (.shl f)
  | 0x1E => some (.shr f)
  | 0x1F => some (.sar f)
  | 0x20 => some (.rotl f)
  | 0x21 => some (.clz f)
  | 0x22 => some (.ctz f)
  | 0x23 => some (.popc f)
  | 0x24 => some (.brev f)
  | 0x25 => some (.min f)
  | 0x26 => some (.max f)
  | 0x27 => some (.minu f)
  | 0x28 => some (.maxu f)
  | 0x29 => some (.abs f)
  | 0x2A => some (.sext f)
  | 0x2B => some (.zext f)
  | 0x2C => some (.bfx f)
  | 0x2D => some (.bfi f)
  | 0x2E => some (.mov f)
  | 0x2F => some (.movhi f)
  | 0x30 => some (.sel f)
  | 0x31 => some (.addsh f)
  | 0x32 => some (.segp f)
  | 0x33 => some (.mfs f)
  | 0x34 => some (.mts f)
  | 0x38 => some (.fadd f)
  | 0x39 => some (.fsub f)
  | 0x3A => some (.fmul f)
  | 0x3B => some (.ffma f)
  | 0x3C => some (.fmin f)
  | 0x3D => some (.fmax f)
  | 0x3E => some (.fcvt f)
  | 0x40 => some (.cmp f)
  | 0x41 => some (.cmpu f)
  | 0x42 => some (.fcmp f)
  | 0x43 => some (.plog f)
  | 0x44 => some (.pget f)
  | 0x45 => some (.pset f)
  | 0x48 => some (.ld f)
  | 0x49 => some (.st f)
  | 0x4A => some (.ldp f)
  | 0x4B => some (.stp f)
  | 0x4C => some (.ldacq f)
  | 0x4D => some (.strel f)
  | 0x4E => some (.pref f)
  | 0x4F => some (.tagld f)
  | 0x50 => some (.tagst f)
  | 0x51 => some (.tagcas f)
  | 0x52 => some (.tblld f)
  | 0x53 => some (.tswap f)
  | 0x54 => some (.feget f)
  | 0x55 => some (.feset f)
  | 0x56 => some (.feclr f)
  | 0x57 => some (.wbk f)
  | 0x58 => some (.linv f)
  | 0x60 => some (.atom f)
  | 0x61 => some (.cas f)
  | 0x62 => some (.cas2 f)
  | 0x63 => some (.pool f)
  | 0x64 => some (.poolf f)
  | 0x65 => some (.incld f)
  | 0x66 => some (.incofr f)
  | 0x67 => some (.incset f)
  | 0x70 => some (.fence f)
  | 0x71 => some (.waitc f)
  | 0x72 => some (.waittl f)
  | 0x73 => if f.fn.toNat = 0 then some (.tlget f) else if f.fn.toNat = 1 then some (.tlgetStat f) else none
  | 0x74 => some (.barset f)
  | 0x75 => some (.bararr f)
  | 0x76 => some (.barwt f)
  | 0x77 => some (.boinit f)
  | 0x78 => some (.boarr f)
  | 0x79 => some (.boexp f)
  | 0x7A => some (.bowt f)
  | 0x7B => some (.qpush f)
  | 0x7C => some (.qpop f)
  | 0x7D => some (.mbput f)
  | 0x7E => some (.mbtake f)
  | 0x80 => some (.vadd f)
  | 0x81 => some (.vsub f)
  | 0x82 => some (.vmul f)
  | 0x83 => some (.vfma f)
  | 0x84 => some (.vmin f)
  | 0x85 => some (.vmax f)
  | 0x86 => some (.vabs f)
  | 0x87 => some (.vand f)
  | 0x88 => some (.vor f)
  | 0x89 => some (.vxor f)
  | 0x8A => some (.vshl f)
  | 0x8B => some (.vshr f)
  | 0x8C => some (.vcvt f)
  | 0x8D => some (.vred f)
  | 0x8E => some (.vscan f)
  | 0x8F => some (.vcmp f)
  | 0x90 => some (.vsel f)
  | 0x91 => some (.vcopy f)
  | 0x92 => some (.vfill f)
  | 0x93 => some (.vgath f)
  | 0x94 => some (.vscat f)
  | 0xA0 => some (.sfn f)
  | 0xA1 => some (.vsfn f)
  | 0xB0 => some (.tld f)
  | 0xB1 => some (.tst f)
  | 0xB2 => some (.thdr f)
  | 0xB3 => some (.thset f)
  | 0xB4 => some (.tchk f)
  | 0xB5 => some (.tcvt f)
  | 0xB6 => some (.tqnt f)
  | 0xB7 => some (.tenc f)
  | 0xB8 => some (.tadd f)
  | 0xB9 => some (.tmul f)
  | 0xBA => some (.tfma f)
  | 0xBB => some (.tmax f)
  | 0xBC => some (.ttrn f)
  | 0xBD => some (.tzero f)
  | 0xC0 => some (.mxa f)
  | 0xC1 => some (.mxb f)
  | 0xC2 => some (.mxown f)
  | 0xC3 => some (.mxspill f)
  | 0xC4 => some (.mxfill f)
  | 0xD0 => some (.cpy f)
  | 0xD1 => some (.cpys f)
  | 0xD2 => some (.cpym f)
  | 0xD3 => some (.cpyt f)
  | 0xD4 => some (.cpyg f)
  | 0xD5 => some (.cpyx f)
  | 0xD6 => some (.cpya f)
  | 0xE0 => some (.spawn f)
  | 0xE1 => some (.spawnb f)
  | 0xE2 => some (.bound f)
  | 0xE3 => some (.roam f)
  | 0xE4 => some (.migr f)
  | 0xE5 => some (.wake f)
  | 0xE8 => some (.dadd f)
  | 0xE9 => some (.dsub f)
  | 0xEA => some (.dmul f)
  | 0xEB => some (.dfma f)
  | 0xEC => some (.ddiv f)
  | 0xED => some (.dsqrt f)
  | 0xEE => some (.dcvt f)
  | 0xEF => some (.dcmp f)
  | 0xF0 => some (.spill f)
  | 0xF1 => if f.imm.toNat % 2 = 0 then some (.resto f) else some (.restoFrame f)
  | 0xF2 => if f.fn.toNat = 0 then some (.rgnopCreate f) else if f.fn.toNat = 1 then some (.rgnopResize f) else if f.fn.toNat = 2 then some (.rgnopFreeze f) else if f.fn.toNat = 3 then some (.rgnopThaw f) else if f.fn.toNat = 4 then some (.rgnopDestroy f) else if f.fn.toNat = 5 then some (.rgnopSlice f) else none
  | 0xF3 => if f.imm.toNat % 2 = 0 then some (.keyset f) else some (.keysetClear f)
  | 0xF4 => some (.tlbinv f)
  | 0xF5 => if f.imm.toNat % 2 = 0 then some (.rota f) else some (.rotaCtl f)
  | 0xF6 => some (.scall f)
  | 0xF7 => some (.sret f)
  | 0xF8 => some (.idle f)
  | 0xF9 => if f.imm.toNat % 4 = 0 then some (.pgverArm f) else if f.imm.toNat % 4 = 1 then some (.pgverRead f) else if f.imm.toNat % 4 = 2 then some (.pgverCommit f) else some (.pgverFree f)
  | _ => none

end Sys2Proof
end

