-- ==== Sys2Proof/WellFormed.lean ====
section
/-! DEFINITION. Well-formed instructions: terms that some 96-bit word encodes and that meet none of the ILLOP and
ILLOPD rows of R316. -/

namespace Sys2Proof

/-- The instruction has an instruction word; the other constructors are events. -/
def Instr.isWord (i : Instr) : Bool := (encOf i).isSome

/-- The instruction's word is a valid encoding (R316), h registers allowed (R166 is judged at issue). -/
def Instr.wellFormed (i : Instr) : Bool := i.isWord && !illopOf i && (illopdOf true i).isNone

end Sys2Proof
end

