-- ==== Sys2Proof/Decode.lean ====
section
/-! DEFINITION. The decoder of the 96-bit instruction word (R299-R316), total and refusing by name, and the encoder
written from the same tables. -/

namespace Sys2Proof

/-- Why a word is no valid instruction (R316): ILLOP, or ILLOPD of the instruction it would be. -/
inductive DecodeError where
  | illop
  | illopd (i : Instr)
deriving DecidableEq, Repr

/-- Class codes of R302. -/
def Cls.ofCode (c : BitVec 3) : Cls :=
  match c.toNat with
  | 0 => .G | 1 => .P | 2 => .T | 3 => .Q | 4 => .S | 5 => .A | 6 => .I | _ => .Z

/-- Class codes of R302. -/
def Cls.code : Cls → BitVec 3
  | .G => 0 | .P => 1 | .T => 2 | .Q => 3 | .S => 4 | .A => 5 | .I => 6 | .Z => 7

/-- The operand of a 10-bit field: class in bits 9:7, index in bits 6:0 (R299). -/
def Operand.ofBits (b : BitVec 10) : Operand := ⟨Cls.ofCode (b.extractLsb' 7 3), b.extractLsb' 0 7⟩

/-- The 10-bit field of an operand (R299). -/
def Operand.bits (o : Operand) : BitVec 10 := o.cls.code ++ o.idx

/-- The fields of a word (R299). -/
def fieldsOf (w : BitVec 96) : Fields where
  fn   := w.extractLsb' 84 4
  neg  := w.getLsbD 83
  grd  := w.extractLsb' 78 5
  yld  := w.getLsbD 77
  nt   := w.getLsbD 76
  hint := w.extractLsb' 70 6
  d    := Operand.ofBits (w.extractLsb' 60 10)
  a    := Operand.ofBits (w.extractLsb' 50 10)
  b    := Operand.ofBits (w.extractLsb' 40 10)
  md   := w.extractLsb' 32 8
  imm  := w.extractLsb' 0 32

/-- The major opcode, bits 95:88 (R299). -/
def opcOf (w : BitVec 96) : Nat := (w.extractLsb' 88 8).toNat

/-- Decode one word: unassigned OPC, FN, MOD and IMM give ILLOP, operand classes and indices ILLOPD (R316). -/
def decode (w : BitVec 96) : Except DecodeError Instr :=
  match build (opcOf w) (fieldsOf w) with
  | none => .error .illop
  | some i =>
    if illopOf i then .error .illop
    else if (illopdOf true i).isSome then .error (.illopd i)
    else .ok i

/-- A little-endian number from bytes, the first lowest (R3). -/
def leNat : List Byte → Nat
  | [] => 0
  | b :: bs => b.toNat + 256 * leNat bs

/-- The first `n` bytes of a number, little-endian (R3). -/
def leBytes : Nat → Nat → List Byte
  | 0, _ => []
  | n + 1, v => BitVec.ofNat 8 v :: leBytes n (v / 256)

/-- The word that 12 bytes hold, byte 0 lowest (R300). -/
def wordOfBytes (bs : List Byte) : BitVec 96 := BitVec.ofNat 96 (leNat (bs.take 12))

/-- The 12 bytes of a word (R300). -/
def bytesOfWord (w : BitVec 96) : List Byte := leBytes 12 w.toNat

/-- Decode an instruction from bytes: the instruction and the bytes after it. Fewer than 12 bytes are no word. -/
def decodeBytes (bs : List Byte) : Except DecodeError (Instr × List Byte) :=
  if bs.length < 12 then .error .illop
  else
    match decode (wordOfBytes bs) with
    | .ok i => .ok (i, bs.drop 12)
    | .error e => .error e

/-- The instruction that the decoder reads from a word whose bits are `w`, numbered as the opcode table numbers
them; the bits above `nbits` are 0. -/
def decodeTableWord (nbits w : Nat) : Option Instr :=
  match decodeBytes (leBytes 12 (w % 2 ^ nbits)) with
  | .ok (i, _) => some i
  | .error _ => none

/-- Guard and hint bits 83:70 (R299, R306, R307). -/
def Fields.guardBits (f : Fields) : BitVec 14 :=
  BitVec.ofBool f.neg ++ f.grd ++ BitVec.ofBool f.yld ++ BitVec.ofBool f.nt ++ f.hint

/-- The word of an opcode and its fields (R299). -/
def packWord (opc : Nat) (f : Fields) : BitVec 96 :=
  BitVec.ofNat 8 opc ++ f.fn ++ f.guardBits ++ f.d.bits ++ f.a.bits ++ f.b.bits ++ f.md ++ f.imm

/-- The word of an instruction; an event has none. -/
def encode (i : Instr) : Option (BitVec 96) :=
  match encOf i with
  | none => none
  | some (opc, f, _) => some (packWord opc f)

end Sys2Proof
end

