-- ==== Sys2Proof/Machine/State.lean ====
section
/-! DEFINITION. The state of the part as plain data, the reasons a step can stop, and the state after reset.
Keys of the sparse tables: a core is y * 128 + x, a cluster y * 64 + x (the slice index of R203), a slot
core * 16 + slot, a holding's share of a core core * 64 + holding. -/

namespace Sys2Proof.Machine

/-- Where a step happens. `unit` is the core of an instruction or the core, cluster, function, link, slice, port or
line of an event; `sub` its slot, context, record or index; `pos` a position in a queue. -/
structure Place where
  unit : Nat
  sub  : Nat
  pos  : Nat
deriving DecidableEq, Repr

/-- A step that the environment, or the part's own freedom (R253), makes happen next. -/
structure Turn where
  ev : Instr
  at_ : Place
deriving DecidableEq, Repr

/-! ### Package, power and start -/

/-- The power states of R10. -/
inductive PState where
  | off | stby | run | cap
deriving DecidableEq, Repr

/-- The phases of the power-on sequence of R19: not begun, boot ROM running, rails rising, handed over. -/
inductive PSeq where
  | idle | boot | rising | done
deriving DecidableEq, Repr

/-- Entries of the Ranbor controller's event log (R15, R20, R21, R60). -/
inductive PowerEvent where
  | thermalTrip (die celsius time : Nat)
  | railFault (rail time : Nat)
  | pwrEnLow (time : Nat)
  | bisnpTimeout (half time : Nat)
deriving DecidableEq, Repr

/-- Where a firmware image comes from (R16, R19, R85): the boot flash, the host over port A, or the recovery image in the boot flash. -/
inductive Image where
  | flash | host | recovery
deriving DecidableEq, Repr

/-- Rails, signals, straps, clock and the Ranbor controller (R8-R21). `rails` counts the main rails that are up, in
the order VDRAM, VSRAM, VIO, VCORE. The core clock is in MHz, 0 when it is stopped; `hot` says that the last reading was 95 degrees or
more, `overLim` that power is still above the limit at 400 MHz, `fw` which firmware the controller runs. -/
structure Power where
  mode     : PState := .stby
  vaux     : Bool := true
  pwrEn    : Bool := true
  modRst   : Bool := true
  perstA   : Bool := true
  perstB   : Bool := true
  seq      : PSeq := .done
  rails    : Nat := 4
  pgood    : Bool := true
  overLim  : Bool := false
  released : Bool := true
  clock    : Nat := 0
  limit    : Nat := 10000
  below    : Nat := 0
  hot      : Bool := false
  hotDie   : Nat := 0
  strapPos : BitVec 3 := 0
  strapBoot : BitVec 2 := 0
  strapCxl : Bool := false
  fw       : Image := .flash
  time     : Nat := 0
  log      : List PowerEvent := []
  coldNext : Bool := false
deriving DecidableEq, Repr

/-- SSTAT.STATE (R84). -/
inductive StartState where
  | running | done | failed
deriving DecidableEq, Repr

/-- The start sequence (R84-R90). `image` is the length written to FWGO while step 6 waits for the host's image, `fw` the module firmware
that step 6 has accepted. -/
structure Start where
  state   : StartState := .running
  step    : Nat := 1
  cold    : Bool := true
  fcode   : BitVec 8 := 0
  waiting : Bool := false
  image   : Option Nat := none
  fw      : Option Image := none
  staging : Tab Byte := []
deriving DecidableEq, Repr

/-- One record of the capability table (R92, R93). -/
structure CapRec where
  type     : Nat
  total    : Nat
  assigned : Nat
  grain    : Nat
  scope    : Nat
deriving DecidableEq, Repr

/-! ### Links and rotas -/

/-- STATE of a Kryas link (R35). -/
inductive LState where
  | down | train | up8 | up4 | fail
deriving DecidableEq, Repr

/-- A store to a peer that is performed when its flit leaves the link (R255): its slot, launch and number, and whether it is of a
KIND 01 page or carries a release. -/
structure Note where
  core   : Nat
  slot   : Nat
  launch : Nat
  store  : Option Nat
  strong : Bool
  rel    : Bool
deriving DecidableEq, Repr

/-- For what a posted write leaves the module: a chain record by its function and number (R77), an engine context (R269), or a write of
a peer (R63). -/
inductive Sender where
  | chain (fn num : Nat)
  | eng (mx : Bool) (key : Nat)
  | peer (p : Nat)
deriving DecidableEq, Repr

/-- A flit that a Kryas link is to send or keeps for replay (R26, R29), with the store that it performs when it leaves (R255) and what its
write is for. -/
structure TxFlit where
  seq   : BitVec 12
  hold  : Nat
  opn   : Bool
  vc    : Nat
  olink : Option Nat
  msgs  : List LinkMsg
  note  : Option Note := none
  from_ : Option Sender := none
deriving DecidableEq, Repr

/-- A flit as it left on a link: its header (R26) and the messages that it carries. -/
structure Wire where
  hdr  : BitVec 96
  msgs : List LinkMsg
deriving DecidableEq, Repr

/-- A credit return that is owed to the link's other end (R28). -/
structure CreditRet where
  vc   : Nat
  hold : Nat
  opn  : Bool
  n    : Nat
deriving DecidableEq, Repr

/-- One Kryas link: its status register (R35), sequence numbers and replay (R29), credits (R28), failures (R30). `rxFo` is the last
number accepted before the link was reset, which failover flits still count on (R31), `foRx` the last failover flits whose credit has been
returned over the link. `mkAge` counts the flits since the last marker, `mkRow` the markers in time in a row (R41). -/
structure Link where
  st      : LState := .down
  peer    : BitVec 3 := 0
  algn    : Bool := false
  dropc   : Nat := 0
  retc    : Nat := 0
  nakc    : Nat := 0
  txSeq   : BitVec 12 := 0
  rxGood  : BitVec 12 := 0
  rxFo    : Option (BitVec 12) := none
  nakDue  : Bool := false
  replay  : List TxFlit := []
  resend  : List TxFlit := []
  queue   : List TxFlit := []
  nakRun  : Nat := 0
  nakSeq  : BitVec 12 := 0
  failRun : Nat := 0
  owned   : Tab Nat := []
  pool    : Tab Nat := []
  owed    : List CreditRet := []
  ptr     : Nat := 0
  foRx    : List (Nat × BitVec 12) := []
  mkAge   : Nat := 0
  mkRow   : Nat := 0
  wire    : List Wire := []
deriving DecidableEq, Repr

/-- One rota: active and shadow table (R38), control register (R40), the slot that starts next (64 is the second cycle of a lengthened
slot 63), the holding served last in an open slot (R39), the cycles by which the next slot 63 is lengthened (R41). -/
structure Rota where
  active : Tab (BitVec 8) := []
  shadow : Tab (BitVec 8) := []
  arm    : Bool := false
  tepoch : BitVec 16 := 0
  cepoch : BitVec 16 := 0
  slot   : Nat := 0
  ptr    : Nat := 0
  adjust : Int := 0
deriving DecidableEq, Repr

/-- The module phase at one router (R41): alignment, markers in time in a row, the epoch copied from the last marker. -/
structure Router where
  aligned : Bool := false
  inRow   : Nat := 0
  epoch   : BitVec 16 := 0
deriving DecidableEq, Repr

/-- A mesh flit (R22, R42): its holding and virtual channel, the router where it is or to which it is on its way, where it goes, the
slot for which it is ready on its next link or in which it left, that link, whether it is on its way, whether it stands in its holding's
buffer, its bytes and the check values of their beats. -/
structure MeshFlit where
  hold  : Nat
  vc    : Nat
  here  : Nat
  dst   : Nat
  ready : Nat
  out   : Nat
  moving : Bool
  buffered : Bool
  data  : List Byte
  chk   : List Nat
deriving DecidableEq, Repr

/-- An entry of the peer grant table (R34). -/
structure Grant where
  valid : Bool := false
  hold  : Nat := 0
  base  : Nat := 0
  limit : Nat := 0
  r : Bool := false
  w : Bool := false
  a : Bool := false
deriving DecidableEq, Repr

/-- A flush that a release or a timeline waits for (R63): the peer, who waits, and whether it has been sent. -/
structure Flush where
  peer : Nat
  key  : Nat
  sent : Bool
deriving DecidableEq, Repr

/-- A request that arrived from a peer module (R34, R63). -/
structure PeerReq where
  link : Nat
  peer : Nat
  msg  : LinkMsg
deriving DecidableEq, Repr

/-! ### Addresses and accesses -/

/-- A rectangle of cores (R98, R251). -/
structure Plot where
  x0 : Nat
  y0 : Nat
  x1 : Nat
  y1 : Nat
deriving DecidableEq, Repr

/-- What a leaf entry says of one access (R199): target, kind, key slot, the home slice, and the rectangle over which the
lines are spread when their placement is hashed. -/
structure Leaf where
  tgt  : Nat
  kind : Nat
  key  : Nat
  home : Nat
  rect : Option Plot
deriving DecidableEq, Repr

/-- Where an access goes once its address is resolved: a byte of a core's scratchpad window of a holding, a device
physical address, a host address, or an address on a peer. -/
inductive Tgt where
  | bank (core hold off : Nat)
  | dev (pa : Nat) (leaf : Leaf)
  | host (addr : Nat) (leaf : Leaf)
deriving DecidableEq, Repr

/-- Where the value of a returning access is written: a register, a register and the next one, reserved places of a
queue (R326), the record of the units that an instruction has completed, or a tile register (R424). -/
inductive Dst where
  | none
  | reg (g : Nat)
  | pair (g : Nat)
  | queue (q : Nat) (ids : List Nat)
  | unit
  | tile (t : Nat)
deriving DecidableEq, Repr

/-- What happens to a read's bytes before they are written: size in bytes, and sign extension. -/
structure Ext where
  bytes : Nat
  sgn   : Bool
deriving DecidableEq, Repr

/-- The agent of an access: core and slot, holding and region, launch, and the segments of its thread (R178). -/
structure Who where
  core   : Nat := 0
  slot   : Nat := 0
  hold   : Nat := 0
  rgn    : Nat := 0
  launch : Nat := 0
  sg     : Tab (BitVec 128) := []
  stkc   : Nat := 0
  sovf   : Word := 0
deriving DecidableEq, Repr

/-- A global read or atomic in flight (R313: it counts in LD from issue until its value is written). `left` counts the
parts not yet answered, `order` is the issue order of its instruction, `acq` the plot of an acquire, `hold` the holding of
its thread, `unord` says that its page is of KIND 10 (R262), `src` lists the host writes whose values an acquire has read (R62), `wr` says
that it also writes (R121), `more` tells of a tile's read whose header comes first the pointer and the number of the last store before it
(R424). -/
structure Acc where
  core  : Nat
  slot  : Nat
  left  : Nat
  buf   : Tab Byte
  size  : Nat
  dst   : Dst
  ext   : Ext
  acq   : Option Word
  order : Nat
  cause : Option (Nat × Nat × Word)
  hold  : Nat
  unord : Bool := false
  src   : List (Nat × Nat) := []
  wr    : Bool := false
  more  : Option (Who × Word × Nat × Bool) := none
deriving DecidableEq, Repr

/-- One operation of a port queue entry. At a device word it touches at most 8 bytes (16 for `cas2`), at a bank one
unit (R181). `bits` writes some bits of each byte (R224), `hd` reads the first unit of a tile of at most `n` bytes in that unit (R424). -/
inductive PqOp where
  | rd (n : Nat)
  | wr (data : List Byte)
  | bits (mask val : List Byte)
  | hd (n : Nat)
  | atom (fn n : Nat) (b : Word)
  | cas (n : Nat) (c b : Word)
  | cas2 (c0 c1 b0 b1 : Word)
  | tagld
  | tagst (t : BitVec 4)
  | tagcas (c t : BitVec 4)
  | feget | feset | feclr
  | wbk
deriving DecidableEq, Repr

/-- An entry of a post buffer or port queue (R255-R257): its agent, the read it belongs to, the number of the store it
belongs to, the operation, the offset of its data in the read, the target, the address as the program named it,
the redirects made so far (R178), the page kind (R262), whether its access has its token for the line (R101, R102), whether it
carries a release, whether it is an access of a vector, the alignment that it needs, and for a repeat that waits for a page its pointer and
whether it may walk the table again (R486). -/
structure PqEnt where
  who    : Who
  acc    : Option Nat
  store  : Option Nat
  op     : PqOp
  at_    : Nat
  tgt    : Tgt
  addr   : Word
  redirs : Nat
  kind   : Nat
  paid   : Bool
  rel    : Bool
  vec    : Bool
  al     : Nat
  page   : Option (Word × Bool) := none
deriving DecidableEq, Repr

/-- What a home needs to know of an access: its slice and key slot from the leaf (`rect` is the rectangle of a hashed placement),
and the holding, region and address of the access. -/
structure AtHome where
  home : Nat
  rect : Option Plot
  key  : Nat
  hold : Nat
  rgn  : Nat
  addr : Word
deriving DecidableEq, Repr

/-- Who waits at a home or at a slice port (R55, R101): an entry of a port queue by its cluster, slot, read, store and offset, a host
or peer write, an engine context, a pool entry by its core and word, a read by the host, a peer or a chain (numbered as in
`HostWrite`), an access of the part, a request of a memory queue by its slot, a thread at issue or fetch by its slot, or a read of the
scheduler by its holding and address. -/
inductive Req where
  | ent (cluster core slot : Nat) (acc store : Option Nat) (off : Nat)
  | write (port num pa : Nat)
  | eng (mx : Bool) (key : Nat)
  | pool (core word : Nat)
  | agent (src hold mva : Nat)
  | part (id : Nat)
  | queue (core slot : Nat)
  | thread (core slot : Nat)
  | sched (hold mva : Nat)
deriving DecidableEq, Repr

/-- A word of an L1 (R208): its value, while it is registered the home at which it is and the store that registered it, and of a copy the
host write, by port and number, that had given the word its value (R62). -/
structure L1Word where
  reg : Option AtHome
  val : Word
  src : Option (Nat × Nat) := none
deriving DecidableEq, Repr

/-- A line that a slice's L2 holds (R206, R222): the key slot of its leaf, the holding whose traffic it is, whether it has been
modified, its 128 bytes of plaintext and the poison of its four beats. -/
structure L2Line where
  key  : Nat
  hold : Nat
  mod  : Bool
  data : List Byte
  bad  : List Bool
deriving DecidableEq, Repr

/-- The home state of a word (R209). -/
inductive HomeSt where
  | unreg
  | reg (core : Nat)
  | pool (cores : List Nat)
deriving DecidableEq, Repr

/-- A pool entry of a core (R212). `word` is pa / 8, `due` says that a trigger of R213 has asked for its merge,
`enlisted` that its enlist has been answered, `refused` that it has been refused. -/
structure PoolEnt where
  word : Nat
  off  : Nat
  op   : Nat
  size : Nat
  val  : Word
  mask : BitVec 16
  home : Nat
  hold : Nat
  rgn  : Nat
  key  : Nat
  enlisted : Bool
  due  : Bool
  refused : Bool
deriving DecidableEq, Repr

/-- A translation or table pointer that a memory port holds (R202). -/
structure TlbEnt where
  hold : Nat
  level : Nat
  tag  : Nat
  entry : Word
  pa   : Nat
deriving DecidableEq, Repr

/-- Global memory (chapters 09 and 11). `dram` is what the vaults hold, before encryption, `poison` the poison of its beats and
`ecc` the beats with an uncorrectable error (R169), `mat` the key material under which each line was encrypted; `l2` is keyed slice *
2^32 + line; `vault` is the rota slot that each vault serves next (R103), `byHost` names the host write, by port and number, that gave a word its value (R62). -/
structure Mem where
  dram    : Tab Byte := []
  poison  : Tab Bool := []
  ecc     : Tab Bool := []
  mat     : Tab (Option (BitVec 512)) := []
  l2      : Tab (Option L2Line) := []
  vault   : Tab Nat := []
  byHost  : Tab (Option (Nat × Nat)) := []
  l1      : Tab (Option L1Word) := []
  home    : Tab HomeSt := []
  regs    : Tab (List Nat) := []
  pools   : Tab (List PoolEnt) := []
  portq   : Tab (List PqEnt) := []
  accs    : Tab (Option Acc) := []
  tlb     : Tab (List TlbEnt) := []
deriving DecidableEq, Repr

/-! ### Host interface -/

/-- A chain record that has been fetched (R76-R78): its number, type and flags, the words of its body, the pointer at which
it was fetched, whether it has started and completed, the launch that it started or the bytes that it has read, and for a COPYH
whether a request to host memory is outstanding, the bytes that came, with their poison, and the pieces read so far. -/
structure Rec where
  num    : Nat
  type   : Nat
  flags  : BitVec 8
  body   : List Word
  ptr    : Word
  acted  : Bool := false
  done   : Bool := false
  left   : Nat := 0
  asked  : Bool := false
  buf    : Option (List Byte × Bool) := none
  pieces : List (List Byte × Bool) := []
deriving DecidableEq, Repr

/-- A host chain (R72-R83). `next` is the number of the record to fetch next; while `prev` names the record before it, the
pointer to it is still to be read from that record's NEXT (R75). `asked` is the fetch that is outstanding at a host port,
`got` the bytes that it has returned, `ports` lists, last first, the records that have posted writes to the host and the port of each
one's last (R81), `peers` the records and the peers to which they have written (R63). -/
structure Chain where
  ctail  : Nat := 0
  chead  : Word := 0
  erec   : Nat := 0
  err    : BitVec 8 := 0
  run    : Bool := false
  tlmir  : Word := 0
  tlcur  : Nat := 0
  facc   : Word := 0
  next   : Nat := 1
  first  : Bool := true
  prev   : Option Word := none
  asked  : Option Nat := none
  got    : Option (Option (List Byte)) := none
  recs   : List Rec := []
  mirror : Option Nat := none
  ports  : List (Nat × Nat) := []
  peers  : List (Nat × Nat) := []
deriving DecidableEq, Repr

/-- A function of the host ports and its registers (R43-R53, R82, R120, R147, R204). `subBad` names the subset registers that a
RESIZE has left outside the plot. -/
structure Fn where
  hif     : Word := 0
  supq    : Word := 0
  sqmode  : Word := 0
  subset  : Tab Word := []
  subBad  : BitVec 16 := 0
  qdisc   : Nat := 0
  mmioErr : Nat := 0
  dropped : Nat := 0
  beatErr : Nat := 0
  ecc     : Nat := 0
  chain   : Chain := {}
deriving DecidableEq, Repr

/-- The bits of a function's configuration space at one port that the part obeys (R49, R50, R67): ATS Enable, PRI Enable, PRI
disabled by a Response Failure, the page request allocation, AtomicOp Requester Enable. -/
structure PortFn where
  ats     : Bool := false
  pri     : Bool := false
  priOff  : Bool := false
  priMax  : Nat := 0
  atomic  : Bool := false
deriving DecidableEq, Repr

/-- Who waits for a page (R50, R295, R486, R487): a parked frame, an engine context, an access at a port, or an access
of the part itself. -/
inductive Waiter where
  | frame (hold mva : Nat)
  | engine (tl : Nat)
  | access (cluster : Nat) (addr : Word)
  | part (id : Nat)
deriving DecidableEq, Repr

/-- A page request group (R50, R52). -/
structure PageReq where
  fn     : Nat
  idx    : Nat
  page   : Nat
  write  : Bool
  joined : List Waiter
  quar   : Bool
deriving DecidableEq, Repr

/-- A page fault that waits for a request group (R50). -/
structure PageWait where
  fn    : Nat
  page  : Nat
  write : Bool
  who   : Waiter
deriving DecidableEq, Repr

/-- What a request that the part sent to the host is for. -/
inductive Purpose where
  | chain (fn : Nat)
  | load (cluster : Nat) (e : PqEnt)
  | atomic (cluster : Nat) (e : PqEnt)
  | line (cluster : Nat) (e : PqEnt) (own : Bool)
  | translate (port fn page : Nat)
  | copyh (fn num : Nat) (off : Nat)
  | peer (cluster : Nat) (e : PqEnt)
  | engine (mx : Bool) (key : Nat) (addr : Nat)
  | engLine (line : Nat) (own : Bool)
  | agent (who : Req) (addr : Nat)
  | dropped
deriving DecidableEq, Repr

/-- An entry of a port's address translation cache (R49). -/
structure AtcEnt where
  port  : Nat
  fn    : Nat
  pasid : Option Nat
  page  : Nat
deriving DecidableEq, Repr

/-- An ATS invalidation that is not yet complete (R49): port, function, first page, pages, and the requests that it waits for. -/
structure AtcWait where
  port : Nat
  fn   : Nat
  page : Nat
  size : Nat
  ids  : List Nat
deriving DecidableEq, Repr

/-- A non-posted request outstanding at a host port or Kryas link; `used` is the translation cache entry that it used (R49). -/
structure HostReq where
  id      : Nat
  port    : Nat
  fn      : Nat
  purpose : Purpose
  used    : Option AtcEnt := none
deriving DecidableEq, Repr

/-- What the prefix and header of a request to the host say of its address (R48, R49): the PASID, and whether it is Translated. -/
structure Pfx where
  pasid : Option Nat := none
  xlat  : Bool := false
deriving DecidableEq, Repr

/-- What an SPDM response says (R91): nothing further, the version, what the part can do, the algorithms, the digest or the certificate
chain of slot 0, measurement blocks by number, or bytes that the part signs. -/
inductive Spdm where
  | plain
  | version (v : BitVec 8)
  | capabilities (codes : List (BitVec 8))
  | algorithms (names : List String)
  | digest (slot0 : List Byte)
  | certificate (slot0 : List Byte)
  | measurements (blocks : List (Nat × List Byte))
  | signed (bs : List Byte)
deriving DecidableEq, Repr

/-- A message that the part sends to the host. -/
inductive HostMsg where
  | write (port fn addr : Nat) (pfx : Pfx) (data : List Byte) (poison : Bool)
  | msix (port fn vec : Nat)
  | readReq (id port fn addr len : Nat) (pfx : Pfx)
  | atomicReq (id port fn addr : Nat) (pfx : Pfx) (fn2 size : Nat) (a b : BitVec 128)
  | transReq (id port fn page : Nat) (pfx : Pfx)
  | pageReq (port fn idx page : Nat) (pfx : Pfx) (write : Bool)
  | cplData (port fn : Nat) (data : List Byte) (poison : Bool)
  | cplValue (port fn : Nat) (v : Word)
  | cplUR (port fn : Nat)
  | cplCA (port fn : Nat)
  | atsDone (port fn : Nat)
  | bisnp (half : Nat) (inval : Bool)
  | memData (half : Nat) (data : List Byte) (poison : Bool)
  | memDone (half : Nat)
  | biConflictAck (half : Nat)
  | lineReq (id line : Nat) (own : Bool)
  | lineWrite (line : Nat) (data : List Byte) (poison : Bool)
  | snoopResp (line : Nat) (data : Option (List Byte × Bool))
  | spdm (port : Nat) (code : BitVec 8) (body : Spdm)
deriving DecidableEq, Repr

/-- A message that waits at its host port for a slot of the rota (R39), the store that it performs when it leaves (R255), and what its
write is for. -/
structure OutMsg where
  msg  : HostMsg
  note : Option Note := none
  from_ : Option Sender := none
deriving DecidableEq, Repr

/-- A host write to device memory on its way to its homes (R61, R62): 0 and 1 are the host ports, 2 + p peer p, 64 + n the
chain of function n, 128 the part's copy of the carve-out of slot `num`. `num` is its number at the port, or the number of the chain's
record. `paid` says that an earlier piece has paid for its line (R102). -/
structure HostWrite where
  port : Nat
  num  : Nat
  hold : Nat
  tgt  : Tgt
  data : List (Option Byte)
  poison : Bool
  paid : Bool := false
deriving DecidableEq, Repr

/-- A device access that waits for the host's state of a half (R55): the half, its holding and region, and who it is. -/
structure HdmWait where
  half : Nat
  hold : Nat
  rgn  : Nat
  who  : Req
deriving DecidableEq, Repr

/-- A read at an offset of window M that waits for bytes or for room before its port, or a write that waits for its translation, with its number
and bytes (R41, R47, R56). -/
structure HostRead where
  port : Nat
  fn   : Nat
  off  : Nat
  len  : Nat
  put  : Option (Nat × List Byte) := none
deriving DecidableEq, Repr

/-- An outstanding back-invalidation snoop (R55-R60). -/
structure Bisnp where
  half  : Nat
  inval : Bool
  conflict : Bool
  rgn   : Nat
  hold  : Nat
  write : Bool
deriving DecidableEq, Repr

/-- A line of the host-line cache (R64): its CXL.cache state (0 I, 1 S, 2 E, 3 M), its 64 bytes, and their poison. -/
structure HostLine where
  st   : Nat := 0
  data : List Byte := []
  bad  : Bool := false
deriving DecidableEq, Repr

/-- The host interface (chapters 03 and 04). `out` lists the messages that wait at the host ports, `sent` those that have left. `waits` lists in
order of arrival the accesses that wait for a half, `stops` the frames that are to stop because their pages will not come, `bad` the reads
whose wait has timed out (R60), `got` what host, line cache and peers have returned to a read by the host, a peer or a chain. -/
structure HostIf where
  fns      : Tab Fn := []
  cfg      : Tab PortFn := []
  upA      : Option (Nat × Nat) := none
  upB      : Option (Nat × Nat) := none
  vfA      : Bool := false
  vfB      : Bool := false
  pageReqs : List PageReq := []
  pageWait : List PageWait := []
  arrived  : List (Nat × Nat) := []
  stops    : List (Nat × Nat × Bool) := []
  atc      : List AtcEnt := []
  atcWait  : List AtcWait := []
  reqs     : List HostReq := []
  out      : List OutMsg := []
  sent     : List HostMsg := []
  hdm      : Word := 0
  half     : Tab Nat := []
  snoops   : List Bisnp := []
  waits    : List HdmWait := []
  bad      : List Req := []
  reads    : List HostRead := []
  got      : List (Req × Nat × CplStatus × List Byte) := []
  hwNext   : Tab Nat := []
  writes   : List HostWrite := []
  hlc      : Tab HostLine := []
  rootRgn  : Word := 0
deriving DecidableEq, Repr

/-- Kryas links, rotas, routers and peers (chapter 02). `lost` lists the requests to peers whose flits have been dropped (R31). -/
structure Net where
  links   : Tab Link := []
  rotas   : Tab Rota := []
  routers : Tab Router := []
  flits   : List MeshFlit := []
  epoch   : BitVec 16 := 0
  masks   : Tab (BitVec 48) := []
  grants  : Tab Grant := []
  peerReqs : List PeerReq := []
  flushes : List Flush := []
  lost    : List Nat := []
deriving DecidableEq, Repr

/-! ### Holdings -/

/-- The states of a holding (R106). -/
inductive HState where
  | free | active | frozen | sliced
deriving DecidableEq, Repr

/-- A move slot (R219): page, physical address of the leaf entry, the leaf, frame and version. -/
structure MoveSlot where
  page    : Nat
  leafAt  : Nat
  leaf    : Word
  frame   : Nat
  version : Nat
deriving DecidableEq, Repr

/-- A region operation in progress (R107): the slot that issued it, the operation by FN, how far it is (0: threads leave
their slots, 1: cells are being reset), the cells that it resets, and the block that RESIZE found. -/
structure Busy where
  by_   : Nat
  op    : Nat
  stage : Nat
  cells : Nat
  words : Tab Word
  addr  : Nat
deriving DecidableEq, Repr

/-- A holding: its state (R106), its block's words and address (R96-R98, R482), its creation counter (R125), its move
slots (R219), admission stopped and dealing paused (R139), and a reset on its way (1: Function Level Reset, R115, which waits for the
threads to leave; 4: then for the crier, R154; 2: VF Enable cleared, R116, which waits for a region operation; 3: then for the threads). -/
structure Hold where
  st      : HState := .free
  prev    : HState := .free
  words   : Tab Word := []
  addr    : Option Nat := none
  ctxNext : Nat := 0
  busy    : Option Busy := none
  moves   : Tab (Option MoveSlot) := []
  stopped : Bool := false
  reset   : Nat := 0
deriving DecidableEq, Repr

/-- A request of a holding at a slice port (R101). -/
structure TokenReq where
  slice : Nat
  hold  : Nat
  who   : Req
deriving DecidableEq, Repr

/-- Holdings and their quotas (chapter 05). `tokenQ` lists the requests that wait for a token in order of arrival, `grants` those
that have their token and have not yet been performed (R101). -/
structure Holds where
  tab    : Tab Hold := []
  keys   : Tab (Option (BitVec 512)) := []
  bucket : Tab Nat := []
  loan   : Tab Nat := []
  pool   : Tab Nat := []
  tokenQ : List TokenReq := []
  grants : List TokenReq := []
  served : Tab Nat := []
  turn   : Nat := 0
  turnAt : Nat := 0
  ended  : List (Nat × Nat) := []
  cap    : Tab (List CapRec) := []
deriving DecidableEq, Repr

/-! ### Threads and slots -/

/-- Frame status (R129). -/
inductive FST where
  | run | new | mig | page | spill | stop | free
deriving DecidableEq, Repr

/-- A repeat in progress (R311): its count, step, mask of fields, and the address of the REP. -/
structure RepCtx where
  n    : Nat
  step : Nat
  mask : BitVec 3
deriving DecidableEq, Repr

/-- The state of a thread (R159) and what names it: holding, region, frame, launch. -/
structure Thread where
  pc     : Word := 0
  pred   : BitVec 32 := 0x80000000
  g      : Tab Word := []
  roam   : Bool := false
  xmig   : Bool := false
  bnd    : Bool := false
  bound  : Word := 0
  s      : Bool := false
  h      : Bool := false
  repc   : Nat := 0
  rep    : Option RepCtx := none
  rng    : BitVec 32 := 1
  fpm    : BitVec 4 := 0
  uimask : BitVec 8 := 0
  utvec  : Word := 0
  stkc   : Nat := 0
  sovf   : Word := 0
  tpc    : Word := 0
  tcause : Word := 0
  taddr  : Word := 0
  spc    : Word := 0
  scause : Word := 0
  saddr  : Word := 0
  hu     : Tab Word := []
  hs     : Tab Word := []
  sg     : Tab (BitVec 128) := []
  hold   : Nat := 0
  rgn    : Nat := 0
  frame  : Nat := 0
  ctxid  : BitVec 32 := 0
  tile   : BitVec 48 := 0
  grid   : Word := 0
  root   : Bool := false
  launch : Nat := 0
deriving DecidableEq, Repr

/-- An access parked on a tag or a full/empty bit (R183): the bank words of its unit by physical word index, whether it
waits for a full bit, and whether an event of R183 has woken it. -/
structure Park where
  words  : List Nat
  full   : Bool
  woken  : Bool
deriving DecidableEq, Repr

/-- A cause that waits for the next instruction boundary (R486): cause, sub-code or INFO, address. -/
structure Late where
  seq   : Nat
  cause : Nat
  sub   : Nat
  addr  : Word
  write : Bool := false
deriving DecidableEq, Repr

/-- An outstanding global store of a slot (R255, R266): its number, the parts not yet performed, whether it still
counts among the ordered stores, and the other core whose bank it goes to. -/
structure StoreOut where
  num     : Nat
  left    : Nat
  ordered : Bool
  bank    : Option Nat
deriving DecidableEq, Repr

/-- A cause on its way to a thread: code, SUB or INFO, address, whether it was met after issue (R486), whether a TRAP instruction
raised it (R334), and whether the access was a write (R121). -/
structure Cause where
  code : Nat
  info : Nat := 0
  addr : Word := 0
  imp  : Bool := false
  trap : Bool := false
  write : Bool := false
deriving DecidableEq, Repr

/-- Why a slot leaves the barrel once its counters allow it. -/
inductive Leave where
  | stay
  | migrate (cluster : Nat) (xmig : Bool)
  | page (addr : Word) (mva : Nat) (write : Bool)
  | spill
  | kill
  | halt (c : Cause)
deriving DecidableEq, Repr

/-- The units that an instruction has completed before it waited (R182): how many, the bytes that each returned, the
read that the next unit waits for, and the address and redirects with which the unit `own` goes on (R183, R473). Units are named by their number and
their own pointer; `cur` is the present one, `again` says that the instruction is executed again when it wakes (R243, R416), `served` that the special-function
unit has returned its results (R420). -/
structure Resume where
  unit   : Nat := 0
  data   : List (List Byte) := []
  acc    : Option Nat := none
  addr   : Option Word := none
  redirs : Nat := 0
  own    : Nat × Word := (0, 0)
  cur    : Nat × Word := (0, 0)
  again  : Bool := false
  served : Bool := false
deriving DecidableEq, Repr

/-- A barrel slot (R127, R128, R159). `strong` counts the outstanding accesses to KIND 01 pages (R262), `rels` the
releases not yet performed and `acq` the acquires not yet completed (R264), `stalled` the cycle in which its instruction could not issue, `unit` the units that the present
issue has passed, `peers` the peers written since the last system-scope release (R63),
`ldu` the loads of KIND 10 pages among LD (R262), `sent` that its instruction has sent its request (R154, R391), `mbox` the arrival of its
wait at a mailbox (R188), `holds` the queues and tile registers that its instruction in progress uses, numbered by `popKey`, `pushKey` and
`tileHold` (R186, R189), `disp` what the present iteration of a repeat adds to its displacement (R311), `busy` the words of the core's bank
that its vector or tile instruction has still to touch, `busyAt` that instruction's place in the order of issue, `vu` that it holds the
vector unit (R406), and `carve` a copy of its carve-outs in progress, in or out, and the beats it has moved (R191). -/
structure Slot where
  thr     : Option Thread := none
  yld     : Bool := false
  stalled : Option Word := none
  uipend  : BitVec 8 := 0
  issued  : Nat := 0
  drained : Nat := 0
  ld      : Nat := 0
  ldu     : Nat := 0
  cp      : Nat := 0
  tl      : Nat := 0
  stores  : List StoreOut := []
  peers   : List Nat := []
  post    : List PqEnt := []
  pendG   : List Nat := []
  late    : List Late := []
  park    : Option Park := none
  resume  : Resume := {}
  unit    : Nat := 0
  strong  : Nat := 0
  rels    : Nat := 0
  acq     : List Nat := []
  sfu     : Bool := false
  sent    : Bool := false
  leave   : Leave := .stay
  drainBy : Option Nat := none
  idleBy  : Option Nat := none
  idling  : Bool := false
  mbox    : Option (Nat × Nat) := none
  holds   : List Nat := []
  disp    : Nat := 0
  busy    : List Nat := []
  busyAt  : Option Nat := none
  vu      : Bool := false
  carve   : Option (Bool × Nat) := none
deriving DecidableEq, Repr

/-- An entry of a slot or link queue: a value, or a place reserved by number (R186, R326). -/
inductive QEnt where
  | val (w : Word)
  | resv (id : Nat)
deriving DecidableEq, Repr

/-- A barrier register (R392). -/
structure Bar where
  plot    : Word := 0
  mask    : BitVec 16 := 0
  arrived : BitVec 16 := 0
  gen     : BitVec 4 := 0
  up      : Bool := false
  upSouth : Bool := false
  sentUp  : Bool := false
deriving DecidableEq, Repr

/-- What a holding has in one core (R160). Tables are keyed t * 256 + bank * 128 + entry. -/
structure HoldCore where
  tagrgn : Tab Word := []
  table  : Tab (BitVec 16) := []
  bank1  : Tab Bool := []
  lq     : Tab (List QEnt) := []
  mb     : Tab Byte := []
  mbFull : Tab Bool := []
  mail   : Bool := false
  bar    : Tab Bar := []
deriving DecidableEq, Repr

/-- A word that a core's instruction buffer holds (R301). -/
structure IBuf where
  hold : Nat
  mva  : Nat
  word : BitVec 96
deriving DecidableEq, Repr

/-- A barrier message on its way (R395): the register, the receiving core, the plot and mask it belongs to. -/
structure BarMsg where
  hold : Nat
  core : Nat
  reg  : Nat
  plot : Word
  mask : BitVec 16
  release : Bool
  south : Bool
deriving DecidableEq, Repr

/-- The cores (chapter 08). `poison` and `ecc` name the beats of the scratchpads that are poisoned (R71) or have an uncorrectable error
(R169). -/
structure Cores where
  cyc    : Tab Word := []
  slots  : Tab Slot := []
  ibuf   : Tab (List IBuf) := []
  hc     : Tab HoldCore := []
  sq     : Tab (List QEnt) := []
  treg   : Tab Byte := []
  spad   : Tab Byte := []
  tag    : Tab (BitVec 4) := []
  fe     : Tab Bool := []
  poison : Tab Bool := []
  ecc    : Tab Bool := []
  barMsg : List BarMsg := []
deriving DecidableEq, Repr

/-! ### Scheduler and search -/

/-- A launch in progress (R117-R124): its region, the next tile, the grid, entry PC, argument and plot that its check
found, its segment descriptors (R194), root privilege (R479), the sprigs alive, and the chain record that started it.
Launches begin in the order of their names. -/
structure Launch where
  id    : Nat
  hold  : Nat
  rgn   : Nat
  next  : Nat
  dims  : Word
  entry : Word
  arg   : Word
  plot  : Word
  slots : Nat
  sg    : List (BitVec 128)
  root  : Bool
  alive : Nat
  chain : Option Nat
deriving DecidableEq, Repr

/-- A reserved frame (R124, R129): its status, its thread's names, and what is not kept in the frame's bytes. -/
structure FrameRec where
  hold   : Nat
  mva    : Nat
  pool   : Nat
  st     : FST
  rgn    : Nat
  launch : Nat
  core   : Nat
  tile   : BitVec 48
  grid   : Word
  root   : Bool
  bnd    : Bool
  uip    : BitVec 2
  ctxid  : BitVec 32
  addr   : Word := 0
deriving DecidableEq, Repr

/-- A sprig in a dispatch queue (R123, R126). -/
structure Disp where
  hold : Nat
  rgn  : Nat
  launch : Nat
  core : Nat
  mva  : Nat
deriving DecidableEq, Repr

/-- A frame parked at a stile (R134), on a resume list (R126) or in a search queue (R146). -/
structure Listed where
  hold : Nat
  unit : Nat
  sub  : Nat
  mva  : Nat
deriving DecidableEq, Repr

/-- A migration packet in flight (R133). -/
structure Packet where
  cluster : Nat
  thr     : Thread
  uip     : BitVec 2
deriving DecidableEq, Repr

/-- An incumbent cell (R149). -/
structure Cell where
  set     : Bool := false
  max     : Bool := false
  gen     : BitVec 16 := 0
  owner   : Nat := 0
  value   : Word := 0
  payload : Word := 0
deriving DecidableEq, Repr

/-- A cluster's replica of a cell (R149), with the sense of its generation. -/
structure Replica where
  set   : Bool := false
  gen   : BitVec 16 := 0
  value : Word := 0
  max   : Bool := false
deriving DecidableEq, Repr

/-- A crier message, of a generation and its sense, and the clusters that have received it (R152). -/
structure Cry where
  cell  : Nat
  gen   : BitVec 16
  max   : Bool
  set   : Bool
  value : Word
  seen  : List Nat
deriving DecidableEq, Repr

/-- A record on its way to a fault or supervisor queue (R121). -/
structure FaultRec where
  hold  : Nat
  super : Bool
  hdr   : Nat
  type  : Nat
  cause : Nat
  write : Bool
  info  : Nat
  rgn   : Nat
  addr  : Word
  obj   : Word
deriving DecidableEq, Repr

/-- What an access of the part does to the word or bytes that it names (R487): it writes them, adds to them as a counter, or replaces
the bits of a word under a mask. -/
inductive PartOp where
  | put | add | bits (mask : Nat)
deriving DecidableEq, Repr

/-- An access of the part to a holding's memory that waits (R487), with the numbers of the beats that are poisoned (R71). -/
structure PartAcc where
  id   : Nat
  hold : Nat
  rgn  : Nat
  mva  : Nat
  data : List Byte
  op   : PartOp
  bad  : List Nat := []
deriving DecidableEq, Repr

/-- A QPUSH or QPOP request at a queue header's home (R391, R399), named `id`; `yld` says that its instruction carries YLD (R128). -/
structure QReq where
  core  : Nat
  slot  : Nat
  hold  : Nat
  hdr   : Nat
  hdrAt : Tgt
  push  : Bool
  value : Word
  stamp : Nat
  taken : Option (Word × Nat × Nat)
  dst   : Dst
  id    : Nat
  yld   : Bool
deriving DecidableEq, Repr

/-- The scheduler (chapters 06 and 07); `pools` lists the frame pools (base and count) of the regions that a holding has
launched, `added` the holding, header and index of each record that a fault queue holds, oldest first. -/
structure Sched where
  launches : List Launch := []
  frames   : List FrameRec := []
  disp     : List Disp := []
  stile    : List Listed := []
  resume   : List Listed := []
  search   : List Listed := []
  flight   : List Packet := []
  cells    : Tab Cell := []
  replicas : Tab Replica := []
  crier    : List Cry := []
  faults   : List FaultRec := []
  lostb    : List (Nat × Nat) := []
  parts    : List PartAcc := []
  qreqs    : List QReq := []
  pools    : List (Nat × Nat × Nat) := []
  added    : List (Nat × Nat × Nat) := []
deriving DecidableEq, Repr

/-! ### Engines -/

/-- The kinds of copy command (R291). -/
inductive CopyKind where
  | lin | shaped (dir : Bool) | multi (mask : BitVec 4) | tensor | gather | scatter (size : Nat) | reduce (fn size : Nat)
deriving DecidableEq, Repr

/-- An accepted or waiting copy command: pointers, length, the record it named, and the issuing thread. -/
structure CopyCmd where
  num  : Nat
  kind : CopyKind
  dst  : Word
  src  : Word
  len  : Nat
  body : List Byte
  irq  : Bool
  ib   : Bool
  ob   : Bool
  boff : Nat
  hold : Nat
  rgn  : Nat
  ctxid : BitVec 32
  slot : Nat
  launch : Nat
  sg   : Tab (BitVec 128)
  stkc : Nat
  sovf : Word
  drainTo : Nat
deriving DecidableEq, Repr

/-- A copy context (R277-R279, R291, R295). `wait` holds commands that have issued and are not yet accepted; `pos` is the
sector in progress, `walk` what it has walked, `got` the answers of the host or a peer for it, `stall` the page
that it waits for (R295), `peers` the peers written since the last flush (R63), `units` the read units that the sector has completed
and `unit` those that the present attempt has passed (R182). A request that has
entered its slice keeps its token while the sector waits for another: `paid` counts them, `used` those that the present attempt
has passed (R101). OUTB falls by `owed` bytes when the command completes (R269). -/
structure CopyCtx where
  count : Nat := 0
  last  : Nat := 0
  wait  : List CopyCmd := []
  queue : List CopyCmd := []
  pos   : Nat := 0
  err   : Bool := false
  susp  : Bool := false
  stall : Option Nat := none
  cause : Nat := 0
  ecmd  : Nat := 0
  walk  : List Nat := []
  got   : List (Nat × CplStatus × List Byte) := []
  peers : List Nat := []
  unit  : Nat := 0
  units : List (List Byte) := []
  paid  : Nat := 0
  used  : Nat := 0
  owed  : Nat := 0
deriving DecidableEq, Repr

/-- A matrix record (R435; `paid` and `used` are those of a copy context) with what its append fixed: number, headers carried, rounding mode and seed, the appending
thread, the order among the cluster's appends, and, once it runs, `begun`, the order among the starts (R282). -/
structure MxRec where
  num   : Nat
  bytes : List Byte
  hdrA  : BitVec 128
  hdrB  : BitVec 128
  hdrC  : BitVec 128
  ldb   : Nat
  mode  : Nat
  nsat  : Bool
  seed  : BitVec 32
  order : Nat
  core  : Nat
  slot  : Nat
  hold  : Nat
  rgn   : Nat
  launch : Nat
  ctxid : BitVec 32
  part  : Nat
  dst   : Dst
  drainTo : Nat
  sg    : Tab (BitVec 128)
  stkc  : Nat
  sovf  : Word
  running : Bool
  begun   : Nat
  pos   : Nat
  buf   : List Byte
  paid  : Nat := 0
  used  : Nat := 0
deriving DecidableEq, Repr

/-- A matrix context (R277-R281). `wait` holds records that passed the checks and wait for a place; `waits` is the record
whose WAIT stalls the context (R179); `got` and `peers` are those of a copy context. -/
structure MxCtx where
  count : Nat := 0
  last  : Nat := 0
  wait  : List MxRec := []
  queue : List MxRec := []
  err   : Bool := false
  stall : Option Nat := none
  cause : Nat := 0
  ecmd  : Nat := 0
  got   : List (Nat × CplStatus × List Byte) := []
  waits : Option Nat := none
  peers : List Nat := []
deriving DecidableEq, Repr

/-- The owner register of an accumulator partition (R285). -/
structure Owner where
  used : BitVec 16 := 0
  none : Bool := true
  id   : BitVec 32 := 0
deriving DecidableEq, Repr

/-- A B store position (R283): the header and bytes that are there, `holes` the positions that its 2:4 data did not store (R247), the LDB that wrote them, and the header and LDB
that the records appended so far will leave. -/
structure BPos where
  hdr   : Option (BitVec 128) := none
  data  : List Byte := []
  holes : List Bool := []
  ldb   : Nat := 0
  appHdr : Option (BitVec 128) := none
  appLdb : Nat := 0
deriving DecidableEq, Repr

/-- A request at a special-function unit (R298, R418): function, format, operand, mode, the draw of RSTO; `vec` says that a VSFN asks, whose results come
together (R420). -/
structure SfuReq where
  core : Nat
  slot : Nat
  fn   : Nat
  fmt  : Nat
  x    : Word
  mode : Nat
  sat  : Bool
  draw : BitVec 32
  dst  : Dst
  vec  : Bool
deriving DecidableEq, Repr

/-- A wake that a drain carries (R290); `arrived` says that it has been judged and waits for a frame. -/
structure WakeReq where
  cluster : Nat
  core : Nat
  hold : Nat
  rgn  : Nat
  arg  : Word
  from_ : Nat
  arrived : Bool := false
deriving DecidableEq, Repr

/-- The engines (chapters 12 and 18). `held` lists partitions that a slot's MXSPILL or MXFILL works on (R441). -/
structure Engines where
  copy   : Tab CopyCtx := []
  mx     : Tab MxCtx := []
  served : Tab Nat := []
  owner  : Tab Owner := []
  acc    : Tab (BitVec 32) := []
  accHdr : Tab (Option (BitVec 128)) := []
  appHdr : Tab (Option (BitVec 128)) := []
  bpos   : Tab BPos := []
  sfu    : Tab (List SfuReq) := []
  wakes  : List WakeReq := []
  held   : List (Nat × Nat) := []
deriving DecidableEq, Repr

/-! ### The whole state -/

/-- What the model adds to the spec's state: the steps to come, the place of the present step, whether an issue slot is
open, the stream that decides each freedom of the spec, the counter of free values, and a counter of identities. -/
structure Ctl where
  agenda  : List Turn := []
  here    : Place := ⟨0, 0, 0⟩
  issue   : Bool := false
  choices : List Nat := []
  free    : Nat := 0
  nextId  : Nat := 1
deriving DecidableEq, Repr

/-- Why a step stops with a fault. -/
inductive Fault where
  /-- Raised by an event that cannot take place in this state (no such request, record, thread or signal edge). Safe:
  the model stops on an input that the part cannot produce. -/
  | notEnabled
  /-- Raised by an instruction step at a slot that holds no thread. Safe: the barrel never issues from such a slot. -/
  | noThread
deriving DecidableEq, Repr

/-- Why a step is refused. -/
inductive Refusal where
  /-- Raised by exec's arm of an instruction that has no meaning yet. Safe: nothing is claimed of it. -/
  | notModelled (mnemonic : String)
deriving DecidableEq, Repr

/-- The state of the part. -/
structure State where
  pw  : Power
  st  : Start
  net : Net
  hi  : HostIf
  hd  : Holds
  mm  : Mem
  co  : Cores
  sc  : Sched
  en  : Engines
  ctl : Ctl
deriving DecidableEq, Repr

/-- The part right after reset: the rails are up and the cold start that R19 begins is at step 1, as the reset values
of SSTAT say (R84). Every other field is at the reset value that the spec or a log entry names. -/
def State.reset : State where
  pw  := {}
  st  := {}
  net := {}
  hi  := {}
  hd  := {}
  mm  := {}
  co  := {}
  sc  := {}
  en  := {}
  ctl := {}

end Sys2Proof.Machine
end

