-- ==== Sys2Proof/Machine/Base.lean ====
section
/-! DEFINITION. Reading and updating the parts of the state: places, slots, threads, holdings and their shares, the
stream of choices and the free values. -/

namespace Sys2Proof.Machine

/-- Bits `hi` to `lo` of a number. -/
def bits (n hi lo : Nat) : Nat := n / 2 ^ lo % 2 ^ (hi + 1 - lo)

/-- Bit `k` of a number. -/
def bit (n k : Nat) : Bool := n / 2 ^ k % 2 = 1

/-- A two's-complement number of `n` bits. -/
def sgnNat (n w : Nat) : Int := if w % 2 ^ n < 2 ^ (n - 1) then (w % 2 ^ n : Nat) else (w % 2 ^ n : Nat) - (2 ^ n : Nat)

/-- An integer wrapped to a 64-bit word. -/
def wordOf (i : Int) : Word := BitVec.ofInt 64 i

/-! ### Places -/

/-- Core x of R161. -/
def coreX (c : Nat) : Nat := c % 128
/-- Core y of R161. -/
def coreY (c : Nat) : Nat := c / 128
/-- The core at column x and row y. -/
def coreAt (x y : Nat) : Nat := y * 128 + x
/-- The cluster of a core, as a slice index (R161, R203). -/
def clusterOf (c : Nat) : Nat := coreY c / 2 * 64 + coreX c / 2
/-- The number of a core in its cluster (R161). -/
def coreNo (c : Nat) : Nat := coreX c % 2 + 2 * (coreY c % 2)
/-- Core `q` of a cluster (R161). -/
def coreOf (k q : Nat) : Nat := coreAt (k % 64 * 2 + q % 2) (k / 64 * 2 + q / 2 % 2)
/-- The key of a slot in `Cores.slots`. -/
def slotKey (core slot : Nat) : Nat := core * 16 + slot

/-- The rectangle of a plot word (R251). -/
def plotOf (w : Nat) : Plot := ⟨bits w 6 0, bits w 13 8, bits w 22 16, bits w 29 24⟩

/-- The rectangle holds the core (R252). -/
def Plot.covers (p : Plot) (c : Nat) : Bool :=
  p.x0 ≤ coreX c && coreX c ≤ p.x1 && p.y0 ≤ coreY c && coreY c ≤ p.y1

/-- The first rectangle lies inside the second. -/
def Plot.inside (p q : Plot) : Bool := q.x0 ≤ p.x0 && p.x1 ≤ q.x1 && q.y0 ≤ p.y0 && p.y1 ≤ q.y1

/-- Both ends lie at cluster borders and the rectangle is not empty (R98). -/
def Plot.aligned (p : Plot) : Bool :=
  p.x0 % 2 = 0 && p.y0 % 2 = 0 && p.x1 % 2 = 1 && p.y1 % 2 = 1 && p.x0 ≤ p.x1 && p.y0 ≤ p.y1

/-- The cluster lies in a plot. -/
def Plot.hasCluster (p : Plot) (k : Nat) : Bool := p.covers (coreOf k 0)

/-- The owner that a rota entry names (R38). -/
def entryOwner (e : BitVec 8) : Option Nat := if e.getLsbD 7 then some (bits e.toNat 5 0) else none

/-- The cores of a rectangle, row by row. -/
def Plot.cores (p : Plot) : List Nat :=
  (List.range (p.y1 + 1 - p.y0)).flatMap fun j => (List.range (p.x1 + 1 - p.x0)).map fun i => coreAt (p.x0 + i) (p.y0 + j)

/-- The clusters of a cluster-aligned rectangle. -/
def Plot.clusters (p : Plot) : List Nat :=
  (List.range ((p.y1 + 1 - p.y0) / 2)).flatMap fun j =>
    (List.range ((p.x1 + 1 - p.x0) / 2)).map fun i => (p.y0 / 2 + j) * 64 + p.x0 / 2 + i

/-! ### Choices, free values, identities -/

/-- Decide one of `n` behaviours that the spec allows. -/
def State.choose (s : State) (n : Nat) : Nat × State :=
  match s.ctl.choices with
  | [] => (0, s)
  | c :: cs => (c % n, { s with ctl := { s.ctl with choices := cs } })

/-- A word that the spec leaves undefined. -/
def State.freeWord (s : State) : Word × State :=
  (Config.freeWord s.ctl.free, { s with ctl := { s.ctl with free := s.ctl.free + 1 } })

/-- Key material that the part draws at random (R88). -/
def State.freeKey (s : State) : BitVec 512 × State :=
  (Config.freeKey s.ctl.free, { s with ctl := { s.ctl with free := s.ctl.free + 1 } })

/-- A name that no access, launch or request has yet. -/
def State.newId (s : State) : Nat × State := (s.ctl.nextId, { s with ctl := { s.ctl with nextId := s.ctl.nextId + 1 } })

/-! ### Slots and threads -/

/-- The slot at a core and number. -/
def State.slotAt (s : State) (core slot : Nat) : Slot := Tab.get {} s.co.slots (slotKey core slot)

/-- Replace a slot. -/
def State.setSlotAt (s : State) (core slot : Nat) (v : Slot) : State :=
  { s with co := { s.co with slots := Tab.set {} s.co.slots (slotKey core slot) v } }

/-- Change a slot. -/
def State.modSlotAt (s : State) (core slot : Nat) (f : Slot → Slot) : State :=
  s.setSlotAt core slot (f (s.slotAt core slot))

/-- The core of the present step. -/
def State.core (s : State) : Nat := s.ctl.here.unit
/-- The slot number of the present step. -/
def State.slotNo (s : State) : Nat := s.ctl.here.sub
/-- The slot of the present step. -/
def State.slot (s : State) : Slot := s.slotAt s.core s.slotNo
/-- Replace the slot of the present step. -/
def State.setSlot (s : State) (v : Slot) : State := s.setSlotAt s.core s.slotNo v
/-- Change the slot of the present step. -/
def State.modSlot (s : State) (f : Slot → Slot) : State := s.modSlotAt s.core s.slotNo f

/-- The thread of the present step; an empty slot has none. -/
def State.thr (s : State) : Thread := s.slot.thr.getD {}
/-- Replace the thread of the present step. -/
def State.setThr (s : State) (t : Thread) : State := s.modSlot fun v => { v with thr := some t }
/-- Change the thread of the present step. -/
def State.modThr (s : State) (f : Thread → Thread) : State := s.setThr (f s.thr)

/-- A G register: g0-g23, or h0-h3 of the bank that the mode names (R166). -/
def Thread.gpr (t : Thread) (n : Nat) : Word :=
  if n < 24 then Tab.get 0 t.g n else if t.s then Tab.get 0 t.hs (n - 24) else Tab.get 0 t.hu (n - 24)

/-- Write a G register (R166). -/
def Thread.setGpr (t : Thread) (n : Nat) (v : Word) : Thread :=
  if n < 24 then { t with g := Tab.set 0 t.g n v }
  else if t.s then { t with hs := Tab.set 0 t.hs (n - 24) v }
  else { t with hu := Tab.set 0 t.hu (n - 24) v }

/-- A predicate; p31 reads 1 (R159). -/
def Thread.prd (t : Thread) (n : Nat) : Bool := n = 31 || t.pred.getLsbD n

/-- Write a predicate; a write to p31 is ignored (R159). -/
def Thread.setPrd (t : Thread) (n : Nat) (b : Bool) : Thread :=
  if n = 31 then t
  else if b then { t with pred := t.pred ||| BitVec.twoPow 32 n }
  else { t with pred := t.pred &&& ~~~(BitVec.twoPow 32 n) }

/-- The agent of the accesses of the present step (R178). -/
def State.who (s : State) : Who :=
  let t := s.thr
  ⟨s.core, s.slotNo, t.hold, t.rgn, t.launch, t.sg, t.stkc, t.sovf⟩

/-! ### Holdings -/

/-- A holding. -/
def State.hold (s : State) (h : Nat) : Hold := Tab.get {} s.hd.tab h
/-- Replace a holding. -/
def State.setHold (s : State) (h : Nat) (v : Hold) : State := { s with hd := { s.hd with tab := Tab.set {} s.hd.tab h v } }
/-- Change a holding. -/
def State.modHold (s : State) (h : Nat) (f : Hold → Hold) : State := s.setHold h (f (s.hold h))
/-- A word of the holding's block, as the last region operation read it (R98). -/
def State.hword (s : State) (h off : Nat) : Nat := (Tab.get 0 (s.hold h).words off).toNat
/-- A word of a holding's block. -/
def Hold.word (v : Hold) (off : Nat) : Nat := (Tab.get 0 v.words off).toNat

/-- The holding exists. -/
def State.live (s : State) (h : Nat) : Bool := decide ((s.hold h).st ≠ .free)
/-- The holding's plot (word 0x10). -/
def State.hplot (s : State) (h : Nat) : Plot := plotOf (s.hword h 0x10)
/-- Slot numbers owned (word 0x18). -/
def State.hslots (s : State) (h : Nat) : Nat := bits (s.hword h 0x18) 15 0
/-- The movement slot (word 0x18). -/
def State.hmovs (s : State) (h : Nat) : Nat := bits (s.hword h 0x18) 19 16
/-- Scratchpad banks owned (word 0x18). -/
def State.hbanks (s : State) (h : Nat) : Nat := bits (s.hword h 0x18) 63 32
/-- Slot queues owned (word 0x20). -/
def State.hqueues (s : State) (h : Nat) : Nat := bits (s.hword h 0x20) 3 0
/-- Tile registers owned (word 0x20). -/
def State.htregs (s : State) (h : Nat) : Nat := bits (s.hword h 0x20) 19 4
/-- Accumulator partitions owned (word 0x20). -/
def State.haparts (s : State) (h : Nat) : Nat := bits (s.hword h 0x20) 23 20
/-- Copy contexts owned (word 0x20). -/
def State.hcctx (s : State) (h : Nat) : Nat := bits (s.hword h 0x20) 27 24
/-- Matrix contexts owned (word 0x20). -/
def State.hmctx (s : State) (h : Nat) : Nat := bits (s.hword h 0x20) 31 28

/-- The number of set bits among the lowest `n`. -/
def popc (v : Nat) : Nat → Nat
  | 0 => 0
  | n + 1 => popc v n + (if bit v n then 1 else 0)

/-- The position of the set bit of rank `k` among the lowest `n`, counting from bit `i`. -/
def bitOfRank (v : Nat) : Nat → Nat → Nat → Option Nat
  | 0, _, _ => none
  | n + 1, i, k => if bit v i then (if k = 0 then some i else bitOfRank v n (i + 1) (k - 1)) else bitOfRank v n (i + 1) k

/-- The holding is a member of the slice ring (R112). -/
def State.inRing (s : State) (h : Nat) : Bool :=
  h = 0 || (s.hold h).st = .sliced || ((s.hold h).st = .frozen && (s.hold h).prev = .sliced)

/-- The slice ring has more than one member. -/
def State.ringed (s : State) : Bool := (List.range Config.holdings).any fun h => h ≠ 0 && s.inRing h

/-- The holding that owns a slot number of a core; in the slice ring the member whose turn runs (R127). -/
def State.slotOwner (s : State) (core slot : Nat) : Option Nat :=
  (List.range Config.holdings).find? fun h =>
    s.live h && (s.hplot h).covers core && bit (s.hslots h) slot && (!s.inRing h || !s.ringed || s.hd.turn = h)

/-! ### What a holding has in a core -/

/-- The key of a holding's share of a core. -/
def hcKey (core hold : Nat) : Nat := core * 64 + hold
/-- What a holding has in a core. -/
def State.hcAt (s : State) (core hold : Nat) : HoldCore := Tab.get {} s.co.hc (hcKey core hold)
/-- Change what a holding has in a core. -/
def State.modHc (s : State) (core hold : Nat) (f : HoldCore → HoldCore) : State :=
  { s with co := { s.co with hc := Tab.set {} s.co.hc (hcKey core hold) (f (s.hcAt core hold)) } }

/-- The local cycle counter of a core (R161). -/
def State.cyc (s : State) (core : Nat) : Nat := (Tab.get 0 s.co.cyc core).toNat

/-- One cycle of a core ends (R127, R161). -/
def State.endCycle (s : State) (core : Nat) : State :=
  { s with co := { s.co with cyc := Tab.set 0 s.co.cyc core (Tab.get 0 s.co.cyc core + 1) } }

/-! ### Host interface, links, engines -/

/-- A function's registers. -/
def State.fn (s : State) (h : Nat) : Fn := Tab.get {} s.hi.fns h
/-- Change a function's registers. -/
def State.modFn (s : State) (h : Nat) (f : Fn → Fn) : State :=
  { s with hi := { s.hi with fns := Tab.set {} s.hi.fns h (f (s.fn h)) } }
/-- Configuration bits of a function at a port. -/
def State.cfg (s : State) (port h : Nat) : PortFn := Tab.get {} s.hi.cfg (port * 64 + h)
/-- Change configuration bits of a function at a port. -/
def State.modCfg (s : State) (port h : Nat) (f : PortFn → PortFn) : State :=
  { s with hi := { s.hi with cfg := Tab.set {} s.hi.cfg (port * 64 + h) (f (s.cfg port h)) } }
/-- The PASID prefix of a function's requests (R46, R48). -/
def State.pasid (s : State) (h : Nat) : Option Nat :=
  if bit (s.fn h).hif.toNat 23 then some (bits (s.fn h).hif.toNat 43 24) else none
/-- The host port of a holding's access to a host address (R46, R48). -/
def State.hostPort (s : State) (h addr : Nat) : Nat :=
  match bits (s.fn h).hif.toNat 21 20 with
  | 1 => 1
  | 2 => addr / 4096 % 2
  | _ => 0
/-- The port over which a holding's page requests go: the one that PORTSEL selects; an even 64 KiB page alternates to A. -/
def State.priPort (s : State) (h : Nat) : Nat := if bits (s.fn h).hif.toNat 21 20 = 1 then 1 else 0
/-- Give a message to its host port. -/
def State.send (s : State) (m : HostMsg) (note : Option Note := none) (from_ : Option Sender := none) : State :=
  { s with hi := { s.hi with out := s.hi.out ++ [(⟨m, note, from_⟩ : OutMsg)] } }

/-- The host port by which a message leaves; the CXL protocols run on port A (R36). -/
def HostMsg.port : HostMsg → Nat
  | .write p .. | .msix p .. | .readReq _ p .. | .atomicReq _ p .. | .transReq _ p .. | .pageReq p .. | .cplData p .. | .cplValue p ..
  | .cplUR p .. | .cplCA p .. | .atsDone p .. | .spdm p .. => p
  | _ => 0

/-- The holding of a message. -/
def HostMsg.hold : HostMsg → Nat
  | .write _ h .. | .msix _ h .. | .readReq _ _ h .. | .atomicReq _ _ h .. | .transReq _ _ h .. | .pageReq _ h .. | .cplData _ h ..
  | .cplValue _ h .. | .cplUR _ h .. | .cplCA _ h .. | .atsDone _ h .. => h
  | _ => 0

/-- The message is a response. -/
def HostMsg.resp : HostMsg → Bool
  | .cplData .. | .cplValue .. | .cplUR .. | .cplCA .. | .atsDone .. | .spdm .. | .memData .. | .memDone .. | .biConflictAck .. | .snoopResp .. => true
  | _ => false

/-- A Kryas link. -/
def State.link (s : State) (l : Nat) : Link := Tab.get {} s.net.links l
/-- Change a Kryas link. -/
def State.modLink (s : State) (l : Nat) (f : Link → Link) : State :=
  { s with net := { s.net with links := Tab.set {} s.net.links l (f (s.link l)) } }

/-- A copy context (R277), keyed core * 4 + context. -/
def State.cctx (s : State) (k : Nat) : CopyCtx := Tab.get {} s.en.copy k
/-- Change a copy context. -/
def State.modCctx (s : State) (k : Nat) (f : CopyCtx → CopyCtx) : State :=
  { s with en := { s.en with copy := Tab.set {} s.en.copy k (f (s.cctx k)) } }
/-- A matrix context (R277), keyed cluster * 4 + context. -/
def State.mctx (s : State) (k : Nat) : MxCtx := Tab.get {} s.en.mx k
/-- Change a matrix context. -/
def State.modMctx (s : State) (k : Nat) (f : MxCtx → MxCtx) : State :=
  { s with en := { s.en with mx := Tab.set {} s.en.mx k (f (s.mctx k)) } }

/-- Fold a state over the numbers from 0 below `n`. -/
def State.upto (s : State) (n : Nat) (f : State → Nat → State) : State := (List.range n).foldl f s

/-- The first `n` bytes of a sparse byte table from address `a`. -/
def Tab.bytes (t : Tab Byte) : Nat → Nat → List Byte
  | _, 0 => []
  | a, n + 1 => Tab.get 0 t a :: Tab.bytes t (a + 1) n

/-- Write bytes at consecutive addresses of a sparse byte table. -/
def Tab.setBytes (t : Tab Byte) : Nat → List Byte → Tab Byte
  | _, [] => t
  | a, b :: bs => Tab.setBytes (Tab.set 0 t a b) (a + 1) bs

end Sys2Proof.Machine
end

