-- ==== Sys2Proof/Machine/Crypt.lean ====
section
/-! DEFINITION. The check value of a beat (R68), the flit check (R27), the header check (R232), and AES-XTS-256 on 128-byte lines (R222). -/

namespace Sys2Proof.Machine

/-- One step of a cyclic check of `n` bits, most significant bit first: shift, and subtract the polynomial when the bit
shifted out differs from the input bit. -/
def crcBit (n poly v : Nat) (b : Bool) : Nat :=
  let sh := v * 2 % 2 ^ n
  if (v / 2 ^ (n - 1) % 2 = 1) = (b = true) then sh else sh ^^^ poly

/-- A cyclic check over bytes, each byte most significant bit first. -/
def crcMsb (n poly init : Nat) (bs : List Byte) : Nat :=
  bs.foldl (fun v b => (List.range 8).foldl (fun v i => crcBit n poly v (b.getLsbD (7 - i))) v) init

/-- One step of a reflected cyclic check: `poly` is the reflected polynomial. -/
def crcBitR (poly v : Nat) (b : Bool) : Nat :=
  let sh := v / 2
  if (v % 2 = 1) = (b = true) then sh else sh ^^^ poly

/-- A reflected cyclic check over bytes, each byte least significant bit first. -/
def crcLsb (poly init : Nat) (bs : List Byte) : Nat :=
  bs.foldl (fun v b => (List.range 8).foldl (fun v i => crcBitR poly v (b.getLsbD i)) v) init

/-- The check value of a 32-byte beat (R68). -/
def beatCheck (bs : List Byte) : Nat := crcMsb 16 0x1021 0xFFFF bs

/-! ### AES-256 (FIPS 197), in XTS mode (R222) -/

/-- Doubling in the field of AES. -/
def aesDbl (b : Byte) : Byte := (b <<< 1) ^^^ (if b.msb then 0x1B else 0)

/-- Multiplication in the field of AES. -/
def aesMul (a b : Byte) : Byte :=
  ((List.range 8).foldl (fun (p : Byte × Byte) i => (if b.getLsbD i then p.1 ^^^ p.2 else p.1, aesDbl p.2)) (0, a)).1

/-- The inverse in the field of AES; 0 maps to 0. -/
def aesInv (a : Byte) : Byte :=
  let a2 := aesMul a a
  ((List.range 6).foldl (fun (p : Byte × Byte) _ => (aesMul p.1 (aesMul p.2 p.2), aesMul p.2 p.2)) (a2, a2)).1

/-- The substitution box. -/
def aesSub (x : Byte) : Byte :=
  let b := aesInv x
  b ^^^ b.rotateLeft 1 ^^^ b.rotateLeft 2 ^^^ b.rotateLeft 3 ^^^ b.rotateLeft 4 ^^^ 0x63

/-- The inverse substitution box. -/
def aesUnsub (y : Byte) : Byte := aesInv (y.rotateLeft 1 ^^^ y.rotateLeft 3 ^^^ y.rotateLeft 6 ^^^ 0x05)

/-- Byte `i` of a list, 0 beyond its end. -/
def byteAt (bs : List Byte) (i : Nat) : Byte := bs.getD i 0

/-- Bytewise exclusive or. -/
def xorBytes (a b : List Byte) : List Byte := List.zipWith (· ^^^ ·) a b

/-- The expanded key of AES-256 in bytes: 15 round keys of 16 bytes. `n` words are still to be made, `i` counts them. -/
def aesExpand : Nat → Nat → Byte → List Byte → List Byte
  | 0, _, _, w => w
  | n + 1, i, rc, w =>
    let l := w.length
    let last := (List.range 4).map fun k => byteAt w (l - 4 + k)
    let old := (List.range 4).map fun k => byteAt w (l - 32 + k)
    let t :=
      if i % 8 = 0 then
        [aesSub (byteAt last 1) ^^^ rc, aesSub (byteAt last 2), aesSub (byteAt last 3), aesSub (byteAt last 0)]
      else if i % 8 = 4 then last.map aesSub
      else last
    aesExpand n (i + 1) (if i % 8 = 0 then aesDbl rc else rc) (w ++ xorBytes old t)

/-- The round keys of a 32-byte key. -/
def aesKeys (key : List Byte) : List Byte := aesExpand 52 8 1 key

/-- Round key `r`. -/
def roundKey (ks : List Byte) (r : Nat) : List Byte := (ks.drop (16 * r)).take 16

/-- Rotate row `r` of the column-major block left by `r` (or right, for the inverse). -/
def aesRows (inv : Bool) (b : List Byte) : List Byte :=
  (List.range 16).map fun i =>
    let r := i % 4
    let c := i / 4
    byteAt b (r + 4 * ((if inv then c + 4 - r else c + r) % 4))

/-- Mix every column by the circulant matrix that begins with `m`. -/
def aesMix (m : List Byte) (b : List Byte) : List Byte :=
  (List.range 16).map fun i =>
    let r := i % 4
    let c := i / 4
    (List.range 4).foldl (fun v k => v ^^^ aesMul (byteAt m ((k + 4 - r) % 4)) (byteAt b (4 * c + k))) 0

/-- Encrypt one block. -/
def aesEnc (ks b : List Byte) : List Byte :=
  let x := (List.range 13).foldl
    (fun x r => xorBytes (aesMix [2, 3, 1, 1] (aesRows false (x.map aesSub))) (roundKey ks (r + 1)))
    (xorBytes b (roundKey ks 0))
  xorBytes (aesRows false (x.map aesSub)) (roundKey ks 14)

/-- Decrypt one block. -/
def aesDec (ks b : List Byte) : List Byte :=
  let x := (List.range 13).foldl
    (fun x r => aesMix [14, 11, 13, 9] (xorBytes ((aesRows true x).map aesUnsub) (roundKey ks (13 - r))))
    (xorBytes b (roundKey ks 14))
  xorBytes ((aesRows true x).map aesUnsub) (roundKey ks 0)

/-- The tweak of the next block: a little-endian doubling. -/
def xtsNext (t : List Byte) : List Byte :=
  let v := leNat t
  let d := v * 2 % 2 ^ 128
  leBytes 16 (if v / 2 ^ 127 = 1 then d ^^^ 0x87 else d)

/-- Apply XTS with a block function to the blocks of a line. -/
def xtsLine (f : List Byte → List Byte) : Nat → List Byte → List Byte → List Byte
  | 0, _, _ => []
  | n + 1, t, d => xorBytes (f (xorBytes (d.take 16) t)) t ++ xtsLine f n (xtsNext t) (d.drop 16)

/-- The two keys of 64 bytes of material: the data key and the tweak key (R464). -/
def matKeys (m : BitVec 512) : List Byte × List Byte := ((leBytes 64 m.toNat).take 32, (leBytes 64 m.toNat).drop 32)

/-- The tweak of a line: PA bits 45:7, stored little-endian (R222). -/
def lineTweak (m : BitVec 512) (line : Nat) : List Byte := aesEnc (aesKeys (matKeys m).2) (leBytes 16 line)

/-- Encrypt a 128-byte line. -/
def lineEnc (m : BitVec 512) (line : Nat) (d : List Byte) : List Byte :=
  xtsLine (aesEnc (aesKeys (matKeys m).1)) 8 (lineTweak m line) d

/-- Decrypt a 128-byte line. -/
def lineDec (m : BitVec 512) (line : Nat) (d : List Byte) : List Byte :=
  xtsLine (aesDec (aesKeys (matKeys m).1)) 8 (lineTweak m line) d

end Sys2Proof.Machine
end

