-- ==== Sys2Proof/Machine/Numbers.lean ====
section
/-! DEFINITION. Number formats (R223-R225), rounding and special values (R226-R229), exact arithmetic. A finite value is a
sign, a magnitude and a power of two; every operation is exact and `encode` rounds once. -/

namespace Sys2Proof.Machine

/-- A decoded number. `fin` has a positive magnitude `m` and the value ±m · 2^e. -/
inductive ExtNum where
  | nan
  | inf (neg : Bool)
  | zero (neg : Bool)
  | fin (neg : Bool) (m : Nat) (e : Int)
deriving DecidableEq, Repr

/-- The rounding modes of R226. -/
inductive Rm where
  | rne | rz | rdn | rup | rsto
deriving DecidableEq, Repr

/-- The code that names a mode (R308). -/
def Rm.code : Rm → Nat
  | .rne => 1 | .rz => 2 | .rdn => 3 | .rup => 4 | .rsto => 5

/-- The mode of %fpm.RM (R163). -/
def Rm.ofFpm (n : Nat) : Rm :=
  match n % 8 with
  | 1 => .rz | 2 => .rdn | 3 => .rup | 4 => .rsto | _ => .rne

/-- The mode of MOD's RM field; 0 takes %fpm (R308, R226). -/
def rmOf (rm : Nat) (fpm : BitVec 4) : Rm :=
  match rm with
  | 1 => .rne | 2 => .rz | 3 => .rdn | 4 => .rup | 5 => .rsto | _ => Rm.ofFpm fpm.toNat

/-- A number format: exponent and mantissa widths, bias, the code of the largest finite magnitude, infinity and NaN
codes of the magnitude where the format has them (R223). -/
structure FFmt where
  width : Nat
  ew    : Nat
  mw    : Nat
  bias  : Nat
  big   : Nat
  inf   : Option Nat
  nan   : Option Nat
deriving DecidableEq, Repr

/-- The floating formats of R223. -/
def ffmt : Nat → Option FFmt
  | 1 => some ⟨32, 8, 23, 127, 0x7F7FFFFF, some 0x7F800000, some 0x7FC00000⟩
  | 2 => some ⟨16, 8, 7, 127, 0x7F7F, some 0x7F80, some 0x7FC0⟩
  | 3 => some ⟨16, 5, 10, 15, 0x7BFF, some 0x7C00, some 0x7E00⟩
  | 4 => some ⟨8, 4, 3, 7, 0x7E, none, some 0x7F⟩
  | 5 => some ⟨8, 5, 2, 15, 0x7B, some 0x7C, some 0x7E⟩
  | 6 => some ⟨6, 3, 2, 3, 0x1F, none, none⟩
  | 7 => some ⟨6, 2, 3, 1, 0x1F, none, none⟩
  | 8 => some ⟨4, 2, 1, 1, 0x7, none, none⟩
  | 13 => some ⟨64, 11, 52, 1023, 0x7FEFFFFFFFFFFFFF, some 0x7FF0000000000000, some 0x7FF8000000000000⟩
  | _ => none

/-- The width of a format's elements in bits (R223); 0 for a code that is not listed. -/
def fmtWidth (f : Nat) : Nat :=
  match f with
  | 1 => 32 | 2 => 16 | 3 => 16 | 4 => 8 | 5 => 8 | 6 => 6 | 7 => 6 | 8 => 4 | 9 => 8 | 10 => 8 | 11 => 4 | 12 => 32 | 13 => 64
  | _ => 0

/-- The integer formats of R223: width and signedness. -/
def ifmt : Nat → Option (Nat × Bool)
  | 9 => some (8, true)
  | 10 => some (8, false)
  | 11 => some (4, true)
  | 12 => some (32, true)
  | _ => none

/-- The format is a floating format. -/
def isFloat (f : Nat) : Bool := (ffmt f).isSome

/-- A number from an integer. -/
def ExtNum.ofInt (i : Int) : ExtNum := if i = 0 then .zero false else .fin (i < 0) i.natAbs 0

/-- The value of a floating code (R223). -/
def FFmt.decode (f : FFmt) (c : Nat) : ExtNum :=
  let neg := bit c (f.width - 1)
  let mag := c % 2 ^ (f.width - 1)
  let e := mag / 2 ^ f.mw
  let m := mag % 2 ^ f.mw
  if mag > f.big then (if f.inf = some mag then .inf neg else .nan)
  else if e = 0 then (if m = 0 then .zero neg else .fin neg m (1 - (f.bias : Int) - (f.mw : Int)))
  else .fin neg (2 ^ f.mw + m) ((e : Int) - f.bias - f.mw)

/-- The value of an element's code (R223). -/
def decodeNum (f c : Nat) : ExtNum :=
  match ffmt f with
  | some ff => ff.decode c
  | none =>
    match ifmt f with
    | some (w, true) => ExtNum.ofInt (sgnNat w c)
    | some (w, false) => ExtNum.ofInt (c % 2 ^ w : Nat)
    | none => .nan

/-- The next state of %rng (R227). -/
def rngNext (x : BitVec 32) : BitVec 32 :=
  let x := x ^^^ (x <<< 13)
  let x := x ^^^ (x >>> 17)
  x ^^^ (x <<< 5)

/-- Round m · 2^e to a multiple of 2^q: the multiple's number. `draw` is the draw of RSTO (R226, R227). -/
def roundTo (rm : Rm) (draw : BitVec 32) (neg : Bool) (m : Nat) (e q : Int) : Nat :=
  if q ≤ e then m * 2 ^ (e - q).toNat
  else
    let d := (q - e).toNat
    let t := m / 2 ^ d
    let r := m % 2 ^ d
    let up : Bool :=
      match rm with
      | .rne => 2 ^ d < 2 * r || (2 * r = 2 ^ d && t % 2 = 1)
      | .rz => false
      | .rdn => neg && r ≠ 0
      | .rup => !neg && r ≠ 0
      | .rsto => 2 ^ 32 ≤ r * 2 ^ 32 / 2 ^ d + draw.toNat
    if up then t + 1 else t

/-- The code of a sign and a magnitude code. -/
def FFmt.pack (f : FFmt) (neg : Bool) (mag : Nat) : Nat := mag + (if neg then 2 ^ (f.width - 1) else 0)

/-- The code of the canonical NaN; formats without NaN give +0 (R229). -/
def FFmt.nanCode (f : FFmt) : Nat := f.nan.getD 0

/-- A result beyond the largest finite value (R228). -/
def FFmt.overflow (f : FFmt) (rm : Rm) (sat neg : Bool) : Nat :=
  let toMax : Bool :=
    match rm with
    | .rne | .rsto => false
    | .rz => true
    | .rdn => !neg
    | .rup => neg
  if sat || toMax then f.pack neg f.big
  else
    match f.inf with
    | some i => f.pack neg i
    | none => if f.nan.isSome then f.nanCode else f.pack neg f.big

/-- Round a number once to a floating format and give its code (R226-R229). -/
def FFmt.encode (f : FFmt) (rm : Rm) (sat : Bool) (draw : BitVec 32) (x : ExtNum) : Nat :=
  match x with
  | .nan => f.nanCode
  | .zero neg => f.pack neg 0
  | .inf neg =>
    match f.inf with
    | some i => f.pack neg i
    | none => if f.nan.isSome && !sat then f.nanCode else f.pack neg f.big
  | .fin neg m e =>
    let q : Int := max ((m.log2 : Int) + e - (f.mw : Int)) (1 - (f.bias : Int) - (f.mw : Int))
    let t := roundTo rm draw neg m e q
    let mag := if t < 2 ^ f.mw then t
      else if t = 2 ^ (f.mw + 1) then (q + f.mw + f.bias + 1).toNat * 2 ^ f.mw
      else (q + f.mw + f.bias).toNat * 2 ^ f.mw + (t - 2 ^ f.mw)
    if f.big < mag then f.overflow rm sat neg else f.pack neg mag

/-- Clamp an integer to a range. -/
def clampInt (lo hi i : Int) : Int := if i < lo then lo else if hi < i then hi else i

/-- The lowest value of an integer format. -/
def intLo (w : Nat) (sgn : Bool) : Int := if sgn then -((2 ^ (w - 1) : Nat) : Int) else 0
/-- The highest value of an integer format. -/
def intHi (w : Nat) (sgn : Bool) : Int := if sgn then ((2 ^ (w - 1) : Nat) : Int) - 1 else ((2 ^ w : Nat) : Int) - 1

/-- The low `w` bits of an integer. -/
def intCode (w : Nat) (i : Int) : Nat := (i % (2 ^ w : Nat)).toNat

/-- Round a number to an integer in the instruction's mode; RSTO rounds as RNE (R227). -/
def ExtNum.toInt (rm : Rm) : ExtNum → Option Int
  | .fin neg m e =>
    let t := roundTo (if rm = .rsto then .rne else rm) 0 neg m e 0
    some (if neg then -(t : Int) else t)
  | .zero _ => some 0
  | _ => none

/-- Convert a number to an integer format: round, then saturate; NaN gives 0 (R229). -/
def encodeInt (w : Nat) (sgn : Bool) (rm : Rm) (x : ExtNum) : Nat :=
  match x with
  | .nan => 0
  | .inf neg => intCode w (if neg then intLo w sgn else intHi w sgn)
  | x => intCode w (clampInt (intLo w sgn) (intHi w sgn) ((x.toInt rm).getD 0))

/-- Convert a number to a format (R226-R229). -/
def encodeNum (f : Nat) (rm : Rm) (sat : Bool) (draw : BitVec 32) (x : ExtNum) : Nat :=
  match ffmt f with
  | some ff => ff.encode rm sat draw x
  | none =>
    match ifmt f with
    | some (w, sgn) => encodeInt w sgn rm x
    | none => 0

/-- Conversions to the narrow formats saturate while %fpm.NSAT is 0 (R228). -/
def satFor (f : Nat) (sat : Bool) (fpm : BitVec 4) : Bool := sat || (4 ≤ f && f ≤ 8 && !fpm.getLsbD 3)

/-! ### Exact arithmetic -/

/-- The value with the other sign. -/
def ExtNum.negate : ExtNum → ExtNum
  | .nan => .nan
  | .inf n => .inf !n
  | .zero n => .zero !n
  | .fin n m e => .fin (!n) m e

/-- The magnitude. -/
def ExtNum.absolute : ExtNum → ExtNum
  | .nan => .nan
  | .inf _ => .inf false
  | .zero _ => .zero false
  | .fin _ m e => .fin false m e

/-- The signed magnitude of a finite number in units of 2^q, for q at most its exponent. -/
def ExtNum.scaled (q : Int) : ExtNum → Int
  | .fin neg m e => (if neg then -1 else 1) * (m * 2 ^ (e - q).toNat : Nat)
  | _ => 0

/-- A number from an integer multiple of 2^q; an exact zero takes the given sign. -/
def ExtNum.ofScaled (zneg : Bool) (i : Int) (q : Int) : ExtNum := if i = 0 then .zero zneg else .fin (i < 0) i.natAbs q

/-- The exact sum. An exact zero of unlike signs is -0 under RDN and +0 otherwise (IEEE 754). -/
def ExtNum.add (rm : Rm) (a b : ExtNum) : ExtNum :=
  match a, b with
  | .nan, _ => .nan
  | _, .nan => .nan
  | .inf x, .inf y => if x = y then .inf x else .nan
  | .inf x, _ => .inf x
  | _, .inf y => .inf y
  | .zero x, .zero y => .zero (if x = y then x else rm = .rdn)
  | .zero _, y => y
  | x, .zero _ => x
  | .fin n m e, .fin n' m' e' =>
    let q := min e e'
    ExtNum.ofScaled (rm = .rdn) ((ExtNum.fin n m e).scaled q + (ExtNum.fin n' m' e').scaled q) q

/-- The exact product. -/
def ExtNum.mul (a b : ExtNum) : ExtNum :=
  match a, b with
  | .nan, _ => .nan
  | _, .nan => .nan
  | .inf _, .zero _ => .nan
  | .zero _, .inf _ => .nan
  | .inf x, .inf y => .inf (x != y)
  | .inf x, .fin y _ _ => .inf (x != y)
  | .fin x _ _, .inf y => .inf (x != y)
  | .zero x, .zero y => .zero (x != y)
  | .zero x, .fin y _ _ => .zero (x != y)
  | .fin x _ _, .zero y => .zero (x != y)
  | .fin x m e, .fin y m' e' => .fin (x != y) (m * m') (e + e')

/-- The exact fused product and sum a · b + c. -/
def ExtNum.fma (rm : Rm) (a b c : ExtNum) : ExtNum := ExtNum.add rm (ExtNum.mul a b) c

/-- The integer square root by halving a bit range: `k` bits are still to be decided, `r` is the root so far. -/
def sqrtBits (n : Nat) : Nat → Nat → Nat
  | 0, r => r
  | k + 1, r => if (r + 2 ^ k) * (r + 2 ^ k) ≤ n then sqrtBits n k (r + 2 ^ k) else sqrtBits n k r

/-- The integer square root. -/
def isqrt (n : Nat) : Nat := sqrtBits n (n.log2 / 2 + 1) 0

/-- A quotient or root with a sticky bit below it: twice the value, plus 1 when a remainder is left. -/
def sticky (v : Nat) (rest : Bool) : Nat := 2 * v + (if rest then 1 else 0)

/-- The quotient to 128 bits and a sticky bit, which round as the exact quotient does. -/
def ExtNum.div (a b : ExtNum) : ExtNum :=
  match a, b with
  | .nan, _ => .nan
  | _, .nan => .nan
  | .inf _, .inf _ => .nan
  | .zero _, .zero _ => .nan
  | .inf x, .zero y => .inf (x != y)
  | .inf x, .fin y _ _ => .inf (x != y)
  | .zero x, .inf y => .zero (x != y)
  | .fin x _ _, .inf y => .zero (x != y)
  | .zero x, .fin y _ _ => .zero (x != y)
  | .fin x _ _, .zero y => .inf (x != y)
  | .fin x m e, .fin y m' e' =>
    let k := 128 + m'.log2
    .fin (x != y) (sticky (m * 2 ^ k / m') (m * 2 ^ k % m' ≠ 0)) (e - e' - k - 1)

/-- The square root to at least 128 bits and a sticky bit. -/
def ExtNum.sqrt (a : ExtNum) : ExtNum :=
  match a with
  | .nan => .nan
  | .zero x => .zero x
  | .inf x => if x then .nan else .inf false
  | .fin true _ _ => .nan
  | .fin false m e =>
    let k : Nat := 256 + (if e % 2 = 0 then 0 else 1)
    let n := m * 2 ^ k
    let r := isqrt n
    .fin false (sticky r (r * r ≠ n)) ((e - k) / 2 - 1)

/-- The order of two numbers, none when either is NaN; -0 equals +0. -/
def ExtNum.cmp (a b : ExtNum) : Option Ordering :=
  match a, b with
  | .nan, _ => none
  | _, .nan => none
  | .inf x, .inf y => some (compare (if x then (-1 : Int) else 1) (if y then -1 else 1))
  | .inf x, _ => some (if x then .lt else .gt)
  | _, .inf y => some (if y then .gt else .lt)
  | .fin n m e, .fin n' m' e' =>
    let q := min e e'
    some (compare ((ExtNum.fin n m e).scaled q) ((ExtNum.fin n' m' e').scaled q))
  | .fin n _ _, .zero _ => some (if n then .lt else .gt)
  | .zero _, .fin n _ _ => some (if n then .gt else .lt)
  | .zero _, .zero _ => some .eq

/-- -0 lies below +0 for MIN and MAX (R229). -/
def ExtNum.below (a b : ExtNum) : Bool :=
  match a, b with
  | .zero x, .zero y => x && !y
  | a, b => a.cmp b = some .lt

/-- MIN or MAX: the operand that is no NaN when exactly one is (R229). -/
def ExtNum.pick (isMax : Bool) (a b : ExtNum) : ExtNum :=
  match a, b with
  | .nan, b => b
  | a, .nan => a
  | a, b => if (ExtNum.below a b) != isMax then a else b

/-- The exact sum of products of a group: NaN, infinite or exact; an exact zero is -0 only when every product is -0
(R247). -/
def sumGroup (xs : List ExtNum) : ExtNum :=
  match xs with
  | [] => .zero false
  | x :: xs => xs.foldl (ExtNum.add .rne) x

/-! ### Elements in a bit stream -/

/-- Element `k` of width `w` of a byte string (R224). -/
def elemAt (bs : List Byte) (w k : Nat) : Nat :=
  leNat ((bs.drop (k * w / 8)).take ((k * w % 8 + w + 7) / 8)) / 2 ^ (k * w % 8) % 2 ^ w

/-- The first `n` elements of width `w` of a byte string. -/
def elems (bs : List Byte) (w n : Nat) : List Nat := (List.range n).map (elemAt bs w)

/-- The number whose bit stream is the elements, the first lowest (R224). -/
def packNat (w : Nat) : List Nat → Nat
  | [] => 0
  | x :: xs => x % 2 ^ w + 2 ^ w * packNat w xs

/-- The bytes of a list of elements, padded with zero bits to `len` bytes. -/
def packBytes (w len : Nat) (xs : List Nat) : List Byte := leBytes len (packNat w xs)

/-- The value of a scale code (R225). -/
def decodeScale (sfmt c : Nat) : ExtNum :=
  match sfmt with
  | 1 => if c % 256 = 255 then .nan else .fin false 1 ((c % 256 : Nat) - 127)
  | 2 => decodeNum 2 c
  | 3 => decodeNum 1 c
  | _ => .fin false 1 0

/-- The bytes of one scale entry (R230). -/
def scaleSize (sfmt : Nat) : Nat :=
  match sfmt with
  | 1 => 1 | 2 => 2 | 3 => 4 | _ => 0

end Sys2Proof.Machine
end

