-- ==== Sys2Proof/Machine/Memory.lean ====
section
/-! DEFINITION. Global memory at its homes: lines and their keys (R222), check values and poison (R68-R71), word
registration (R208-R211), pools (R212-R217) and move slots (R219, R220). -/

namespace Sys2Proof.Machine

/-- The size of installed DRAM: 2,048 vaults of 256 MiB (R206). -/
def dramSize : Nat := 2 ^ 39
/-- Words of one core or home in a table's key. -/
def wordSpan : Nat := 2 ^ 43

/-- Add a record to those on their way to a fault or supervisor queue (R121). -/
def State.addFault (s : State) (r : FaultRec) : State := { s with sc := { s.sc with faults := s.sc.faults ++ [r] } }

/-- The record of a dropped write or a poisoned beat (R60, R70, R121). -/
def dropRec (hold rgn cause : Nat) (addr : Word) : FaultRec := ⟨hold, false, 0, 4, cause, true, 0, rgn, addr, 0⟩

/-- An access waits for no half any more. -/
def State.unwait (s : State) (who : Option Req) : State :=
  if s.hi.waits.any fun w => some w.who = who then { s with hi := { s.hi with waits := s.hi.waits.filter fun w => some w.who ≠ who } } else s

/-- A request is given up: it waits nowhere and keeps no token. -/
def State.forget (s : State) (r : Req) : State :=
  { (s.unwait (some r)) with hd := { s.hd with tokenQ := s.hd.tokenQ.filter fun q => q.who ≠ r, grants := s.hd.grants.filter fun q => q.who ≠ r } }

/-! ### Vaults (R103, R206) -/

/-- The vault of a physical address: vault v lies under the cluster of slice index v. -/
def vaultOf (pa : Nat) : Nat := bits pa 38 28
/-- The channel of a physical address within its vault. -/
def channelOf (pa : Nat) : Nat := bits pa 8 7

/-- The holding that owns a channel of a vault: its plot covers the vault and its CHMASK names the channel. -/
def State.channelOwner (s : State) (v ch : Nat) : Option Nat :=
  (List.range Config.holdings).find? fun h => s.live h && bit (s.hword h 0x48) (28 + ch) && (s.hplot h).hasCluster v

/-- Entry `i` of a vault's rota, in the format of R38: the part rewrites the rota from the CHMASKs at every region operation, so
that it always says what they say. -/
def State.vaultEntry (s : State) (v i : Nat) : BitVec 8 :=
  match s.channelOwner v (i % 4) with
  | some h => BitVec.ofNat 8 (0x80 + h)
  | none => 0

/-- One 128-byte burst of a line for a holding: its vault serves it in the next slot of its rota that governs the line's channel and is open
or owned by the holding (R103, R206). -/
def State.burst (s : State) (line hold : Nat) : State :=
  let v := vaultOf (line * 128)
  let now := Tab.get 0 s.mm.vault v
  let may := fun (i : Nat) => decide ((now + i) % 4 = channelOf (line * 128)) &&
    (match entryOwner (s.vaultEntry v ((now + i) % 64)) with | some h => decide (h = hold) | none => true)
  let i := ((List.range 64).find? may).getD 0
  { s with mm := { s.mm with vault := Tab.set 0 s.mm.vault v ((now + i + 1) % 64) } }

/-! ### Lines in DRAM and their keys -/

/-- The material of a key slot; none when the slot is clear. -/
def State.keyMat (s : State) (k : Nat) : Option (BitVec 512) := Tab.get none s.hd.keys k

/-- A line reads as written when its material is the one it was written under, or when nothing has written it since the
scrub (R85, R222). -/
def State.keyFits (s : State) (key line : Nat) : Bool :=
  match Tab.get none s.mm.mat line with
  | none => true
  | some m => s.keyMat key = some m

/-- The 128 bytes of a line in its vault, decrypted under a key slot (R222). -/
def State.lineBytes (s : State) (key line : Nat) : List Byte :=
  let raw := Tab.bytes s.mm.dram (line * 128) 128
  match Tab.get none s.mm.mat line, s.keyMat key with
  | some m, some m' => if m = m' then raw else lineDec m' line (lineEnc m line raw)
  | _, _ => raw

/-- Beat `i` of a line in its vault fails its check value when it is decrypted under a key slot (R70, R71). -/
def State.lineBad (s : State) (key line i : Nat) : Bool :=
  Tab.get false s.mm.poison (line * 4 + i) ||
  (!s.keyFits key line &&
    beatCheck (((s.lineBytes key line).drop (32 * i)).take 32) ≠ beatCheck (Tab.bytes s.mm.dram (line * 128 + 32 * i) 32))

/-- The canonical form of a memory: addresses rise strictly, and no entry holds 0, which is what an unlisted address reads as. -/
abbrev Memory.wf (m : List Host.Cell) : Bool := Tab.wf 0 m

/-- A line goes to its vault, encrypted under a key slot, with the poison of its beats. -/
def State.vaultPut (s : State) (key line : Nat) (data : List Byte) (bad : List Bool) : State :=
  { s with mm := { s.mm with
      dram := Tab.setBytes s.mm.dram (line * 128) data
      mat := Tab.set none s.mm.mat line (s.keyMat key)
      poison := (List.range 4).foldl (fun (t : Tab Bool) i => Tab.set false t (line * 4 + i) (bad.getD i false)) s.mm.poison } }

/-! ### Lines in a slice (R206) -/

/-- Lines of one slice in the table's key. -/
def lineSpan : Nat := 2 ^ 32

/-- The line that a slice holds. -/
def State.l2 (s : State) (home line : Nat) : Option L2Line := Tab.get none s.mm.l2 (home * lineSpan + line)
/-- Replace the line that a slice holds. -/
def State.setL2 (s : State) (home line : Nat) (v : Option L2Line) : State :=
  { s with mm := { s.mm with l2 := Tab.set none s.mm.l2 (home * lineSpan + line) v } }

/-- A slice gives up a line; a modified one is written to its vault (R206). -/
def State.l2Evict (s : State) (home line : Nat) : State :=
  match s.l2 home line with
  | none => s
  | some v =>
    let s := s.setL2 home line none
    if v.mod then (s.burst line v.hold).vaultPut v.key line v.data v.bad else s

/-- Every line that a test names leaves its slice without write-back (R110, R464). -/
def State.l2Drop (s : State) (p : L2Line → Bool) : State :=
  { s with mm := { s.mm with l2 := s.mm.l2.filter fun (_, v) => match v with | some v => !p v | none => false } }

/-- Every line that a test names is written back and leaves its slice (R464). -/
def State.l2Flush (s : State) (p : L2Line → Bool) : State :=
  (s.mm.l2.filter fun (_, v) => match v with | some v => p v | none => false).foldl
    (fun (s : State) q => s.l2Evict (q.1 / lineSpan) (q.1 % lineSpan)) s

/-- Before a slice takes a line in, it may give up one that it holds; with 16,384 lines (2 MiB) it must (R206). -/
def State.l2Room (s : State) (home : Nat) : State :=
  let mine := (s.mm.l2.filter fun (k, _) => k / lineSpan = home).map fun (k, _) => k % lineSpan
  let n := mine.length
  if n = 0 then s
  else if n < 16384 then
    let (k, s) := s.choose (n + 1)
    if k = 0 then s else s.l2Evict home (mine.getD (k - 1) 0)
  else
    let (k, s) := s.choose n
    s.l2Evict home (mine.getD k 0)

/-- A line is in the slice of an access: a miss reads the vault (R206). A line that the slice holds under another KEY leaves it
first. -/
def State.l2In (s : State) (a : AtHome) (line : Nat) : State :=
  match s.l2 a.home line with
  | some v => if v.key = a.key then s else fill (s.l2Evict a.home line)
  | none => fill s
where
  /-- The miss. -/
  fill (s : State) : State :=
    let s := (s.l2Room a.home).burst line a.hold
    s.setL2 a.home line (some ⟨a.key, a.hold, false, s.lineBytes a.key line, (List.range 4).map (s.lineBad a.key line)⟩)

/-- `n` bytes inside a line as its home reads them. -/
def State.memBytes (s : State) (a : AtHome) (pa n : Nat) : List Byte :=
  match s.l2 a.home (pa / 128) with
  | some v => if v.key = a.key then (v.data.drop (pa % 128)).take n else ((s.lineBytes a.key (pa / 128)).drop (pa % 128)).take n
  | none => ((s.lineBytes a.key (pa / 128)).drop (pa % 128)).take n

/-- Some beat of a range of physical addresses has an uncorrectable error (R169). -/
def State.eccAny (s : State) (pa n : Nat) : Bool :=
  (List.range ((pa + n + 31) / 32 - pa / 32)).any fun i => Tab.get false s.mm.ecc (pa / 32 + i)

/-- The cause of an access to bytes that are not good: ECC for an uncorrectable error, else INTEG (R169, R170). -/
def State.badCode (s : State) (pa n : Nat) : Nat := if s.eccAny pa n then 0x70 else 0x71

/-- The beat at a physical address fails its check value as its home reads it (R70, R71), or has an uncorrectable error (R169). -/
def State.beatBad (s : State) (a : AtHome) (pa : Nat) : Bool :=
  s.eccAny pa 1 ||
  match s.l2 a.home (pa / 128) with
  | some v => if v.key = a.key then v.bad.getD (pa % 128 / 32) false else s.lineBad a.key (pa / 128) (pa % 128 / 32)
  | none => s.lineBad a.key (pa / 128) (pa % 128 / 32)

/-- Change a line that the home's slice holds; it is modified from now on. -/
def State.modL2 (s : State) (a : AtHome) (line : Nat) (f : L2Line → L2Line) : State :=
  let s := s.l2In a line
  match s.l2 a.home line with
  | some v => s.setL2 a.home line (some { f v with mod := true })
  | none => s

/-- Set or clear the poison of a beat at its home. -/
def State.setPoison (s : State) (a : AtHome) (pa : Nat) (b : Bool) : State :=
  s.modL2 a (pa / 128) fun v => { v with bad := v.bad.set (pa % 128 / 32) b }

/-- Each write performed at a home to an armed frame adds 1 to its version, saturating (R219, R220). -/
def State.bump (s : State) (pa : Nat) : State :=
  (List.range Config.holdings).foldl (fun s h =>
    if (s.hold h).moves = [] then s
    else s.modHold h fun v => { v with moves := v.moves.map fun (k, m) =>
      match m with
      | some m => if m.frame = pa / 65536 then (k, some { m with version := min (m.version + 1) 0xFFFFFFFF }) else (k, some m)
      | none => (k, none) }) s

/-- The frame of a physical address is armed (R220). -/
def State.armed (s : State) (pa : Nat) : Bool :=
  (List.range Config.holdings).any fun h => (s.hold h).moves.any fun (_, m) => (m.map (·.frame)) = some (pa / 65536)

/-- The words that bytes from a physical address touch. -/
def wordsOf (pa n : Nat) : List Nat := (List.range ((pa + n + 7) / 8 - pa / 8)).map (pa / 8 + ·)

/-- Who gave some words their values: a host write by its port and number, or any other writer (R62). -/
def State.writtenBy (s : State) (pa n : Nat) (by_ : Option (Nat × Nat)) : State :=
  { s with mm := { s.mm with byHost := (wordsOf pa n).foldl (fun (t : Tab (Option (Nat × Nat))) w => Tab.set none t w by_) s.mm.byHost } }

/-- Bytes put into a list of bytes at an offset. -/
def mergeWord (old : List Byte) (off : Nat) (data : List Byte) : List Byte :=
  old.take off ++ data ++ old.drop (off + data.length)

/-- A beat that is written whole has no error any more. -/
def State.eccClear (s : State) (pa : Nat) (full : Bool) : State :=
  if full then { s with mm := { s.mm with ecc := Tab.set false s.mm.ecc (pa / 32) false } } else s

/-- Write bytes inside one beat at the home. A part of a beat is merged only into a beat that passes its check: otherwise
the write is dropped, the beat is poisoned and the writing region gets a record. A full beat clears the poison (R70). -/
def State.memPut (s : State) (a : AtHome) (pa : Nat) (data : List Byte) : State :=
  let full : Bool := pa % 32 = 0 && data.length = 32
  let s := s.l2In a (pa / 128)
  if !full && s.beatBad a pa then
    ((s.setPoison a pa true).modFn a.hold fun f => { f with beatErr := f.beatErr + 1 }).addFault (dropRec a.hold a.rgn (s.badCode pa 1) a.addr)
  else
    (((s.bump pa).writtenBy pa data.length none).eccClear pa full).modL2 a (pa / 128) fun v =>
      { v with data := mergeWord v.data (pa % 128) data, bad := if full then v.bad.set (pa % 128 / 32) false else v.bad }

/-! ### Registration (R208-R211) -/

/-- The word of a core's L1. -/
def State.l1 (s : State) (core w : Nat) : Option L1Word := Tab.get none s.mm.l1 (core * wordSpan + w)
/-- Replace a word of a core's L1. -/
def State.setL1 (s : State) (core w : Nat) (v : Option L1Word) : State :=
  { s with mm := { s.mm with l1 := Tab.set none s.mm.l1 (core * wordSpan + w) v } }
/-- A core's L1 gives up an unregistered word. -/
def State.dropCopy (s : State) (core w : Nat) : State :=
  match s.l1 core w with
  | some l => if l.reg.isNone then s.setL1 core w none else s
  | none => s
/-- The state of a word at its home (R209). -/
def State.homeSt (s : State) (home w : Nat) : HomeSt := Tab.get .unreg s.mm.home (home * wordSpan + w)
/-- Replace the state of a word at its home; leaving REG takes the word off the slice's registrations (R210). -/
def State.setHome (s : State) (home w : Nat) (v : HomeSt) : State :=
  { s with mm := { s.mm with home := Tab.set .unreg s.mm.home (home * wordSpan + w) v,
                              regs := Tab.set [] s.mm.regs home ((Tab.get [] s.mm.regs home).filter (· ≠ w)) } }

/-- The home of a line by hash over a subset (R205). -/
def hashHome (p : Plot) (pa : Nat) : Nat :=
  let h := bits pa 17 7 ^^^ bits pa 28 18 ^^^ bits pa 39 29 ^^^ bits pa 45 40
  let w := (p.x1 + 1 - p.x0) / 2
  let n := (p.y1 + 1 - p.y0) / 2
  let i := h % (w * n)
  (p.y0 / 2 + i / w) * 64 + p.x0 / 2 + i % w

/-- The leaf as it stands at another address of its page: hashed lines have their own homes (R205). -/
def Leaf.at (l : Leaf) (pa : Nat) : Leaf :=
  match l.rect with
  | some p => { l with home := hashHome p pa }
  | none => l

/-- The home data of another address of the page. -/
def AtHome.at (a : AtHome) (pa : Nat) : AtHome :=
  match a.rect with
  | some p => { a with home := hashHome p pa }
  | none => a

/-- A core's L1 gives up a word: a registered one is written back to its home, where it is UNREG from now on (R209, R210). -/
def State.l1Evict (s : State) (core w : Nat) : State :=
  match s.l1 core w with
  | none => s
  | some l =>
    let s := s.setL1 core w none
    match l.reg with
    | none => s
    | some a =>
      if s.homeSt a.home w = .reg core then (s.memPut a (w * 8) (leBytes 8 l.val.toNat)).setHome a.home w .unreg else s

/-- Revoke the registrant of a word: it writes the word back and invalidates it (R209). -/
def State.revoke (s : State) (home w : Nat) : State :=
  match s.homeSt home w with
  | .reg c => (s.l1Evict c w).setHome home w .unreg
  | _ => s

/-- The result of a pool operation or atomic of `n` bytes on an old value (R378): functions 0-7 add, and, or, xor, min,
max, minu, maxu, 8 swap. -/
def atomInt (fn n : Nat) (a b : Nat) : Nat :=
  let m := 2 ^ (8 * n)
  match fn with
  | 0 => (a + b) % m
  | 1 => a &&& b % m
  | 2 => a ||| b % m
  | 3 => a ^^^ b % m
  | 4 => if sgnNat (8 * n) a ≤ sgnNat (8 * n) b then a % m else b % m
  | 5 => if sgnNat (8 * n) a ≤ sgnNat (8 * n) b then b % m else a % m
  | 6 => min (a % m) (b % m)
  | 7 => max (a % m) (b % m)
  | _ => b % m

/-- The pool entries of a core (R212). -/
def State.pools (s : State) (core : Nat) : List PoolEnt := Tab.get [] s.mm.pools core
/-- Replace the pool entries of a core. -/
def State.setPools (s : State) (core : Nat) (l : List PoolEnt) : State :=
  { s with mm := { s.mm with pools := Tab.set [] s.mm.pools core l } }

/-- The home data of a pool entry. -/
def PoolEnt.at_ (e : PoolEnt) : AtHome := ⟨e.home, none, e.key, e.hold, e.rgn, 0⟩

/-- Apply a pool entry of a core to the home value; a copy of the word in the core's L1 is out of date (R216). -/
def State.applyEnt (s : State) (core : Nat) (e : PoolEnt) : State :=
  let pa := e.word * 8 + e.off
  let s := (s.dropCopy core e.word).l2In e.at_ (pa / 128)
  let old := leNat (s.memBytes e.at_ pa e.size)
  s.memPut e.at_ pa (leBytes e.size (atomInt e.op e.size old e.val.toNat))

/-- A core's pool entries for a word at a home are applied and freed (R209, R216). -/
def State.pullCore (s : State) (home w core : Nat) : State :=
  let mine := fun (e : PoolEnt) => decide (e.word = w) && decide (e.home = home)
  (((s.forget (.pool core w)).pools core).filter mine |>.foldl (fun (s : State) e => s.applyEnt core e) (s.forget (.pool core w))).setPools core
    ((s.pools core).filter fun e => !mine e)

/-- A core's pool entries for a word at a home are merged, and the core is enlisted no more (R213, R370). -/
def State.mergeCore (s : State) (home w core : Nat) : State :=
  let s := s.pullCore home w core
  match s.homeSt home w with
  | .pool cs => s.setHome home w (if cs.filter (· ≠ core) = [] then .unreg else .pool (cs.filter (· ≠ core)))
  | _ => s

/-- The home pulls every pool entry of a word and applies them (R209, R216). -/
def State.pull (s : State) (home w : Nat) : State :=
  match s.homeSt home w with
  | .pool cs => (cs.foldl (fun (s : State) c => s.pullCore home w c) s).setHome home w .unreg
  | _ => s

/-- Revoke and pull: the word is UNREG and its value is at the home (R209, R218). -/
def State.settle (s : State) (home w : Nat) : State := (s.revoke home w).pull home w

/-- The words of a core's L1 (R208: 64 KiB). -/
def State.l1Count (s : State) (core : Nat) : Nat := (s.mm.l1.filter fun (k, _) => k / wordSpan = core).length

/-- Room for one more word in a core's L1: with 8,192 words held, one leaves (R208). -/
def State.l1Room (s : State) (core : Nat) : State :=
  let mine := (s.mm.l1.filter fun (k, _) => k / wordSpan = core).map fun (k, _) => k % wordSpan
  if mine.length < 8192 then s
  else
    let (k, s) := s.choose mine.length
    s.l1Evict core (mine.getD k 0)

/-- A copy of a word with the host write that has given the word its value (R62). -/
def State.copyOf (s : State) (w : Nat) (v : List Byte) : L1Word := ⟨none, BitVec.ofNat 64 (leNat v), Tab.get none s.mm.byHost w⟩

/-- A value that a home has returned may be left valid in the reader's L1 (R258), where there is room (R208); a copy that is there
takes the new value. A registered word stays. -/
def State.keepCopy (s : State) (core w : Nat) (v : List Byte) (keep : Bool) : State :=
  match s.l1 core w with
  | some l =>
    if l.reg.isSome then s
    else s.setL1 core w (if keep then some (s.copyOf w v) else none)
  | none =>
    if !keep then s
    else
      let (k, s) := s.choose 2
      if k = 1 && s.l1Count core < 8192 then s.setL1 core w (some (s.copyOf w v)) else s

/-- The value of a word at its home: pool entries are pulled, a registrant forwards its value (R209). -/
def State.homeWord (s : State) (a : AtHome) (w : Nat) : List Byte × State :=
  let s := s.pull a.home w
  match s.homeSt a.home w with
  | .reg c => ((s.l1 c w).elim (s.memBytes a (w * 8) 8) fun l => leBytes 8 l.val.toNat, s)
  | _ =>
    let s := s.l2In a (w / 16)
    (s.memBytes a (w * 8) 8, s)

/-- The word at its home is poisoned: no registrant holds it and its beat fails its check. -/
def State.wordBad (s : State) (a : AtHome) (w : Nat) : Bool :=
  (match s.homeSt a.home w with | .reg _ => false | _ => true) && s.beatBad a (w * 8)

/-- A load of one word performed at the home (R209): the bytes that the home or the registrant holds. -/
def State.homeLoad (s : State) (a : AtHome) (core w : Nat) (keep : Bool) : List Byte × State :=
  let (v, s) := s.homeWord a w
  if s.homeSt a.home w = .reg core then (v, s) else (v, s.keepCopy core w v (keep && !s.wordBad a w))

/-- Register a word to a core, in whose L1 there is room (R208); a slice that holds 32,768 registrations first revokes its oldest
(R210). -/
def State.register (s : State) (a : AtHome) (core w : Nat) (val : Word) : State :=
  let s := match Tab.get [] s.mm.regs a.home with
    | old :: l => if l.length + 1 < 32768 then s else s.revoke a.home old
    | [] => s
  let s := (s.l1Evict core w).l1Room core
  let s := (s.setHome a.home w (.reg core)).setL1 core w (some ⟨some a, val, none⟩)
  { s with mm := { s.mm with regs := Tab.set [] s.mm.regs a.home (Tab.get [] s.mm.regs a.home ++ [w]) } }

/-- A store of bytes inside one beat, performed at the home (R209). `core` is the storing core when its L1 may register
the words: pages of KIND 00 or 10 that are not armed (R208, R220). A registrant's own store stays in its L1. -/
def State.homeStore (s : State) (a : AtHome) (core : Option Nat) (pa : Nat) (data : List Byte) : State :=
  let ws := wordsOf pa data.length
  let own : Option L1Word := match core with
    | some d => if ws = [pa / 8] && s.homeSt a.home (pa / 8) = HomeSt.reg d then s.l1 d (pa / 8) else none
    | none => none
  match core, own with
  | some d, some l =>
    s.setL1 d (pa / 8) (some { l with val := BitVec.ofNat 64 (leNat (mergeWord (leBytes 8 l.val.toNat) (pa % 8) data)) })
  | _, _ =>
    let s := (ws.foldl (fun (s : State) w => s.settle a.home w) s).memPut a pa data
    match core with
    | none => s
    | some d =>
      if s.beatBad a pa || s.armed pa then ws.foldl (fun (s : State) w => s.dropCopy d w) s
      else ws.foldl (fun (s : State) w => s.register a d w (BitVec.ofNat 64 (leNat (s.memBytes a (w * 8) 8)))) s

/-- A read-modify-write of bytes at the home in one step (R218), for a core whose copies of the words are out of date: the old
bytes, and the state after `f` of them is written; nothing is written when the old bytes are poisoned (R486) or `f` gives none. -/
def State.homeRmw (s : State) (a : AtHome) (core : Option Nat) (pa n : Nat) (f : List Byte → Option (List Byte)) :
    List Byte × Bool × State :=
  let ws := wordsOf pa n
  let s := ws.foldl (fun (s : State) w => s.settle a.home w) s
  let s := match core with
    | some d => ws.foldl (fun (s : State) w => s.dropCopy d w) s
    | none => s
  let s := s.l2In a (pa / 128)
  let old := s.memBytes a pa n
  if s.beatBad a pa then (old, true, s)
  else
    match f old with
    | some d => (old, false, s.memPut a pa d)
    | none => (old, false, s)

/-! ### Words that the part itself reads and writes by physical address -/

/-- Where a word that is named by its physical address alone stands: at the home at which it is registered or pooled, or whose
slice holds its line; none when only its vault holds it. -/
def State.rawHome (s : State) (w : Nat) : Option AtHome :=
  let held := match s.mm.home.find? fun (k, _) => k % wordSpan = w with
    | some (_, .reg c) => (s.l1 c w).bind (·.reg)
    | some (k, .pool cs) => (cs.findSome? fun c => (s.pools c).find? fun (e : PoolEnt) => e.word = w && e.home = k / wordSpan).map PoolEnt.at_
    | _ => none
  match held with
  | some a => some a
  | none =>
    match s.mm.l2.find? fun (k, _) => k % lineSpan = w / 16 with
    | some (k, some v) => some ⟨k / lineSpan, none, v.key, v.hold, 0, 0⟩
    | _ => none

/-- The current value of a word, wherever it stands, and the state after the pulls that this takes. -/
def State.rawGet (s : State) (pa : Nat) : Word × State :=
  match s.rawHome (pa / 8) with
  | some a => let (v, s) := s.homeWord a (pa / 8); (BitVec.ofNat 64 (leNat v), s)
  | none => (BitVec.ofNat 64 (leNat (Tab.bytes s.mm.dram (pa / 8 * 8) 8)), s)

/-- The current value of a word. -/
def State.rawWord (s : State) (pa : Nat) : Word := (s.rawGet pa).1

/-- Write a word by physical address where it stands, for a region of a holding, as a write performed at a home: a registrant loses it, pool
entries are pulled, the version of an armed frame counts it, and a bad beat refuses it, is poisoned, and is recorded for that region (R70,
R209, R220). -/
def State.rawPut (s : State) (hold rgn pa : Nat) (v : Word) : State :=
  let w := pa / 8
  match s.rawHome w with
  | some a => (s.settle a.home w).memPut { a with hold := hold, rgn := rgn } (w * 8) (leBytes 8 v.toNat)
  | none =>
    if Tab.get false s.mm.poison (pa / 32) || s.eccAny pa 1 then
      (({ s with mm := { s.mm with poison := Tab.set false s.mm.poison (pa / 32) true } }).modFn hold fun f =>
        { f with beatErr := f.beatErr + 1 }).addFault (dropRec hold rgn (s.badCode pa 1) 0)
    else
      let s := s.bump pa
      { s with mm := { s.mm with dram := Tab.setBytes s.mm.dram (w * 8) (leBytes 8 v.toNat) } }

end Sys2Proof.Machine
end

