-- ==== Sys2Proof/Machine/Slices.lean ====
section
/-! DEFINITION. What an access meets at a slice: L2 tokens (R101, R102), and the host's state of HDM-DB halves (R54-R58). -/

namespace Sys2Proof.Machine

/-! ### L2 tokens (R101, R102) -/

/-- The key of a holding at a slice port. -/
def tokKey (slice hold : Nat) : Nat := slice * 64 + hold
/-- Tokens per window (word 0x48). -/
def State.trate (s : State) (h : Nat) : Nat := if s.live h then bits (s.hword h 0x48) 24 16 else 0
/-- Bucket depth (word 0x48). -/
def State.tdepth (s : State) (h : Nat) : Nat := bits (s.hword h 0x48) 47 32

/-- Take one token of a holding at a slice: from its bucket, else on loan from the pool (R101). -/
def State.token (s : State) (slice hold : Nat) : Option State :=
  let k := tokKey slice hold
  let b := Tab.get 0 s.hd.bucket k
  let l := Tab.get 0 s.hd.loan k
  let p := Tab.get 0 s.hd.pool slice
  if 0 < b then some { s with hd := { s.hd with bucket := Tab.set 0 s.hd.bucket k (b - 1) } }
  else if l < s.tdepth hold / 2 && 0 < p then
    some { s with hd := { s.hd with loan := Tab.set 0 s.hd.loan k (l + 1), pool := Tab.set 0 s.hd.pool slice (p - 1) } }
  else none

/-- A request joins its holding's queue at a slice port (R101). -/
def State.queueToken (s : State) (q : TokenReq) : State :=
  if s.hd.tokenQ.contains q then s else { s with hd := { s.hd with tokenQ := s.hd.tokenQ ++ [q] } }

/-- A request that has its token and is not yet performed keeps it. -/
def State.keepToken (s : State) (q : TokenReq) : State := { s with hd := { s.hd with grants := s.hd.grants ++ [q] } }

/-- A request enters a slice with its token, or waits in its holding's queue at the port, behind those that came before it
(R101). -/
def State.takeToken (s : State) (slice hold : Nat) (who : Req) : Bool × State :=
  let q : TokenReq := ⟨slice, hold, who⟩
  if s.hd.grants.contains q then (true, { s with hd := { s.hd with grants := s.hd.grants.erase q } })
  else if s.hd.tokenQ.any fun x => x.slice = slice && x.hold = hold then (false, s.queueToken q)
  else
    match s.token slice hold with
    | some s => (true, s)
    | none => (false, s.queueToken q)

/-! ### HDM-DB halves (R54-R58) -/

/-- The address lies in the active HDM-DB region (R54). -/
def State.inHdm (s : State) (pa : Nat) : Bool :=
  let v := s.hi.hdm.toNat
  bit v 0 && bits v 47 30 * 2 ^ 28 ≤ pa && pa < (bits v 47 30 + bits v 29 18) * 2 ^ 28

/-- The host's state of a half: 0 I, 1 S, 2 M (R55). -/
def State.halfSt (s : State) (h : Nat) : Nat := Tab.get 0 s.hi.half h
/-- Set the host's state of a half. -/
def State.setHalf (s : State) (h v : Nat) : State := { s with hi := { s.hi with half := Tab.set 0 s.hi.half h v } }

/-- The halves that bytes touch, half 0 of a line first (R58). -/
def halvesOf (pa n : Nat) : List Nat := (List.range ((pa + n + 63) / 64 - pa / 64)).map (pa / 64 + ·)

/-- A snoop of the half is outstanding. -/
def State.snooping (s : State) (half : Nat) : Bool := s.hi.snoops.any fun b => b.half = half

/-- An access that came to the half before waits for it (R55). -/
def State.ahead (s : State) (who : Option Req) (half : Nat) : Bool :=
  (s.hi.waits.takeWhile fun w => !(some w.who = who && w.half = half)).any fun w => w.half = half

/-- An access waits for a half, in order of arrival (R55). -/
def State.waitHalf (s : State) (who : Option Req) (half hold rgn : Nat) : State :=
  match who with
  | none => s
  | some r =>
    if s.hi.waits.any fun w => w.who = r && w.half = half then s
    else { s with hi := { s.hi with waits := s.hi.waits ++ [(⟨half, hold, rgn, r⟩ : HdmWait)] } }

/-- A device access of bytes in the region is resolved against the host's state: it may go, or it waits, with a snoop sent
for the first half that needs one (R55, R56, R58). An access that comes back from its wait is resolved again, half by half, so that
nothing comes between its resolutions and its performance. -/
def State.hdmGate (s : State) (who : Option Req) (pa n : Nat) (write : Bool) (hold rgn : Nat) : Bool × State :=
  if !s.inHdm pa then (true, s)
  else
    match (halvesOf pa n).find? fun h => s.ahead who h || s.snooping h || (if write then 1 ≤ s.halfSt h else s.halfSt h = 2) with
    | none => (true, s.unwait who)
    | some h =>
      let waits : Bool := s.ahead who h || s.snooping h || decide (256 ≤ s.hi.snoops.length)
      let s := s.waitHalf who h hold rgn
      if waits then (false, s)
      else (false, ({ s with hi := { s.hi with snoops := s.hi.snoops ++ [(⟨h, write, false, rgn, hold, write⟩ : Bisnp)] } }).send (.bisnp h write))

/-- A request enters a slice with its token, and waits at the home, with the token, while the host's state of its halves does not
allow it (R56, R101). -/
def State.enter (s : State) (who : Req) (slice pa n : Nat) (write : Bool) (hold rgn : Nat) : Bool × State :=
  match s.takeToken slice hold who with
  | (false, s) => (false, s)
  | (true, s) =>
    match s.hdmGate (some who) pa n write hold rgn with
    | (true, s) => (true, s)
    | (false, s) => (false, s.keepToken ⟨slice, hold, who⟩)

/-- Something more waits, or a snoop has gone out, than before. -/
def State.stirred (s t : State) : Bool :=
  s.hi.waits.length ≠ t.hi.waits.length || s.hi.snoops.length ≠ t.hi.snoops.length || s.hd.tokenQ.length ≠ t.hd.tokenQ.length ||
  s.hd.grants.length ≠ t.hd.grants.length

/-! ### Reads at a home by others than threads -/

/-- Bytes at their home: the bytes, their poison (R71), and the state after the pulls. -/
def State.homeBytes (s : State) (a : AtHome) (pa n : Nat) : List Byte × Bool × State :=
  let (bs, bad, s) := (wordsOf pa n).foldl (fun (p : List Byte × Bool × State) w =>
    let a := a.at (8 * w)
    let (v, s) := p.2.2.homeWord a w
    (p.1 ++ v, p.2.1 || s.wordBad a w, s)) ([], false, s)
  ((bs.drop (pa % 8)).take n, bad, s)

end Sys2Proof.Machine
end

