-- ==== Sys2Proof/Machine/Walk.lean ====
section
/-! DEFINITION. The address translation (R196-R207), with the host's state of the halves in which its entries stand (R56), and the
lines that root names by physical address (R484). -/

namespace Sys2Proof.Machine

/-! ### Translation (R196-R207) -/

/-- The rights that an access needs (R195). -/
structure Need where
  r : Bool := false
  w : Bool := false
  x : Bool := false
  a : Bool := false
  soft : Bool := false
deriving DecidableEq, Repr

/-- The access sets D in the leaf: it needs W, and is no compare-and-swap that has not compared yet (R201, R379). -/
def Need.dirties (n : Need) : Bool := n.w && !n.soft

/-- Why a translation gives no target: a page that is not resident, a failed check, or an entry that still waits for the host's state of its
half (R56). -/
inductive TrErr where
  | nonres | perm | waits
deriving DecidableEq, Repr

/-- Who asks for a translation: the access that waits, its holding and region. -/
structure Asker where
  who  : Req
  hold : Nat
  rgn  : Nat
deriving DecidableEq, Repr

/-- Bits of the MVA that index a level (R197). -/
def levelShift : Nat → Nat
  | 3 => 46 | 2 => 36 | 1 => 26 | _ => 16

/-- The entry of a level's table for an MVA. -/
def levelIdx (l mva : Nat) : Nat := if l = 3 then bits mva 56 46 else mva / 2 ^ levelShift l % 1024

/-- Walk from a level's table: the level and address of the leaf and its bits, or the failure (R197, R198, R200). The
list gathers the table pointers passed. -/
def State.walkFrom (s : State) (mva : Nat) : Nat → Nat → Nat → Except TrErr (Nat × Nat × Word)
  | 0, _, _ => .error .perm
  | n + 1, l, tbl =>
    let at_ := tbl + 8 * levelIdx l mva
    let e := s.rawWord at_
    let v := e.toNat
    if !bit v 0 then .error .nonres
    else if bits v 4 1 ≠ 0 then (if l = 3 then .error .perm else .ok (l, at_, e))
    else if l = 0 || bits v 63 46 ≠ 0 || bits v 12 1 ≠ 0 then .error .perm
    else
      let next := bits v 45 13 * 8192
      if dramSize ≤ next then .error .perm else s.walkFrom mva n (l - 1) next

/-- The addresses of the entries that a walk from a level's table reads. -/
def State.walkPath (s : State) (mva : Nat) : Nat → Nat → Nat → List Nat
  | 0, _, _ => []
  | n + 1, l, tbl =>
    let at_ := tbl + 8 * levelIdx l mva
    let v := (s.rawWord at_).toNat
    let next := bits v 45 13 * 8192
    at_ :: (if bit v 0 && bits v 4 1 = 0 && l ≠ 0 && bits v 63 46 = 0 && bits v 12 1 = 0 && next < dramSize then s.walkPath mva n (l - 1) next else [])

/-- Words that the part reads by physical address: each is resolved against the host's state of its half (R56), and pool entries for it
are pulled (R209). -/
def State.gateWords (s : State) (q : Asker) : List Nat → Bool × State
  | [] => (true, s)
  | pa :: l =>
    match s.hdmGate (some q.who) pa 8 false q.hold q.rgn with
    | (true, s) => (s.rawGet pa).2.gateWords q l
    | (false, s) => (false, s)

/-- The entries that a walk for an MVA from a level's table reads may be read (R56, R209). -/
def State.walkReady (s : State) (q : Asker) (mva n l tbl : Nat) : Bool × State := s.gateWords q (s.walkPath mva n l tbl)

/-- The entries of a holding's whole walk for an MVA may be read. -/
def State.rootReady (s : State) (q : Asker) (mva : Nat) : Bool × State := s.walkReady q mva 4 3 (s.hword q.hold 0x40)

/-- A subset register's plot: 0 stands for the holding's plot; none when it is invalid (R204). -/
def State.subset (s : State) (hold i : Nat) : Option Plot :=
  let v := (Tab.get 0 (s.fn hold).subset i).toNat
  if v = 0 then some (s.hplot hold)
  else if (s.fn hold).subBad.getLsbD i then none
  else
    let p := plotOf v
    if bits v 63 30 = 0 && !bit v 23 && bits v 15 14 = 0 && !bit v 7 && p.aligned && p.inside (s.hplot hold) then some p else none

/-- A key slot lies in the holding's range (R97, R100). -/
def State.keyOwned (s : State) (hold key : Nat) : Bool :=
  let v := s.hword hold 0x48
  bits v 7 0 ≤ key && key ≤ bits v 7 0 + bits v 15 8

/-- The checks of a leaf entry, in R200's order. -/
def State.leafOk (s : State) (hold l mva : Nat) (need : Need) (e : Word) : Bool :=
  let v := e.toNat
  let frame := bits v 63 34
  let pa := frame * 65536 + mva % 2 ^ levelShift l
  bits v 33 32 = 0 && bits v 6 5 ≠ 3 && frame % 2 ^ (levelShift l - 16) = 0 &&
  (if bits v 29 28 = 0 then bits v 8 7 ≠ 3 && pa < dramSize else bits v 8 7 = 3) &&
  (!need.r || bit v 1) && (!need.w || bit v 2) && (!need.x || bit v 3) && (!need.a || bit v 4) &&
  (bits v 29 28 ≠ 0 ||
    (s.keyOwned hold (bits v 27 20) && (s.keyMat (bits v 27 20)).isSome &&
      (bits v 8 7 ≠ 0 || (s.subset hold (bits v 12 9)).isSome)))

/-- The target that a leaf gives (R199, R203). -/
def State.leafTgt (s : State) (hold l mva : Nat) (e : Word) : Tgt :=
  let v := e.toNat
  let pa := bits v 63 34 * 65536 + mva % 2 ^ levelShift l
  let rect := if bits v 8 7 = 0 then some ((s.subset hold (bits v 12 9)).getD ⟨0, 0, 1, 1⟩) else none
  let leaf := Leaf.at ⟨bits v 29 28, bits v 6 5, bits v 27 20, bits v 19 9, rect⟩ pa
  if bits v 29 28 = 0 then .dev pa leaf else .host pa leaf

/-- The tag under which a port holds an entry: the MVA above the level's page. -/
def tlbTag (l mva : Nat) : Nat := mva / 2 ^ levelShift l

/-- The translations that a port holds (R202). -/
def State.tlb (s : State) (k : Nat) : List TlbEnt := Tab.get [] s.mm.tlb k

/-- Walk once every entry on the way may be read. -/
def State.walkNow (s : State) (q : Asker) (mva n l tbl : Nat) : Except TrErr (Nat × Nat × Word) × State :=
  match s.walkReady q mva n l tbl with
  | (false, s) => (.error .waits, s)
  | (true, s) => (s.walkFrom mva n l tbl, s)

/-- Find the leaf for an MVA: by a walk, or from an entry that the port holds (R202); the port may keep the leaf. -/
def State.findLeaf (s : State) (q : Asker) (k mva : Nat) : Except TrErr (Nat × Nat × Word) × State :=
  let held := (s.tlb k).filter fun t => t.hold = q.hold && t.tag = tlbTag t.level mva
  let (i, s) := s.choose (held.length + 1)
  match if i = 0 then none else held[i - 1]? with
  | some t =>
    if bits t.entry.toNat 4 1 ≠ 0 then (.ok (t.level, t.pa, t.entry), s)
    else s.walkNow q mva t.level (t.level - 1) (bits t.entry.toNat 45 13 * 8192)
  | none =>
    match s.walkNow q mva 4 3 (s.hword q.hold 0x40) with
    | (.ok (l, at_, e), s) =>
      let (keep, s) := s.choose 2
      if keep = 1 then
        (.ok (l, at_, e), { s with mm := { s.mm with tlb := Tab.set [] s.mm.tlb k (⟨q.hold, l, tlbTag l mva, e, at_⟩ :: s.tlb k) } })
      else (.ok (l, at_, e), s)
    | (.error x, s) => (.error x, s)

/-- Drop every held translation of a holding that the test names, in every port (R202, R465). -/
def State.tlbDrop (s : State) (p : TlbEnt → Bool) : State :=
  { s with mm := { s.mm with tlb := (s.mm.tlb.map fun (k, l) => (k, l.filter fun t => !p t)).filter fun (_, l) => l ≠ [] } }

/-- The leaf after the part has resolved a first touch and set D, by a swap at the entry's home (R201). -/
def leafTouched (k : Nat) (write : Bool) (e : Word) : Word :=
  let v := e.toNat
  let e := if bits v 8 7 = 2 && bits v 29 28 = 0 && !bit v 30 then
    (e &&& ~~~(BitVec.ofNat 64 (0x7FF * 2 ^ 9))) ||| BitVec.ofNat 64 (k % 2048 * 2 ^ 9) ||| BitVec.ofNat 64 (2 ^ 30) else e
  if write then e ||| BitVec.ofNat 64 (2 ^ 31) else e

/-- The cluster at whose port the part's accesses for a holding are made: the corner of its plot. -/
def State.corner (s : State) (h : Nat) : Nat := clusterOf (coreAt (s.hplot h).x0 (s.hplot h).y0)

/-- The key of the port of an I/O die among the memory ports (R47). -/
def ioPort (p : Nat) : Nat := 2048 + p

/-- The slice index that a first touch through a port writes (R201). For an access through a port of an I/O die, which has no slice,
it is the corner of the holding's plot: DESIGN CHOICE, log entry 54. -/
def State.touchAt (s : State) (hold k : Nat) : Nat := if k < 2048 then k else s.corner hold

/-- A leaf is used: checked, resolved and marked dirty by a swap at the entry's home, which succeeds once the host's state of the entry's
half allows the write (R56, R200, R201). A first touch removes stale copies in every port (R202). -/
def State.useLeaf (s : State) (q : Asker) (k mva : Nat) (need : Need) (l at_ : Nat) (e : Word) : Except TrErr Tgt × State :=
  if !s.leafOk q.hold l mva need e then (.error .perm, s)
  else
    let e' := leafTouched (s.touchAt q.hold k) need.dirties e
    if e' = e then (.ok (s.leafTgt q.hold l mva e), s)
    else
      match s.hdmGate (some q.who) at_ 8 true q.hold q.rgn with
      | (false, s) => (.error .waits, s)
      | (true, s) =>
        let s := s.rawPut q.hold q.rgn at_ e'
        let s := if bit e.toNat 30 = bit e'.toNat 30 then s else s.tlbDrop fun t => t.pa = at_
        (.ok (s.leafTgt q.hold l mva e'), s)

/-- The translation of an MVA for an access at a port (R200, R201). When the swap fails because the entry has changed, the port walks
again and uses the entry that it finds. -/
def State.translate (s : State) (q : Asker) (k mva : Nat) (need : Need) : Except TrErr Tgt × State :=
  match s.findLeaf q k mva with
  | (.error x, s) => (.error x, s)
  | (.ok (l, at_, e), s) =>
    if s.leafOk q.hold l mva need e && decide (leafTouched (s.touchAt q.hold k) need.dirties e ≠ e) && decide (s.rawWord at_ ≠ e) then
      (match s.walkNow q mva 4 3 (s.hword q.hold 0x40) with
       | (.error x, s) => (.error x, s)
       | (.ok (l, at_, e), s) => s.useLeaf q k mva need l at_ e)
    else s.useLeaf q k mva need l at_ e

/-! ### Lines that root names by physical address (R484) -/

/-- Entries of a table that some byte, line or word of memory makes non-zero. -/
def State.listedIn (s : State) (tbl n : Nat) : List Nat :=
  let hits := fun (a : Nat) => tbl ≤ a && a < tbl + 8 * n
  ((s.mm.dram.map fun ((k, _) : Nat × Byte) => k) ++ (s.mm.l2.flatMap fun ((k, _) : Nat × Option L2Line) => (List.range 16).map fun i => k % lineSpan * 128 + 8 * i) ++
    s.mm.home.map fun ((k, _) : Nat × HomeSt) => k % wordSpan * 8).filterMap (fun a => if hits a then some ((a - tbl) / 8) else none) |>.eraseDups

/-- A leaf below a level's table that maps a device physical address: its level, the MVA and its bits. -/
def State.leafFor (s : State) (pa : Nat) : Nat → Nat → Nat → Nat → Option (Nat × Nat × Word)
  | 0, _, _, _ => none
  | n + 1, l, tbl, base => (s.listedIn tbl (if l = 3 then 2048 else 1024)).findSome? fun i =>
    let e := s.rawWord (tbl + 8 * i)
    let v := e.toNat
    let mva := base + i * 2 ^ levelShift l
    let frame := bits v 63 34 * 65536
    if !bit v 0 then none
    else if bits v 4 1 ≠ 0 then
      (if l ≠ 3 && bits v 29 28 = 0 && frame ≤ pa && pa < frame + 2 ^ levelShift l then some (l, mva + (pa - frame), e) else none)
    else if bits v 63 46 ≠ 0 then none
    else s.leafFor pa n (l - 1) (bits v 45 13 * 8192) mva

/-- The home that holding 0's translation gives a physical address. -/
def State.rootHome (s : State) (pa : Nat) : Option AtHome :=
  match s.leafFor pa 4 3 (s.hword 0 0x40) 0 with
  | some (l, mva, e) =>
    if s.leafOk 0 l mva { r := true } e then
      (match s.leafTgt 0 l mva e with
       | .dev _ leaf => some ⟨leaf.home, none, leaf.key, 0, 0, BitVec.ofNat 64 mva⟩
       | _ => none)
    else none
  | none => none

/-- A word that root names by physical address: at its home, or, where holding 0 does not map it, at the slice above its vault
(R484). -/
def State.rootWord (s : State) (pa : Nat) : Word :=
  let at_ := match s.rootHome pa with
    | some a => some a
    | none => (s.rawHome (pa / 8)).bind fun a => if a.home = vaultOf pa then some a else none
  match at_ with
  | some a => BitVec.ofNat 64 (leNat (s.homeWord a (pa / 8)).1)
  | none => BitVec.ofNat 64 (leNat (Tab.bytes s.mm.dram (pa / 8 * 8) 8))

/-- A word that the part writes into a holding's block for a region, where root's reads find it (R482, R484). -/
def State.rootPut (s : State) (hold rgn pa : Nat) (v : Word) : State :=
  match s.rootHome pa with
  | some a => (s.settle a.home (pa / 8)).memPut { a with hold := hold, rgn := rgn } (pa / 8 * 8) (leBytes 8 v.toNat)
  | none => s.rawPut hold rgn pa v

/-- The target of a translated address. -/
def Tgt.leaf? : Tgt → Option Leaf
  | .dev _ l => some l
  | .host _ l => some l
  | .bank _ _ _ => none

/-- The page kind of a target (R262); a bank counts as KIND 00. -/
def Tgt.kind (t : Tgt) : Nat := (t.leaf?.map (·.kind)).getD 0

end Sys2Proof.Machine
end

