-- ==== Sys2Proof/Machine/Bank.lean ====
section
/-! DEFINITION. The scratchpad of a core: the local window (R172, R173), tags and action tables (R174-R184), full/empty
lines (R185), check values of beats (R70, R71), barrier objects' bytes, and the wakes of parked accesses (R183). -/

namespace Sys2Proof.Machine

/-- The access kinds of R176 by their numbers. -/
def kLD : Nat := 0
def kST : Nat := 1
def kAT : Nat := 2
def kVR : Nat := 3
def kVW : Nat := 4
def kEW : Nat := 5
def kER : Nat := 6

/-- The size of a holding's local window (R172). -/
def State.winSize (s : State) (hold : Nat) : Nat := 16384 * popc (s.hbanks hold) 32

/-- The physical offset of a window offset: the owned bank of its rank (R172). -/
def State.winPhys (s : State) (hold off : Nat) : Nat :=
  (bitOfRank (s.hbanks hold) 32 0 (off / 16384)).getD 0 * 16384 + off % 16384

/-- The window offset of a physical offset in an owned bank; none where the holding does not own the bank (R173). -/
def State.physWin (s : State) (hold phys : Nat) : Option Nat :=
  let b := phys / 16384
  if bit (s.hbanks hold) b then some (popc (s.hbanks hold) b * 16384 + phys % 16384) else none

/-- The key of a scratchpad byte. -/
def spadKey (core phys : Nat) : Nat := core * 2 ^ 19 + phys

/-- Bytes of the window of a holding in a core. -/
def State.winBytes (s : State) (core hold off n : Nat) : List Byte :=
  (List.range n).map fun i => Tab.get 0 s.co.spad (spadKey core (s.winPhys hold (off + i)))

/-- The beat at a window offset has an uncorrectable error (R169). -/
def State.winEcc (s : State) (core hold off : Nat) : Bool := Tab.get false s.co.ecc (spadKey core (s.winPhys hold off) / 32)

/-- The beat at a window offset is poisoned (R71), or has an uncorrectable error (R169). -/
def State.winBad (s : State) (core hold off : Nat) : Bool :=
  s.winEcc core hold off || Tab.get false s.co.poison (spadKey core (s.winPhys hold off) / 32)

/-- The cause of an access to a bad beat of the window: ECC, or INTEG (R169, R170). -/
def State.winCode (s : State) (core hold off : Nat) : Nat := if s.winEcc core hold off then 0x70 else 0x71

/-- Some beat of a range of the window is poisoned. -/
def State.winBadAny (s : State) (core hold off n : Nat) : Bool :=
  (List.range ((off + n + 31) / 32 - off / 32)).any fun i => s.winBad core hold ((off / 32 + i) * 32)

/-- Write plain bytes of the window, without any check. -/
def State.winPut (s : State) (core hold off : Nat) (data : List Byte) : State :=
  { s with co := { s.co with spad :=
      ((List.range data.length).foldl (fun t i => Tab.set 0 t (spadKey core (s.winPhys hold (off + i))) (data.getD i 0)) s.co.spad) } }

/-- Set or clear the poison of the beat at a window offset. -/
def State.winPoison (s : State) (core hold off : Nat) (b : Bool) : State :=
  { s with co := { s.co with poison := Tab.set false s.co.poison (spadKey core (s.winPhys hold off) / 32) b } }

/-- A beat of the window that is written whole has no error any more. -/
def State.winFixed (s : State) (core hold off : Nat) : State :=
  { s with co := { s.co with ecc := Tab.set false s.co.ecc (spadKey core (s.winPhys hold off) / 32) false } }

/-- Write bytes inside one beat of the window (R70). -/
def State.winBeat (s : State) (core hold off : Nat) (data : List Byte) (rgn : Nat) (addr : Word) : State :=
  let full := off % 32 = 0 && data.length = 32
  if !full && s.winBad core hold off then
    ((s.winPoison core hold off true).modFn hold fun f => { f with beatErr := f.beatErr + 1 }).addFault (dropRec hold rgn (s.winCode core hold off) addr)
  else
    let s := s.winPut core hold off data
    if full then (s.winPoison core hold off false).winFixed core hold off else s

/-- Write bytes of the window beat by beat; `fuel` bounds the beats. -/
def State.winWrite (s : State) (core hold : Nat) (rgn : Nat) (addr : Word) : Nat → Nat → List Byte → State
  | 0, _, _ => s
  | n + 1, off, data =>
    if data = [] then s
    else
      let k := 32 - off % 32
      (s.winBeat core hold off (data.take k) rgn addr).winWrite core hold rgn addr n (off + k) (data.drop k)

/-! ### Tags and tables -/

/-- The key of a word's tag. -/
def tagKey (core physWord : Nat) : Nat := core * 65536 + physWord

/-- The tag of the word at a window word index. -/
def State.tagAt (s : State) (core hold w : Nat) : BitVec 4 := Tab.get 0 s.co.tag (tagKey core (s.winPhys hold (8 * w) / 8))

/-- The full/empty bit of the line at a window offset (R185). -/
def State.feAt (s : State) (core hold off : Nat) : Bool := Tab.get false s.co.fe (core * 4096 + s.winPhys hold off / 128)

/-- The tag region that covers a window word: the lowest-numbered active one (R175). -/
def State.tagRgn (s : State) (core hold w : Nat) : Option Nat :=
  ((List.range 4).map fun i => (Tab.get 0 (s.hcAt core hold).tagrgn i).toNat).find? fun v =>
    bit v 63 && bits v 15 0 ≤ w && w ≤ bits v 31 16

/-- The active bank of a table. -/
def HoldCore.bank (h : HoldCore) (t : Nat) : Nat := if Tab.get false h.bank1 t then 1 else 0

/-- The entry that an access of a kind meets at a window word; 0 is RETURN (R175, R176). -/
def State.entryAt (s : State) (core hold kind w : Nat) : Nat :=
  match s.tagRgn core hold w with
  | none => 0
  | some v =>
    let h := s.hcAt core hold
    let t := bits v 61 60
    (Tab.get 0 h.table (t * 256 + h.bank t * 128 + 16 * kind + (s.tagAt core hold w).toNat)).toNat

/-- The word's region asks for full/empty checking (R175). -/
def State.feOn (s : State) (core hold w : Nat) : Bool :=
  match s.tagRgn core hold w with
  | none => false
  | some v => bit v 62

/-- The action of an entry (R176). -/
def actOf (e : Nat) : Nat := bits e 15 13

/-- What the lookup of a unit answers (R182). -/
inductive UnitAns where
  | wait (full : Bool)
  | trap (sub w : Nat)
  | redirMany (w : Nat)
  | redirect (w : Nat)
  | go (acts : List (Nat × Nat))
deriving DecidableEq, Repr

/-- Look up every word of a unit (R182, R185). `follows` says that a REDIRECT may be followed; engines never do. -/
def State.unitLook (s : State) (core hold kind : Nat) (ws : List Nat) : UnitAns :=
  if (kind = kLD || kind = kVR) && ws.any fun w => s.feOn core hold w && !s.feAt core hold (8 * w) then .wait true
  else
    let acts := ws.map fun w => (w, s.entryAt core hold kind w)
    if acts.any fun (_, e) => actOf e = 2 then .wait false
    else
      match acts.find? fun (_, e) => actOf e = 4 || 6 ≤ actOf e || (actOf e = 3 && ws.length ≠ 1) with
      | some (w, e) =>
        if actOf e = 3 then .redirMany w else .trap (if actOf e = 4 then bits e 8 0 else 0x1FF) w
      | none =>
        match acts with
        | [(w, e)] => if actOf e = 3 then .redirect w else .go acts
        | _ => .go acts

/-- The words of a window range. -/
def winWords (off n : Nat) : List Nat := (List.range ((off + n + 7) / 8 - off / 8)).map (off / 8 + ·)

/-- Mark the parked accesses of a core that the test names as woken (R183). -/
def State.wakeIf (s : State) (core : Nat) (p : Slot → Park → Bool) : State :=
  s.upto 16 fun s k =>
    match (s.slotAt core k).park with
    | some pk => if p (s.slotAt core k) pk then s.modSlotAt core k fun v => { v with park := some { pk with woken := true } } else s
    | none => s

/-- A tag changes, which wakes the accesses parked on the word (R183). -/
def State.setTag (s : State) (core hold w : Nat) (t : BitVec 4) : State :=
  let pw := s.winPhys hold (8 * w) / 8
  let s := { s with co := { s.co with tag := Tab.set 0 s.co.tag (tagKey core pw) t } }
  s.wakeIf core fun _ pk => pk.words.contains pw

/-- A line's full/empty bit is set, which wakes the accesses that wait for it, or cleared (R183, R185). -/
def State.setFe (s : State) (core hold off : Nat) (b : Bool) : State :=
  let line := s.winPhys hold off / 128
  let s := { s with co := { s.co with fe := Tab.set false s.co.fe (core * 4096 + line) b } }
  if b then s.wakeIf core fun _ pk => pk.full && pk.words.any fun pw => pw / 16 = line else s

/-- The retags of a unit that acts (R177, R182). -/
def State.retag (s : State) (core hold : Nat) (acts : List (Nat × Nat)) : State :=
  acts.foldl (fun s (w, e) => if actOf e = 1 then s.setTag core hold w (BitVec.ofNat 4 (bits e 12 9)) else s) s

/-- The word is dropped (R177). -/
def dropped (acts : List (Nat × Nat)) (w : Nat) : Bool := acts.any fun (x, e) => x = w && actOf e = 5

/-- The bytes that a unit reads: a dropped word reads 0 (R177). -/
def State.unitRead (s : State) (core hold off n : Nat) (acts : List (Nat × Nat)) : List Byte :=
  (List.range n).map fun i =>
    if dropped acts ((off + i) / 8) then 0 else Tab.get 0 s.co.spad (spadKey core (s.winPhys hold (off + i)))

/-- Some beat that the unit reads, dropped words apart, is poisoned (R71). -/
def State.unitBad (s : State) (core hold : Nat) (acts : List (Nat × Nat)) : Bool :=
  acts.any fun (w, e) => actOf e ≠ 5 && s.winBad core hold (8 * w)

/-- The cause of an access whose unit meets a bad beat: ECC when one of them has an uncorrectable error, else INTEG (R169, R170). -/
def State.unitCode (s : State) (core hold : Nat) (acts : List (Nat × Nat)) : Nat :=
  if acts.any fun (w, e) => actOf e ≠ 5 && s.winEcc core hold (8 * w) then 0x70 else 0x71

/-- The unit's bytes by word: the offset and bytes of each maximal run inside one word. -/
def splitWords : Nat → Nat → List Byte → List (Nat × List Byte)
  | 0, _, _ => []
  | n + 1, off, data =>
    if data = [] then []
    else
      let k := 8 - off % 8
      (off, data.take k) :: splitWords n (off + k) (data.drop k)

/-- Write a unit's bytes, leaving out dropped words; a unit without dropped words is written beat by beat (R70, R177). -/
def State.unitWrite (s : State) (core hold off : Nat) (data : List Byte) (acts : List (Nat × Nat)) (rgn : Nat) (addr : Word) : State :=
  if acts.any fun (_, e) => actOf e = 5 then
    (splitWords (data.length + 1) off data).foldl (fun s (o, d) =>
      if dropped acts (o / 8) then s else s.winBeat core hold o d rgn addr) s
  else s.winWrite core hold rgn addr (data.length + 1) off data

/-! ### The direct window (R173, R196) -/

/-- Where a checked pointer leads: a window offset of the holding in a core, or an MVA to translate. -/
inductive Spot where
  | win (core off : Nat)
  | mva (a : Nat)
deriving DecidableEq, Repr

/-- An MVA of the direct scratchpad window (R173, R196); `n` is the access's size. -/
def State.direct (s : State) (hold mva n : Nat) : Except Nat Spot :=
  let core := coreAt (bits mva 51 45) (bits mva 44 39)
  let o := bits mva 18 0
  if o % 16384 + n > 16384 then .error 0x12
  else if bits mva 38 19 ≠ 0 || !(s.hplot hold).covers core then .error 0x16
  else
    match s.physWin hold o with
    | some w => .ok (.win core w)
    | none => .error 0x16

/-- An MVA as a spot. -/
def State.spotOf (s : State) (hold mva n : Nat) : Except Nat Spot :=
  if bits mva 56 52 = 0x1F then s.direct hold mva n else .ok (.mva mva)

end Sys2Proof.Machine
end

