-- ==== Sys2Proof/Machine/Part.lean ====
section
/-! DEFINITION. The part's own accesses to a holding's memory (R487), page requests (R50), region blocks and their
inheritance (R117-R120), context frames (R129, R130) and counters (R119). -/

namespace Sys2Proof.Machine

/-! ### Reads of the part -/

/-- The home data of a device target. -/
def atHome (leaf : Leaf) (hold rgn : Nat) (addr : Word) : AtHome := ⟨leaf.home, leaf.rect, leaf.key, hold, rgn, addr⟩

/-- Bytes of a holding's memory inside one page as they stand at their home, under the key of its leaf (R222), or in the bank that the
direct window names (R196): none where no readable device page is resident. -/
def State.peekBytes (s : State) (hold mva n : Nat) : Option (List Byte) :=
  if bits mva 56 52 = 0x1F then
    (match s.direct hold mva n with
     | .ok (.win core off) => some (s.winBytes core hold off n)
     | _ => none)
  else
  match s.walkFrom mva 4 3 (s.hword hold 0x40) with
  | .error _ => none
  | .ok (l, _, e) =>
    if !s.leafOk hold l mva { r := true } e then none
    else
      match s.leafTgt hold l mva e with
      | .dev pa leaf => some (s.homeBytes (atHome leaf hold 0 (BitVec.ofNat 64 mva)) pa n).1
      | _ => none

/-- A word of a holding's memory as the part reads it. -/
def State.peek (s : State) (hold mva : Nat) : Option Word := (s.peekBytes hold (mva / 8 * 8) 8).map fun bs => BitVec.ofNat 64 (leNat bs)

/-- A word of a holding's memory, 0 where it cannot be read. -/
def State.peekN (s : State) (hold mva : Nat) : Nat := ((s.peek hold mva).getD 0).toNat

/-- The page of an MVA is resident for the holding; the direct window always is (R196). -/
def State.resident (s : State) (hold mva : Nat) : Bool :=
  bits mva 56 52 = 0x1F ||
  match s.walkFrom mva 4 3 (s.hword hold 0x40) with
  | .error .nonres => false
  | _ => true

/-! ### Page requests (R50) -/

/-- The holding's page requests go out over PRI (R46, R50). -/
def State.priOn (s : State) (h : Nat) : Bool := bit (s.fn h).hif.toNat 22 && (s.cfg (s.priPort h) h).pri && !(s.cfg (s.priPort h) h).priOff

/-- The holding can raise a request at all (R487). -/
def State.canRequest (s : State) (h : Nat) : Bool := s.priOn h || (s.fn h).supq ≠ 0

/-- The lowest index from `i` that no request of the function uses; 512 when all are in use. -/
def freeIndex (l : List PageReq) (fn : Nat) : Nat → Nat → Nat
  | 0, i => i
  | n + 1, i => if l.any fun r => r.fn = fn && r.idx = i then freeIndex l fn n (i + 1) else i

/-- The requests of a function that are outstanding. -/
def State.outs (s : State) (h : Nat) : Nat := (s.hi.pageReqs.filter fun r => r.fn = h && !r.quar).length

/-- A non-resident page is met: a page request over PRI, joined by later faults on the page, or a record in the
supervisor queue (R50), whose INFO is 0 (DESIGN CHOICE, log entry 90). -/
def State.raisePage (s : State) (h rgn mva : Nat) (write : Bool) (who : Waiter) (obj : Word) : State :=
  let page := mva / 65536
  if s.priOn h then
    if s.hi.pageReqs.any fun r => r.fn = h && r.page = page && !r.quar then
      { s with hi := { s.hi with pageReqs := s.hi.pageReqs.map fun r =>
          if r.fn = h && r.page = page && !r.quar then { r with joined := r.joined ++ [who] } else r } }
    else
      let i := freeIndex s.hi.pageReqs h 512 0
      if (s.cfg (s.priPort h) h).priMax ≤ s.outs h || 512 ≤ i then
        { s with hi := { s.hi with pageWait := s.hi.pageWait ++ [(⟨h, page, write, who⟩ : PageWait)] } }
      else
        ({ s with hi := { s.hi with pageReqs := s.hi.pageReqs ++ [(⟨h, i, page, write, [who], false⟩ : PageReq)] } }).send
          (.pageReq (s.priPort h) h i page { pasid := s.pasid h } write)
  else if (s.fn h).supq ≠ 0 then
    s.addFault ⟨h, true, (s.fn h).supq.toNat, 2, 0x15, write, 0, rgn, BitVec.ofNat 64 mva, obj⟩
  else s

/-! ### Writes of the part -/

/-- Write bytes beat by beat at their home as the part or an engine does: no L1 registers them. -/
def State.putBeats (s : State) (a : AtHome) : Nat → Nat → List Byte → State
  | 0, _, _ => s
  | n + 1, pa, data =>
    if data = [] then s
    else
      let k := 32 - pa % 32
      (s.homeStore (a.at pa) none pa (data.take k)).putBeats a n (pa + k) (data.drop k)

/-- Count a dropped part write (R487, R95). -/
def State.dropPart (s : State) (h : Nat) : State := s.modFn h fun f => { f with dropped := f.dropped + 1 }

/-- A part access waits (R487). -/
def State.partWait (s : State) (p : PartAcc) : State :=
  if s.sc.parts.any fun q => q.id = p.id then s else { s with sc := { s.sc with parts := s.sc.parts ++ [p] } }

/-- A part access no longer waits. -/
def State.partOver (s : State) (p : PartAcc) : State :=
  ({ s with sc := { s.sc with parts := s.sc.parts.filter fun q => q.id ≠ p.id } }).unwait (some (.part p.id))

/-- The bytes that an access of the part leaves where it found `old`. -/
def PartAcc.made (p : PartAcc) (old : List Byte) : List Byte :=
  match p.op with
  | .put => p.data
  | .add => leBytes 8 (leNat old + leNat p.data)
  | .bits m => leBytes 8 (leNat old - (leNat old &&& m) + leNat p.data)

/-- A part access where the direct window leads (R196): the bytes go into the bank. -/
def State.partBank (s : State) (p : PartAcc) (core off : Nat) : State :=
  let d := p.made (s.winBytes core p.hold off 8)
  p.bad.foldl (fun (s : State) i => s.winPoison core p.hold (off + 32 * i) true) (s.winWrite core p.hold p.rgn (BitVec.ofNat 64 p.mva) 9 off d)

/-- One attempt of a part access: performed, waiting for the host's copy of a half (R56) or with a page request, or dropped
(R487). -/
def State.partTry (s : State) (p : PartAcc) : State :=
  if bits p.mva 56 52 = 0x1F then
    (match s.direct p.hold p.mva p.data.length with
     | .ok (.win core off) => (s.partOver p).partBank p core off
     | _ => (s.partOver p).dropPart p.hold)
  else
  match s.translate ⟨.part p.id, p.hold, p.rgn⟩ (s.corner p.hold) p.mva { r := p.op = .add, w := true } with
  | (.error .waits, s) => s.partWait p
  | (.ok (.dev pa leaf), s) =>
    let n := p.data.length
    (match if n = 0 then (true, s) else s.hdmGate (some (.part p.id)) pa n true p.hold p.rgn with
     | (false, s) => s.partWait p
     | (true, s) =>
       let a := atHome leaf p.hold p.rgn (BitVec.ofNat 64 p.mva)
       let s := s.partOver p
       if p.op ≠ .put then (s.homeRmw a none pa 8 fun old => some (p.made old)).2.2
       else p.bad.foldl (fun (s : State) i => s.setPoison (a.at (pa + 32 * i)) (pa + 32 * i) true) (s.putBeats a 9 pa p.data))
  | (.error .nonres, s) =>
    if s.canRequest p.hold then (s.partWait p).raisePage p.hold p.rgn p.mva true (.part p.id) 0
    else (s.partOver p).dropPart p.hold
  | (_, s) => (s.partOver p).dropPart p.hold

/-- A part write of bytes inside one page. -/
def State.partWrite (s : State) (hold rgn mva : Nat) (data : List Byte) (bad : List Nat := []) : State :=
  let (i, s) := s.newId
  s.partTry ⟨i, hold, rgn, mva, data, .put, bad⟩

/-- A part write of one word. -/
def State.partWord (s : State) (hold rgn mva : Nat) (v : Nat) : State := s.partWrite hold rgn mva (leBytes 8 v)

/-- Bits `hi` to `lo` of a word are set to `new` by the part (R129, R117). -/
def State.partBits (s : State) (hold rgn mva hi lo new : Nat) : State :=
  let (i, s) := s.newId
  s.partTry ⟨i, hold, rgn, mva, leBytes 8 (new * 2 ^ lo), .bits ((2 ^ (hi + 1 - lo) - 1) * 2 ^ lo), []⟩

/-- A holding's page table entries for an MVA and bytes of its page may be read for `q`: the host holds no newer copy of a half of them
(R56), and pool entries for them are pulled (R209). -/
def State.partGate (s : State) (q : Asker) (mva n : Nat) : Bool × State :=
  if bits mva 56 52 = 0x1F then (true, s)
  else
    match s.rootReady q mva with
    | (false, s) => (false, s)
    | (true, s) =>
      match s.walkFrom mva 4 3 (s.hword q.hold 0x40) with
      | .ok (l, _, e) =>
        if s.leafOk q.hold l mva { r := true } e then
          (match s.leafTgt q.hold l mva e with
           | .dev pa leaf =>
             let k := min n (65536 - mva % 65536)
             (match s.hdmGate (some q.who) pa k false q.hold q.rgn with
              | (false, s) => (false, s)
              | (true, s) => (true, (wordsOf pa k).foldl (fun (s : State) w => s.pull (leaf.at (8 * w)).home w) s))
           | _ => (true, s))
        else (true, s)
      | .error _ => (true, s)

/-- The page of a frame is resident, so that the part may write or read `n` bytes there; otherwise the page is requested and the
step waits (R477, R487). -/
def State.frameReady (s : State) (hold rgn mva : Nat) (n : Nat := 256) : Bool × State :=
  if s.sc.parts.any fun p => p.hold = hold && p.mva / 65536 = mva / 65536 then (false, s)
  else
    match s.partGate ⟨.sched hold mva, hold, rgn⟩ mva n with
    | (false, s) => (false, s)
    | (true, s) =>
      if s.resident hold mva || !s.canRequest hold then (true, s)
      else (false, s.partWrite hold rgn mva [])

/-- The frame and the region block that the freeing of a thread writes can be reached; otherwise the step waits (R477, R487). -/
def State.exitReady (s : State) (hold rgn frame : Nat) : Bool × State :=
  match s.frameReady hold rgn frame with
  | (false, s) => (false, s)
  | (true, s) => s.frameReady hold rgn rgn

/-- A counter of a region block is incremented at its home (R119). -/
def State.count (s : State) (hold rgn off : Nat) : State :=
  let (i, s) := s.newId
  s.partTry ⟨i, hold, rgn, rgn + off, leBytes 8 1, .add, []⟩

/-! ### Region blocks (R117, R118) -/

/-- The blocks from a region up to the one below the holding; none where the chain breaks R117. -/
def State.chain (s : State) (hold : Nat) : Nat → Nat → Option (List Nat)
  | 0, _ => none
  | n + 1, rgn =>
    if rgn % 256 ≠ 0 || 2 ^ 57 ≤ rgn then none
    else
      match s.peek hold rgn, s.peek hold (rgn + 8) with
      | some w0, some w8 =>
        if bits w0.toNat 3 0 ≠ 3 || w8.toNat = 0 then none
        else if w8.toNat = 1 then some [rgn]
        else (s.chain hold n w8.toNat).map (rgn :: ·)
      | _, _ => none

/-- The chain of a region, empty where it is broken. -/
def State.chainOf (s : State) (hold rgn : Nat) : List Nat := (s.chain hold 15 rgn).getD []

/-- The first non-zero value of a field along the chain, and otherwise the holding's. -/
def State.inherit (s : State) (hold : Nat) (chain : List Nat) (off hi lo : Nat) (last : Nat) : Nat :=
  match (chain.map fun b => bits (s.peekN hold (b + off)) hi lo).find? (· ≠ 0) with
  | some v => v
  | none => last

/-- The effective value of a word of a region (R118). Words 0x18, 0x20, 0x58 and 0x88 inherit field by
field, without their reserved bits (R5), 0x28 and 0x30 together, 0x78 not from the holding, 0x50 its DRAIN. -/
def State.eff (s : State) (hold rgn off : Nat) : Nat :=
  let c := s.chainOf hold rgn
  let h := s.hword hold off
  let f := fun (hi lo : Nat) => s.inherit hold c off hi lo (bits h hi lo) * 2 ^ lo
  match off with
  | 0x00 => f 9 8 + f 7 4
  | 0x18 => f 63 32 + bits h 19 16 * 2 ^ 16 + f 15 0
  | 0x20 => f 31 28 + f 27 24 + f 23 20 + f 19 4 + f 3 0
  | 0x28 | 0x30 =>
    match c.find? fun b => s.peekN hold (b + 0x28) ≠ 0 || s.peekN hold (b + 0x30) ≠ 0 with
    | some b => s.peekN hold (b + off)
    | none => h
  | 0x50 => f 63 32 + bits h 31 0
  | 0x58 => f 55 52 + f 51 48 + f 47 32 + f 31 16 + f 15 0
  | 0x88 => f 56 12 + f 11 0
  | 0x78 => s.inherit hold c off 63 0 0
  | 0x40 | 0x48 | 0x98 => h
  | _ => f 63 0

/-- The slot numbers that the regions of the chain below the holding leave to a launch (R118): all where none sets them, so that
a slot that the holding gains later is used at once (R108). -/
def State.regionSlots (s : State) (hold rgn : Nat) : Nat := s.inherit hold (s.chainOf hold rgn) 0x18 15 0 0xFFFF

/-- The effective priority; a holding with 0 uses 8 (R117). -/
def State.effPrio (s : State) (hold rgn : Nat) : Nat :=
  let p := bits (s.eff hold rgn 0) 7 4
  if p = 0 then 8 else p

/-- New threads of the region roam (R117: 01 roaming, 10 and 11 pinned; 00 after inheritance is pinned). -/
def State.effRoam (s : State) (hold rgn : Nat) : Bool := bits (s.eff hold rgn 0) 9 8 = 1

/-- The effective plot (word 0x10). -/
def State.effPlot (s : State) (hold rgn : Nat) : Plot := plotOf (s.eff hold rgn 0x10)

/-- The effective drain allowance (word 0x50). -/
def State.effDrain (s : State) (hold rgn : Nat) : Nat := bits (s.eff hold rgn 0x50) 63 32

/-! ### Frames (R129, R130) -/

/-- The code of a frame status (R129). -/
def FST.code : FST → Nat
  | .run => 0 | .new => 1 | .mig => 2 | .page => 3 | .spill => 4 | .stop => 5 | .free => 6

/-- The state word of a frame (R129). -/
def stateWord (t : Thread) (st : FST) (uip : BitVec 2) : Nat :=
  t.uimask.toNat * 2 ^ 56 + t.fpm.toNat * 2 ^ 52 + st.code * 2 ^ 49 + (if t.bnd then 2 ^ 48 else 0) + uip.toNat * 2 ^ 41 +
  (if t.roam then 2 ^ 40 else 0) + (if t.xmig then 2 ^ 39 else 0) + t.repc % 128 * 2 ^ 32 + (t.pred ||| 0x80000000).toNat

/-- The frame's words: the migration packet and words 0xE0 to 0xF0 (R129). -/
def frameBytes (t : Thread) (st : FST) (uip : BitVec 2) (cause : Nat) (residual : Nat) : List Byte :=
  leBytes 8 t.pc.toNat ++ leBytes 8 (stateWord t st uip) ++
  (List.range 24).flatMap (fun i => leBytes 8 (Tab.get 0 t.g i).toNat) ++
  leBytes 8 t.rgn ++ leBytes 4 t.ctxid.toNat ++ leBytes 4 t.rng.toNat ++
  leBytes 8 cause ++ leBytes 8 t.bound.toNat ++ leBytes 8 residual

/-- The record of a frame. -/
def State.frame (s : State) (hold mva : Nat) : Option FrameRec := s.sc.frames.find? fun f => f.hold = hold && f.mva = mva

/-- Change the record of a frame. -/
def State.modFrame (s : State) (hold mva : Nat) (g : FrameRec → FrameRec) : State :=
  { s with sc := { s.sc with frames := s.sc.frames.map fun f => if f.hold = hold && f.mva = mva then g f else f } }

/-- Set the status of a frame, in its record and in its state word. -/
def State.setFst (s : State) (hold mva rgn : Nat) (st : FST) : State :=
  let s := s.modFrame hold mva fun f => { f with st := st }
  s.partBits hold rgn (mva + 8) 51 49 st.code

/-- Release a frame: status FREE, and no reservation (R124, R130). -/
def State.freeFrame (s : State) (hold mva rgn : Nat) : State :=
  let s := s.setFst hold mva rgn .free
  { s with sc := { s.sc with frames := s.sc.frames.filter fun f => !(f.hold = hold && f.mva = mva),
                             disp := s.sc.disp.filter fun f => !(f.hold = hold && f.mva = mva),
                             stile := s.sc.stile.filter fun f => !(f.hold = hold && f.mva = mva),
                             resume := s.sc.resume.filter fun f => !(f.hold = hold && f.mva = mva),
                             search := s.sc.search.filter fun f => !(f.hold = hold && f.mva = mva) } }

/-- One sprig of a launch is no longer alive (R124). -/
def State.sprigGone (s : State) (launch : Nat) : State :=
  { s with sc := { s.sc with launches := s.sc.launches.map fun l => if l.id = launch then { l with alive := l.alive - 1 } else l } }

/-- The thread that a frame's bytes and record name, as admission loads it (R126). The words of a frame that cannot be read
are free values (R487). -/
def State.frameThread (s : State) (f : FrameRec) : Thread :=
  let w := fun off => (s.peek f.hold (f.mva + off)).getD (Config.freeWord (s.ctl.free + off))
  let st := (w 8).toNat
  { pc := w 0, pred := BitVec.ofNat 32 st ||| 0x80000000,
    g := (List.range 24).foldl (fun t i => Tab.set 0 t i (w (0x10 + 8 * i))) [],
    roam := bit st 40, bnd := bit st 48, bound := if bit st 48 then w 0xE8 else 0, repc := bits st 38 32,
    rng := (w 0xD8).extractLsb' 32 32, fpm := BitVec.ofNat 4 (bits st 55 52), uimask := BitVec.ofNat 8 (bits st 63 56),
    hold := f.hold, rgn := (w 0xD0).toNat, frame := f.mva, ctxid := (w 0xD8).extractLsb' 0 32, tile := f.tile, grid := f.grid,
    root := f.root, launch := f.launch }

end Sys2Proof.Machine
end

