-- ==== Sys2Proof/Machine/Outside.lean ====
section
/-! DEFINITION. Requests that leave the part: host ports (R46, R48, R49), the host-line cache (R64, R65), Kryas links to peers
(R32-R34, R63). -/

namespace Sys2Proof.Machine

/-! ### Stores performed -/

/-- %drained: the largest number up to which every store is performed (R255). -/
def Slot.redrain (v : Slot) : Slot :=
  { v with drained := match v.stores with
      | [] => v.issued
      | o :: l => (l.foldl (fun m x => min m x.num) o.num) - 1 }

/-- One part of a store is performed (R255). -/
def State.storeDone (s : State) (core slot num : Nat) : State :=
  s.modSlotAt core slot fun v =>
    Slot.redrain { v with stores := (v.stores.map fun o => if o.num = num then { o with left := o.left - 1 } else o).filter fun o => o.left ≠ 0 }

/-- A store to a peer has left its link, or has been dropped: it is performed, and strongly ordered accesses and releases are counted
down (R255, R262, R264). -/
def State.noteDone (s : State) (n : Note) : State :=
  let s := s.modSlotAt n.core n.slot fun v =>
    { v with strong := if n.strong then v.strong - 1 else v.strong, rels := if n.rel then v.rels - 1 else v.rels }
  match n.store with
  | some k => s.storeDone n.core n.slot k
  | none => s

/-! ### Host ports -/

/-- The bytes that an operation covers. -/
def PqOp.size : PqOp → Nat
  | .rd n => n
  | .hd n => n
  | .bits m _ => m.length
  | .wr d => d.length
  | .atom _ n _ => n
  | .cas n _ _ => n
  | .cas2 .. => 16
  | .wbk => 128
  | .feget | .feset | .feclr => 1
  | _ => 8

/-- The translation cache entry that a request of a function to a host address uses while ATS is enabled (R49). Entries cover 4 KiB: DESIGN CHOICE, log entry 57. -/
def State.atcUse (s : State) (port fn addr : Nat) : Option AtcEnt :=
  let e : AtcEnt := ⟨port, fn, s.pasid fn, addr / 4096⟩
  if (s.cfg port fn).ats && s.hi.atc.contains e then some e else none

/-- The prefix and header of a function's request to a host address (R48, R49). -/
def State.pfx (s : State) (port fn addr : Nat) : Pfx := ⟨s.pasid fn, (s.atcUse port fn addr).isSome⟩

/-- A port has a tag for one more non-posted request: tags have 14 bits (R36). -/
def State.tagFree (s : State) (port : Nat) : Bool := (s.hi.reqs.filter fun r => r.port = port).length < 16384

/-- Room for one more message of a holding in its buffer of 16 before a host port (R41). -/
def State.portRoom (s : State) (port hold : Nat) : Bool :=
  (s.hi.out.filter fun m => m.msg.port = port && m.msg.hold = hold).length < 16

/-- A non-posted request is outstanding from now on. -/
def State.newReq (s : State) (port fn : Nat) (p : Purpose) (used : Option AtcEnt := none) : Nat × State :=
  let (i, s) := s.newId
  (i, { s with hi := { s.hi with reqs := s.hi.reqs ++ [(⟨i, port, fn, p, used⟩ : HostReq)] } })

/-- A request to a host page is in the address translation cache, or a Translation Request goes out beside it (R49); with every tag in
use there is none to send it with. One translation covers 4 KiB: DESIGN CHOICE, log entry 57. -/
def State.ats (s : State) (port fn addr : Nat) : State :=
  let page := addr / 4096
  if !(s.cfg port fn).ats || (s.atcUse port fn addr).isSome || !s.tagFree port then s
  else
    let (i, s) := s.newReq port fn (.translate port fn page)
    s.send (.transReq i port fn page { pasid := s.pasid fn })

/-- A posted write to the host. -/
def State.hostPut (s : State) (port fn addr : Nat) (data : List Byte) (poison : Bool) (note : Option Note := none)
    (from_ : Option Sender := none) : State :=
  (s.ats port fn addr).send (.write port fn addr (s.pfx port fn addr) data poison) note from_

/-- A read of host memory. -/
def State.hostGet (s : State) (port fn addr n : Nat) (p : Purpose) : State :=
  let x := s.pfx port fn addr
  let (i, s) := (s.ats port fn addr).newReq port fn p (s.atcUse port fn addr)
  s.send (.readReq i port fn addr n x)

/-! ### The host-line cache (R64, R65) -/

/-- CXL.cache and CXL.mem run over port A while it is up in CXL mode (R16, R36). -/
def State.cxlUp (s : State) : Bool := s.hi.upA.isSome && s.pw.strapCxl

/-- A line of the host-line cache. -/
def State.hline (s : State) (l : Nat) : HostLine := Tab.get {} s.hi.hlc l
/-- Replace a line of the host-line cache. -/
def State.setHline (s : State) (l : Nat) (v : HostLine) : State := { s with hi := { s.hi with hlc := Tab.set {} s.hi.hlc l v } }

/-- The line can serve a read, or a write when `own` (R64: S, E, M; E, M). -/
def HostLine.serves (v : HostLine) (own : Bool) : Bool := if own then 2 ≤ v.st else 1 ≤ v.st

/-- Make room for one line: with 131,072 lines held, one leaves, and a modified one is written to the host. -/
def State.hlcRoom (s : State) : State :=
  if s.hi.hlc.length < 131072 then s
  else
    let (k, s) := s.choose s.hi.hlc.length
    match s.hi.hlc[k]? with
    | some (l, v) => (if v.st = 3 then s.send (.lineWrite l v.data v.bad) else s).setHline l {}
    | none => s

/-- A request for a line is outstanding. -/
def State.lineAsked (s : State) (l : Nat) : Bool :=
  s.hi.reqs.any fun r => match r.purpose with
    | .line _ e _ => (match e.tgt with | .host a _ => a / 64 = l | _ => false)
    | .engLine m _ => m = l
    | _ => false

/-- Ask the host for a line, unless a request for it is outstanding: a line has one request at a time. It waits while port A runs no
CXL.cache (R36; DEDUCED, log entry 38). -/
def State.askLine (s : State) (l : Nat) (own : Bool) (p : Purpose) : State :=
  if s.lineAsked l || !s.tagFree 0 || !s.cxlUp then s
  else
    let (i, s) := s.newReq 0 0 p
    s.send (.lineReq i l own)

/-- Bytes of a line that the cache holds. -/
def State.hlcBytes (s : State) (addr n : Nat) : List Byte := ((s.hline (addr / 64)).data.drop (addr % 64)).take n

/-- Write bytes inside a line that the cache owns. -/
def State.hlcPut (s : State) (addr : Nat) (data : List Byte) : State :=
  let v := s.hline (addr / 64)
  s.setHline (addr / 64) { st := 3, data := v.data.take (addr % 64) ++ data ++ v.data.drop (addr % 64 + data.length)
                           bad := v.bad && data.length ≠ 64 }

/-! ### Peers (R32-R34) -/

/-- The link carries new flits. -/
def LState.up (l : LState) : Bool := l = .up8 || l = .up4

/-- The up links of a peer's route mask, ascending (R33). -/
def State.upLinks (s : State) (peer : Nat) : List Nat :=
  (List.range 48).filter fun l => (Tab.get 0 s.net.masks peer).getLsbD l && (s.link l).st.up

/-- G of R33: the six 6-bit groups of a peer address, combined by exclusive or. -/
def routeHash (a : Nat) : Nat :=
  bits a 12 7 ^^^ bits a 18 13 ^^^ bits a 24 19 ^^^ bits a 30 25 ^^^ bits a 36 31 ^^^ bits a 39 37

/-- Queue a message on a link (R27, R28). -/
def State.queueMsg (s : State) (l hold vc : Nat) (m : LinkMsg) (note : Option Note := none) (from_ : Option Sender := none) : State :=
  s.modLink l fun k => { k with queue := k.queue ++ [(⟨0, hold, false, vc, none, [m], note, from_⟩ : TxFlit)] }

/-- Room for one more flit of a holding in its buffer of 16 before the link to a peer (R41). -/
def State.linkRoom (s : State) (peer addr hold : Nat) : Bool :=
  let l := s.upLinks peer
  match l[routeHash addr % l.length]? with
  | some k => ((s.link k).queue.filter fun f => f.hold = hold).length < 16
  | none => true

/-- Send a message to a peer over the link that R33 picks. With no link up a posted message is dropped and counted in the
lowest-numbered link of the mask, and a request waits for its timeout (R31). -/
def State.toPeer (s : State) (peer addr hold vc : Nat) (posted : Bool) (m : LinkMsg) (note : Option Note := none)
    (from_ : Option Sender := none) : State :=
  let l := s.upLinks peer
  match l[routeHash addr % l.length]? with
  | some k => s.queueMsg k hold vc m note from_
  | none =>
    let s := match note with | some n => s.noteDone n | none => s
    if posted then
      match (List.range 48).find? fun k => (Tab.get 0 s.net.masks peer).getLsbD k with
      | some k => s.modLink k fun v => { v with dropc := min (v.dropc + 1) 0xFFFF }
      | none => s
    else s

/-- The check values of a message's beats (R26, R68); poisoned data goes with values that do not match (R71). -/
def dataChecks (data : List Byte) (bad : Bool) : List Nat :=
  (List.range ((data.length + 31) / 32)).map fun i =>
    let c := beatCheck (((data.drop (32 * i)).take 32 ++ List.replicate 32 0).take 32)
    if bad then (c + 1) % 65536 else c

/-- The data of a message fails a check value (R69, R71). -/
def checksBad (data : List Byte) (chk : List Nat) : Bool := dataChecks data false ≠ chk

/-- The peer of a peer address (R32). -/
def peerOf (a : Nat) : Nat := bits a 45 43
/-- The offset into the peer's aperture (R32). -/
def peerOff (a : Nat) : Nat := bits a 39 0

/-- A read on a peer. -/
def State.peerGet (s : State) (hold addr n : Nat) (p : Purpose) : State :=
  let (i, s) := s.newReq (2 + peerOf addr) hold p
  s.toPeer (peerOf addr) addr hold 0 false (.read i s.pw.strapPos.toNat hold (peerOff addr) n)

/-- A posted write on a peer, of a region and under the address that its source names. -/
def State.peerPut (s : State) (hold rgn : Nat) (at_ : Word) (addr : Nat) (data : List Byte) (bad : Bool) (note : Option Note := none)
    (from_ : Option Sender := none) : State :=
  s.toPeer (peerOf addr) addr hold 0 true
    (.write s.pw.strapPos.toNat hold (peerOff addr) data (dataChecks data bad) rgn at_) note from_

/-- The code of an operation in an atomic message to a peer: 0 to 9 as in ATOM, 16 CAS, 17 CAS2. -/
def PqOp.peerFn : PqOp → Nat
  | .atom fn _ _ => fn
  | .cas .. => 16
  | _ => 17

/-- Compare and new value of an atomic in one message. -/
def PqOp.peerAB : PqOp → BitVec 128 × BitVec 128
  | .atom _ _ b => (0, b.zeroExtend 128)
  | .cas _ c b => (c.zeroExtend 128, b.zeroExtend 128)
  | .cas2 c0 c1 b0 b1 => (c1 ++ c0, b1 ++ b0)
  | _ => (0, 0)

/-- The operation that an atomic message asks for. -/
def peerOp (fn n : Nat) (a b : BitVec 128) : PqOp :=
  if fn = 16 then .cas n (a.extractLsb' 0 64) (b.extractLsb' 0 64)
  else if fn = 17 then .cas2 (a.extractLsb' 0 64) (a.extractLsb' 64 64) (b.extractLsb' 0 64) (b.extractLsb' 64 64)
  else .atom fn n (b.extractLsb' 0 64)

/-- The two operands of an atomic message as one beat of data. -/
def operandBeat (a b : BitVec 128) : List Byte := leBytes 16 a.toNat ++ leBytes 16 b.toNat

/-- An atomic on a peer: its operands travel with their check value (R26). -/
def State.peerAtomic (s : State) (hold addr : Nat) (o : PqOp) (p : Purpose) (note : Option Note := none) : State :=
  let (i, s) := s.newReq (2 + peerOf addr) hold p
  let (a, b) := o.peerAB
  s.toPeer (peerOf addr) addr hold 0 false (.atomic i s.pw.strapPos.toNat hold o.peerFn (peerOff addr) o.size a b
    (dataChecks (operandBeat a b) false)) note

/-- An AtomicOp to the host (R66). -/
def State.hostAtomic (s : State) (port fn addr : Nat) (o : PqOp) (p : Purpose) (note : Option Note := none) : State :=
  let x := s.pfx port fn addr
  let (i, s) := (s.ats port fn addr).newReq port fn p (s.atcUse port fn addr)
  let (a, b) := o.peerAB
  s.send (.atomicReq i port fn addr x o.peerFn o.size a b) note

/-! ### Answers from outside the module -/

/-- The name under which the bytes at a host or peer address are returned. -/
def gotKey (a : Nat) (l : Leaf) : Nat := l.tgt * 2 ^ 48 + a

/-- The cause of an access outside the module that is not answered with data: poisoned data is INTEG (R71), an error response of a
peer PERM (R34), an AtomicOp that the host does not support ATOMNS (R67), any other error of the host INTEG. -/
def outCause (peer atom : Bool) : CplStatus → Nat
  | .poisoned | .ok => 0x71
  | .unsupported => if peer then 0x16 else if atom then 0x61 else 0x71
  | .aborted => if peer then 0x16 else 0x71

end Sys2Proof.Machine
end

