-- ==== Sys2Proof/Machine/Ops.lean ====
section
/-! DEFINITION. The shared operations of instruction steps: causes and taking an exception (R140, R165-R168), returning
from one, stopping and leaving a slot, plots (R251), acquires and releases (R264-R266), queues (R186, R187), the
order of causes (R171) and the issue of one instruction. -/

namespace Sys2Proof.Machine

/-- Why an instruction does not complete in this issue: a cause is raised, the slot is not ready, or the slot waits parked
or on its way out. Each carries the state that stands. -/
inductive Stop where
  | raise (c : Cause) (s : State)
  | stay (s : State)
  | left (s : State)
deriving DecidableEq, Repr

/-- The steps of an instruction. -/
abbrev M := Except Stop

/-- How an instruction that completes goes on: at the next instruction, at another PC, or with its thread gone. -/
inductive Fin where
  | step (s : State)
  | goto (s : State) (pc : Word)
  | gone (s : State)
deriving DecidableEq, Repr

/-- Raise a cause; `s` is the state that stands. -/
def raise {α : Type} (s : State) (code : Nat) (info : Nat := 0) (addr : Word := 0) (write : Bool := false) : M α :=
  .error (.raise ⟨code, info, addr, false, false, write⟩ s)
/-- The slot is not ready. -/
def stay {α : Type} (s : State) : M α := .error (.stay s)
/-- The slot is parked or leaves. -/
def leftM {α : Type} (s : State) : M α := .error (.left s)

/-! ### Leaving a slot -/

/-- A destination that no thread waits for any more; places in queues are kept. -/
def Dst.drop (d : Dst) : Dst :=
  match d with
  | .queue q ids => .queue q ids
  | _ => .none

/-- Answers of a slot's reads, special-function requests and matrix appends that no thread waits for any more go nowhere. -/
def State.orphan (s : State) (core slot : Nat) : State :=
  let rec_ := fun (r : MxRec) => if r.core = core && r.slot = slot then { r with dst := r.dst.drop } else r
  { s with
    mm := { s.mm with accs := s.mm.accs.map fun (k, a) =>
      (k, a.map fun a => if a.core = core && a.slot = slot then { a with acq := none, order := 0, dst := a.dst.drop } else a) }
    en := { s.en with
      sfu := s.en.sfu.map fun (k, l) => (k, l.map fun r => if r.core = core && r.slot = slot then { r with dst := r.dst.drop } else r)
      mx := s.en.mx.map fun (k, c) => (k, { c with wait := c.wait.map rec_ }) } }

/-- A request of a slot that waits at a queue's home is discarded (R391). -/
def State.dropQ (s : State) (core slot : Nat) : State :=
  if (s.slotAt core slot).sent then
    { (s.forget (.queue core slot)) with sc := { s.sc with qreqs := s.sc.qreqs.filter fun q => !(q.core = core && q.slot = slot && q.taken.isNone) } }
  else s

/-- What the host or a peer has returned to an access is given up, and what is still on its way goes nowhere. -/
def State.dropGot (s : State) (who : Req) : State :=
  let mine := fun (r : HostReq) => match r.purpose with | .agent w _ => decide (w = who) | _ => false
  if (s.hi.got.any fun g => g.1 = who) || s.hi.reqs.any mine then
    { s with hi := { s.hi with
      got := s.hi.got.filter fun g => g.1 ≠ who
      reqs := s.hi.reqs.map fun (r : HostReq) => if mine r then { r with purpose := .dropped } else r } }
  else s

/-- An access that a slot's thread has not performed at issue or fetch is given up: it waits for no half of the region (R55), and a wait
that timed out concerns it no more (R60). -/
def State.dropIssue (s : State) (core slot : Nat) : State :=
  let s := (s.unwait (some (.thread core slot))).dropGot (.thread core slot)
  if s.hi.bad.contains (.thread core slot) then { s with hi := { s.hi with bad := s.hi.bad.filter (· ≠ .thread core slot) } } else s

/-- A read of a slot's thread whose wait for the host has timed out has poisoned data: its consumer faults INTEG (R60). -/
def lostRead (s : State) (addr : Word) (write : Bool := false) : M Unit :=
  if s.hi.bad.contains (.thread s.core s.slotNo) then raise (s.dropIssue s.core s.slotNo) 0x71 0 addr write else .ok ()

/-- The present thread as it asks for a translation. -/
def State.asker (s : State) : Asker := ⟨.thread s.core s.slotNo, s.thr.hold, s.thr.rgn⟩

/-- Empty a slot, whose LD and TL are 0 (R133, R137, R159). Its other counters and its stores stay (R271); pending interrupt bits leave
with the thread (R159). -/
def State.vacate (s : State) (core slot : Nat) : State :=
  let s := ((s.orphan core slot).dropQ core slot).dropIssue core slot
  let v := s.slotAt core slot
  s.setSlotAt core slot { issued := v.issued, drained := v.drained, cp := v.cp, stores := v.stores,
                          post := v.post, strong := v.strong, rels := v.rels, peers := v.peers }

/-- The two interrupt bits that leave a slot with its thread (R159). -/
def Slot.uip (v : Slot) : BitVec 2 := v.uipend.extractLsb' 0 2

/-- Cause and faulting address of frame word 0xE0 (R129). -/
def causeWord (cause : Nat) (addr : Word) : Nat := cause % 256 + addr.toNat / 256 * 256

/-- Write the thread of a slot into its frame (R129) with a status. A spill or a parked packet has no cause and no residual copy: it writes
words 0xE0 and 0xF0 as 0 (DESIGN CHOICE, log entry 88). -/
def State.saveFrame (s : State) (core slot : Nat) (t : Thread) (st : FST) (cause residual : Nat) : State :=
  let uip := (s.slotAt core slot).uip
  let s := s.partWrite t.hold t.rgn t.frame (frameBytes t st uip cause residual)
  s.modFrame t.hold t.frame fun f => { f with st := st, core := core, bnd := t.bnd, uip := uip }

/-- An unrecoverable fault (R140): the state goes into the frame, FST is STOP, the faulted counter counts, and the region's
fault queue gets a record. The slot waits while LD or TL counts (R159), while the frame's page is not resident (R477) and while the
region's counter cannot be reached (R487). -/
def State.stopThread (s : State) (core slot : Nat) (c : Cause) : State :=
  let v := s.slotAt core slot
  match v.thr with
  | none => s
  | some t =>
    let wait := fun (s : State) => s.modSlotAt core slot fun v => { v with leave := .halt c }
    if v.ld ≠ 0 || v.tl ≠ 0 then wait s
    else
      match s.exitReady t.hold t.rgn t.frame with
      | (false, s) => wait s
      | (true, s) =>
        let s := s.saveFrame core slot t .stop (causeWord c.code c.addr) 0
        let s := ((s.count t.hold t.rgn 0xB8).sprigGone t.launch).addFault
          ⟨t.hold, false, 0, 1, c.code, c.write, c.info, t.rgn, c.addr, BitVec.ofNat 64 t.frame⟩
        s.vacate core slot

/-- A stop that waits goes on (R159, R477, R487). -/
def State.haltOn (s : State) (core slot : Nat) : State :=
  match (s.slotAt core slot).leave with
  | .halt c => s.stopThread core slot c
  | _ => s

/-! ### Taking an exception, and returning from one -/

/-- %tcause of a user trap (R167). -/
def tcauseOf (c : Cause) (int : Bool) : Word :=
  BitVec.ofNat 64 (c.code % 256 + c.info % 512 * 2 ^ 8 + (if int then 2 ^ 31 else 0) + (if c.imp then 2 ^ 32 else 0))

/-- %scause of a supervisor fault (R167). -/
def scauseOf (c : Cause) : Word :=
  BitVec.ofNat 64 (c.code % 256 + c.info % 2 ^ 24 * 2 ^ 8 + (if c.imp then 2 ^ 32 else 0))

/-- Delivery of a user trap (R165): the thread is pinned, H is set, the user bank is zeroed, PC is %utvec. -/
def Thread.userTrap (t : Thread) (tpc tcause taddr : Word) : Thread :=
  { t with tpc := tpc, tcause := tcause, taddr := taddr, h := true, hu := [], pc := t.utvec, roam := false, rep := none }

/-- Entry into S mode (R140): the supervisor bank is zeroed (R166), the thread is pinned (R131). -/
def Thread.superFault (t : Thread) (vec spc scause saddr : Word) : Thread :=
  { t with spc := spc, scause := scause, saddr := saddr, s := true, hs := [], pc := vec, roam := false, rep := none }

/-- A user trap is delivered as such: the cause is a user cause, no handler runs, and there is a vector (R168). -/
def Thread.trapsUser (t : Thread) (c : Cause) : Bool :=
  (c.trap || c.code = 0x20 || c.code = 0x21) && !t.s && !t.h && t.utvec ≠ 0

/-- The PC that %tpc takes: TRAP names the next instruction (R165). -/
def Thread.trapPc (t : Thread) (c : Cause) : Word := if c.trap then t.pc + 12 else t.pc

/-- What a slot keeps of an instruction that has waited is given up; the results of a VSFN count in LD until then (R420). -/
def Slot.fresh (v : Slot) : Slot :=
  { v with
    resume := {}, unit := 0, park := none, stalled := none, sent := false, mbox := none, idling := false, idleBy := none, holds := [], disp := 0
    busy := [], busyAt := none, vu := false, ld := if v.resume.served then v.ld - 1 else v.ld }

/-- What comes before the delivery of a cause: a request of the slot that waits at a queue's home is discarded, what the slot keeps
of an instruction that has waited is given up, and an INTEG cause is counted (R71). -/
def State.settleAt (s : State) (core slot : Nat) (t : Thread) (c : Cause) : State :=
  let s := ((s.dropQ core slot).dropIssue core slot).modSlotAt core slot Slot.fresh
  if c.code = 0x71 then s.modFn t.hold fun f => { f with beatErr := f.beatErr + 1 } else s

/-- TAKING AN EXCEPTION: the cause reaches the thread of a slot as a user trap (R165), as a supervisor fault (R140), or
stops it (R140). An escalated trap keeps its SUB as INFO (R167, R168); PAGE never enters the supervisor (R169). -/
def State.takeAt (s : State) (core slot : Nat) (c : Cause) : State :=
  match (s.slotAt core slot).thr with
  | none => s
  | some t =>
    let vec := s.hword t.hold 0x78
    let s := s.settleAt core slot t c
    if c.code = 0x15 then s.stopThread core slot c
    else if t.trapsUser c then
      s.modSlotAt core slot fun v => { v with thr := some (t.userTrap (t.trapPc c) (tcauseOf c false) c.addr) }
    else if vec = 0 || t.s then s.stopThread core slot c
    else s.modSlotAt core slot fun v => { v with thr := some (t.superFault (BitVec.ofNat 64 vec) t.pc (scauseOf c) c.addr) }

/-- Take an exception in the slot of the present step. -/
def State.take (s : State) (c : Cause) : State := s.takeAt s.core s.slotNo c

/-- TRET (R335). -/
def Thread.tret (t : Thread) : Thread := { t with h := false }
/-- SRET (R140, R467). -/
def Thread.sret (t : Thread) : Thread := { t with s := false }

/-- The slot is at an instruction boundary, or between two iterations of a repeat (R168, R486): the next instruction has done
nothing. -/
def Slot.atBoundary (v : Slot) : Bool := v.resume.unit = 0 && v.resume.acc = none && !v.sent

/-- The pending interrupt that is eligible at an instruction boundary, the lowest bit first (R168). -/
def Slot.eligible (v : Slot) (t : Thread) : Option Nat :=
  if t.s || t.h || t.utvec = 0 || !t.uimask.getLsbD 7 then none
  else if v.uipend.getLsbD 0 && t.uimask.getLsbD 0 then some 0
  else if v.uipend.getLsbD 1 && t.uimask.getLsbD 1 then some 1
  else none

/-- Deliver a user interrupt (R165, R168). -/
def State.interrupt (s : State) (t : Thread) (b : Nat) : State :=
  ((s.dropQ s.core s.slotNo).dropIssue s.core s.slotNo).modSlot fun v =>
    { v.fresh with
      uipend := v.uipend &&& ~~~(BitVec.twoPow 8 b)
      thr := some (t.userTrap t.pc (tcauseOf ⟨b, 0, 0, false, false, false⟩ true) 0) }

/-! ### Plots (R251, R252) -/

/-- KIND of a plot word. -/
def plotKind (w : Word) : Nat := bits w.toNat 63 62

/-- A plot word that no synchronising instruction accepts faults PLOTBAD (R251). -/
def plotBad (w : Word) : Bool :=
  let v := w.toNat
  let p := plotOf v
  bits v 61 30 ≠ 0 || bit v 23 || bits v 15 14 ≠ 0 || bit v 7 ||
  (if bits v 63 62 = 0 then p.x1 < p.x0 || p.y1 < p.y0 else bits v 29 0 ≠ 0)

/-- The plot covers a core; `own` is the issuing core (R252). -/
def plotCovers (w : Word) (own c : Nat) : Bool :=
  match plotKind w with
  | 0 => (plotOf w.toNat).covers c
  | 1 => own = c
  | _ => true

/-- A plot is read at issue and checked (R361). -/
def checkPlot (s : State) (w : Word) : M Unit := if plotBad w then raise s 0x07 else .ok ()

/-! ### Acquire and release -/

/-- The words that the threads of a core have asked for in a fetch from outside the module are out of date (R301). -/
def State.staleFetch (s : State) (core : Nat) : State :=
  let mine := fun (r : Req) => match r with | .thread c _ => c = core | _ => false
  { s with hi := { s.hi with
    got := s.hi.got.filter fun g => !mine g.1
    reqs := s.hi.reqs.map fun (r : HostReq) => match r.purpose with
      | .agent w _ => if mine w then { r with purpose := .dropped } else r
      | _ => r } }

/-- The completion of an acquire at a core: its unregistered L1 words and its instruction buffer are emptied (R210, R264,
R301). -/
def State.acquire (s : State) (core : Nat) : State :=
  let s := s.staleFetch core
  { s with
    mm := { s.mm with l1 := s.mm.l1.filter fun (k, w) => k / wordSpan ≠ core || (w.bind (·.reg)).isSome },
    co := { s.co with ibuf := Tab.set [] s.co.ibuf core [] } }

/-- Mark the pool entries of a core whose mask holds a slot as due for their merge (R213). -/
def State.duePools (s : State) (core slot : Nat) : State :=
  if (s.pools core).any fun e => e.mask.getLsbD slot && !e.due then
    s.setPools core ((s.pools core).map fun e => if e.mask.getLsbD slot then { e with due := true } else e)
  else s

/-- No pool entry of the core holds the slot in its mask. -/
def State.poolsClear (s : State) (core slot : Nat) : Bool := (s.pools core).all fun e => !e.mask.getLsbD slot

/-- Writes to peers of which a release of the slot has not yet learnt that they are applied (R63). -/
def State.peersOpen (s : State) (core slot : Nat) : Bool :=
  (s.slotAt core slot).peers ≠ [] || s.net.flushes.any fun x => x.key = slotKey core slot

/-- The earlier accesses of the slot are performed as a release at the plot demands, apart from peer writes that are on their way
(R265, R266). Loads of KIND 10 pages hold no release back (R262). -/
def State.settled (s : State) (core slot : Nat) (w : Word) : Bool :=
  let v := s.slotAt core slot
  v.ld ≤ v.ldu && s.poolsClear core slot &&
  (if plotKind w = 1 then v.post = []
   else v.stores.all fun o => !o.ordered || (match o.bank with | some c => !plotCovers w core c | none => false))

/-- The earlier accesses of the slot are performed as EXIT demands: every ordered store is, wherever it goes (R333). -/
def State.exitSettled (s : State) (core slot : Nat) (w : Word) : Bool :=
  s.settled core slot w && (s.slotAt core slot).stores.all fun o => !o.ordered

/-- The earlier accesses of the slot are performed as a release at the plot demands (R265, R266, R63). -/
def State.released (s : State) (core slot : Nat) (w : Word) : Bool :=
  s.settled core slot w && (plotKind w ≠ 3 || !s.peersOpen core slot)

/-- The earlier accesses of the slot, KIND 10 included, are performed as a full or release fence at the plot demands, apart from
peer writes that are on their way (R267). -/
def State.fenceSettled (s : State) (core slot : Nat) (w : Word) : Bool :=
  let v := s.slotAt core slot
  v.ld = 0 && s.poolsClear core slot && (if plotKind w = 1 then v.post = [] else v.drained = v.issued)

/-- The same with the peer writes applied (R63, R267). -/
def State.fenced (s : State) (core slot : Nat) (w : Word) : Bool :=
  s.fenceSettled core slot w && (plotKind w ≠ 3 || !s.peersOpen core slot)

/-- Ask the peers that the slot has written since its last flush for a flush, once every earlier store has left (R63). -/
def State.askFlush (s : State) (core slot : Nat) (ready : Bool) (w : Word) : State :=
  let ps := (s.slotAt core slot).peers
  if plotKind w = 3 && ready && ps ≠ [] then
    let s := s.modSlotAt core slot fun v => { v with peers := [] }
    { s with net := { s.net with flushes := s.net.flushes ++ (ps.map fun p => (⟨p, slotKey core slot, false⟩ : Flush)) } }
  else s

/-- A release of a slot waits: its pool entries are merged, and the peers asked for a flush once its stores have left. -/
def State.pressOn (s : State) (core slot : Nat) (w : Word) : State :=
  (s.duePools core slot).askFlush core slot (s.settled core slot w) w

/-- Wait as a release at a plot demands. -/
def release (s : State) (w : Word) : M State :=
  if s.released s.core s.slotNo w then .ok s else stay (s.pressOn s.core s.slotNo w)

/-- Host writes of a port that are numbered below one have all been applied (R62). -/
def State.appliedBelow (s : State) (p : Nat × Nat) : Bool := !s.hi.writes.any fun w => w.port = p.1 && w.num < p.2

/-- The host writes whose values some words hold (R62). -/
def State.hostOf (s : State) (pa n : Nat) : List (Nat × Nat) := (wordsOf pa n).filterMap fun w => Tab.get none s.mm.byHost w

/-- An acquire whose plot has KIND 11 and whose value a host write has given waits for the earlier host writes of its port (R62). -/
def State.acqOpen (s : State) (w : Word) (src : List (Nat × Nat)) : Bool := plotKind w = 3 && src.any fun p => !s.appliedBelow p

/-! ### Queues (R186, R187) -/

/-- The neighbour of a core towards north, east, south or west (0-3), none at the mesh's edge. -/
def neighbour (c d : Nat) : Option Nat :=
  match d with
  | 0 => if coreY c = 0 then none else some (c - 128)
  | 1 => if coreX c = 127 then none else some (c + 1)
  | 2 => if coreY c = 63 then none else some (c + 128)
  | _ => if coreX c = 0 then none else some (c - 1)

/-- The holding may use queue `q` in the core: an owned slot queue, or a link queue whose neighbour lies in its plot. -/
def State.qOwned (s : State) (core hold q : Nat) : Bool :=
  if q < 4 then bit (s.hqueues hold) q
  else
    match neighbour core (q - 4) with
    | some n => (s.hplot hold).covers n
    | none => false

/-- The entries that a pop of the queue takes from: a slot queue or the holding's incoming link queue. -/
def State.qIn (s : State) (core hold q : Nat) : List QEnt :=
  if q < 4 then Tab.get [] s.co.sq (core * 4 + q) else Tab.get [] (s.hcAt core hold).lq (q - 4)

/-- Replace the entries of the queue that pops take from. -/
def State.setQIn (s : State) (core hold q : Nat) (l : List QEnt) : State :=
  if q < 4 then { s with co := { s.co with sq := Tab.set [] s.co.sq (core * 4 + q) l } }
  else s.modHc core hold fun h => { h with lq := Tab.set [] h.lq (q - 4) l }

/-- The core and queue that a push goes to: a push on a link goes into the neighbour's incoming queue from the opposite
direction. -/
def qTo (core q : Nat) : Nat × Nat :=
  if q < 4 then (core, q) else ((neighbour core (q - 4)).getD core, 4 + (q - 4 + 2) % 4)

/-- The entries of the queue that a push goes to. -/
def State.qOut (s : State) (core hold q : Nat) : List QEnt := s.qIn (qTo core q).1 hold (qTo core q).2
/-- Replace the entries of the queue that a push goes to. -/
def State.setQOut (s : State) (core hold q : Nat) (l : List QEnt) : State := s.setQIn (qTo core q).1 hold (qTo core q).2 l

/-- The capacity of a queue. -/
def qCap (q : Nat) : Nat := if q < 4 then 16 else 8

/-- The values at the head of a queue. -/
def qHead : List QEnt → Nat
  | .val _ :: l => qHead l + 1
  | _ => 0

/-- Pop one entry. -/
def State.popQ (s : State) (core hold q : Nat) : Word × State :=
  match s.qIn core hold q with
  | .val v :: l => (v, s.setQIn core hold q l)
  | _ => (0, s)

/-- Push one entry. -/
def State.pushQ (s : State) (core hold q : Nat) (v : Word) : State := s.setQOut core hold q (s.qOut core hold q ++ [.val v])

/-- Reserve a place for a value that comes later (R326). -/
def State.reserveQ (s : State) (core hold q : Nat) : Nat × State :=
  let (i, s) := s.newId
  (i, s.setQOut core hold q (s.qOut core hold q ++ [.resv i]))

/-- Fill a reserved place; without a value it is given up. -/
def fillQ (l : List QEnt) (i : Nat) (v : Option Word) : List QEnt :=
  match v with
  | some v => l.map fun e => if e = .resv i then .val v else e
  | none => l.filter fun e => e ≠ .resv i

/-! ### What every instruction checks -/

/-- The thread behaves as pinned now (R131). -/
def Thread.pinned (t : Thread) : Bool := !t.roam || t.s || t.h || t.stkc ≠ 0

/-- Pin the thread (R131). -/
def State.pin (s : State) : State := s.modThr fun t => { t with roam := false }

/-- The majors that S mode or root may use (R315). -/
def superOnly (i : Instr) : Bool :=
  match i with
  | .incset _ | .mxown _ | .mxspill _ | .mxfill _ | .spill _ | .resto _ | .restoFrame _ | .tlbinv _ | .sret _ | .idle _
  | .pgverArm _ | .pgverRead _ | .pgverCommit _ | .pgverFree _ => true
  | _ => false

/-- The majors that only root may use (R315). -/
def rootOnly (i : Instr) : Bool :=
  match i with
  | .rgnopCreate _ | .rgnopResize _ | .rgnopFreeze _ | .rgnopThaw _ | .rgnopDestroy _ | .rgnopSlice _ | .keyset _ | .keysetClear _
  | .rota _ | .rotaCtl _ => true
  | _ => false

/-- Special registers of access S (R161). -/
def sReg (n : Nat) : Bool := (18 ≤ n && n ≤ 20) || (31 ≤ n && n ≤ 40)

/-- The instruction faults PRIV in this mode (R315, R335, R347, R348). -/
def privBad (i : Instr) (t : Thread) : Bool :=
  (superOnly i && !t.s && !t.root) || (rootOnly i && !t.root) ||
  (match i with
   | .tret _ => !t.h || t.s
   | .mfs f => sReg f.a.idx.toNat && !t.s && !t.root
   | .mts f => sReg f.d.idx.toNat && !t.s && !t.root
   | _ => false)

/-- The copy instructions, which only the movement slot may issue (R315). -/
def isCopy (opc : Nat) : Bool := 0xD0 ≤ opc && opc ≤ 0xD6

/-- The instruction belongs to the FP64 extension by its major, or as a tile instruction by FMT (R135, R315, R434). A vector instruction is judged
after its shape records (R417). -/
def needsFp64 (opc : Nat) (f : Fields) : Bool :=
  (0xE8 ≤ opc && opc ≤ 0xEF) || (0xB0 ≤ opc && opc ≤ 0xBD && mdFmt f.md = 13)

/-- Majors that access memory, a queue or an engine, which wait for an outstanding strongly ordered access (R262). -/
def touches (opc : Nat) (f : Fields) : Bool :=
  (0x48 ≤ opc && opc ≤ 0x58) || (0x60 ≤ opc && opc ≤ 0x67) || (0x70 ≤ opc && opc ≤ 0xD6) || opc = 0xE0 || opc = 0xE1 || opc = 0xE5 ||
  opc = 0x06 || (0xF0 ≤ opc && opc ≤ 0xF9) || f.d.cls = .Q || f.a.cls = .Q || f.b.cls = .Q

/-- The instructions whose OPD is read, not written (R304). -/
def readsD (opc : Nat) : Bool :=
  opc = 0x49 || opc = 0x4B || opc = 0x4D || opc = 0x50 || opc = 0x63 || opc = 0x64 || opc = 0x77 || opc = 0x79 || opc = 0x7B

/-- Entries that the instruction pops from a queue and pushes on it. -/
def qUse (opc : Nat) (f : Fields) (q : Nat) : Nat × Nat :=
  let isQ := fun (o : Operand) => o.cls = .Q && o.idx.toNat = q
  let n := if opc = 0x4A || opc = 0x4B then 2 else 1
  ((if isQ f.a then 1 else 0) + (if isQ f.b then 1 else 0) + (if isQ f.d && readsD opc then n else 0),
   if isQ f.d && !readsD opc then n else 0)

/-- The number under which an instruction in progress keeps the queue that it pops. -/
def popKey (q : Nat) : Nat := q
/-- The number under which an instruction in progress keeps the queue that it pushes on; a push on a link leaves the core. -/
def pushKey (q : Nat) : Nat := if q < 4 then q else 8 + q
/-- The number under which an instruction in progress keeps the tile register that it writes. -/
def tileHold (t : Nat) : Nat := 16 + t

/-- Another slot of the core, in the holding of the present one, has issued an instruction that is not yet done and uses one of
the queues or tile registers (R186, R189, R422). A queue is not kept by an instruction whose access is parked: it has not issued. -/
def State.heldElse (s : State) (keys : List Nat) : Bool :=
  s.co.slots.any fun (k, v) =>
    k / 16 = s.core && k % 16 ≠ s.slotNo && (v.thr.any fun t => t.hold = s.thr.hold) &&
    (v.holds.filter fun h => v.park.isNone || 16 ≤ h).any keys.contains

/-- Vector and tile instructions, which the core's vector unit runs one at a time (R406). -/
def onUnit (opc : Nat) : Bool := (0x80 ≤ opc && opc ≤ 0x94) || (0xB0 ≤ opc && opc ≤ 0xBD)

/-- Another slot's instruction of the holding holds the vector unit between two of its units (R406). The occupancy of the unit by whole
instructions is time, which log entry 6 leaves out. -/
def State.unitHeld (s : State) : Bool :=
  s.co.slots.any fun (k, v) =>
    k / 16 = s.core && k % 16 ≠ s.slotNo && v.vu && v.leave = .stay && v.park.isNone && v.resume.acc.isNone &&
    (v.thr.any fun t => t.hold = s.thr.hold)

/-- The numbers of a queue for an instruction with so many pops and pushes. -/
def useKeys (q pops pushes : Nat) : List Nat := (if 0 < pops then [popKey q] else []) ++ (if 0 < pushes then [pushKey q] else [])

/-- The present instruction keeps queues and tile registers until it is done. -/
def State.holdOn (s : State) (keys : List Nat) : State := s.modSlot fun v => { v with holds := keys }

/-- A queue operand is not owned (PERM, R364), or it cannot proceed yet (R186). -/
def queuesReady (s : State) (opc : Nat) (f : Fields) : M Unit :=
  let t := s.thr
  let qs := (([f.d, f.a, f.b].filter fun o => o.cls = .Q).map fun o => o.idx.toNat)
  if qs.any fun q => !s.qOwned s.core t.hold q then raise s 0x16
  else if qs.any fun q =>
    let (pops, pushes) := qUse opc f q
    s.heldElse (useKeys q pops pushes) ||
    qHead (s.qIn s.core t.hold q) < pops ||
    (0 < pushes && qCap q < (s.qOut s.core t.hold q).length + pushes - (if q < 4 then pops else 0)) then stay s
  else .ok ()

/-- The G registers that a field names, from its own on (R366, R400, R423). -/
def opWidth : OpRule → Nat
  | .g22 | .g22z | .pr | .prq | .prz => 2
  | .g16 => 8
  | _ => 1

/-- A register of an instruction is pending: one of its fields, or the one that form V or VSEL names in IMM (R326, R361, R414). -/
def pendHit (sup : Bool) (pend : List Nat) (sh : EncRule) (f : Fields) : Bool :=
  let waits := fun (n : Nat) => pend.contains (if 24 ≤ n && sup then n + 4 else n)
  let hit := fun (r : OpRule) (o : Operand) => o.cls = .G && (List.range (opWidth r)).any fun k => waits (o.idx.toNat + k)
  let named := match sh.form with
    | .V => mdOrd f.md ≠ 0 && waits (plotIdx f.imm)
    | .C => waits f.imm.toNat
    | _ => false
  pend ≠ [] && (hit sh.d f.d || hit sh.a f.a || hit sh.b f.b || named)

/-- Majors whose accesses find the kind of their page before they are performed: loads, stores, atomics and pools, table loads, memory queues, and
the memory operands of vectors and tiles. An acquire that is open holds each of them back at its own access, unless its page is of KIND 10
(R262, R264). -/
def findsKind (opc : Nat) : Bool :=
  (0x48 ≤ opc && opc ≤ 0x4D) || opc = 0x52 || (0x60 ≤ opc && opc ≤ 0x64) || opc = 0x7B || opc = 0x7C || (0x80 ≤ opc && opc ≤ 0x94) || opc = 0xB0 || opc = 0xB1

/-- The slot is ready for this instruction (R128): no operand pending (R326), no strongly ordered access outstanding (R262), no
acquire outstanding that holds it back (R264), not parked and not leaving. NOP reads no operand (R329). -/
def slotReady (v : Slot) (sup : Bool) (opc : Nat) (f : Fields) (sh : EncRule) : Bool :=
  v.leave = .stay && v.park.isNone && !v.sfu &&
  (opc = 0 || (!pendHit sup v.pendG sh f && ((v.strong = 0 && (v.acq = [] || findsKind opc)) || !touches opc f)))

/-- The thread migrates to a cluster (R132, R135): the slot issues no more, and the packet leaves once R133 allows. -/
def State.migrateTo (s : State) (cluster : Nat) (xmig : Bool) : State :=
  ((s.duePools s.core s.slotNo).dropQ s.core s.slotNo).modSlot fun v => { v.fresh with leave := .migrate cluster xmig }

/-- The checks that come before an entry's own causes, in R171's order: ILLOP, ILLOPD, the guard, PRIV, NOTMOV, the FP64
extension. The result says whether the instruction runs (true) or is skipped. -/
def front (i : Instr) (opc : Nat) (f : Fields) (sh : EncRule) (s : State) (t : Thread) : M Bool :=
  if illopOf i then raise s 0x01
  else
    match illopdOf (t.s || t.h) i with
    | some n => raise s 0x02 n
    | none =>
      if t.prd f.grd.toNat = f.neg then .ok false
      else if privBad i t then raise s 0x03
      else if isCopy opc && s.slotNo ≠ s.hmovs t.hold then raise s 0x04
      else if needsFp64 opc f && coreNo s.core ≠ 0 then
        if t.pinned then raise s 0x05 else leftM (s.migrateTo (clusterOf s.core) true)
      else if !slotReady s.slot t.s opc f sh || (onUnit opc && s.unitHeld) then stay s
      else if opc = 0 then .ok true
      else
        match queuesReady s opc f with
        | .ok _ => .ok true
        | .error e => .error e

/-- An instruction has issued: the PC moves on, or the repeat counts an iteration (R311); YLD marks the slot (R307). -/
def Thread.advance (t : Thread) : Thread :=
  match t.rep with
  | none => { t with pc := t.pc + 12 }
  | some _ => if t.repc ≤ 1 then { t with repc := 0, rep := none, pc := t.pc + 24 } else { t with repc := t.repc - 1 }

/-- The slot after an instruction has completed. -/
def Slot.done (v : Slot) (yld : Bool) : Slot := { v.fresh with yld := v.yld || yld }

/-- The slot is marked yielded by an instruction that has issued and carries YLD (R128, R307). -/
def State.yieldIf (s : State) (yld : Bool) : State := if yld then s.modSlot fun v => { v with yld := true } else s

/-- Conclude an issue: completion, a cause taken (R171), or a slot that is not ready. -/
def conclude (yld : Bool) (core : Nat) : M Fin → State
  | .ok (.step s) => (s.modSlot fun v => { v.done yld with thr := v.thr.map Thread.advance }).endCycle core
  | .ok (.goto s pc) => (s.modSlot fun v => { v.done yld with thr := v.thr.map fun t => { t with pc := pc } }).endCycle core
  | .ok (.gone s) => s.endCycle core
  | .error (.raise c s) => (s.take c).endCycle core
  | .error (.stay s) => s.modSlot fun v => { v with stalled := some (Tab.get 0 s.co.cyc core), unit := 0 }
  | .error (.left s) => (s.modSlot fun v => { v with unit := 0 }).endCycle core

/-- The issue of one instruction in the slot of the present step: the common checks, then the entry's own effect. No
instruction reaches the power unit: only the Ranbor controller changes it (R10). -/
def issue (i : Instr) (s : State) (body : Fields → State → M Fin) : Host.Outcome State Fault Refusal :=
  match encOf i, s.slot.thr with
  | none, _ => .fault .notEnabled
  | some _, none => .fault .noThread
  | some (opc, f, sh), some t =>
    .next { (match front i opc f sh s t with
      | .error e => conclude false s.core (.error e)
      | .ok false => conclude false s.core (.ok (.step s))
      | .ok true => conclude f.yld s.core (body f s)) with pw := s.pw }

end Sys2Proof.Machine
end

