-- ==== Sys2Proof/Machine/Operands.lean ====
section
/-! DEFINITION. Operand forms: sources and destinations of classes G, Q, I and Z (R302, R303, R326), register pairs,
predicates, and memory operands as pointers with their checks (R192, R195, R304, R361, R362). -/

namespace Sys2Proof.Machine

/-- IMM sign-extended to 64 bits (R303). -/
def simm (f : Fields) : Word := f.imm.signExtend 64

/-- Read a source: G reads the register, Q pops, I reads the given value of IMM, anything else reads 0. -/
def State.src (s : State) (o : Operand) (imm : Word) : Word × State :=
  match o.cls with
  | .G => (s.thr.gpr o.idx.toNat, s)
  | .Q => (s.pin).popQ s.core s.thr.hold o.idx.toNat
  | .I => (imm, s)
  | _ => (0, s)

/-- Write a destination: G writes the register, Q pushes, Z discards. -/
def State.dst (s : State) (o : Operand) (v : Word) : State :=
  match o.cls with
  | .G => s.modThr fun t => t.setGpr o.idx.toNat v
  | .Q => (s.pin).pushQ s.core s.thr.hold o.idx.toNat v
  | _ => s

/-- Both sources of an instruction, A before B (R186), and the state after their pops. -/
def State.srcs (s : State) (f : Fields) (imm : Word) : Word × Word × State :=
  let (a, s) := s.src f.a imm
  let (b, s) := s.src f.b imm
  (a, b, s)

/-- A G register by operand. -/
def State.g (s : State) (o : Operand) : Word := s.thr.gpr o.idx.toNat
/-- An operand register, or 0 for class Z. -/
def State.gz (s : State) (o : Operand) : Word := if o.cls = .Z then 0 else s.g o
/-- The register after an operand's. -/
def State.g1 (s : State) (o : Operand) : Word := s.thr.gpr (o.idx.toNat + 1)
/-- Write a G register by number. -/
def State.setG (s : State) (n : Nat) (v : Word) : State := s.modThr fun t => t.setGpr n v
/-- Write a register pair. -/
def State.setG2 (s : State) (n : Nat) (v0 v1 : Word) : State := (s.setG n v0).setG (n + 1) v1
/-- Write a predicate. -/
def State.setP (s : State) (n : Nat) (b : Bool) : State := s.modThr fun t => t.setPrd n b

/-- The thread as it draws for stochastic rounding (R227): the draw and the thread with %rng advanced. -/
def Thread.draw (t : Thread) : BitVec 32 × Thread := let x := rngNext t.rng; (x, { t with rng := x })

/-! ### Pointers -/

/-- A pointer before it is checked: a segment and an exact offset (R192). -/
structure Ref where
  seg : Nat
  off : Int
deriving DecidableEq, Repr

/-- The pointer as a program writes it; an offset outside 61 bits is wrapped for reporting. -/
def Ref.word (r : Ref) : Word := BitVec.ofNat 64 (r.seg * 2 ^ 61 + (r.off % (2 ^ 61 : Nat)).toNat)

/-- A base pointer and an exact displacement (R192). -/
def refOf (base : Word) (disp : Int) : Ref := ⟨bits base.toNat 63 61, (bits base.toNat 60 0 : Nat) + disp⟩

/-- A pointer moved by a number of bytes. -/
def Ref.add (r : Ref) (n : Int) : Ref := ⟨r.seg, r.off + n⟩

/-- Form M: base and displacement, which the iteration of a repeat may step (R311), or base and register (R304, R361). -/
def State.refM (s : State) (f : Fields) : Ref :=
  refOf (s.g f.a) (if f.b.cls = .Z then f.imm.toInt + s.slot.disp else (s.g f.b).toInt)

/-- Form P: base and displacement (R361). -/
def State.refP (s : State) (f : Fields) : Ref := refOf (s.g f.a) f.imm.toInt

/-- Form V: base and the 24-bit displacement (R361). -/
def State.refV (s : State) (f : Fields) : Ref := refOf (s.g f.a) (sgnNat 24 f.imm.toNat)

/-- The target of a branch (R327): none when it leaves its segment. -/
def target (base : Word) (disp : Int) : Option Word :=
  let o : Int := (bits base.toNat 60 0 : Nat) + disp
  if o < 0 || (2 ^ 61 : Nat) ≤ o then none else some (BitVec.ofNat 64 (bits base.toNat 63 61 * 2 ^ 61 + o.toNat))

/-- Window offset of a slot's carve-out (R190). -/
def State.carve (s : State) (w : Who) : Nat :=
  s.winSize w.hold - (popc (s.hslots w.hold) w.slot + 1) * w.stkc

/-- A descriptor's rights cover the need (R193, R195). -/
def descOk (d : BitVec 128) (need : Need) : Bool :=
  (!need.r || d.getLsbD 127) && (!need.w || d.getLsbD 126) && (!need.x || d.getLsbD 125) && (!need.a || d.getLsbD 124)

/-- The segment checks of order 9, in its order SEGLIM, SEGRIGHT, ALIGN, WINSTRAD; an error is a cause code (R171, R172,
R190, R192, R195, R362). A PERM of the direct window is of order 10 and comes after them. -/
def State.reach (s : State) (w : Who) (r : Ref) (n al : Nat) (need : Need) : Except Nat Spot :=
  if r.off < 0 || (2 ^ 61 : Nat) ≤ r.off then .error 0x10
  else
    let o := r.off.toNat
    if r.seg = 0 then
      if s.winSize w.hold ≤ o then .error 0x10
      else if need.x then .error 0x11
      else if o % al ≠ 0 then .error 0x14
      else if s.winSize w.hold < o + n then .error 0x12
      else .ok (.win w.core o)
    else if r.seg = 7 then
      if 65536 ≤ o || (w.stkc ≤ o && 2 ^ 57 ≤ w.sovf.toNat + o + n - 1) then .error 0x10
      else if need.x then .error 0x11
      else if (if o < w.stkc then s.carve w + o else w.sovf.toNat + o) % al ≠ 0 then .error 0x14
      else if 65536 < o + n || (o < w.stkc && w.stkc < o + n) then .error 0x12
      else if o < w.stkc then .ok (.win w.core (s.carve w + o))
      else s.spotOf w.hold (w.sovf.toNat + o) n
    else
      let d := Tab.get 0 w.sg r.seg
      let a := bits d.toNat 56 0 + o
      if bits d.toNat 120 64 < o + n - 1 || 2 ^ 57 ≤ a + n - 1 then .error 0x10
      else if !descOk d need then .error 0x11
      else if a % al ≠ 0 then .error 0x14
      else s.spotOf w.hold a n

/-- Raise the failure of a pointer check, with the pointer as the address. -/
def reachM (s : State) (w : Who) (r : Ref) (n al : Nat) (need : Need) : M Spot :=
  match s.reach w r n al need with
  | .ok p => .ok p
  | .error c => raise s c 0 r.word need.w

end Sys2Proof.Machine
end

