-- ==== Sys2Proof/Machine/Flags.lean ====
section
/-! DEFINITION. The results of integer arithmetic at a width with its clamp and extension (R339-R341), and the conditions
of the comparisons (R310, R356, R357, R413). The part keeps no carry, overflow or exception flags (R339, R350). -/

namespace Sys2Proof.Machine

/-- The width of SZ in bits (R308). -/
def szBits (sz : Nat) : Nat :=
  match sz with
  | 0 => 64 | 1 => 32 | 2 => 16 | _ => 8

/-- The width of SZ in bytes (R362). -/
def szBytes (sz : Nat) : Nat := szBits sz / 8

/-- The extension of the low `w` bits of an integer to 64 bits (R308, R339). -/
def extend (sgn : Bool) (w : Nat) (r : Int) : Word :=
  let u := (r % (2 ^ w : Nat)).toNat
  if sgn then BitVec.ofInt 64 (sgnNat w u) else BitVec.ofNat 64 u

/-- The clamp of SAT (R339). -/
def clampTo (sgn : Bool) (w : Nat) (r : Int) : Int :=
  if sgn then clampInt (-((2 ^ (w - 1) : Nat) : Int)) ((2 ^ (w - 1) : Nat) - (1 : Int)) r else clampInt 0 ((2 ^ w : Nat) - (1 : Int)) r

/-- The result of R339 from the exact value of the formula. -/
def intResult (md : BitVec 8) (r : Int) : Word :=
  let w := szBits (mdSz md)
  extend (mdSgn md) w (if mdSat md then clampTo (mdSgn md) w r else r)

/-- The unsigned reading at the instruction's width. -/
def uAt (md : BitVec 8) (x : Word) : Nat := x.toNat % 2 ^ szBits (mdSz md)
/-- The signed reading at the instruction's width. -/
def sAt (md : BitVec 8) (x : Word) : Int := sgnNat (szBits (mdSz md)) x.toNat
/-- The reading that SGN selects (R339). -/
def iAt (md : BitVec 8) (x : Word) : Int := if mdSgn md then sAt md x else (uAt md x : Nat)

/-- A comparison's condition by FN, from "less" and "equal" (R310). -/
def relation (fn : Nat) (lt eq : Bool) : Bool :=
  match fn with
  | 0 => eq
  | 1 => !eq
  | 2 => lt
  | 3 => lt || eq
  | 4 => !lt && !eq
  | _ => !lt

/-- A comparison of numbers by FN; with a NaN only "not equal" holds (R357). -/
def numCond (fn : Nat) (a b : ExtNum) : Bool :=
  match a.cmp b with
  | none => fn = 1
  | some o => relation fn (o = .lt) (o = .eq)

end Sys2Proof.Machine
end

