-- ==== Sys2Proof/Machine/Fetch.lean ====
section
/-! DEFINITION. Fetching an instruction (R195, R300, R301), stepping the fields of a repeated one (R311), leaving on a
non-resident page (R136), and what happens between instructions: causes met after issue (R486) and user interrupts
(R168). -/

namespace Sys2Proof.Machine

/-- An access of the thread meets a non-resident page: the thread leaves its slot for its frame (R136), or stops with
PAGE when no request can be raised (R120, R140). -/
def pageOut {α : Type} (s : State) (addr : Word) (mva : Nat) (write : Bool) : M α :=
  if s.canRequest s.thr.hold then
    leftM (s.modSlot fun v => { v with leave := .page addr mva write, resume := {}, unit := 0 })
  else leftM (s.stopThread s.core s.slotNo ⟨0x15, 0, addr, false, false, write⟩)

/-- The words that an access of `n` bytes at a target touches: a space and word indices. -/
def Tgt.span (t : Tgt) (n : Nat) : Nat × Nat × Nat × Nat :=
  match t with
  | .bank c h o => (0, c * 64 + h, o / 8, (o + n - 1) / 8)
  | .dev pa _ => (1, 0, pa / 8, (pa + n - 1) / 8)
  | .host a l => (2, l.tgt, a / 8, (a + n - 1) / 8)

/-- Two accesses touch a word in common (R256, R257). -/
def overlap (t : Tgt) (n : Nat) (u : Tgt) (m : Nat) : Bool :=
  let (a, b, lo, hi) := t.span n
  let (c, d, lo', hi') := u.span m
  a = c && b = d && lo ≤ hi' && lo' ≤ hi

/-- The kind of the page of an MVA, where its walk finds a leaf (R263); a direct window counts as KIND 00. -/
def State.kindAt (s : State) (hold mva : Nat) : Option Nat :=
  if bits mva 56 52 = 0x1F then some 0
  else match s.walkFrom mva 4 3 (s.hword hold 0x40) with
  | .ok (_, _, e) => some (bits e.toNat 6 5)
  | .error _ => none

/-- A peer address that names the module itself, a peer without a route or reserved bits (R32). -/
def State.peerBad (s : State) (t : Tgt) : Bool :=
  match t with
  | .host a l => l.tgt = 3 && (bits a 45 43 = s.pw.strapPos.toNat || Tab.get 0 s.net.masks (bits a 45 43) = 0 || bits a 42 40 ≠ 0)
  | _ => false

/-- The entries of a thread's walks for some MVAs may be read (R56). -/
def walksReady (s : State) (addr : Word) (write : Bool) : List Nat → M State
  | [] => .ok s
  | a :: l => do
    lostRead s addr write
    if bits a 56 52 = 0x1F then walksReady s addr write l
    else
      match s.rootReady s.asker a with
      | (true, s) => walksReady s addr write l
      | (false, s) => stay s

/-- Two bytes of one access lie in pages of one KIND, or it faults KINDSTRAD before any byte moves (R263). -/
def samePages (s : State) (a b : Nat) (addr : Word) (write : Bool) : M State := do
  let s ← walksReady s addr write [a, b]
  match s.kindAt s.thr.hold a, s.kindAt s.thr.hold b with
  | some x, some y => if x ≠ y then raise s 0x13 0 addr write else .ok s
  | _, _ => .ok s

/-- A store of the core to words of a target waits at the cluster's port: a fetch is performed after it (R256, R301). -/
def State.storeAhead (s : State) (t : Tgt) (n : Nat) : Bool :=
  (Tab.get [] s.mm.portq (clusterOf s.core)).any fun e => e.who.core = s.core && e.store.isSome && overlap e.tgt e.op.size t n

/-- The bytes of a fetch inside 64 bytes of host or peer memory: from the host-line cache, or what the host or peer has returned, which is
asked for once its port or link has room (R36, R41, R64). -/
def fetchOut (s : State) (pc : Word) (a n : Nat) (leaf : Leaf) : M (List Byte × State) :=
  let h := s.thr.hold
  if leaf.tgt = 1 then
    if !(s.hline (a / 64)).serves false then stay (s.askLine (a / 64) false (.engLine (a / 64) false))
    else if (s.hline (a / 64)).bad then raise s 0x71 0 pc
    else .ok (s.hlcBytes a n, s)
  else
    let who : Req := .thread s.core s.slotNo
    let k := gotKey a leaf
    match s.hi.got.find? fun g => g.1 = who && g.2.1 = k with
    | some (_, _, .ok, d) => .ok (d, s)
    | some (_, _, st, _) => raise (s.dropGot who) (outCause (leaf.tgt = 3) false st) 0 pc
    | none =>
      if s.hi.reqs.any fun r => match r.purpose with | .agent w x => w = who && x = k | _ => false then stay s
      else if leaf.tgt = 2 then
        let p := s.hostPort h a
        stay (if s.portRoom p h && s.tagFree p then s.hostGet p h a n (.agent who k) else s)
      else stay (if s.linkRoom (peerOf a) a h then s.peerGet h a n (.agent who k) else s)

/-- The bytes of an MVA range inside one page, read for a fetch: the current value at the home (R301), once the core's stores to it are
performed and the host's state of its halves allows it (R56). -/
def fetchPiece (s : State) (pc : Word) (mva n : Nat) : M (List Byte × State) := do
  lostRead s pc
  match s.translate s.asker (clusterOf s.core) mva { x := true } with
  | (.ok t, s) =>
    if s.peerBad t then raise s 0x16 0 pc
    else if s.storeAhead t n then stay s
    else
      match t with
      | .dev pa leaf =>
        match s.hdmGate (some (.thread s.core s.slotNo)) pa n false s.thr.hold s.thr.rgn with
        | (false, s) => stay s
        | (true, s) =>
          let (bs, bad, s) := s.homeBytes (atHome leaf s.thr.hold s.thr.rgn pc) pa n
          if bad then raise s (s.badCode pa n) 0 pc else .ok (bs, s)
      | .host a leaf =>
        let k := min n (64 - a % 64)
        let (b1, s) ← fetchOut s pc a k leaf
        let (b2, s) ← if k = n then .ok ([], s) else fetchOut s pc (a + k) (n - k) leaf
        .ok (b1 ++ b2, s)
      | .bank .. => raise s 0x16 0 pc
  | (.error .nonres, s) => pageOut s pc mva false
  | (.error .perm, s) => raise s 0x16 0 pc
  | (.error .waits, s) => stay s

/-- The segment checks of a fetch (R195, R300): SEGLIM and SEGRIGHT, ALIGN for a PC that is not a multiple of 4, then the rest. -/
def State.reachX (s : State) (pc : Word) : Except Nat Spot :=
  match s.reach s.who (refOf pc 0) 12 1 { x := true } with
  | .error c => .error (if pc.toNat % 4 ≠ 0 && c ≠ 0x10 && c ≠ 0x11 then 0x14 else c)
  | .ok p => if pc.toNat % 4 ≠ 0 then .error 0x14 else .ok p

/-- Fetch the word at a PC (R300): from the core's instruction buffer when it holds the word, else from memory. -/
def fetchAt (s : State) (pc : Word) : M (BitVec 96 × State) := do
  match s.reachX pc with
  | .error c => raise s c 0 pc
  | .ok (.win core off) =>
    if s.winBadAny core s.thr.hold off 12 then raise s (s.winCode core s.thr.hold off) 0 pc
    else .ok (wordOfBytes (s.winBytes core s.thr.hold off 12), s)
  | .ok (.mva mva) =>
    let held := (Tab.get [] s.co.ibuf s.core).find? fun b => b.hold = s.thr.hold && b.mva = mva
    let (k, s) := if held.isSome then s.choose 2 else (1, s)
    match held, k with
    | some b, 0 => .ok (b.word, s)
    | _, _ =>
      let n := min 12 (65536 - mva % 65536)
      let s ← if n = 12 then .ok s else samePages s mva (mva + 11) pc false
      let (b1, s) ← fetchPiece s pc mva n
      let (b2, s) ← if n = 12 then .ok ([], s) else fetchPiece s pc (mva + n) (12 - n)
      let w := wordOfBytes (b1 ++ b2)
      let s := s.dropGot (.thread s.core s.slotNo)
      let l := (Tab.get [] s.co.ibuf s.core).filter fun b => !(b.hold = s.thr.hold && b.mva = mva)
      .ok (w, { s with co := { s.co with ibuf := Tab.set [] s.co.ibuf s.core (⟨s.thr.hold, mva, w⟩ :: l) } })

/-! ### Repeats (R311, R312) -/

/-- The access size by which mask b steps a displacement (R311, R365). -/
def accSize (i : Instr) : Nat :=
  match i with
  | .ldp _ | .stp _ | .cas2 _ | .tld _ | .tst _ => 16
  | .tagld _ | .tagst _ | .tagcas _ => 8
  | .feget _ | .feset _ | .feclr _ | .pref _ | .wbk _ | .linv _ => 1
  | .qpush _ | .qpop _ => 64
  | _ =>
    match encOf i with
    | some (_, f, _) => szBytes (mdSz f.md)
    | none => 1

/-- The number of register indices from which a stepped field of a class may be taken, by its index at i = 0 (R311). -/
def stepRange (o : Operand) : Nat × Nat :=
  match o.cls with
  | .G => if o.idx.toNat < 24 then (0, 24) else (24, 28)
  | .P => (0, 32)
  | _ => (0, 16)

/-- One stepped operand: none when it leaves its range (R311). -/
def stepOpd (o : Operand) (d : Nat) : Option Operand :=
  match o.cls with
  | .G | .P | .T | .A =>
    let (lo, hi) := stepRange o
    let n := o.idx.toNat + d
    if lo ≤ n && n < hi then some { o with idx := BitVec.ofNat 7 n } else none
  | _ => some o

/-- What iteration i of a repeat adds to the displacement of a memory operand (R311), exactly as R192 adds displacements. -/
def stepDisp (i : Instr) (m : BitVec 3) (d : Nat) : Nat :=
  match encOf i with
  | some (_, f, sh) => if m.getLsbD 2 && f.b.cls = .Z && sh.form = .M then d * accSize i else 0
  | none => 0

/-- The repeated instruction as iteration i executes it, stepped by `d`, its displacement apart: an error is the field whose index leaves its
range (R311). -/
def stepInstr (i : Instr) (m : BitVec 3) (d : Nat) : Except Nat Instr :=
  match encOf i with
  | none => .ok i
  | some (opc, f, _) =>
    let fd := if m.getLsbD 0 then stepOpd f.d d else some f.d
    let fa := if m.getLsbD 1 then stepOpd f.a d else some f.a
    let fb := if m.getLsbD 2 then stepOpd f.b d else some f.b
    let imm := (m.getLsbD 1 && f.a.cls = .I) || (m.getLsbD 2 && f.b.cls = .I)
    let k := if imm then d else 0
    match fd, fa, fb with
    | none, _, _ => .error 0
    | _, none, _ => .error 1
    | _, _, none => .error 2
    | some xd, some xa, some xb => .ok ((build opc { f with d := xd, a := xa, b := xb, imm := f.imm + BitVec.ofNat 32 k }).getD i)

/-- The guard of an instruction is false (R306): it is skipped, and inside a repeat no field of it is stepped (R311). -/
def skips (i : Instr) (t : Thread) : Bool :=
  match encOf i with
  | some (_, f, _) => t.prd f.grd.toNat = f.neg
  | none => false

/-- The majors that REP may not repeat (R312). -/
def nonRepeatable (opc : Nat) : Bool :=
  opc ≤ 0x0A || opc = 0x34 || (0x65 ≤ opc && opc ≤ 0x67) || (0x70 ≤ opc && opc ≤ 0x7E && opc ≠ 0x7B && opc ≠ 0x7C) ||
  (0xE0 ≤ opc && opc ≤ 0xE5) || (0xF0 ≤ opc && opc ≤ 0xF9)

/-- REP may not repeat the word with the mask (R312). -/
def repBad (w : BitVec 96) (m : BitVec 3) : Bool :=
  let f := fieldsOf w
  let disp := match build (opcOf w) f with
    | some i => (match encOf i with | some (_, _, sh) => sh.form = .M | none => false)
    | none => false
  let bad := fun (o : Operand) => o.cls = .Q || o.cls = .S || o.cls = .Z
  nonRepeatable (opcOf w) || (m.getLsbD 0 && bad f.d) || (m.getLsbD 1 && bad f.a) ||
  (m.getLsbD 2 && bad f.b && !(f.b.cls = .Z && disp))

/-! ### Between instructions -/

/-- What an open issue slot does next: it runs an instruction, or the state goes on without one. -/
inductive Next where
  | run (i : Instr) (s : State)
  | done (s : State)
deriving DecidableEq, Repr

/-- The earliest cause that waits for an instruction boundary (R486). -/
def firstLate (l : List Late) : Option Late :=
  l.foldl (fun (b : Option Late) x => match b with
    | none => some x
    | some y => if x.seq < y.seq then some x else some y) none

/-- The next thing that happens in the slot of the present step: at a boundary a late cause or an eligible interrupt, else the
instruction at the PC, which inside a repeat is the repeated one with its fields stepped. -/
def fetchIssue (s : State) : Next :=
  match s.slot.thr with
  | none => .done (s.endCycle s.core)
  | some t =>
    if s.slot.leave ≠ .stay || s.slot.sfu then .done (s.modSlot fun v => { v with stalled := some (Tab.get 0 s.co.cyc s.core) })
    else
      match if s.slot.atBoundary then firstLate s.slot.late else none with
      | some c =>
        let s' := s.modSlot fun v => { v with late := v.late.filter (· ≠ c) }
        .done ((s'.take ⟨c.cause, c.sub, c.addr, true, false, c.write⟩).endCycle s.core)
      | none =>
        match if s.slot.atBoundary then s.slot.eligible t else none with
        | some b => .done ((s.interrupt t b).endCycle s.core)
        | none =>
          let pc := if t.rep.isSome then t.pc + 12 else t.pc
          match fetchAt s pc with
          | .error e => .done (conclude false s.core (.error e))
          | .ok (w, s) =>
            match decode w with
            | .error .illop => .done (conclude false s.core (raise s 0x01))
            | .error (.illopd i) | .ok i =>
              match t.rep with
              | none => .run i s
              | some r =>
                let d := (r.n - t.repc) * r.step
                match stepInstr i r.mask d with
                | .ok j => .run j (s.modSlot fun v => { v with disp := stepDisp i r.mask d })
                | .error n => if skips i s.thr then .run i s else .done (conclude false s.core (raise s 0x02 n))

/-- What an open issue slot does next; the power unit is out of its reach (R10). -/
def nextIssue (s : State) : Next :=
  match fetchIssue s with
  | .run i s' => .run i { s' with pw := s.pw }
  | .done s' => .done { s' with pw := s.pw }

end Sys2Proof.Machine
end

