-- ==== Sys2Proof/Machine/Access.lean ====
section
/-! DEFINITION. Memory accesses of threads: where a unit lands after its checks (R171, R178, R182, R363), parking (R183),
port and post buffer entries (R255-R258), reads in flight and their answers (R313, R486), store numbers (R255, R266). -/

namespace Sys2Proof.Machine

/-! ### Queues of accesses -/

/-- The port queue of a cluster. -/
def State.portq (s : State) (k : Nat) : List PqEnt := Tab.get [] s.mm.portq k
/-- Replace the port queue of a cluster. -/
def State.setPortq (s : State) (k : Nat) (l : List PqEnt) : State := { s with mm := { s.mm with portq := Tab.set [] s.mm.portq k l } }
/-- The rights of an entry. -/
def PqEnt.need (e : PqEnt) : Need :=
  match e.op with
  | .rd _ | .hd _ => { r := true }
  | .wr _ | .bits .. => { w := true }
  | .cas .. | .cas2 .. => { r := true, w := true, a := true, soft := true }
  | _ => { r := true, w := true, a := true }

/-- Put an entry at the end of the port queue of a core's cluster. -/
def State.toPort (s : State) (core : Nat) (e : PqEnt) : State := s.setPortq (clusterOf core) (s.portq (clusterOf core) ++ [e])

/-- A target moved by a number of bytes. -/
def Tgt.shift (t : Tgt) (n : Nat) : Tgt :=
  match t with
  | .bank c h o => .bank c h (o + n)
  | .dev pa l => .dev (pa + n) (l.at (pa + n))
  | .host a l => .host (a + n) l

/-- The result of ATOM's functions on `n` bytes (R377): 9 is FADD in FP32 or FP64, rounded to nearest even. -/
def atomResult (fn n : Nat) (a b : Nat) : Nat :=
  if fn = 9 then
    let fmt := if n = 8 then 13 else 1
    encodeNum fmt .rne false 0 (ExtNum.add .rne (decodeNum fmt (a % 2 ^ (8 * n))) (decodeNum fmt (b % 2 ^ (8 * n))))
  else atomInt fn n a b

/-- What an atomic or a write of bits writes over the old bytes: nothing when its comparison fails (R224, R377, R379). -/
def PqOp.rmw (o : PqOp) (old : List Byte) : Option (List Byte) :=
  match o with
  | .bits m v => some ((old.zip (m.zip v)).map fun (o, k, b) => (o &&& ~~~k) ||| b)
  | .atom fn n b => some (leBytes n (atomResult fn n (leNat old) b.toNat))
  | .cas n c b => if leNat old = c.toNat % 2 ^ (8 * n) then some (leBytes n b.toNat) else none
  | .cas2 c0 c1 b0 b1 =>
    if leNat (old.take 8) = c0.toNat && leNat ((old.drop 8).take 8) = c1.toNat then some (leBytes 8 b0.toNat ++ leBytes 8 b1.toNat) else none
  | _ => none

/-- The function writes only when it compares equal (R379). -/
def PqOp.compares : PqOp → Bool
  | .cas .. | .cas2 .. => true
  | _ => false

/-- The entry touches a word of the access. -/
def PqEnt.meets (e : PqEnt) (t : Tgt) (n : Nat) : Bool := overlap e.tgt e.op.size t n

/-- Pieces of a translated access: target, offset in the access, bytes, cut at multiples of `gran`. -/
def cutTgt (gran : Nat) : Nat → Tgt → Nat → Nat → List (Tgt × Nat × Nat)
  | 0, _, _, _ => []
  | fuel + 1, t, off, n =>
    if n = 0 then []
    else
      let pos := match t with | .bank _ _ o => o | .dev pa _ => pa | .host a _ => a
      let k := min n (gran - pos % gran)
      (t, off, k) :: cutTgt gran fuel (t.shift k) (off + k) (n - k)

/-- Pieces of an access over its pages. -/
def cutParts (gran : Nat) : List (Tgt × Nat) → Nat → List (Tgt × Nat × Nat)
  | [], _ => []
  | (t, n) :: l, off => cutTgt gran (n + 1) t off n ++ cutParts gran l (off + n)

/-- An entry of the present thread. -/
def State.entry (s : State) (acc store : Option Nat) (op : PqOp) (off : Nat) (tgt : Tgt) (addr : Word) (redirs : Nat) : PqEnt :=
  ⟨s.who, acc, store, op, off, tgt, addr, redirs, tgt.kind, false, false, false, op.size, none⟩

/-! ### Reads in flight -/

/-- A read in flight. -/
def State.acc (s : State) (i : Nat) : Option Acc := Tab.get none s.mm.accs i
/-- Replace a read in flight. -/
def State.setAcc (s : State) (i : Nat) (a : Option Acc) : State := { s with mm := { s.mm with accs := Tab.set none s.mm.accs i a } }

/-- A new read in flight of the present slot: it counts in LD (R313); `unord` says that its page is of KIND 10 (R262), `wr` that it also
writes. -/
def State.newAcc (s : State) (left size : Nat) (dst : Dst) (ext : Ext) (acq : Option Word) (unord : Bool := false) (wr : Bool := false) :
    Nat × State :=
  let (i, s) := s.newId
  let s := s.setAcc i (some ⟨s.core, s.slotNo, left, [], size, dst, ext, acq, i, none, s.thr.hold, unord, [], wr, none⟩)
  (i, s.modSlot fun v => { v with ld := v.ld + 1, ldu := if unord then v.ldu + 1 else v.ldu })

/-- The counter LD is full (R313). -/
def ldFull (s : State) : M Unit := if 63 ≤ s.slot.ld then stay s else .ok ()
/-- The counter ST is full: it is always %issued − %drained (R313). -/
def stFull (s : State) : M Unit := if 63 ≤ s.slot.issued - s.slot.drained then stay s else .ok ()

/-- A value extended as SGN says (R308, R367). -/
def extVal (e : Ext) (bs : List Byte) : Word :=
  if e.sgn then BitVec.ofInt 64 (sgnNat (8 * e.bytes) (leNat (bs.take e.bytes))) else BitVec.ofNat 64 (leNat (bs.take e.bytes))

/-- The bank-exact number of a G register as a destination: 24-27 the user bank, 28-31 the supervisor bank (R166). -/
def Thread.dstNo (t : Thread) (n : Nat) : Nat := if 24 ≤ n && t.s then n + 4 else n

/-- Write a register by its bank-exact number. -/
def Thread.setNo (t : Thread) (n : Nat) (v : Word) : Thread :=
  if n < 24 then { t with g := Tab.set 0 t.g n v }
  else if n < 28 then { t with hu := Tab.set 0 t.hu (n - 24) v }
  else { t with hs := Tab.set 0 t.hs (n - 28) v }

/-- The operand index that a bank-exact number stands for. -/
def idxNo (n : Nat) : Nat := if 28 ≤ n then n - 4 else n

/-- The destination of a returning access by operand; places in a queue are reserved now (R326), registers are pending. -/
def State.dstOf (s : State) (o : Operand) (two : Bool) : Dst × State :=
  let n := o.idx.toNat
  match o.cls with
  | .G =>
    (if two then .pair (s.thr.dstNo n) else .reg (s.thr.dstNo n),
     s.modSlot fun v => { v with pendG := v.pendG ++ (if two then [n, n + 1] else [n]) })
  | .Q =>
    let s := s.pin
    let (i, s) := s.reserveQ s.core s.thr.hold n
    if two then
      let (j, s) := s.reserveQ s.core s.thr.hold n
      (.queue n [i, j], s)
    else (.queue n [i], s)
  | _ => (.none, s)

/-- Write a value at once, as if it had returned: one or two words. -/
def State.dstNow (s : State) (o : Operand) (two : Bool) (e : Ext) (bs : List Byte) : State :=
  if two then
    let v0 := BitVec.ofNat 64 (leNat (bs.take 8))
    let v1 := BitVec.ofNat 64 (leNat ((bs.drop 8).take 8))
    match o.cls with
    | .G => s.setG2 o.idx.toNat v0 v1
    | _ => (s.dst o v0).dst o v1
  else s.dst o (extVal e bs)

/-- The first eight bytes of a list as a word. -/
def wordLe (bs : List Byte) : Word := BitVec.ofNat 64 (leNat (bs.take 8))

/-- A tile register's 4,112 bytes. -/
def State.tileAt (s : State) (core t : Nat) : List Byte := Tab.bytes s.co.treg ((core * 16 + t) * 4112) 4112

/-- Write a tile register: the rest of it becomes 0 (R422). -/
def State.setTile (s : State) (core t : Nat) (bs : List Byte) : State :=
  { s with co := { s.co with treg := Tab.setBytes s.co.treg ((core * 16 + t) * 4112) ((bs ++ List.replicate 4112 0).take 4112) } }

/-- Complete a destination with the bytes that returned; none gives up queue places (R486). -/
def State.land (s : State) (core slot hold : Nat) (d : Dst) (e : Ext) (bs : Option (List Byte)) : State :=
  let vals : List Word := match bs with
    | none => []
    | some b => match d with
      | .pair _ | .queue _ [_, _] => [wordLe b, wordLe (b.drop 8)]
      | _ => [extVal e b]
  match d with
  | .reg g => s.modSlotAt core slot fun v =>
      { v with pendG := v.pendG.filter (· ≠ idxNo g),
               thr := v.thr.map fun t => match vals with | [x] => t.setNo g x | _ => t }
  | .pair g => s.modSlotAt core slot fun v =>
      { v with pendG := v.pendG.filter fun n => n ≠ idxNo g && n ≠ idxNo g + 1,
               thr := v.thr.map fun t => match vals with | [x, y] => (t.setNo g x).setNo (g + 1) y | _ => t }
  | .queue q ids =>
    let l := ids.foldl (fun (p : List QEnt × List Word) i => (fillQ p.1 i p.2.head?, p.2.tail)) (s.qOut core hold q, vals)
    s.setQOut core hold q l.1
  | .tile t => match bs with
    | some b => s.setTile core t b
    | none => s
  | _ => s

/-- A doomed thread leaves the slot: its loads in flight are discarded (R157). -/
def State.killing (s : State) (core slot : Nat) : Bool := (s.slotAt core slot).leave = .kill

/-- The record after one more unit has completed with its bytes (R182). -/
def Resume.next (r : Resume) (u : Nat) (d : List Byte) : Resume :=
  { r with unit := u, data := r.data ++ [d], acc := none, again := false, addr := if r.own.1 = u then none else r.addr }

/-- The bytes that a read has gathered. -/
def Acc.bytes (a : Acc) : List Byte := Tab.bytes a.buf 0 a.size

/-- THE ANSWER OF A RETURNING ACCESS (R313, R486): the destination is written, LD falls, an acquire completes, and a
cause met on the way waits for the next instruction boundary. A unit of a longer instruction joins the units that
the instruction has completed; when it met a cause the instruction ends with its destination as it stands. -/
def State.answer (s : State) (i : Nat) (a : Acc) : State :=
  let s := (s.setAcc i none).modSlotAt a.core a.slot fun v => { v with ld := v.ld - 1, ldu := if a.unord then v.ldu - 1 else v.ldu }
  let s := match a.cause with
    | none => s.land a.core a.slot a.hold a.dst a.ext (if s.killing a.core a.slot then none else some a.bytes)
    | some (c, sub, addr) =>
      (s.land a.core a.slot a.hold a.dst a.ext none).modSlotAt a.core a.slot fun v =>
        if v.thr.isSome && a.order ≠ 0 then { v with late := v.late ++ [⟨a.order, c, sub, addr, a.wr⟩] } else v
  let s := match a.dst with
    | .unit => s.modSlotAt a.core a.slot fun v =>
        if v.resume.acc = some i then
          (match a.cause with
           | none => { v with resume := v.resume.next (v.resume.unit + 1) a.bytes }
           | some _ => { v.done false with thr := v.thr.map Thread.advance })
        else v
    | _ => s
  match a.acq with
  | some _ => (s.acquire a.core).modSlotAt a.core a.slot fun v => { v with acq := v.acq.filter (· ≠ i) }
  | none => s

/-! ### Store numbers (R255, R266) -/

/-- A new global store of the present slot in a number of parts (R255): its number, and the state. -/
def State.newStore (s : State) (parts : Nat) (bank : Option Nat) : Nat × State :=
  let n := s.slot.issued + 1
  (n, s.modSlot fun v => Slot.redrain { v with issued := n, stores := v.stores ++ [(⟨n, parts, true, bank⟩ : StoreOut)] })

/-- What an entry leaves behind for the moment at which it is performed. -/
def PqEnt.note (e : PqEnt) : Note := ⟨e.who.core, e.who.slot, e.who.launch, e.store, decide (e.kind = 1), e.rel⟩

/-- A store is found on a KIND 10 page and leaves the ordered stores (R266). -/
def State.unorder (s : State) (core slot num : Nat) : State :=
  s.modSlotAt core slot fun v => { v with stores := v.stores.map fun o => if o.num = num then { o with ordered := false } else o }

/-- Put entries into the present slot's post buffer (R255). -/
def State.toPost (s : State) (l : List PqEnt) : State := s.modSlot fun v => { v with post := v.post ++ l }

/-! ### Where a unit lands -/

/-- Where one unit of an access lands: looked-up words of the issuing core's bank, another core's bank, or translated
pages. -/
inductive Hit where
  | here (off : Nat) (acts : List (Nat × Nat))
  | far (core off : Nat)
  | glob (parts : List (Tgt × Nat))
deriving DecidableEq, Repr

/-- The address of a word of a unit, as a segmented pointer (R165). -/
def wordAddr (r : Ref) (off w : Nat) : Word := (r.add ((8 * w : Nat) - (off : Int))).word

/-- The present access parks in its slot on words of the core's bank (R183), to be looked up again at an address. -/
def parkWords {α : Type} (s : State) (ws : List Nat) (full : Bool) (addr : Option Word) (redirs : Nat) : M α :=
  leftM (s.modSlot fun v => { v with
    park := some ⟨ws.map fun w => s.winPhys s.thr.hold (8 * w) / 8, full, false⟩,
    resume := { v.resume with addr := addr, redirs := redirs, own := v.resume.cur } })

/-- The present access parks in its slot (R183). -/
def parkAt {α : Type} (s : State) (off n : Nat) (full : Bool) (r : Ref) (redirs : Nat) : M α :=
  parkWords s (winWords off n) full (some r.word) redirs

/-- Translate one byte's page for the present thread; an address of the direct windows needs no translation (R196). -/
def transOne (s : State) (hold k mva : Nat) (need : Need) (addr : Word) : M (Tgt × State) :=
  if bits mva 56 52 = 0x1F then
    (match s.direct hold mva 1 with
     | .ok (.win core off) => .ok (.bank core hold off, s)
     | _ => raise s 0x16 0 addr need.w)
  else match lostRead s addr need.w with
  | .error e => .error e
  | .ok _ =>
    match s.translate s.asker k mva need with
    | (.ok t, s) => if s.peerBad t then raise s 0x16 0 addr need.w else .ok (t, s)
    | (.error .nonres, s) => pageOut s addr mva need.w
    | (.error .perm, s) => raise s 0x16 0 addr need.w
    | (.error .waits, s) => stay s

/-- Translate an access of `n` bytes, at most two pages (R261, R263): the targets with their bytes. -/
def transParts (s : State) (hold k mva n : Nat) (need : Need) (addr : Word) : M (List (Tgt × Nat) × State) := do
  let first := min n (65536 - mva % 65536)
  if first = n then
    let (t, s) ← transOne s hold k mva need addr
    .ok ([(t, n)], s)
  else
    let s ← samePages s mva (mva + first) addr need.w
    let (t, s) ← transOne s hold k mva need addr
    match s.spotOf hold (mva + first) (n - first) with
    | .error c => raise s c 0 addr need.w
    | .ok (.win core off) => .ok ([(t, first), (.bank core hold off, n - first)], s)
    | .ok (.mva b) =>
      let (u, s) ← transOne s hold k b need addr
      .ok ([(t, first), (u, n - first)], s)

/-- The address behind a pointer's first byte: a window offset or an MVA. -/
def State.addrOf (s : State) (r : Ref) : Nat :=
  match s.reach s.who r 1 1 {} with
  | .ok (.win _ off) => off
  | .ok (.mva a) => a
  | .error _ => r.off.toNat

/-- One access that straddles the end of its window, carve-out or bank faults WINSTRAD, and one whose bytes lie in pages of
different KIND faults KINDSTRAD, before any byte moves (R172, R173, R190, R263). What its first byte meets comes before, with
the access's unit. -/
def wholeOk (s : State) (r : Ref) (n al : Nat) (need : Need) : M State :=
  match s.reach s.who r 1 al need, s.reach s.who r n al need with
  | .ok _, .error 0x12 => raise s 0x12 0 r.word need.w
  | .ok _, .ok (.mva a) => if a / 65536 = (a + n - 1) / 65536 then .ok s else samePages s a (a + n - 1) r.word need.w
  | _, _ => .ok s

/-- Cut `n` bytes at an address into the units of its 128-byte lines: offset and length (R181). -/
def lineCuts : Nat → Nat → Nat → Nat → List (Nat × Nat)
  | 0, _, _, _ => []
  | fuel + 1, a, off, n => if n = 0 then [] else
    let k := min n (128 - (a + off) % 128)
    (off, k) :: lineCuts fuel a (off + k) (n - k)

/-- A roaming thread's access to a device word homed in another cluster migrates (R132). -/
def roams (s : State) (parts : List (Tgt × Nat)) : Option Nat :=
  if s.thr.pinned then none
  else
    match parts with
    | (.dev _ l, _) :: _ => if l.home ≠ clusterOf s.core then some l.home else none
    | _ => none

/-- Every page of an access is of KIND 10 (R262). -/
def unordered (parts : List (Tgt × Nat)) : Bool := parts.all fun (t, _) => t.kind = 2

/-- An access after an acquire of its thread waits until the acquire has completed, unless its page is of KIND 10 (R264). -/
def acqPast (s : State) (unord : Bool) : M Unit := if s.slot.acq ≠ [] && !unord then stay s else .ok ()

/-- The words of a window by their places in the core's bank. -/
def State.physWords (s : State) (ws : List Nat) : List Nat := ws.map fun w => s.winPhys s.thr.hold (8 * w) / 8

/-- An earlier vector or tile instruction of another slot of the core has still to touch one of the words: a later access is held until it
has (R406). -/
def busyPast (s : State) (ws : List Nat) : M Unit :=
  let ps := s.physWords ws
  let before := fun (v : Slot) => match v.busyAt, s.slot.busyAt with
    | some a, some b => decide (a < b)
    | some _, none => true
    | none, _ => false
  if s.co.slots.any fun (k, v) =>
      k / 16 = s.core && k % 16 ≠ s.slotNo && v.leave = .stay && v.park.isNone && before v && v.busy.any ps.contains then stay s
  else .ok ()

/-- The present vector or tile instruction takes its place in the order of issue, with the words that it has to touch (R406). -/
def State.busyOn (s : State) (vu : Bool) (ws : List Nat) : State :=
  if s.slot.busyAt.isSome then s
  else
    let (i, s) := s.newId
    s.modSlot fun v => { v with busyAt := some i, busy := s.physWords ws, vu := vu }

/-- Words of a unit that has been performed (R406). -/
def State.busyOff (s : State) (ws : List Nat) : State :=
  if s.slot.busy = [] then s else s.modSlot fun v => { v with busy := (s.physWords ws).foldl List.erase v.busy }

/-- The part of a vector or tile unit that lies in one line of the bank, to which a REDIRECT may have led it; any other unit is whole
(R181). -/
def unitLen (kind off n : Nat) : Nat := if kind = kVR || kind = kVW then min n (128 - off % 128) else n

/-- Where one unit of an access of the present thread lands, with the orders 9 to 11 of R171 applied and REDIRECTs
followed (R178). The result carries the pointer finally used and the redirects made. `move` says that the access
may migrate a roaming thread. -/
def locate (kind n al : Nat) (need : Need) (move : Bool) : Nat → State → Ref → Nat → M (Hit × Ref × Nat × State)
  | 0, s, r, _ => raise s 0x21 0 r.word need.w
  | fuel + 1, s, r, redirs => do
    let p ← reachM s s.who r n al need
    match p with
    | .win core off =>
      let hold := s.thr.hold
      acqPast s false
      if core = s.core then
        let s := s.pin
        let m := unitLen kind off n
        busyPast s (winWords off m)
        match s.unitLook core hold kind (winWords off m) with
        | .wait full => parkAt s off m full r redirs
        | .trap sub w => raise s 0x20 sub (wordAddr r off w) need.w
        | .redirMany w => raise s 0x21 1 (wordAddr r off w) need.w
        | .redirect w =>
          if 4 ≤ redirs then raise s 0x21 0 (wordAddr r off w) need.w
          else if s.winBad core hold (8 * w) then raise s (s.winCode core hold (8 * w)) 0 (wordAddr r off w)
          else locate kind n al need move fuel s (refOf (wordLe (s.winBytes core hold (8 * w) 8)) 0) (redirs + 1)
        | .go acts => .ok (.here off acts, r, redirs, s)
      else if !s.thr.pinned && clusterOf core ≠ clusterOf s.core && move then leftM (s.migrateTo (clusterOf core) false)
      else .ok (.far core off, r, redirs, s)
    | .mva a =>
      let (parts, s) ← transParts s s.thr.hold (clusterOf s.core) a n need r.word
      acqPast s (unordered parts)
      match roams s parts, move with
      | some k, true => leftM (s.migrateTo k false)
      | _, _ => .ok (.glob parts, r, redirs, s)

/-- The pointer and redirects with which the unit of a number and own pointer goes on, when it was parked (R183, R473). -/
def State.parkedAt (s : State) (me : Nat × Word) : Option (Ref × Nat) :=
  if s.slot.resume.own = me then s.slot.resume.addr.map fun a => (refOf a 0, s.slot.resume.redirs) else none

/-- The unit with an own pointer begins: where it was parked, or at that pointer. -/
def State.startAt (s : State) (r : Ref) : Ref × Nat × State :=
  let me := (s.slot.unit, r.word)
  let (p, k) := (s.parkedAt me).getD (r, 0)
  (p, k, s.modSlot fun v => { v with resume := { v.resume with cur := me } })

/-- Where the unit of a one-unit instruction lands. -/
def locate1 (s : State) (kind n al : Nat) (need : Need) (r : Ref) : M (Hit × Ref × Nat × State) :=
  let (r, k, s) := s.startAt r
  locate kind n al need true 6 s r k

/-! ### Units of longer instructions (R182) -/

/-- A destination unit, or an element of VGATH or VSCAT, begins: when it waits, the instruction is executed again with its sources as they then stand
(R243, R416). -/
def State.destUnit (s : State) : State := s.modSlot fun v => { v with resume := { v.resume with again := true } }

/-- The present unit: replayed when the instruction has completed it before it waited, otherwise performed and recorded. An engine access
may fall between two units (R406): whether one does is the part's choice. -/
def unitOnce (s : State) (k : State → M (List Byte × State)) : M (List Byte × State) :=
  let u := s.slot.unit
  let s := s.modSlot fun v => { v with unit := u + 1 }
  if u < s.slot.resume.unit then .ok (s.slot.resume.data.getD u [], s)
  else if s.slot.resume.acc.isSome then stay s
  else do
    let (d, s) ← k s
    let (p, s) := (s.modSlot fun v => { v with resume := v.resume.next (u + 1) d }).choose 2
    if p = 1 then stay s else .ok (d, s)

/-- The rest of a unit behind the end of a line at the target of its REDIRECT is a unit of its own (R181): it begins at a pointer. -/
def State.goOn (s : State) (r : Ref) (redirs : Nat) : State :=
  s.modSlot fun v => { v with resume := { v.resume with addr := some r.word, redirs := redirs, own := (v.unit + 1, r.word) } }

/-- The pointer at which the rest of a unit begins. -/
def State.restAt (s : State) : Ref × Nat × State :=
  (refOf (s.slot.resume.addr.getD 0) 0, s.slot.resume.redirs, s.modSlot fun v => { v with resume := { v.resume with cur := v.resume.own } })

/-- The units of an access to another core's bank: one for each line that it touches there (R181). -/
def farParts (core hold off n : Nat) : List (Tgt × Nat × Nat) :=
  (lineCuts (n + 1) off 0 n).map fun (o, m) => (.bank core hold (off + o), o, m)

/-- A unit's read of a global target or of another core's bank: the parts are sent, and the instruction waits for them. -/
def State.sendRead (s : State) (parts : List (Tgt × Nat × Nat)) (size al : Nat) (addr : Word) (redirs : Nat) : M (List Byte × State) := do
  ldFull s
  let (i, s) := s.newAcc parts.length size .unit ⟨8, false⟩ none (parts.all fun (t, _, _) => t.kind = 2)
  let s := parts.foldl (fun s (t, off, n) =>
    let e := { s.entry (some i) none (.rd n) off t addr redirs with vec := true, al := al }
    let s := if e.kind = 1 then s.modSlot fun v => { v with strong := v.strong + 1 } else s
    s.toPort s.core e) s
  stay (s.modSlot fun v => { v with resume := { v.resume with acc := some i } })

/-- An older store of the slot to a word of the access is not yet performed. -/
def State.behindStore (s : State) (t : Tgt) (n : Nat) : Bool :=
  let mine := fun (e : PqEnt) => e.who.core = s.core && e.who.slot = s.slotNo && e.store.isSome && e.meets t n
  s.slot.post.any mine || (s.portq (clusterOf s.core)).any mine

/-- A core's pool holds an entry for a word of a device access (R216). -/
def State.pooledAt (s : State) (core : Nat) (t : Tgt) (n : Nat) : Bool :=
  match t with
  | .dev pa _ => (s.pools core).any fun e => pa / 8 ≤ e.word && e.word ≤ (pa + n - 1) / 8
  | _ => false

/-- A core's own access to a pooled word first merges the entry: mark it due (R213, R216). -/
def State.dueAt (s : State) (core : Nat) (t : Tgt) (n : Nat) : State :=
  match t with
  | .dev pa _ => s.setPools core ((s.pools core).map fun e =>
      if pa / 8 ≤ e.word && e.word ≤ (pa + n - 1) / 8 then { e with due := true } else e)
  | _ => s

/-- The issuing core's pool holds an entry for a word of a device access. -/
def State.pooled (s : State) (t : Tgt) (n : Nat) : Bool := s.pooledAt s.core t n
/-- The issuing core's entries for the words of an access are due. -/
def State.dueWord (s : State) (t : Tgt) (n : Nat) : State := s.dueAt s.core t n

/-- An access waits for the slot's older store to its words, and for the merge of the core's pool entry (R216, R256). -/
def clearWay (s : State) (parts : List (Tgt × Nat)) : M Unit :=
  if parts.any fun (t, n) => s.behindStore t n then stay s
  else if parts.any fun (t, n) => s.pooled t n then stay (parts.foldl (fun s (t, n) => s.dueWord t n) s)
  else .ok ()

/-- A unit that reads `n` bytes from a pointer after some redirects: at the own bank at once, up to the end of the line, elsewhere by a read that
the instruction waits for. -/
def readFrom (kind : Nat) (need : Need) (s : State) (r : Ref) (redirs n al : Nat) : M (List Byte × State) := do
  let (hit, r, k, s) ← locate kind n al need true 6 s r redirs
  match hit with
  | .here off acts =>
    let m := unitLen kind off n
    if s.unitBad s.core s.thr.hold acts then raise s (s.unitCode s.core s.thr.hold acts) 0 r.word
    else
      let bs := s.unitRead s.core s.thr.hold off m acts
      let s := (s.retag s.core s.thr.hold acts).busyOff (winWords off m)
      .ok (bs, if m < n then s.goOn (r.add m) k else s)
  | .far core off =>
    clearWay s [(.bank core s.thr.hold off, n)]
    s.sendRead (farParts core s.thr.hold off n) n al r.word k
  | .glob parts =>
    clearWay s parts
    s.sendRead (cutParts 8 parts 0) n al r.word k

/-- A unit that reads `n` bytes (VR, or LD of a shape record), and its rest behind the end of a line. -/
def unitRd (kind : Nat) (need : Need) (s : State) (r : Ref) (n al : Nat) : M (List Byte × State) := do
  let (d, s) ← unitOnce s fun s =>
    let (r, k, s) := s.startAt r
    readFrom kind need s r k n al
  if n ≤ d.length then .ok (d, s)
  else
    let (e, s) ← unitOnce s fun s =>
      let (r, k, s) := s.restAt
      readFrom kind need s r k (n - d.length) 1
    .ok (d ++ e, s)

/-- Bits to be written into a byte: a mask and the bits under it. -/
abbrev BitsOf := Nat × Nat

/-- A write of bits into bytes that lie at rising distances from a place, as one operation from the first to the last of them. -/
def bitsOp (vals : List (Nat × BitsOf)) : PqOp :=
  let lo := (vals.map (·.1)).headD 0
  let n := (vals.map (·.1)).getLastD 0 + 1 - lo
  let at_ := fun i => ((vals.find? fun (a, _) => a = lo + i).map (·.2)).getD (0, 0)
  let m := (List.range n).map fun i => BitVec.ofNat 8 (at_ i).1
  let v := (List.range n).map fun i => BitVec.ofNat 8 (at_ i).2
  if m.all (· = 255) then .wr v else .bits m v

/-- One store to another core's bank: a unit for each line that it touches there (R181). -/
def farStore (s : State) (core off : Nat) (vals : List (Nat × BitsOf)) (al : Nat) (r : Ref) (redirs : Nat) : M State := do
  stFull s
  let parts := (lineCuts (vals.length + 200) off 0 ((vals.map (·.1)).getLastD 0 + 1)).filterMap fun (o, m) =>
    let vs := vals.filter fun (a, _) => o ≤ a && a < o + m
    vs.head?.map fun (a, _) => (a, bitsOp vs)
  let (num, s) := s.newStore parts.length (some core)
  .ok (s.toPost (parts.map fun (a, o) =>
    { s.entry none (some num) o 0 (.bank core s.thr.hold (off + a)) (r.add a).word redirs with vec := true, al := al }))

/-- A unit that writes bytes to a pointer after some redirects: at the own bank at once, up to the end of the line, elsewhere a global store. The
bytes that it returns say how many are written when some are left. -/
def writeFrom (s : State) (r : Ref) (redirs : Nat) (data : List Byte) (al : Nat) : M (List Byte × State) := do
  let n := data.length
  let (hit, r, k, s) ← locate kVW n al { w := true } true 6 s r redirs
  match hit with
  | .here off acts =>
    let m := unitLen kVW off n
    let s := ((s.unitWrite s.core s.thr.hold off (data.take m) acts s.thr.rgn r.word).retag s.core s.thr.hold acts).busyOff (winWords off m)
    .ok (if m < n then ([BitVec.ofNat 8 m], s.goOn (r.add m) k) else ([], s))
  | .far core off =>
    let s ← farStore s core off ((List.range n).map fun i => (i, 255, (data.getD i 0).toNat)) al r k
    .ok ([], s)
  | .glob parts =>
    stFull s
    if parts.any fun (t, m) => s.pooled t m then stay (parts.foldl (fun s (t, m) => s.dueWord t m) s)
    else
      let ps := cutParts 32 parts 0
      let (num, s) := s.newStore ps.length none
      let s := if ps.any fun (t, _, _) => t.kind = 1 then s.modSlot fun v => { v with strong := v.strong + ps.length } else s
      .ok ([], s.toPost (ps.map fun (t, off, m) =>
        { s.entry none (some num) (.wr ((data.drop off).take m)) off t r.word k with vec := true, al := al }))

/-- A unit that writes bytes (VW), and its rest behind the end of a line. -/
def unitWr (s : State) (r : Ref) (data : List Byte) (al : Nat) : M State := do
  let (d, s) ← unitOnce s fun s =>
    let (r, k, s) := s.startAt r
    writeFrom s r k data al
  match d with
  | m :: _ =>
    let (_, s) ← unitOnce s fun s =>
      let (r, k, s) := s.restAt
      writeFrom s r k (data.drop m.toNat) 1
    .ok s
  | [] => .ok s

end Sys2Proof.Machine
end

