-- ==== Sys2Proof/Machine/LoadStore.lean ====
section
/-! DEFINITION. Loads, stores, tags, full/empty bits and line operations (R361-R375). -/

namespace Sys2Proof.Machine

/-! ### Loads (R367, R368) -/

/-- The bytes of an access inside the bytes of an older store. -/
def forwarded (e : PqEnt) (t : Tgt) (n : Nat) : Option (List Byte) :=
  match e.op, e.tgt, t with
  | .wr d, .dev pb _, .dev pa _ => if pb ≤ pa && pa + n ≤ pb + d.length then some ((d.drop (pa - pb)).take n) else none
  | .wr d, .host b k, .host a l => if k.tgt = l.tgt && b ≤ a && a + n ≤ b + d.length then some ((d.drop (a - b)).take n) else none
  | _, _, _ => none

/-- The value of a word piece that the core can give without its home, and the host write that gave it (R62): from the youngest older
store of the same slot that is still in the post buffer or the port queue, when it covers the piece, or the core's L1 (R258). A store that
has left the post buffer is older than one that has not. A bank is always looked up (R363). -/
def State.quick (s : State) (t : Tgt) (n : Nat) : Option (List Byte × List (Nat × Nat)) × State :=
  let mine := (s.portq (clusterOf s.core) ++ s.slot.post).filter fun e =>
    e.who.core = s.core && e.who.slot = s.slotNo && e.store.isSome && e.meets t n
  match mine.getLast? with
  | some e =>
    match forwarded e t n with
    | some d =>
      let (k, s) := s.choose 2
      (if k = 0 then some (d, []) else none, s)
    | none => (none, s)
  | none =>
    match t with
    | .dev pa leaf =>
      if leaf.kind = 1 || (s.portq (clusterOf s.core)).any fun e => e.who.core = s.core && e.meets t n then (none, s)
      else
        match s.l1 s.core (pa / 8) with
        | some l =>
          let (k, s) := s.choose 2
          if k = 0 then (some (((leBytes 8 l.val.toNat).drop (pa % 8)).take n, l.src.toList), s) else (none, s)
        | none => (none, s)
    | _ => (none, s)

/-- All pieces of an access at once, when each can be had without its home, and the host writes that gave them. -/
def State.quickAll (s : State) : List (Tgt × Nat × Nat) → Option (List Byte × List (Nat × Nat)) × State
  | [] => (some ([], []), s)
  | (t, _, n) :: l =>
    match s.quick t n with
    | (some d, s) =>
      match s.quickAll l with
      | (some r, s) => (some (d.1 ++ r.1, d.2 ++ r.2), s)
      | (none, s) => (none, s)
    | (none, s) => (none, s)

/-- Send the pieces of a returning access to the port queue. -/
def State.sendParts (s : State) (i : Nat) (op : Nat → PqOp) (rel : Bool) (ps : List (Tgt × Nat × Nat)) (addr : Word) (redirs : Nat) : State :=
  ps.foldl (fun s (t, off, n) =>
    let e := { s.entry (some i) none (op n) off t addr redirs with rel := rel }
    let s := if e.kind = 1 then s.modSlot fun v => { v with strong := v.strong + 1 } else s
    s.toPort s.core e) s

/-- An acquire that reads by an access in flight is open until the access is answered (R264). -/
def State.openAcq (s : State) (acq : Option Word) (i : Nat) : State :=
  if acq.isSome then s.modSlot fun v => { v with acq := v.acq ++ [i] } else s

/-- A load of `n` bytes into an operand; `two` loads a pair of words; `acq` is the plot of an acquire. -/
def loadOp (s : State) (o : Operand) (two : Bool) (n al : Nat) (e : Ext) (r : Ref) (acq : Option Word) : M Fin := do
  if acq.isSome && s.slot.rels ≠ 0 then stay s
  else
    let (hit, r, k, s) ← locate1 s kLD n al { r := true } r
    match hit with
    | .here off acts =>
      if s.unitBad s.core s.thr.hold acts then raise s (s.unitCode s.core s.thr.hold acts) 0 r.word
      else
        let bs := s.unitRead s.core s.thr.hold off n acts
        let s := s.retag s.core s.thr.hold acts
        let s := if acq.isSome then s.acquire s.core else s
        .ok (.step (s.dstNow o two e bs))
    | .far core off =>
      ldFull s
      if s.behindStore (.bank core s.thr.hold off) n then stay s
      else
        let (d, s) := s.dstOf o two
        let (i, s) := s.newAcc 1 n d e acq
        let s := s.openAcq acq i
        .ok (.step (s.sendParts i PqOp.rd false [(.bank core s.thr.hold off, 0, n)] r.word k))
    | .glob parts =>
      ldFull s
      let ps := cutParts 8 parts 0
      if parts.any fun (t, m) => s.pooled t m then stay (parts.foldl (fun s (t, m) => s.dueWord t m) s)
      else
        match s.quickAll ps with
        | (some (bs, src), s) =>
          if (match acq with | some w => s.acqOpen w src | none => false) then stay s
          else
            let s := if acq.isSome then s.acquire s.core else s
            .ok (.step (s.dstNow o two e bs))
        | (none, s) =>
          if parts.any fun (t, m) => s.behindStore t m then stay s
          else
            let (d, s) := s.dstOf o two
            let (i, s) := s.newAcc ps.length n d e acq (unordered parts)
            let s := s.openAcq acq i
            .ok (.step (s.sendParts i PqOp.rd false ps r.word k))

/-- LD (R367). -/
def execLd (f : Fields) (s : State) : Host.Outcome State Fault Refusal :=
  issue (.ld f) s fun f s =>
    let n := szBytes (mdSz f.md)
    loadOp s f.d false n n ⟨n, mdSgn f.md⟩ (s.refM f) none

/-- LDP (R367). -/
def execLdp (f : Fields) (s : State) : Host.Outcome State Fault Refusal :=
  issue (.ldp f) s fun f s => loadOp s f.d true 16 16 ⟨8, false⟩ (s.refM f) none

/-- LDACQ (R367). -/
def execLdacq (f : Fields) (s : State) : Host.Outcome State Fault Refusal :=
  issue (.ldacq f) s fun f s => do
    checkPlot s (s.g f.b)
    let n := szBytes (mdSz f.md)
    loadOp s f.d false n n ⟨n, mdSgn f.md⟩ (s.refP f) (some (s.g f.b))

/-! ### Stores (R367, R368) -/

/-- The bytes that a store's OPD gives: one source, or a pair, and the state after their pops. -/
def State.storeSrc (s : State) (o : Operand) (two : Bool) (n : Nat) : List Byte × State :=
  let (a, s) := s.src o 0
  if two then
    let (b, s) := if o.cls = .G then (s.g1 o, s) else s.src o 0
    (leBytes 8 a.toNat ++ leBytes 8 b.toNat, s)
  else (leBytes n a.toNat, s)

/-- A store of `n` bytes; `rel` is the plot of a release. -/
def storeOp (s : State) (o : Operand) (two : Bool) (n al : Nat) (r : Ref) (rel : Option Word) : M Fin := do
  let (hit, r, k, s) ← locate1 s kST n al { w := true } r
  let s ← match rel with | some w => release s w | none => .ok s
  match hit with
  | .here off acts =>
    let (d, s) := s.storeSrc o two n
    .ok (.step ((s.unitWrite s.core s.thr.hold off d acts s.thr.rgn r.word).retag s.core s.thr.hold acts))
  | .far core off =>
    stFull s
    let (d, s) := s.storeSrc o two n
    let (num, s) := s.newStore 1 (some core)
    let s := if rel.isSome then s.modSlot fun v => { v with rels := v.rels + 1 } else s
    .ok (.step (s.toPost [{ s.entry none (some num) (.wr d) 0 (.bank core s.thr.hold off) r.word k with rel := rel.isSome }]))
  | .glob parts =>
    stFull s
    if parts.any fun (t, m) => s.pooled t m then stay (parts.foldl (fun s (t, m) => s.dueWord t m) s)
    else
      let (d, s) := s.storeSrc o two n
      let ps := cutParts 8 parts 0
      let (num, s) := s.newStore ps.length none
      let strong := (ps.filter fun (t, _, _) => t.kind = 1).length
      let s := s.modSlot fun v =>
        { v with strong := v.strong + strong, rels := v.rels + (if rel.isSome then ps.length else 0) }
      .ok (.step (s.toPost (ps.map fun (t, off, m) =>
        { s.entry none (some num) (.wr ((d.drop off).take m)) off t r.word k with rel := rel.isSome })))

/-- ST (R367). -/
def execSt (f : Fields) (s : State) : Host.Outcome State Fault Refusal :=
  issue (.st f) s fun f s =>
    let n := szBytes (mdSz f.md)
    storeOp s f.d false n n (s.refM f) none

/-- STP (R367). -/
def execStp (f : Fields) (s : State) : Host.Outcome State Fault Refusal :=
  issue (.stp f) s fun f s => storeOp s f.d true 16 16 (s.refM f) none

/-- STREL (R367). -/
def execStrel (f : Fields) (s : State) : Host.Outcome State Fault Refusal :=
  issue (.strel f) s fun f s => do
    checkPlot s (s.g f.b)
    let n := szBytes (mdSz f.md)
    storeOp s f.d false n n (s.refP f) (some (s.g f.b))

/-! ### Lines (R369, R370) -/

/-- The device line that a pointer leads to with right R, where it has one: no fault, no parking, no page request, and no wait for the
host's state of an entry. -/
def State.quietLine (s : State) (r : Ref) : Option (Nat × Leaf) × State :=
  match s.reach s.who r 1 1 { r := true } with
  | .ok (.mva a) =>
    match s.translate s.asker (clusterOf s.core) a { r := true } with
    | (.ok (.dev pa leaf), s) => (some (pa / 128, leaf), s)
    | (.ok _, s) => (none, s)
    | (.error _, _) => (none, s)
  | _ => (none, s)

/-- The words of a line. -/
def lineWords (line : Nat) : List Nat := (List.range 16).map (16 * line + ·)

/-- The words of a line, read at their home or from their registrants as loads read them (R209), become valid in a core's L1. -/
def State.prefLine (s : State) (a : AtHome) (core line : Nat) : State :=
  (lineWords line).foldl (fun (s : State) w =>
    let (v, s) := s.homeWord a w
    if (s.l1 core w).isNone && s.l1Count core < 8192 && !s.wordBad a w then s.setL1 core w (some (s.copyOf w v)) else s) (s.l2In a line)

/-- PREF (R369): a roaming thread goes to the line's home (R132); otherwise the words of the line may become valid in the issuing core's
L1. -/
def execPref (f : Fields) (s : State) : Host.Outcome State Fault Refusal :=
  issue (.pref f) s fun f s =>
    match s.quietLine (s.refM f) with
    | (some (line, leaf), s) =>
      if !s.thr.pinned && leaf.home ≠ clusterOf s.core then leftM (s.migrateTo leaf.home false)
      else if leaf.kind = 1 then .ok (.step s)
      else
        let (k, s) := s.choose 2
        let a := atHome leaf s.thr.hold s.thr.rgn (s.refM f).word
        if k = 0 then .ok (.step s)
        else
          -- the request reaches the slice with its token and leaves the words of the line valid in L1, or is given up
          match s.token leaf.home s.thr.hold, s.hdmGate none (line * 128) 128 false s.thr.hold s.thr.rgn with
          | some s1, (true, _) => .ok (.step (s1.prefLine a s.core line))
          | _, _ => .ok (.step s)
    | (none, s) => .ok (.step s)

/-- The checks of WBK and LINV: right R in the descriptor and the leaf; anything else that R370 names gives no effect. -/
def lineCheck (s : State) (r : Ref) : M (Option (Nat × Leaf) × State) := do
  let p ← reachM s s.who r 1 1 { r := true }
  match p with
  | .win _ _ => .ok (none, s)
  | .mva a =>
    let s ← walksReady s r.word false [a]
    match s.walkFrom a 4 3 (s.hword s.thr.hold 0x40) with
    | .error .perm => raise s 0x16 0 r.word
    | .error _ => .ok (none, s)
    | .ok (l, _, e) =>
      if !s.leafOk s.thr.hold l a { r := true } e then raise s 0x16 0 r.word
      else
        match s.leafTgt s.thr.hold l a e with
        | .dev pa leaf => if leaf.kind = 1 then .ok (none, s) else .ok (some (pa / 128, leaf), s)
        | _ => .ok (none, s)

/-- WBK (R370): one store, performed when the write-backs and merges have been applied. -/
def execWbk (f : Fields) (s : State) : Host.Outcome State Fault Refusal :=
  issue (.wbk f) s fun f s => do
    let (l, s) ← lineCheck s (s.refM f)
    match l with
    | none => .ok (.step s)
    | some (line, leaf) =>
      stFull s
      let (num, s) := s.newStore 1 none
      .ok (.step (s.toPost [s.entry none (some num) .wbk 0 (.dev (line * 128) leaf) (s.refM f).word 0]))

/-- LINV (R370). -/
def execLinv (f : Fields) (s : State) : Host.Outcome State Fault Refusal :=
  issue (.linv f) s fun f s => do
    let (l, s) ← lineCheck s (s.refM f)
    match l with
    | none => .ok (.step s)
    | some (line, _) =>
      .ok (.step ((lineWords line).foldl (fun s w =>
        s.dropCopy s.core w) s))

/-! ### Tags and full/empty bits (R371-R375) -/

/-- The bank place of a tag or full/empty instruction: scratchpad only, else PERM (R371). -/
def padSpot (s : State) (r : Ref) (n al : Nat) (need : Need) : M (Nat × Nat) := do
  let p ← reachM s s.who r n al need
  match p with
  | .win core off => .ok (core, off)
  | .mva _ => raise s 0x16 0 r.word

/-- A tag or full/empty step: at the own bank now, at another core's bank through the port, counted in LD until it is
acknowledged (R371). `op` reads the sources. -/
def padOp (s : State) (f : Fields) (r : Ref) (n : Nat) (need : Need) (op : State → PqOp × State) (now : State → Nat → PqOp → Word × State) :
    M Fin := do
  let (core, off) ← padSpot s r n n need
  if core = s.core then
    busyPast s (winWords off n)
    let (o, s) := op s
    let (v, s) := now s.pin off o
    .ok (.step (if need.r then s.dst f.d v else s))
  else if !s.thr.pinned && clusterOf core ≠ clusterOf s.core then leftM (s.migrateTo (clusterOf core) false)
  else
    ldFull s
    if s.behindStore (.bank core s.thr.hold off) n then stay s
    else
      let (o, s) := op s
      let (d, s) := if need.r then s.dstOf f.d false else (.none, s)
      let (i, s) := s.newAcc 1 8 d ⟨8, false⟩ none false need.w
      .ok (.step (s.sendParts i (fun _ => o) false [(.bank core s.thr.hold off, 0, n)] r.word 0))

/-- A tag or full/empty operation at a bank: the value that it returns, and the state after it (R372, R375). -/
def State.padNow (s : State) (core hold off : Nat) (o : PqOp) : Word × State :=
  let old := s.tagAt core hold (off / 8)
  match o with
  | .tagld => (old.zeroExtend 64, s)
  | .tagst t => (0, s.setTag core hold (off / 8) t)
  | .tagcas c t => (old.zeroExtend 64, if old = c then s.setTag core hold (off / 8) t else s)
  | .feget => (if s.feAt core hold off then 1 else 0, s)
  | .feset => (0, s.setFe core hold off true)
  | .feclr => (0, s.setFe core hold off false)
  | _ => (0, s)

/-- The operation at the issuing core's own bank. -/
def padHere (s : State) (off : Nat) (o : PqOp) : Word × State := s.padNow s.core s.thr.hold off o

/-- TAGLD (R372). -/
def execTagld (f : Fields) (s : State) : Host.Outcome State Fault Refusal :=
  issue (.tagld f) s fun f s => padOp s f (s.refM f) 8 { r := true } (fun s => (.tagld, s)) padHere

/-- TAGST (R372). -/
def execTagst (f : Fields) (s : State) : Host.Outcome State Fault Refusal :=
  issue (.tagst f) s fun f s => padOp s f (s.refM f) 8 { w := true }
    (fun s => let (v, s) := s.src f.d 0; (.tagst (v.extractLsb' 0 4), s)) padHere

/-- TAGCAS (R372). -/
def execTagcas (f : Fields) (s : State) : Host.Outcome State Fault Refusal :=
  issue (.tagcas f) s fun f s => padOp s f (s.refV f) 8 { r := true, w := true }
    (fun s => let (v, s) := s.src f.b 0; (.tagcas ((s.g f.d).extractLsb' 0 4) (v.extractLsb' 0 4), s)) padHere

/-- FEGET (R375). -/
def execFeget (f : Fields) (s : State) : Host.Outcome State Fault Refusal :=
  issue (.feget f) s fun f s => padOp s f (s.refM f) 1 { r := true } (fun s => (.feget, s)) padHere

/-- FESET (R375). -/
def execFeset (f : Fields) (s : State) : Host.Outcome State Fault Refusal :=
  issue (.feset f) s fun f s => padOp s f (s.refM f) 1 { w := true } (fun s => (.feset, s)) padHere

/-- FECLR (R375). -/
def execFeclr (f : Fields) (s : State) : Host.Outcome State Fault Refusal :=
  issue (.feclr f) s fun f s => padOp s f (s.refM f) 1 { w := true } (fun s => (.feclr, s)) padHere

/-- Write a bank image into the inactive bank of a table (R176, R184). -/
def State.loadTable (s : State) (core hold t : Nat) (img : List Byte) : State :=
  s.modHc core hold fun h =>
    let b := 1 - h.bank t
    { h with table := (List.range 128).foldl (fun tb i =>
        Tab.set 0 tb (t * 256 + b * 128 + i) (BitVec.ofNat 16 (leNat ((img.drop (2 * i)).take 2)))) h.table }

/-- TBLLD (R373): the image is read as VR in 128-byte units. -/
def execTblld (f : Fields) (s : State) : Host.Outcome State Fault Refusal :=
  issue (.tblld f) s fun f s => do
    let r := refOf (s.g f.a) 0
    let a0 := s.addrOf r
    let s ← wholeOk s r 256 16 { r := true }
    let n1 := 128 - a0 % 128
    let (d1, s) ← unitRd kVR { r := true } s r n1 16
    let (d2, s) ← unitRd kVR { r := true } s (r.add n1) 128 16
    let (d3, s) ← if n1 = 128 then .ok ([], s) else unitRd kVR { r := true } s (r.add (n1 + 128)) (128 - n1) 16
    .ok (.step (s.pin.loadTable s.core s.thr.hold (bits f.imm.toNat 1 0) (d1 ++ d2 ++ d3)))

/-- The accesses parked under a region that uses a table wake (R183, R374). -/
def State.wakeTable (s : State) (core hold t : Nat) : State :=
  s.wakeIf core fun v pk => (v.thr.map (·.hold)) = some hold && pk.words.any fun pw =>
    match s.physWin hold (8 * pw) with
    | some off => ((s.tagRgn core hold (off / 8)).map fun x => bits x 61 60) = some t
    | none => false

/-- TSWAP (R374). -/
def execTswap (f : Fields) (s : State) : Host.Outcome State Fault Refusal :=
  issue (.tswap f) s fun f s =>
    let t := bits f.imm.toNat 1 0
    let h := s.thr.hold
    let s := s.pin.modHc s.core h fun c => { c with bank1 := Tab.set false c.bank1 t (!(Tab.get false c.bank1 t)) }
    .ok (.step (s.wakeTable s.core h t))

end Sys2Proof.Machine
end

