-- ==== Sys2Proof/Machine/Atomics.lean ====
section
/-! DEFINITION. Atomics and pools (R376-R381, R212-R218) and incumbent cells (R143-R158, R382-R385). -/

namespace Sys2Proof.Machine

/-- An acquire is never performed before an earlier release of the same thread (R264). -/
def acqReady (s : State) : M Unit := if s.slot.rels = 0 then .ok () else stay s

/-- An atomic to a host page that has no AtomicOp, or whose function may send none (R66, R67). -/
def State.nsBad (s : State) (hold : Nat) (t : Tgt) (o : PqOp) : Bool :=
  match t with
  | .host a l =>
    l.tgt = 2 && (!(s.cfg (s.hostPort hold a) hold).atomic ||
      (match o with
       | .atom fn _ _ => fn ≠ 0 && fn ≠ 8
       | .cas .. | .cas2 .. => false
       | _ => true))
  | _ => false

/-- The rights of an atomic (R376). A CAS or CAS2 sets D only when it compares equal (R379): `soft` leaves D to `State.dirtyAt`. -/
def atomNeed : Need := { r := true, w := true, a := true }

/-- An atomic at the issuing core's own bank, as AT (R378): the old bytes, a dropped word reading 0. -/
def State.atomHere (s : State) (off n : Nat) (acts : List (Nat × Nat)) (o : PqOp) (addr : Word) : List Byte × State :=
  let h := s.thr.hold
  let old := s.unitRead s.core h off n acts
  let s := match o.rmw old with
    | some d => s.unitWrite s.core h off d acts s.thr.rgn addr
    | none => s
  (old, s.retag s.core h acts)

/-- A returning atomic of `n` bytes at a pointer into an operand (R377-R379). `op` reads the sources; `acq` and `rel` are
the plots of an acquire and a release. -/
def atomicOp (s : State) (o : Operand) (two : Bool) (n al : Nat) (e : Ext) (r : Ref) (acq rel : Option Word)
    (op : State → PqOp × State) : M Fin := do
  if acq.isSome then acqReady s
  let (hit, r, k, s) ← locate1 s kAT n al { atomNeed with soft := (op s).1.compares } r
  let s ← match rel with | some w => release s w | none => .ok s
  let rels := if rel.isSome then 1 else 0
  match hit with
  | .here off acts =>
    if s.unitBad s.core s.thr.hold acts then raise s (s.unitCode s.core s.thr.hold acts) 0 r.word true
    else
      let (p, s) := op s
      let (old, s) := s.atomHere off n acts p r.word
      let s := if acq.isSome then s.acquire s.core else s
      .ok (.step (s.dstNow o two e old))
  | .far core off =>
    ldFull s
    if s.behindStore (.bank core s.thr.hold off) n then stay s
    else
      let (p, s) := op s
      let (d, s) := s.dstOf o two
      let (i, s) := s.newAcc 1 n d e acq false true
      let s := (s.openAcq acq i).modSlot fun v => { v with rels := v.rels + rels }
      .ok (.step (s.sendParts i (fun _ => p) rel.isSome [(.bank core s.thr.hold off, 0, n)] r.word k))
  | .glob parts =>
    if parts.any fun (t, _) => s.nsBad s.thr.hold t (op s).1 then raise s 0x61 0 r.word
    else
      ldFull s
      clearWay s parts
      let (p, s) := op s
      let (d, s) := s.dstOf o two
      let (i, s) := s.newAcc 1 n d e acq (unordered parts) true
      let s := (s.openAcq acq i).modSlot fun v => { v with rels := v.rels + rels }
      .ok (.step (s.sendParts i (fun _ => p) rel.isSome (parts.map fun (t, m) => (t, 0, m)) r.word k))

/-- The plots of ORD in form V, checked at order 6 (R361). -/
def ordPlots (s : State) (f : Fields) : M (Option Word × Option Word) := do
  let w := s.thr.gpr (plotIdx f.imm)
  if mdOrd f.md = 0 then .ok (none, none)
  else
    checkPlot s w
    .ok (if mdOrd f.md % 2 = 1 then some w else none, if 2 ≤ mdOrd f.md then some w else none)

/-- ATOM (R377, R378). -/
def execAtom (f : Fields) (s : State) : Host.Outcome State Fault Refusal :=
  issue (.atom f) s fun f s => do
    let (acq, rel) ← ordPlots s f
    let n := szBytes (mdSz f.md)
    atomicOp s f.d false n n ⟨n, mdSgn f.md⟩ (s.refV f) acq rel fun s =>
      let (b, s) := s.src f.b 0
      (.atom f.fn.toNat n b, s)

/-- CAS (R379). -/
def execCas (f : Fields) (s : State) : Host.Outcome State Fault Refusal :=
  issue (.cas f) s fun f s => do
    let (acq, rel) ← ordPlots s f
    let n := szBytes (mdSz f.md)
    atomicOp s f.d false n n ⟨n, mdSgn f.md⟩ (s.refV f) acq rel fun s =>
      let c := s.g f.d
      let (b, s) := s.src f.b 0
      (.cas n c b, s)

/-- CAS2 (R379): one step on both words. -/
def execCas2 (f : Fields) (s : State) : Host.Outcome State Fault Refusal :=
  issue (.cas2 f) s fun f s => do
    let (acq, rel) ← ordPlots s f
    atomicOp s f.d true 16 16 ⟨8, false⟩ (s.refV f) acq rel fun s =>
      (.cas2 (s.g f.d) (s.g1 f.d) (s.g f.b) (s.g1 f.b), s)

/-! ### Pools (R212-R217, R380, R381) -/

/-- A POOL to the target combines into the core's pool: TGT 00, KIND 00 or 10, not armed (R380). -/
def State.poolable (s : State) (t : Tgt) : Bool :=
  match t with
  | .dev pa l => l.kind ≠ 1 && !s.armed pa
  | _ => false

/-- A pool entry after one more contribution of a slot (R212). -/
def PoolEnt.join (e : PoolEnt) (slot : Nat) (v : Word) : PoolEnt :=
  { e with val := BitVec.ofNat 64 (atomInt e.op e.size e.val.toNat v.toNat), mask := e.mask ||| BitVec.twoPow 16 slot }

/-- POOL at the core's pool (R212): it combines with the entry of the same address, operation and width; an entry of the
same word that differs, or the least recently used of 32, is merged first (R213). The list runs from the most
recently used entry. -/
def poolOp (s : State) (o : Operand) (op n pa : Nat) (leaf : Leaf) : M Fin :=
  let l := s.pools s.core
  match l.find? fun e => e.word = pa / 8 with
  | some e =>
    if e.off = pa % 8 && e.op = op && e.size = n then
      let (v, s) := s.src o 0
      .ok (.step (s.setPools s.core (e.join s.slotNo v :: l.filter (· ≠ e))))
    else stay (s.dueWord (.dev pa leaf) n)
  | none =>
    if 32 ≤ l.length then
      if l.any fun e => e.due then stay s
      else stay (s.setPools s.core (l.dropLast ++ (l.getLast?.toList.map fun e => { e with due := true })))
    else
      let (v, s) := s.src o 0
      .ok (.step (s.setPools s.core
        (⟨pa / 8, pa % 8, op, n, BitVec.ofNat 64 (v.toNat % 2 ^ (8 * n)), BitVec.twoPow 16 s.slotNo, leaf.home, s.thr.hold, s.thr.rgn,
          leaf.key, false, false, false⟩ :: l)))

/-- POOL (R380). -/
def execPool (f : Fields) (s : State) : Host.Outcome State Fault Refusal :=
  issue (.pool f) s fun f s => do
    let n := szBytes (mdSz f.md)
    let (hit, _, _, s1) ← locate1 s kAT n n atomNeed (s.refM f)
    match hit with
    | .glob [(.dev pa leaf, _)] =>
      if s1.poolable (.dev pa leaf) then
        if s1.behindStore (.dev pa leaf) n || s1.storeAhead (.dev pa leaf) n then stay s1 else poolOp s1 f.d f.fn.toNat n pa leaf
      else
        atomicOp s ⟨.Z, 0⟩ false n n ⟨n, false⟩ (s.refM f) none none fun s =>
          let (v, s) := s.src f.d 0
          (.atom f.fn.toNat n v, s)
    | _ =>
      atomicOp s ⟨.Z, 0⟩ false n n ⟨n, false⟩ (s.refM f) none none fun s =>
        let (v, s) := s.src f.d 0
        (.atom f.fn.toNat n v, s)

/-- POOLF (R381): FADD as a store. -/
def execPoolf (f : Fields) (s : State) : Host.Outcome State Fault Refusal :=
  issue (.poolf f) s fun f s => do
    let n := szBytes (mdSz f.md)
    let (hit, r, k, s) ← locate1 s kAT n n atomNeed (s.refM f)
    match hit with
    | .here off acts =>
      if s.unitBad s.core s.thr.hold acts then raise s (s.unitCode s.core s.thr.hold acts) 0 r.word true
      else
        let (v, s) := s.src f.d 0
        .ok (.step (s.atomHere off n acts (.atom 9 n v) r.word).2)
    | .far core off =>
      stFull s
      let (v, s) := s.src f.d 0
      let (num, s) := s.newStore 1 (some core)
      .ok (.step (s.toPost [s.entry none (some num) (.atom 9 n v) 0 (.bank core s.thr.hold off) r.word k]))
    | .glob parts =>
      if parts.any fun (t, _) => s.nsBad s.thr.hold t (.atom 9 n 0) then raise s 0x61 0 r.word
      else
        stFull s
        if parts.any fun (t, m) => s.pooled t m then stay (parts.foldl (fun s (t, m) => s.dueWord t m) s)
        else
          let (v, s) := s.src f.d 0
          let (num, s) := s.newStore parts.length none
          let strong := (parts.filter fun (t, _) => t.kind = 1).length
          let s := s.modSlot fun x => { x with strong := x.strong + strong }
          .ok (.step (s.toPost (parts.map fun (t, _) => s.entry none (some num) (.atom 9 n v) 0 t r.word k)))

/-! ### Incumbent cells -/

/-- Better(a, b) for a sense (R143). -/
def better (max : Bool) (a b : Word) : Bool := if max then BitVec.slt b a else BitVec.slt a b

/-- VALUE of an unset cell (R149). -/
def sentinel (max : Bool) : Word := if max then 0x8000000000000000 else 0x7FFFFFFFFFFFFFFF

/-- VALUE as it reads (R149). -/
def Cell.val (c : Cell) : Word := if c.set then c.value else sentinel c.max
/-- PAYLOAD as it reads (R149). -/
def Cell.pay (c : Cell) : Word := if c.set then c.payload else 0

/-- A cell at its home. -/
def State.cell (s : State) (c : Nat) : Cell := Tab.get {} s.sc.cells c
/-- Replace a cell. -/
def State.setCell (s : State) (c : Nat) (v : Cell) : State := { s with sc := { s.sc with cells := Tab.set {} s.sc.cells c v } }
/-- A cluster's replica of a cell. -/
def State.replica (s : State) (k c : Nat) : Replica := Tab.get {} s.sc.replicas (k * 64 + c)
/-- Replace a replica. -/
def State.setReplica (s : State) (k c : Nat) (v : Replica) : State :=
  { s with sc := { s.sc with replicas := Tab.set {} s.sc.replicas (k * 64 + c) v } }

/-- Newer(g, h) of R152. -/
def newer (g h : BitVec 16) : Bool := 1 ≤ (g - h).toNat && (g - h).toNat ≤ 32767

/-- Improve of R152; `max` is the sense of the generation that the message carries. -/
def improve (max : Bool) (r : Replica) (gen : BitVec 16) (set : Bool) (v : Word) : Replica :=
  if newer gen r.gen then ⟨set, gen, v, max⟩
  else if gen = r.gen && set && (!r.set || better max v r.value) then { r with set := true, value := v }
  else r

/-- The crier starts to carry a cell's generation and value (R152). -/
def State.cry (s : State) (c : Nat) : State :=
  let v := s.cell c
  { s with sc := { s.sc with crier := s.sc.crier ++ [(⟨c, v.gen, v.max, v.set, v.val, []⟩ : Cry)] } }

/-- The reset of a cell at its home, and the crier's message of the new generation (R154). -/
def State.resetCell (s : State) (c : Nat) (max : Bool) : State :=
  let v := s.cell c
  (s.setCell c { v with set := false, max := max, gen := v.gen + 1, value := 0, payload := 0 }).cry c

/-- A message that an INCSET waits for: of an earlier generation, or of the reset itself (R154). -/
def State.resetPending (s : State) (c : Nat) : Bool :=
  s.sc.crier.any fun m => m.cell = c && (m.gen ≠ (s.cell c).gen || !m.set)

/-- The cell is in the mask of the thread's holding, else PERM (R150, R382). -/
def ownCell (s : State) (c : Nat) : M Unit := if bit (s.hword s.thr.hold 0x90) c then .ok () else raise s 0x16

/-- The plot word of module scope. -/
def modulePlot : Word := 0x8000000000000000

/-- INCLD (R383): one snapshot at the home, then an acquire at module scope. -/
def execIncld (f : Fields) (s : State) : Host.Outcome State Fault Refusal :=
  issue (.incld f) s fun f s => do
    let c := bits f.imm.toNat 5 0
    ownCell s c
    acqReady s
    ldFull s
    let v := s.cell c
    let s := (s.acquire s.core).setG2 f.d.idx.toNat v.val v.pay
    .ok (.step (if f.a.cls = .P then s.setP f.a.idx.toNat v.set else s))

/-- The offer of a value and payload at the cell's home, from a cluster (R151). -/
def State.offer (s : State) (c k : Nat) (v w : Word) : State :=
  let old := s.cell c
  let s := if !old.set || better old.max v old.value then (s.setCell c { old with value := v, payload := w, set := true }).cry c else s
  let now := s.cell c
  s.setReplica k c (improve now.max (s.replica k c) now.gen now.set now.value)

/-- INCOFR (R151, R384): a release at module scope. -/
def execIncofr (f : Fields) (s : State) : Host.Outcome State Fault Refusal :=
  issue (.incofr f) s fun f s => do
    let c := bits f.imm.toNat 5 0
    ownCell s c
    ldFull s
    let s ← release s modulePlot
    let (a, b, s) := s.srcs f 0
    let old := (s.cell c).val
    .ok (.step ((s.offer c (clusterOf s.core) a b).dst f.d old))

/-- INCSET (R154, R385): the reset is made once, and the instruction completes when the crier has done with it. -/
def execIncset (f : Fields) (s : State) : Host.Outcome State Fault Refusal :=
  issue (.incset f) s fun f s => do
    let c := bits f.imm.toNat 5 0
    ownCell s c
    if !s.slot.sent then stay ((s.resetCell c (f.imm.getLsbD 8)).modSlot fun v => { v with sent := true })
    else if s.resetPending c then stay s
    else .ok (.step s)

end Sys2Proof.Machine
end

