-- ==== Sys2Proof/Machine/Mesh.lean ====
section
/-! DEFINITION. The mesh's routing (R22), hop delays (R23), and the flits that enter it. -/

namespace Sys2Proof.Machine

/-- I/O die 0 or 1 as a place of the mesh. -/
def ioDie (p : Nat) : Nat := 8192 + p

/-- The next output of a flit at a core: along x first, then y; 4 is the router's own core. I/O die 0 lies west of x = 0, I/O die 1 east
of x = 127 (R22). -/
def nextOut (here dst : Nat) : Nat :=
  if dst = ioDie 0 then 3 else if dst = ioDie 1 then 1
  else if coreX here < coreX dst then 1 else if coreX dst < coreX here then 3
  else if coreY here < coreY dst then 2 else if coreY dst < coreY here then 0 else 4

/-- The place at the other end of an output: a neighbour, or an I/O die beyond the west or east edge (R22). -/
def outEnd (core dir : Nat) : Option Nat :=
  match neighbour core dir with
  | some c => some c
  | none => if dir = 3 then some (ioDie 0) else if dir = 1 then some (ioDie 1) else none

/-- The hop delay of an output (R23): a die is 32 cores wide and high. -/
def hopDelay (here out : Nat) : Nat :=
  if out = 4 then 2
  else
    match neighbour here out with
    | none => 4
    | some n => if coreX here / 32 = coreX n / 32 && coreY here / 32 = coreY n / 32 then 2 else 6

/-- The I/O die of the link that carries a peer access (R25, R33). -/
def State.peerDie (s : State) (addr : Nat) : Nat :=
  let l := s.upLinks (peerOf addr)
  l.getD (routeHash addr % l.length) 0 / 24

/-- The bytes that an operation sends to where it is performed. -/
def PqOp.data : PqOp → List Byte
  | .wr d => d
  | .bits _ v => v
  | .atom _ n b => leBytes n b.toNat
  | .cas n c b => leBytes n c.toNat ++ leBytes n b.toNat
  | .cas2 c0 c1 b0 b1 => [c0, c1, b0, b1].flatMap fun w => leBytes 8 w.toNat
  | .tagst t => [BitVec.ofNat 8 t.toNat]
  | .tagcas c t => [BitVec.ofNat 8 c.toNat, BitVec.ofNat 8 t.toNat]
  | _ => []

/-- A flit with the bytes of an access, or of its answer on channel 1 (R27), enters the mesh at a core: it waits in its holding's buffer for
a slot (R42), and carries two beats with their check values (R22). What a flit carries beside them is not stated: DESIGN CHOICE, log entry
72. -/
def State.inject (s : State) (vc src dst hold : Nat) (data : List Byte) : State :=
  let beats := (data ++ List.replicate 64 0).take 64
  let f : MeshFlit := { hold := hold, vc := vc, here := src, dst := dst, ready := 0, out := nextOut src dst, moving := false, buffered := true
                        data := beats, chk := dataChecks beats false }
  { s with net := { s.net with flits := s.net.flits ++ [f] } }

end Sys2Proof.Machine
end

