-- ==== Sys2Proof/Machine/Float.lean ====
section
/-! DEFINITION. The scalar floating instructions (R350-R355). -/

namespace Sys2Proof.Machine

/-- The format that FMT names for a scalar: 0 is FP32 (R350). -/
def scalarFmt (md : BitVec 8) : Nat := if mdFmt md = 0 then 1 else mdFmt md

/-- IMM read raw (R303, R350). -/
def rawImm (f : Fields) : Word := f.imm.zeroExtend 64

/-- A source in the instruction's format (R350). -/
def numOf (fmt : Nat) (x : Word) : ExtNum := decodeNum fmt (x.toNat % 2 ^ fmtWidth fmt)

/-- The rounding mode of a floating instruction (R226). -/
def State.rm (s : State) (md : BitVec 8) : Rm := rmOf (mdRm md) s.thr.fpm

/-- The draw of a rounding instruction: one step of %rng under RSTO, none otherwise (R227, R350). -/
def State.draw1 (s : State) (rm : Rm) : BitVec 32 × State :=
  if rm = .rsto then
    let x := rngNext s.thr.rng
    (x, s.modThr fun t => { t with rng := x })
  else (0, s)

/-- A rounded result in the low bits of a word (R350, R351). -/
def roundWord (fmt : Nat) (rm : Rm) (sat : Bool) (draw : BitVec 32) (x : ExtNum) : Word :=
  BitVec.ofNat 64 (encodeNum fmt rm sat draw x)

/-- The shape of FADD, FSUB and FMUL: the exact value, rounded once (R351). -/
def floatOp (i : Instr) (s : State) (r : Rm → ExtNum → ExtNum → ExtNum) : Host.Outcome State Fault Refusal :=
  issue i s fun f s =>
    let (a, b, s) := s.srcs f (rawImm f)
    let fmt := scalarFmt f.md
    let rm := s.rm f.md
    let (d, s) := s.draw1 rm
    .ok (.step (s.dst f.d (roundWord fmt rm (mdSat f.md) d (r rm (numOf fmt a) (numOf fmt b)))))

/-- FADD (R351, R352). -/
def execFadd (f : Fields) (s : State) : Host.Outcome State Fault Refusal := floatOp (.fadd f) s ExtNum.add
/-- FSUB (R351, R352). -/
def execFsub (f : Fields) (s : State) : Host.Outcome State Fault Refusal := floatOp (.fsub f) s fun rm a b => ExtNum.add rm a b.negate
/-- FMUL (R351, R352). -/
def execFmul (f : Fields) (s : State) : Host.Outcome State Fault Refusal := floatOp (.fmul f) s fun _ a b => ExtNum.mul a b

/-- FFMA (R351, R352): a · b + d with one rounding. -/
def execFfma (f : Fields) (s : State) : Host.Outcome State Fault Refusal :=
  issue (.ffma f) s fun f s =>
    let old := s.g f.d
    let (a, b, s) := s.srcs f (rawImm f)
    let fmt := scalarFmt f.md
    let rm := s.rm f.md
    let (d, s) := s.draw1 rm
    .ok (.step (s.dst f.d (roundWord fmt rm (mdSat f.md) d (ExtNum.fma rm (numOf fmt a) (numOf fmt b) (numOf fmt old)))))

/-- FMIN and FMAX: exact, no draw (R353). -/
def pickOp (i : Instr) (s : State) (isMax : Bool) : Host.Outcome State Fault Refusal :=
  issue i s fun f s =>
    let (a, b, s) := s.srcs f (rawImm f)
    let fmt := scalarFmt f.md
    .ok (.step (s.dst f.d (roundWord fmt .rne false 0 (ExtNum.pick isMax (numOf fmt a) (numOf fmt b)))))

/-- FMIN (R353). -/
def execFmin (f : Fields) (s : State) : Host.Outcome State Fault Refusal := pickOp (.fmin f) s false
/-- FMAX (R353). -/
def execFmax (f : Fields) (s : State) : Host.Outcome State Fault Refusal := pickOp (.fmax f) s true

/-- The type codes of FCVT and DCVT: 1-3 floats, 4 i32, 5 n32, 6 i64, 7 n64 (R354). -/
def cvtRead (t : Nat) (x : Word) : ExtNum :=
  match t with
  | 4 => ExtNum.ofInt (sgnNat 32 x.toNat)
  | 5 => ExtNum.ofInt (x.toNat % 2 ^ 32 : Nat)
  | 6 => ExtNum.ofInt (sgnNat 64 x.toNat)
  | 7 => ExtNum.ofInt (x.toNat : Nat)
  | _ => numOf t x

/-- A conversion's result in a type (R354): an integer result is sign- or zero-extended. -/
def cvtWrite (t : Nat) (rm : Rm) (sat : Bool) (draw : BitVec 32) (x : ExtNum) : Word :=
  match t with
  | 4 => BitVec.ofInt 64 (sgnNat 32 (encodeInt 32 true rm x))
  | 5 => BitVec.ofNat 64 (encodeInt 32 false rm x)
  | 6 => BitVec.ofNat 64 (encodeInt 64 true rm x)
  | 7 => BitVec.ofNat 64 (encodeInt 64 false rm x)
  | _ => roundWord t rm sat draw x

/-- The conversion of FCVT and DCVT between a format and a type: one draw under RSTO for a floating result (R354). -/
def convert (s : State) (f : Fields) (fmt : Nat) : M Fin :=
  let (a, s) := s.src f.a (rawImm f)
  let oth := bits f.imm.toNat 3 0
  let out := f.imm.getLsbD 4
  let src := if out then numOf fmt a else cvtRead oth a
  let dty := if out then oth else fmt
  let rm := s.rm f.md
  let (d, s) := if 4 ≤ dty && dty ≤ 7 then (0, s) else s.draw1 rm
  .ok (.step (s.dst f.d (cvtWrite dty rm (mdSat f.md) d src)))

/-- FCVT (R354). -/
def execFcvt (f : Fields) (s : State) : Host.Outcome State Fault Refusal :=
  issue (.fcvt f) s fun f s => convert s f (scalarFmt f.md)

/-! ### FP64 (R456-R459) -/

/-- The shape of the FP64 instructions: the exact value, rounded once (R456). -/
def fp64Op (i : Instr) (s : State) (r : Rm → ExtNum → ExtNum → ExtNum → ExtNum) : Host.Outcome State Fault Refusal :=
  issue i s fun f s =>
    let old := s.g f.d
    let (a, b, s) := s.srcs f (rawImm f)
    let b := if f.b.cls = .I then decodeNum 1 b.toNat else numOf 13 b
    let rm := s.rm f.md
    let (d, s) := s.draw1 rm
    .ok (.step (s.dst f.d (roundWord 13 rm (mdSat f.md) d (r rm (numOf 13 a) b (numOf 13 old)))))

end Sys2Proof.Machine
end

