-- ==== Sys2Proof/Machine/Sync.lean ====
section
/-! DEFINITION. Fences, counters, timelines, plot barriers, barrier objects, memory queues and mailboxes (R277-R279, R296,
R297, R386-R400). -/

namespace Sys2Proof.Machine

/-! ### Fences and counters -/

/-- FENCE (R267, R387): ORD 00 full, 01 acquire, 10 release. -/
def execFence (f : Fields) (s : State) : Host.Outcome State Fault Refusal :=
  issue (.fence f) s fun f s => do
    let w := s.g f.a
    checkPlot s w
    let ord := mdOrd f.md
    if ord = 1 then
      acqReady s
      if s.slot.ld ≠ 0 then stay s else .ok (.step (s.acquire s.core))
    else if !s.fenced s.core s.slotNo w then stay ((s.duePools s.core s.slotNo).askFlush s.core s.slotNo (s.fenceSettled s.core s.slotNo w) w)
    else if ord = 2 then .ok (.step s)
    else
      acqReady s
      .ok (.step (s.acquire s.core))

/-- WAITC (R388). -/
def execWaitc (f : Fields) (s : State) : Host.Outcome State Fault Refusal :=
  issue (.waitc f) s fun f s =>
    let v := s.slot
    let b := fun n => f.imm.getLsbD n
    if (b 0 && v.ld ≠ 0) || (b 1 && v.issued - v.drained ≠ 0) || (b 2 && v.cp ≠ 0) || (b 3 && v.tl ≠ 0) then stay s
    else .ok (.step s)

/-! ### Timelines (R277-R279) -/

/-- What a context tells of its timeline: the counter, and the cause and number of the command that stopped it. -/
structure Timeline where
  count : Nat
  err   : Bool
  susp  : Bool
  cause : Nat
  ecmd  : Nat
deriving DecidableEq, Repr

/-- The timeline that a timeline word names for a holding, or the cause that it faults (R278). -/
def State.timeline (s : State) (hold w : Nat) : Except Nat Timeline :=
  let x := bits w 25 19
  let y := bits w 18 13
  let c := bits w 1 0
  let h := bits w 7 2
  if bits w 31 30 = 3 || bits w 29 26 ≠ 0 || bits w 12 8 ≠ 0 then .error 0x33
  else if bits w 31 30 = 2 then
    if x ≠ 0 || y ≠ 0 || c ≠ 0 then .error 0x33
    else if h ≠ hold then .error 0x16
    else
      let ch := (s.fn hold).chain
      .ok ⟨ch.tlcur, ch.err ≠ 0, false, ch.err.toNat, ch.erec⟩
  else if h ≠ 0 then .error 0x33
  else if bits w 31 30 = 0 then
    if !(s.hplot hold).covers (coreAt x y) || !bit (s.hcctx hold) c then .error 0x16
    else
      let k := s.cctx (coreAt x y * 4 + c)
      .ok ⟨k.count, k.err, k.susp, k.cause, k.ecmd⟩
  else if 64 ≤ x || 32 ≤ y || !(s.hplot hold).covers (coreAt (2 * x) (2 * y)) || !bit (s.hmctx hold) c then .error 0x16
  else
    let k := s.mctx ((y * 64 + x) * 4 + c)
    .ok ⟨k.count, k.err, false, k.cause, k.ecmd⟩

/-- The timeline that a register names, with its faults (R278, R390). -/
def timelineM (s : State) (w : Word) : M Timeline :=
  match s.timeline s.thr.hold (bits w.toNat 31 0) with
  | .ok t => .ok t
  | .error c => raise s c

/-- The status word of R279. -/
def Timeline.status (t : Timeline) : Word :=
  BitVec.ofNat 64 ((if t.err then 2 ^ 63 else 0) + (if t.susp then 2 ^ 62 else 0) + t.cause % 256 * 2 ^ 48 + t.ecmd % 2 ^ 48)

/-- WAITTL (R389). -/
def execWaittl (f : Fields) (s : State) : Host.Outcome State Fault Refusal :=
  issue (.waittl f) s fun f s => do
    let w := s.g f.d
    checkPlot s w
    let t ← timelineM s (s.g f.a)
    let (v, s') := s.src f.b 0
    let report := fun (s : State) (ok : Bool) => if f.imm.getLsbD 5 then s.setP (bits f.imm.toNat 4 0) ok else s
    if v.toNat ≤ t.count then
      acqReady s
      .ok (.step (report (s'.acquire s.core) true))
    else if t.err && t.ecmd ≤ v.toNat then .ok (.step (report s' false))
    else stay s

/-- TLGET (R390). -/
def execTlget (f : Fields) (s : State) : Host.Outcome State Fault Refusal :=
  issue (.tlget f) s fun f s => do
    let t ← timelineM s (s.g f.a)
    .ok (.step (s.dst f.d (BitVec.ofNat 64 t.count)))

/-- TLGET.stat (R279, R390). -/
def execTlgetStat (f : Fields) (s : State) : Host.Outcome State Fault Refusal :=
  issue (.tlgetStat f) s fun f s => do
    let t ← timelineM s (s.g f.a)
    .ok (.step (s.dst f.d t.status))

/-! ### Plot barriers (R392-R396) -/

/-- A barrier register of a holding in a core. -/
def State.bar (s : State) (core hold n : Nat) : Bar := Tab.get {} (s.hcAt core hold).bar n
/-- Replace a barrier register. -/
def State.setBar (s : State) (core hold n : Nat) (b : Bar) : State :=
  s.modHc core hold fun h => { h with bar := Tab.set {} h.bar n b }

/-- BARSET (R394). -/
def execBarset (f : Fields) (s : State) : Host.Outcome State Fault Refusal :=
  issue (.barset f) s fun f s => do
    let w := s.g f.a
    let m := (s.g f.b).extractLsb' 0 16
    let n := bits f.imm.toNat 2 0
    let h := s.thr.hold
    if plotBad w || 2 ≤ plotKind w then raise s 0x07
    else if (plotKind w = 0 && (!(plotOf w.toNat).inside (s.hplot h) || !(plotOf w.toNat).covers s.core)) ||
        m &&& ~~~(BitVec.ofNat 16 (s.hslots h)) ≠ 0 then raise s 0x16
    else if (s.bar s.core h n).arrived ≠ 0 then stay s
    else
      let s := s.pin
      .ok (.step (s.setBar s.core h n { plot := w, mask := m, gen := (s.bar s.core h n).gen }))

/-- A barrier message to a core. -/
def State.sendBar (s : State) (m : BarMsg) : State := { s with co := { s.co with barMsg := s.co.barMsg ++ [m] } }

/-- A core releases a phase and passes the release on (R395, steps 5 and 6). -/
def State.barRelease (s : State) (core hold n : Nat) : State :=
  let b := s.bar core hold n
  let s := s.setBar core hold n { b with gen := b.gen + 1, arrived := 0, up := false, upSouth := false, sentUp := false }
  if plotKind b.plot ≠ 0 then s
  else
    let p := plotOf b.plot.toNat
    let s := if coreX core = p.x0 && coreY core < p.y1 then s.sendBar ⟨hold, core + 128, n, b.plot, b.mask, true, false⟩ else s
    if coreX core < p.x1 then s.sendBar ⟨hold, core + 1, n, b.plot, b.mask, true, false⟩ else s

/-- The phase at a core goes on as far as its arrivals allow (R395, steps 1 to 4). -/
def State.barProgress (s : State) (core hold n : Nat) : State :=
  let b := s.bar core hold n
  if b.mask = 0 || b.arrived ≠ b.mask || b.sentUp then s
  else if plotKind b.plot ≠ 0 then s.barRelease core hold n
  else
    let p := plotOf b.plot.toNat
    if coreX core < p.x1 && !b.up then s
    else if p.x0 < coreX core then
      (s.setBar core hold n { b with sentUp := true }).sendBar ⟨hold, core - 1, n, b.plot, b.mask, false, false⟩
    else if coreY core < p.y1 && !b.upSouth then s
    else if p.y0 < coreY core then
      (s.setBar core hold n { b with sentUp := true }).sendBar ⟨hold, core - 128, n, b.plot, b.mask, false, true⟩
    else s.barRelease core hold n

/-- BARARR (R395). -/
def execBararr (f : Fields) (s : State) : Host.Outcome State Fault Refusal :=
  issue (.bararr f) s fun f s => do
    let n := bits f.imm.toNat 2 0
    let h := s.thr.hold
    let b := s.bar s.core h n
    let g : Word := b.gen.zeroExtend 64
    if b.mask = 0 then .ok (.step (s.pin.dst f.d g))
    else if !b.mask.getLsbD s.slotNo then raise s 0x16
    else if b.arrived.getLsbD s.slotNo then stay s
    else
      let s ← release s b.plot
      let s := s.pin.setBar s.core h n { b with arrived := b.arrived ||| BitVec.twoPow 16 s.slotNo }
      .ok (.step ((s.dst f.d g).barProgress s.core h n))

/-- BARWT (R396). -/
def execBarwt (f : Fields) (s : State) : Host.Outcome State Fault Refusal :=
  issue (.barwt f) s fun f s =>
    let b := s.bar s.core s.thr.hold (bits f.imm.toNat 2 0)
    let done := if f.a.cls = .Z then !b.arrived.getLsbD s.slotNo else b.gen ≠ (s.g f.a).extractLsb' 0 4
    if done then do
      acqReady s
      .ok (.step (s.pin.acquire s.core))
    else stay s

/-- A barrier message reaches a core: it is applied when the register agrees, and held otherwise (R395). -/
def State.barMessage (s : State) (release : Bool) (pos : Nat) : Option State :=
  match s.co.barMsg[pos]? with
  | none => none
  | some m =>
    let b := s.bar m.core m.hold m.reg
    if m.release ≠ release || b.mask = 0 || b.plot ≠ m.plot || b.mask ≠ m.mask then none
    else
      let s := { s with co := { s.co with barMsg := s.co.barMsg.eraseIdx pos } }
      if m.release then some (s.barRelease m.core m.hold m.reg)
      else
        some ((s.setBar m.core m.hold m.reg (if m.south then { b with upSouth := true } else { b with up := true })).barProgress
          m.core m.hold m.reg)

/-- An event that took place, or that cannot take place in this state; it leaves the power unit as `p`. -/
def eventPw (p : Power) (r : Option State) : Host.Outcome State Fault Refusal :=
  match r with
  | some s => .next { s with pw := p }
  | none => .fault .notEnabled

/-- An event of the dies in state `s`: only the Ranbor controller changes the power unit (R10). -/
def event (s : State) (r : Option State) : Host.Outcome State Fault Refusal := eventPw s.pw r

/-- BARRIER_ARRIVAL_MESSAGE (R395): the message at position `pos`. -/
def execBarrierArrivalMessage (s : State) : Host.Outcome State Fault Refusal := event s (s.barMessage false s.ctl.here.pos)
/-- BARRIER_RELEASE_MESSAGE (R395). -/
def execBarrierReleaseMessage (s : State) : Host.Outcome State Fault Refusal := event s (s.barMessage true s.ctl.here.pos)

/-! ### Barrier objects (R296, R297, R397) -/

/-- The fields of a barrier object (R296); `rsv` keeps the reserved bits. -/
structure BarObj where
  gen     : BitVec 4
  arr     : BitVec 16
  rsv     : BitVec 12
  inb     : BitVec 32
  outb    : BitVec 32
  arrinit : BitVec 16
  rsv2    : BitVec 16
deriving DecidableEq, Repr

/-- A barrier object's fields from its 16 bytes. -/
def BarObj.ofBytes (bs : List Byte) : BarObj :=
  let v : BitVec 128 := BitVec.ofNat 128 (leNat bs)
  ⟨v.extractLsb' 0 4, v.extractLsb' 4 16, v.extractLsb' 20 12, v.extractLsb' 32 32, v.extractLsb' 64 32, v.extractLsb' 96 16,
    v.extractLsb' 112 16⟩

/-- A barrier object's 16 bytes. -/
def BarObj.bytes (o : BarObj) : List Byte := leBytes 16 (o.rsv2 ++ o.arrinit ++ o.outb ++ o.inb ++ o.rsv ++ o.arr ++ o.gen).toNat

/-- ARR, INB and OUTB are all zero. -/
def BarObj.idle (o : BarObj) : Bool := o.arr = 0 && o.inb = 0 && o.outb = 0

/-- The phase test of R297. -/
def BarObj.test (o : BarObj) : BarObj := if o.idle then { o with gen := o.gen + 1, arr := o.arrinit } else o

/-- The object at a window offset of a holding in a core. -/
def State.barObj (s : State) (core hold off : Nat) : BarObj := BarObj.ofBytes (s.winBytes core hold off 16)

/-- Write an object at its bank, with no lookup (R296). -/
def State.putObj (s : State) (core hold off : Nat) (o : BarObj) (rgn : Nat) (addr : Word) : State :=
  s.winBeat core hold off o.bytes rgn addr

/-- An update of an object with its phase test (R297). -/
def State.updObj (s : State) (core hold off : Nat) (rgn : Nat) (g : BarObj → BarObj) : State :=
  s.putObj core hold off (g (s.barObj core hold off)).test rgn (BitVec.ofNat 64 off)

/-- INB falls by the bytes that an engine has landed (R297). -/
def BarObj.landed (n : Nat) (o : BarObj) : BarObj := { o with inb := o.inb - BitVec.ofNat 32 n }
/-- OUTB rises at acceptance (R291). -/
def BarObj.outAdd (n : Nat) (o : BarObj) : BarObj := { o with outb := o.outb + BitVec.ofNat 32 n }
/-- OUTB falls as bytes are performed, and saturates at 0 (R297). -/
def BarObj.outSub (n : Nat) (o : BarObj) : BarObj := { o with outb := BitVec.ofNat 32 (o.outb.toNat - n) }

/-- The window offset of the object that an instruction names: segment 0, aligned (R397). -/
def objOff (s : State) (r : Ref) : M Nat := do
  let p ← reachM s s.who r 16 16 {}
  match p with
  | .win _ off =>
    if r.seg ≠ 0 then raise s 0x16 0 r.word
    else
      busyPast s (winWords off 16)
      .ok off
  | .mva _ => raise s 0x16 0 r.word

/-- BOINIT (R397): no phase test. -/
def execBoinit (f : Fields) (s : State) : Host.Outcome State Fault Refusal :=
  issue (.boinit f) s fun f s => do
    let r := s.refM f
    let off ← objOff s r
    let (v, s) := s.pin.src f.d 0
    let o : BarObj := ⟨v.extractLsb' 16 4, v.extractLsb' 0 16, 0, v.extractLsb' 32 32, 0, v.extractLsb' 0 16, 0⟩
    .ok (.step (s.putObj s.core s.thr.hold off o s.thr.rgn r.word))

/-- A barrier object that an instruction reads faults INTEG when its beat is poisoned (R71), ECC when it has an uncorrectable error (R169). -/
def objGood (s : State) (off : Nat) (r : Ref) : M Unit :=
  if s.winBad s.core s.thr.hold off then raise s (s.winCode s.core s.thr.hold off) 0 r.word else .ok ()

/-- BOARR (R397): a release at gP. -/
def execBoarr (f : Fields) (s : State) : Host.Outcome State Fault Refusal :=
  issue (.boarr f) s fun f s => do
    let w := s.g f.b
    checkPlot s w
    let r := s.refP f
    let off ← objOff s r
    objGood s off r
    let s ← release s w
    let o := s.barObj s.core s.thr.hold off
    let s := s.pin.putObj s.core s.thr.hold off { o with arr := o.arr - (if o.arr = 0 then 0 else 1) }.test s.thr.rgn r.word
    .ok (.step (s.dst f.d (o.gen.zeroExtend 64)))

/-- BOEXP (R397). -/
def execBoexp (f : Fields) (s : State) : Host.Outcome State Fault Refusal :=
  issue (.boexp f) s fun f s => do
    let r := s.refM f
    let off ← objOff s r
    objGood s off r
    let (v, s) := s.pin.src f.d 0
    let o := s.barObj s.core s.thr.hold off
    .ok (.step (s.putObj s.core s.thr.hold off { o with inb := o.inb + v.extractLsb' 0 32 }.test s.thr.rgn r.word))

/-- BOWT (R297, R397): an acquire at gP on completion. -/
def execBowt (f : Fields) (s : State) : Host.Outcome State Fault Refusal :=
  issue (.bowt f) s fun f s => do
    let w := s.g f.b
    checkPlot s w
    let r := s.refP f
    let off ← objOff s r
    objGood s off r
    let o := s.barObj s.core s.thr.hold off
    if o.gen ≠ (s.g f.d).extractLsb' 0 4 || o.idle then
      acqReady s
      .ok (.step (s.pin.acquire s.core))
    else stay s

/-! ### Memory queues (R398, R399) -/

/-- A queue's header (R398). -/
structure QHdr where
  rbase : Nat
  capm1 : Nat
  head  : Word
  tail  : Word
deriving DecidableEq, Repr

/-- The header from its 64 bytes: none when a reserved bit is set or RBASE is misaligned (R398). -/
def qHdrOf (bs : List Byte) : Option QHdr :=
  let w := fun i => leNat ((bs.drop (8 * i)).take 8)
  if bits (w 0) 63 57 ≠ 0 || w 0 % 32 ≠ 0 || bits (w 1) 63 16 ≠ 0 || (List.range 4).any (fun i => w (4 + i) ≠ 0) then none
  else some ⟨w 0, bits (w 1) 15 0, BitVec.ofNat 64 (w 2), BitVec.ofNat 64 (w 3)⟩

/-- The issue of QPUSH and QPOP: the request goes to the header's home, and the slot is not ready (R391). Both count in LD later (R399), and a
QPOP is an acquire (R264). -/
def queueOp (s : State) (f : Fields) (push : Bool) : M Fin :=
  if s.slot.sent then stay s
  else do
    ldFull s
    if !push then acqReady s
    let r := s.refM f
    let p ← reachM s s.who r 64 64 atomNeed
    match p with
    | .win _ _ => raise s 0x16 0 r.word
    | .mva a =>
      let (parts, s) ← transParts s s.thr.hold (clusterOf s.core) a 64 atomNeed r.word
      acqPast s (unordered parts)
      match roams s parts, parts with
      | some k, _ => leftM (s.migrateTo k false)
      | none, [(.dev pa l, _)] =>
        let v := if push && f.d.cls = .G then s.g f.d else 0
        let d : Dst := if f.d.cls = .Q then .queue f.d.idx.toNat [] else .reg (s.thr.dstNo f.d.idx.toNat)
        let (i, s) := s.newId
        let q : QReq := ⟨s.core, s.slotNo, s.thr.hold, a, .dev pa l, push, v, s.slot.issued, none, d, i, f.yld⟩
        stay ({ s with sc := { s.sc with qreqs := s.sc.qreqs ++ [q] } }.modSlot fun x => { x with sent := true })
      | _, _ => raise s 0x16 0 r.word

/-- QPUSH (R399). -/
def execQpush (f : Fields) (s : State) : Host.Outcome State Fault Refusal :=
  issue (.qpush f) s fun f s => queueOp s f true

/-- QPOP (R399). -/
def execQpop (f : Fields) (s : State) : Host.Outcome State Fault Refusal :=
  issue (.qpop f) s fun f s => queueOp s f false

/-- Replace the request at a position, or take it away. -/
def State.setQReq (s : State) (pos : Nat) (q : Option QReq) : State :=
  { s with sc := { s.sc with qreqs := match q with | some q => s.sc.qreqs.set pos q | none => s.sc.qreqs.eraseIdx pos } }

/-- The instruction of a slot is past its wait: the thread goes on after it. -/
def State.passed (s : State) (core slot : Nat) (yld : Bool) : State :=
  s.modSlotAt core slot fun v => { v.done yld with thr := v.thr.map Thread.advance }

/-- The request at a queue's home meets a page that is not resident: the wait ends, and the thread parks, or stops where no request
can be raised (R391, R486). -/
def State.qPage (s : State) (pos : Nat) (q : QReq) (mva : Nat) : State :=
  let s := (s.setQReq pos none).forget (.queue q.core q.slot)
  let addr := BitVec.ofNat 64 q.hdr
  if s.canRequest q.hold then s.modSlotAt q.core q.slot fun v => { v.fresh with leave := .page addr mva true }
  else s.takeAt q.core q.slot { code := 0x15, addr := addr, write := true }

/-- The request at a queue's home meets a denied page, a bad header or poisoned data: the wait ends, and the cause is taken by the
instruction that still stands at the PC (R71, R391, R398). -/
def State.qFail (s : State) (pos : Nat) (q : QReq) (code : Nat) : State :=
  ((s.setQReq pos none).forget (.queue q.core q.slot)).takeAt q.core q.slot { code := code, addr := BitVec.ofNat 64 q.hdr, write := q.push }

/-- The home writes the entry of a QPUSH and moves TAIL (R399): none while a queue operand is empty. -/
def State.qPush (s : State) (pos : Nat) (q : QReq) (h : QHdr) (at_ ent : AtHome) (pa ea : Nat) : Option State :=
  let popped : Option (Word × State) := match q.dst with
    | .queue n _ => if qHead (s.qIn q.core q.hold n) = 0 then none else some (s.popQ q.core q.hold n)
    | _ => some (q.value, s)
  popped.map fun (v, s) =>
    let src := coreX q.core + coreY q.core * 2 ^ 8 + q.slot * 2 ^ 16
    let s := s.homeStore ent none ea (leBytes 8 v.toNat ++ leBytes 8 q.stamp ++ leBytes 8 src ++ leBytes 8 0)
    let s := s.homeStore at_ none (pa + 24) (leBytes 8 (h.tail + 1).toNat)
    (s.setQReq pos none).passed q.core q.slot q.yld

/-- The destination of a QPOP can take the value: a queue has room for one more (R186). -/
def State.qRoom (s : State) (q : QReq) : Bool :=
  match q.dst with
  | .queue n _ => (s.qOut q.core q.hold n).length < qCap n
  | _ => true

/-- The home takes the entry of a QPOP and moves HEAD (R399); the QPOP counts in LD from now on. A bad entry faults (R71, R169). -/
def State.qPop (s : State) (pos : Nat) (q : QReq) (h : QHdr) (at_ ent : AtHome) (pa ea : Nat) : State :=
  let (e, bad, s) := s.homeBytes ent ea 32
  if bad then s.qFail pos q (s.badCode ea 32)
  else
    let s := s.homeStore at_ none (pa + 16) (leBytes 8 (h.head + 1).toNat)
    let (d, s) : Dst × State := match q.dst with
      | .queue n _ => let (i, s) := s.reserveQ q.core q.hold n; (.queue n [i], s)
      | d => (d, s)
    let pend := match d with | .reg g => [idxNo g] | _ => []
    let src := leNat ((e.drop 16).take 8)
    let prod := slotKey (coreAt (bits src 6 0) (bits src 13 8)) (bits src 19 16)
    let s := (s.setQReq pos (some { q with taken := some (wordLe e, leNat ((e.drop 8).take 8), prod), dst := d })).passed q.core q.slot q.yld
    s.modSlotAt q.core q.slot fun v => { v with ld := v.ld + 1, acq := v.acq ++ [q.id], pendG := v.pendG ++ pend }

/-- The addresses of a ring, one for each page that it lies on. -/
def QHdr.pages (h : QHdr) : List Nat :=
  let last := h.rbase + 32 * h.capm1
  h.rbase :: (List.range (last / 65536 - h.rbase / 65536)).map fun i => (h.rbase / 65536 + i + 1) * 65536

/-- The entries of the walks for some addresses may be read (R56). -/
def State.walksOpen (s : State) (q : Asker) : List Nat → Bool × State
  | [] => (true, s)
  | a :: l =>
    match s.rootReady q a with
    | (true, s) => s.walksOpen q l
    | (false, s) => (false, s)

/-- A page of the ring is no device page: the direct window, or a leaf with TGT ≠ 00 (R398). A page that has no leaf is judged when
an entry on it is reached (DEDUCED, log entry 79). -/
def State.ringBad (s : State) (hold : Nat) (h : QHdr) : Bool :=
  h.pages.any fun a => bits a 56 52 = 0x1F ||
    (match s.walkFrom a 4 3 (s.hword hold 0x40) with
     | .ok (_, _, e) => bits e.toNat 29 28 ≠ 0
     | .error _ => false)

/-- The home takes its step for a request that has not begun (R399), once the host's state of the halves of header, ring pages and entry
allows it (R56): none while the queue is full or empty, or the destination has no room. -/
def State.qBegin (s : State) (pos : Nat) (q : QReq) (pa : Nat) (leaf : Leaf) : Option State :=
  let who : Req := .queue q.core q.slot
  let rgn := ((s.slotAt q.core q.slot).thr.map (·.rgn)).getD 0
  let ask : Asker := ⟨who, q.hold, rgn⟩
  let wait := fun (t : State) => if s.stirred t then some t else none
  let at_ := atHome leaf q.hold rgn (BitVec.ofNat 64 q.hdr)
  if (s.keyMat leaf.key).isNone then some (s.qFail pos q 0x16)
  else
    match s.hdmGate (some who) pa 64 true q.hold rgn with
    | (false, t) => wait t
    | (true, s1) =>
      let (hb, bad, s2) := s1.homeBytes at_ pa 64
      if bad then some (s2.qFail pos q (s2.badCode pa 64))
      else
        match qHdrOf hb with
        | none => some (s2.qFail pos q 0x16)
        | some h =>
          match s2.walksOpen ask h.pages with
          | (false, t) => wait t
          | (true, s3) =>
            let shut : Bool := if q.push then h.capm1 < (h.tail - h.head).toNat else decide (h.tail = h.head)
            if s3.ringBad q.hold h then some (s3.qFail pos q 0x16)
            else if shut || (!q.push && !s3.qRoom q) then wait s3
            else
              let k := if q.push then h.tail else h.head
              let mva := h.rbase + 32 * (k.toNat % (h.capm1 + 1))
              match s3.translate ask (clusterOf q.core) mva { r := true, w := true } with
              | (.error .nonres, s) => some (s.qPage pos q mva)
              | (.error .waits, t) => wait t
              | (.ok (.dev ea el), s) =>
                let ent := atHome el q.hold rgn (BitVec.ofNat 64 mva)
                (match s.hdmGate (some who) ea 32 q.push q.hold rgn with
                 | (false, t) => wait t
                 | (true, s) => if q.push then s.qPush pos q h at_ ent pa ea else some (s.qPop pos q h at_ ent pa ea))
              | (_, s) => some (s.qFail pos q 0x16)

/-- QUEUE_HOME_STEP (R399): the request at position `pos` begins its step, or a QPOP that has taken its entry completes when
the producer's %drained has reached the stamp (R271). -/
def execQueueHomeStep (s : State) : Host.Outcome State Fault Refusal :=
  let pos := s.ctl.here.pos
  event s (match s.sc.qreqs[pos]? with
    | none => none
    | some q =>
      match q.taken, q.hdrAt with
      | none, .dev pa leaf => s.qBegin pos q pa leaf
      | some (v, stamp, prod), _ =>
        if (Tab.get {} s.co.slots prod).drained < stamp then none
        else
          let got := if s.killing q.core q.slot then none else some (leBytes 8 v.toNat)
          let s := (s.setQReq pos none).land q.core q.slot q.hold q.dst ⟨8, false⟩ got
          some ((s.acquire q.core).modSlotAt q.core q.slot fun x => { x with ld := x.ld - 1, acq := x.acq.filter (· ≠ q.id) })
      | _, _ => none)

/-! ### Mailboxes (R188, R400) -/

/-- The slot's turn at a mailbox: no slot of the holding in the core that arrived earlier waits for the same side (R188). -/
def State.mboxTurn (s : State) (side : Nat) : Bool :=
  (List.range 16).all fun k =>
    let v := s.slotAt s.core k
    k = s.slotNo || (v.thr.map (·.hold)) ≠ some s.thr.hold ||
    (match v.mbox, s.slot.mbox with
     | some (a, x), some (b, _) => x ≠ side || b < a
     | some (_, x), none => x ≠ side
     | none, _ => true)

/-- Wait at a mailbox, with the place in the order of arrival that the first wait gives (R188). -/
def mboxWait {α : Type} (s : State) (side : Nat) : M α :=
  match s.slot.mbox with
  | some _ => stay s
  | none =>
    let (i, s) := s.newId
    stay (s.modSlot fun v => { v with mbox := some (i, side) })

/-- A mailbox became full: MAIL is raised in the movement slot, or held (R164, R188). -/
def State.raiseMail (s : State) (core hold : Nat) : State :=
  let m := s.hmovs hold
  if ((s.slotAt core m).thr.map (·.hold)) = some hold then s.modSlotAt core m fun v => { v with uipend := v.uipend ||| 2 }
  else s.modHc core hold fun h => { h with mail := true }

/-- MBPUT (R400): a release at module scope. -/
def execMbput (f : Fields) (s : State) : Host.Outcome State Fault Refusal :=
  issue (.mbput f) s fun f s =>
    let n := bits f.imm.toNat 2 0
    let h := s.thr.hold
    let a := f.a.idx.toNat
    if Tab.get false (s.hcAt s.core h).mbFull n || !s.mboxTurn (2 * n) then mboxWait s (2 * n)
    else if !s.released s.core s.slotNo modulePlot then mboxWait (s.duePools s.core s.slotNo) (2 * n)
    else
      let s := s.pin
      let data := (List.range 8).flatMap fun k => leBytes 8 (s.thr.gpr (a + k)).toNat
      let s := s.modHc s.core h fun c => { c with mb := Tab.setBytes c.mb (64 * n) data, mbFull := Tab.set false c.mbFull n true }
      .ok (.step (s.raiseMail s.core h))

/-- MBTAKE (R400): an acquire at own-core scope. -/
def execMbtake (f : Fields) (s : State) : Host.Outcome State Fault Refusal :=
  issue (.mbtake f) s fun f s =>
    let n := bits f.imm.toNat 2 0
    let h := s.thr.hold
    let d := f.d.idx.toNat
    if !Tab.get false (s.hcAt s.core h).mbFull n || !s.mboxTurn (2 * n + 1) || s.slot.rels ≠ 0 then mboxWait s (2 * n + 1)
    else
      let s := s.pin
      let data := Tab.bytes (s.hcAt s.core h).mb (64 * n) 64
      let s := s.modHc s.core h fun c => { c with mbFull := Tab.set false c.mbFull n false }
      let s := (List.range 8).foldl (fun (s : State) k => s.setG (d + k) (wordLe (data.drop (8 * k)))) s
      .ok (.step (s.acquire s.core))

end Sys2Proof.Machine
end

