-- ==== Sys2Proof/Machine/Vector.lean ====
section
/-! DEFINITION. Vector instructions over shapes (R242-R244, R249, R402-R417). -/

namespace Sys2Proof.Machine

/-! ### Shape records (R242, R243) -/

/-- A shape record. -/
structure Shape where
  q    : Bool
  efmt : Nat
  base : Nat
  exts : List Nat
  strs : List Int
  ptr  : Word
deriving DecidableEq, Repr

/-- A shape record from its 32 bytes: none where it faults HDRKIND (R242). -/
def Shape.ofBytes (ptr : Word) (bs : List Byte) : Option Shape :=
  let w := leNat (bs.take 8)
  let n := bits w 39 38 + 1
  let efmt := bits w 37 32
  if bits w 63 41 ≠ 0 || efmt = 0 || 13 < efmt || (bit w 40 && 7 < bits w 31 0) then none
  else
    some ⟨bit w 40, efmt, bits w 31 0, (List.range n).map fun i => leNat ((bs.drop (8 + 2 * i)).take 2),
      (List.range n).map fun i => sgnNat 32 (leNat ((bs.drop (16 + 4 * i)).take 4)), ptr⟩

/-- The element count of a shape. -/
def Shape.count (h : Shape) : Nat := h.exts.foldl (· * ·) 1
/-- The element width of a shape. -/
def Shape.w (h : Shape) : Nat := fmtWidth h.efmt
/-- The shape is of the floating family (R403). -/
def Shape.float (h : Shape) : Bool := isFloat h.efmt

/-- The stride sum of element `k`, dimension 0 fastest (R243). -/
def strideSum : List Nat → List Int → Nat → Int
  | e :: es, s :: ss, k => (k % e : Nat) * s + strideSum es ss (k / e)
  | _, _, _ => 0

/-- The window bit address of element `k` (R243). -/
def Shape.bitAt (h : Shape) (k : Nat) : Nat := ((8 * h.base : Nat) + h.w * strideSum h.exts h.strs k).toNat

/-- The lowest and the highest stride sum of a shape. -/
def Shape.lowHigh (h : Shape) : Int × Int :=
  (h.exts.zip h.strs).foldl (fun p (e, s) =>
    let d := ((e : Int) - 1) * s
    if d < 0 then (p.1 + d, p.2) else (p.1, p.2 + d)) (0, 0)

/-- Read a shape record as an LD of 32 bytes (R242). -/
def readShape (s : State) (p : Word) : M (Shape × State) :=
  if bits p.toNat 63 61 ≠ 0 then raise s 0x33
  else do
    let (bs, s) ← unitRd kLD { r := true } s (refOf p 0) 32 32
    match Shape.ofBytes p bs with
    | some h => .ok (h, s)
    | none => raise s 0x33

/-- The lowest and the highest window byte of a shape's extent (R243). -/
def Shape.span (h : Shape) : Int × Int :=
  let (lo, hi) := h.lowHigh
  (((8 * h.base : Nat) + h.w * lo) / 8, ((8 * h.base : Nat) + h.w * hi + h.w - 1) / 8)

/-- What the extent of a shape breaks (R243): a cause, and the shape's lowest byte. -/
def shapeBad (s : State) (cause : Nat) (h : Shape) : Bool :=
  !h.q && h.count ≠ 0 &&
  (match cause with
   | 0x10 => h.span.1 < 0 || (s.winSize s.thr.hold : Int) ≤ h.span.1
   | 0x14 => 8 * h.base % h.w ≠ 0
   | _ => (s.winSize s.thr.hold : Int) ≤ h.span.2)

/-- The checks that follow the shape records: the FP64 extension, by FMT or a record, as `s0` stood before them, and unowned queues (R403, R417). -/
def shapesOk (f : Fields) (s0 s : State) (hs : List Shape) : M Unit :=
  if (mdFmt f.md = 13 || hs.any fun h => h.efmt = 13) && coreNo s.core ≠ 0 then
    if s0.thr.pinned then raise s 0x05 else leftM (s0.migrateTo (clusterOf s.core) true)
  else if hs.any fun h => h.q && !s.qOwned s.core s.thr.hold h.base then raise s 0x16
  else .ok ()

/-! ### Units of one line (R181, R182, R406) -/

/-- Insert into a rising list without repeats. -/
def insertNat (n : Nat) : List Nat → List Nat
  | [] => [n]
  | m :: l => if n < m then n :: m :: l else if n = m then m :: l else m :: insertNat n l

/-- A list sorted without repeats. -/
def sortNat (l : List Nat) : List Nat := l.foldr insertNat []

/-- How a line unit lands: in the core's bank, or at the place that a REDIRECT of its one word names. -/
inductive LineHit where
  | own (acts : List (Nat × Nat))
  | other (lo : Nat) (hit : Hit) (r : Ref) (redirs : Nat)
deriving DecidableEq, Repr

/-- Look up a line unit of the local window by the bytes that it touches. -/
def lineLook (kind : Nat) (need : Need) (s : State) (touched : List Nat) : M (LineHit × State) :=
  let ws := sortNat (touched.map (· / 8))
  let lo := touched.headD 0
  let n := touched.getLastD 0 + 1 - lo
  let addr := fun w => (Ref.mk 0 (8 * w : Nat)).word
  let (r, k, s) := s.pin.startAt (Ref.mk 0 (lo : Nat))
  let h := s.thr.hold
  if (s.parkedAt s.slot.resume.cur).isSome then do
    let (hit, r, k, s) ← locate kind n 1 need true 6 s r k
    .ok (.other lo hit r k, s)
  else do
    busyPast s ws
    match s.unitLook s.core h kind ws with
    | .wait full => parkWords s ws full none 0
    | .trap sub w => raise s 0x20 sub (addr w) need.w
    | .redirMany w => raise s 0x21 1 (addr w) need.w
    | .redirect w =>
      if s.winBad s.core h (8 * w) then raise s (s.winCode s.core h (8 * w)) 0 (addr w)
      else
        let (hit, r, k, s) ← locate kind n 1 need true 5 s (refOf (wordLe (s.winBytes s.core h (8 * w) 8)) 0) 1
        .ok (.other lo hit r k, s)
    | .go acts => .ok (.own acts, s)

/-- Read the bytes of a redirected line unit, with its first byte at place `pad` of its line. -/
def redirRd (s : State) (hit : Hit) (r : Ref) (k n pad : Nat) : M (List Byte × State) :=
  let h := s.thr.hold
  match hit with
  | .here off acts =>
    let m := unitLen kVR off n
    if s.unitBad s.core h acts then raise s (s.unitCode s.core h acts) 0 r.word
    else
      let bs := s.unitRead s.core h off m acts
      let s := (s.retag s.core h acts).busyOff (winWords off m)
      .ok (List.replicate pad 0 ++ bs, if m < n then s.goOn (r.add m) k else s)
  | .far core off => do
    clearWay s [(.bank core h off, n)]
    s.sendRead ((farParts core h off n).map fun (t, o, m) => (t, pad + o, m)) (pad + n) 1 r.word k
  | .glob parts => do
    clearWay s parts
    s.sendRead ((cutParts 8 parts 0).map fun (t, o, m) => (t, pad + o, m)) (pad + n) 1 r.word k

/-- Read a line unit: the 128 bytes of the line, of which the touched ones count. -/
def lineRd (s : State) (line : Nat) (touched : List Nat) : M (List Byte × State) := do
  let lo := touched.headD 0
  let n := touched.getLastD 0 + 1 - lo
  let (d, s) ← unitOnce s fun s => do
    let (a, s) ← lineLook kVR { r := true } s touched
    let h := s.thr.hold
    match a with
    | .own acts =>
      if s.unitBad s.core h acts then raise s (s.unitCode s.core h acts) 0 (Ref.mk 0 (line * 128 : Nat)).word
      else .ok (s.unitRead s.core h (line * 128) 128 acts, (s.retag s.core h acts).busyOff (acts.map (·.1)))
    | .other lo hit r k => redirRd s hit r k n (lo % 128)
  if lo % 128 + n ≤ d.length then .ok (d, s)
  else
    let left := lo % 128 + n - d.length
    let (e, s) ← unitOnce s fun s => do
      let (r, k, s) := s.restAt
      let (hit, r, k, s) ← locate kVR left 1 { r := true } true 6 s r k
      redirRd s hit r k left 0
    .ok (d ++ e, s)

/-- A byte after bits are written into it. -/
def mergeByte (old : Byte) (p : BitsOf) : Byte := BitVec.ofNat 8 ((old.toNat &&& (255 - p.1)) ||| p.2)

/-- Write merged bytes of the window, beat by beat (R70). -/
def State.winMerge (s : State) (core hold rgn : Nat) (vals : List (Nat × BitsOf)) : State :=
  (sortNat (vals.map fun (a, _) => a / 32)).foldl (fun s b =>
    let vs := vals.filter fun (a, _) => a / 32 = b
    if vs.length = 32 then
      s.winBeat core hold (32 * b) (vs.map fun (a, p) => mergeByte ((s.winBytes core hold a 1).headD 0) p) rgn (Ref.mk 0 (32 * b : Nat)).word
    else if s.winBad core hold (32 * b) then s.winBeat core hold (32 * b) [] rgn (Ref.mk 0 (32 * b : Nat)).word
    else vs.foldl (fun s (a, p) => s.winPut core hold a [mergeByte ((s.winBytes core hold a 1).headD 0) p]) s) s

/-- One global store of merged bytes, a part for each byte. -/
def storeBytes (s : State) (ts : List (Tgt × BitsOf)) (addr : Word) (k : Nat) : M State := do
  stFull s
  let (num, s) := s.newStore ts.length none
  let strong := (ts.filter fun (t, _) => t.kind = 1).length
  let s := s.modSlot fun v => { v with strong := v.strong + strong }
  .ok (s.toPost (ts.map fun (t, p) =>
    { s.entry none (some num) (bitsOp [(0, p)]) 0 t addr k with vec := true, al := 1 }))

/-- Write the bits of a redirected line unit: bytes by their distance from its first. The bytes that it returns say how many are written
when some are left. -/
def redirWr (s : State) (hit : Hit) (r : Ref) (k : Nat) (vals : List (Nat × BitsOf)) : M (List Byte × State) := do
  let n := (vals.map (·.1)).getLastD 0 + 1
  match hit with
  | .here off acts =>
    let m := unitLen kVW off n
    let live := vals.filter fun (a, _) => a < m && !dropped acts ((off + a) / 8)
    let s := ((s.winMerge s.core s.thr.hold s.thr.rgn (live.map fun (a, p) => (off + a, p))).retag s.core s.thr.hold acts).busyOff (winWords off m)
    .ok (if m < n then ([BitVec.ofNat 8 m], s.goOn (r.add m) k) else ([], s))
  | .far core off =>
    let s ← farStore s core off vals 1 r k
    .ok ([], s)
  | .glob parts =>
    if parts.any fun (t, m) => s.pooled t m then stay (parts.foldl (fun s (t, m) => s.dueWord t m) s)
    else
      let bytes := cutParts 1 parts 0
      let s ← storeBytes s (vals.filterMap fun (a, p) => (bytes.find? fun (_, o, _) => o = a).map fun (t, _, _) => (t, p)) r.word k
      .ok ([], s)

/-- Write a line unit: window byte addresses with the bits to write. -/
def lineWr (s : State) (vals : List (Nat × BitsOf)) : M State := do
  let lo := (vals.map (·.1)).headD 0
  let rel := vals.map fun (a, p) => (a - lo, p)
  let (d, s) ← unitOnce s fun s => do
    let (a, s) ← lineLook kVW { w := true } s.destUnit (vals.map (·.1))
    match a with
    | .own acts =>
      .ok ([], ((s.winMerge s.core s.thr.hold s.thr.rgn (vals.filter fun (a, _) => !dropped acts (a / 8))).retag s.core s.thr.hold acts).busyOff
        (acts.map (·.1)))
    | .other _ hit r k => redirWr s hit r k rel
  match d with
  | m :: _ =>
    let left := (rel.filter fun (a, _) => m.toNat ≤ a).map fun (a, p) => (a - m.toNat, p)
    let (_, s) ← unitOnce s fun s => do
      let (r, k, s) := s.destUnit.restAt
      let (hit, r, k, s) ← locate kVW ((left.map (·.1)).getLastD 0 + 1) 1 { w := true } true 6 s r k
      redirWr s hit r k left
    .ok s
  | [] => .ok s

/-! ### Elements of a shape -/

/-- The bytes that the elements of a shape touch, rising. -/
def Shape.touched (h : Shape) : List Nat :=
  sortNat ((List.range h.count).flatMap fun k =>
    let b := h.bitAt k
    (List.range ((b % 8 + h.w + 7) / 8)).map (b / 8 + ·))

/-- Read the lines of a list of touched bytes, rising: the lines with their bytes. -/
def readLines (s : State) (touched : List Nat) : List Nat → M (List (Nat × List Byte) × State)
  | [] => .ok ([], s)
  | l :: ls => do
    let (d, s) ← lineRd s l (touched.filter fun a => a / 128 = l)
    let (r, s) ← readLines s touched ls
    .ok ((l, d) :: r, s)

/-- The entries that the elements of a shape fill in a queue (R244). -/
def Shape.entries (h : Shape) : Nat := (h.count + 64 / h.w - 1) / (64 / h.w)

/-- The entries that shapes take from a queue, or put on it. -/
def entriesOf (q : Nat) (hs : List Shape) : Nat := ((hs.filter fun h => h.q && h.base = q).map Shape.entries).sum

/-- The values at the head of a queue. -/
def headVals : List QEnt → List Word
  | .val w :: l => w :: headVals l
  | _ => []

/-- The queue shapes of an instruction can all proceed (R186, R244): every source's queue holds its entries, the destination's queue
has the free places, after the pops of the same queue, and no other slot's instruction in progress uses them (DEDUCED, log entry 75). -/
def State.shapesGo (s : State) (d : List Shape) (srcs : List Shape) : Bool :=
  let src := srcs.filter Shape.q
  let dst := d.filter Shape.q
  !s.heldElse (src.map (popKey ·.base) ++ dst.map (pushKey ·.base)) &&
  (src.all fun h => entriesOf h.base srcs ≤ qHead (s.qIn s.core s.thr.hold h.base)) &&
  dst.all fun h => (s.qOut s.core s.thr.hold h.base).length + h.entries ≤ qCap h.base + (if h.base < 4 then entriesOf h.base srcs else 0)

/-- The code of element `k` among the entries of a queue (R244). -/
def packedCode (w : Nat) (ents : List Word) (k : Nat) : Nat :=
  (ents.getD (k / (64 / w)) 0).toNat / 2 ^ (k % (64 / w) * w) % 2 ^ w

/-- The code of element `k` of a shape among the bytes of lines. -/
def Shape.codeAt (h : Shape) (byte : Nat → Byte) (k : Nat) : Nat :=
  let b := h.bitAt k
  leNat ((List.range ((b % 8 + h.w + 7) / 8)).map fun i => byte (b / 8 + i)) / 2 ^ (b % 8) % 2 ^ h.w

/-- A byte of the lines that were read. -/
def byteOf (ls : List (Nat × List Byte)) (a : Nat) : Byte :=
  ((ls.find? fun (l, _) => l = a / 128).map fun (_, d) => (d.getD (a % 128) 0)).getD 0

/-- Join two rising lists without repeats. -/
def mergeNat : List Nat → List Nat → List Nat
  | [], l => l
  | x :: xs, l => l.takeWhile (· < x) ++ x :: mergeNat xs (l.dropWhile (· ≤ x))

/-- The bytes that the shapes of an instruction touch in the window, rising. -/
def touchedBy (hs : List Shape) : List Nat := (hs.filter fun h => !h.q).foldr (fun h l => mergeNat h.touched l) []

/-- The codes of each source shape, in order: from the bytes of the window, or from its queue behind the entries of the sources
before it. -/
def State.codesOf (s : State) (byte : Nat → Byte) : List Shape → List Shape → List (List Nat)
  | _, [] => []
  | before, h :: hs =>
    let ents := if h.q then (headVals (s.qIn s.core s.thr.hold h.base)).drop (entriesOf h.base before) else []
    (List.range h.count).map (if h.q then packedCode h.w ents else h.codeAt byte) :: s.codesOf byte (before ++ [h]) hs

/-- The codes of the elements of the source shapes `srcs`, read before anything is written into `d` (R243). The instruction waits until its
queues can proceed; then each line that the sources touch is one unit, in ascending order (R181, R182), and entries stay in their
queues until the instruction completes. Another slot's later access to a byte that is still to be touched waits (R406). -/
def readShapes (s : State) (d srcs : List Shape) (vu : Bool := true) : M (List (List Nat) × State) :=
  if !s.shapesGo d srcs then stay s
  else do
    let s := s.holdOn ((srcs.filter Shape.q).map (popKey ·.base) ++ (d.filter Shape.q).map (pushKey ·.base))
    let touched := touchedBy srcs
    let s := s.busyOn vu (sortNat (touched.map (· / 8)) ++ sortNat ((touchedBy d).map (· / 8)))
    let (ls, s) ← readLines s touched (sortNat (touched.map (· / 128)))
    .ok (s.codesOf (byteOf ls) [] srcs, s)

/-- Write the lines of a list of bits, rising. -/
def writeLines (s : State) (vals : List (Nat × BitsOf)) : List Nat → M State
  | [] => .ok s
  | l :: ls => do
    let s ← lineWr s (vals.filter fun (a, _) => a / 128 = l)
    writeLines s vals ls

/-- The bits of an element's code at a bit address, by byte. -/
def elemBits (b w code : Nat) : List (Nat × BitsOf) :=
  (List.range ((b % 8 + w + 7) / 8)).map fun i =>
    (b / 8 + i, ((2 ^ w - 1) * 2 ^ (b % 8) / 2 ^ (8 * i) % 256, code % 2 ^ w * 2 ^ (b % 8) / 2 ^ (8 * i) % 256))

/-- Bits of later elements win over those of earlier ones. -/
def joinBits (t : Tab BitsOf) (l : List (Nat × BitsOf)) : Tab BitsOf :=
  l.foldl (fun t (a, m, v) =>
    let (m', v') := Tab.get (0, 0) t a
    Tab.put t a (m ||| m', (v' &&& (255 - m)) ||| v)) t

/-- Cut a list into pieces of `n`; `fuel` bounds the pieces. -/
def chunks {α : Type} (n : Nat) : Nat → List α → List (List α)
  | 0, _ => []
  | fuel + 1, l => if l.isEmpty then [] else l.take n :: chunks n fuel (l.drop n)

/-- The bits that a destination shape's codes give to bytes of the window, a later element winning (R243). -/
def Shape.bitsOf (h : Shape) (codes : List Nat) : Tab BitsOf :=
  (codes.zip (List.range codes.length)).foldl (fun t (c, k) => joinBits t (elemBits (h.bitAt k) h.w c)) []

/-- The source queues give up the entries that the instruction took (R186). -/
def State.popShapes (s : State) (srcs : List Shape) : State :=
  (srcs.filter Shape.q).foldl (fun s h =>
    s.setQIn s.core s.thr.hold h.base ((s.qIn s.core s.thr.hold h.base).drop h.entries)) s

/-- Push the codes of a destination shape, packed into entries (R244). -/
def State.pushShape (s : State) (h : Shape) (codes : List Nat) : State :=
  (chunks (64 / h.w) codes.length codes).foldl (fun s c => s.pushQ s.core s.thr.hold h.base (BitVec.ofNat 64 (packNat h.w c))) s

/-- The end of an instruction: the codes are written into its destination shape, line by line or, after the pops of its sources,
as entries of its queue (R186, R243, R244). -/
def endShapes (s : State) (d : Shape) (srcs : List Shape) (codes : List Nat) : M State :=
  if d.count = 0 then .ok (s.popShapes srcs)
  else if d.q then .ok ((s.popShapes srcs).pushShape d codes)
  else do
    let t := d.bitsOf codes
    let s ← writeLines s t (sortNat (t.map fun (a, _) => a / 128))
    .ok (s.popShapes srcs)

/-! ### Results (R404) -/

/-- The integer format's code of an exact integer: its low bits, or clamped (R404). -/
def fitInt (fmt : Nat) (sat : Bool) (i : Int) : Nat :=
  match ifmt fmt with
  | some (w, sgn) => intCode w (if sat then clampInt (intLo w sgn) (intHi w sgn) i else i)
  | none => 0

/-- The integer that a number is. -/
def ExtNum.int (x : ExtNum) : Int := (x.toInt .rz).getD 0

/-- One element's result in a format (R404). -/
def encElem (fmt : Nat) (rm : Rm) (sat : Bool) (fpm : BitVec 4) (draw : BitVec 32) (x : ExtNum) : Nat :=
  if isFloat fmt then encodeNum fmt rm (satFor fmt sat fpm) draw x else fitInt fmt sat x.int

/-- One element's conversion between formats (R410). -/
def cvtElem (src dst : Nat) (rm : Rm) (sat : Bool) (fpm : BitVec 4) (draw : BitVec 32) (x : ExtNum) : Nat :=
  if isFloat src && !isFloat dst then encodeNum dst rm false 0 x else encElem dst rm sat fpm draw x

/-- Results drawn in ascending order (R227): the codes and the generator after them. -/
def drawAll (draws : Bool) (enc : BitVec 32 → ExtNum → Nat) : BitVec 32 → List ExtNum → List Nat × BitVec 32
  | g, [] => ([], g)
  | g, x :: xs =>
    let g' := if draws then rngNext g else g
    let (cs, e) := drawAll draws enc g' xs
    (enc g' x :: cs, e)

/-- Results of an instruction in a format, under its mode (R226, R227, R404). -/
def State.results (s : State) (f : Fields) (fmt : Nat) (enc : Rm → BitVec 32 → ExtNum → Nat) (xs : List ExtNum) : List Nat × BitVec 32 :=
  let rm := s.rm f.md
  drawAll (rm = .rsto && isFloat fmt) (enc rm) s.thr.rng xs

/-- %rng after an instruction that completes (R227). -/
def State.setRng (s : State) (g : BitVec 32) : State := s.modThr fun t => { t with rng := g }

/-- A broadcast scalar (R402). -/
def scalarImm (float : Bool) (f : Fields) : ExtNum :=
  if float then
    (if mdFmt f.md = 2 || mdFmt f.md = 3 then decodeNum (mdFmt f.md) (f.imm.toNat % 65536) else decodeNum 1 f.imm.toNat)
  else ExtNum.ofInt f.imm.toInt

/-- Read the B operand's shape, where it is one. -/
def readB (s : State) (f : Fields) : M (Option Shape × State) :=
  if f.b.cls = .G then do
    let (h, s) ← readShape s (s.g f.b)
    .ok (some h, s)
  else .ok (none, s)

/-- The elements of B: of its shape, the scalar for each, or zeros where the instruction has no B. -/
def elemsB (f : Fields) (b : Option Shape) (float : Bool) (m : Nat) (codes : List Nat) : List ExtNum :=
  match b with
  | some h => codes.map (decodeNum h.efmt)
  | none => List.replicate m (if f.b.cls = .Z then .zero false else scalarImm float f)

/-- The first shape that breaks a cause's rule raises it. -/
def shapesFor (s : State) (hs : List Shape) (cause : Nat) : M Unit :=
  match hs.find? (shapeBad s cause) with
  | some h => raise s cause 0 (Ref.mk 0 h.span.1).word
  | none => .ok ()

/-- All shapes lie in the window with their elements aligned, in the order SEGLIM, ALIGN, WINSTRAD (R171, R243). -/
def shapesIn (s : State) (hs : List Shape) : M Unit := do
  shapesFor s hs 0x10
  shapesFor s hs 0x14
  shapesFor s hs 0x12

/-- FMT asserts D's format (R403). -/
def fmtBad (f : Fields) (d : Shape) : Bool := mdFmt f.md ≠ 0 && mdFmt f.md ≠ d.efmt

/-- The shape of the elementwise instructions (R408): `intOnly` for the bitwise and shift ones, `old` when D is a source. -/
def vecOp (i : Instr) (s : State) (intOnly old : Bool) (r : Rm → Nat → ExtNum → ExtNum → ExtNum → ExtNum) : Host.Outcome State Fault Refusal :=
  issue i s fun f s0 => do
    let (d, s) ← readShape s0 (s0.g f.d)
    if old && d.q then raise s 0x33
    else
      let (a, s) ← readShape s (s.g f.a)
      let (b, s) ← readB s f
      let all := d :: a :: b.toList
      shapesOk f s0 s all
      if fmtBad f d || all.any (fun h => h.float ≠ d.float) || (intOnly && d.float) then raise s 0x32
      else if all.any fun h => h.count ≠ d.count then raise s 0x31
      else
        shapesIn s all
        let srcs := a :: b.toList ++ (if old then [d] else [])
        let (cs, s) ← readShapes s [d] srcs
        let ca := cs.headD []
        let xb := elemsB f b d.float d.count (cs.getD 1 [])
        let cd := if old then cs.getLastD [] else List.replicate d.count 0
        let rm := s.rm f.md
        let xs := ((ca.map (decodeNum a.efmt)).zip (xb.zip (cd.map (decodeNum d.efmt)))).map fun (x, y, z) => r rm d.w x y z
        let (codes, g) := s.results f d.efmt (fun rm => encElem d.efmt rm (mdSat f.md) s.thr.fpm) xs
        let s ← endShapes s d srcs codes
        .ok (.step (s.setRng g))

/-- A bitwise or shift operation on integers (R408). -/
def intNum (g : Nat → Int → Int → Int) : Rm → Nat → ExtNum → ExtNum → ExtNum → ExtNum := fun _ w x y _ => ExtNum.ofInt (g w x.int y.int)

/-- The low bits of an integer as a natural number. -/
def lowBits (w : Nat) (i : Int) : Nat := intCode w i

/-- VADD (R408). -/
def execVadd (f : Fields) (s : State) : Host.Outcome State Fault Refusal :=
  vecOp (.vadd f) s false false fun rm _ x y _ => ExtNum.add rm x y
/-- VSUB (R408). -/
def execVsub (f : Fields) (s : State) : Host.Outcome State Fault Refusal :=
  vecOp (.vsub f) s false false fun rm _ x y _ => ExtNum.add rm x y.negate
/-- VMUL (R408). -/
def execVmul (f : Fields) (s : State) : Host.Outcome State Fault Refusal :=
  vecOp (.vmul f) s false false fun _ _ x y _ => ExtNum.mul x y
/-- VFMA (R408). -/
def execVfma (f : Fields) (s : State) : Host.Outcome State Fault Refusal :=
  vecOp (.vfma f) s false true fun rm _ x y z => ExtNum.fma rm x y z
/-- VMIN (R408, R409). -/
def execVmin (f : Fields) (s : State) : Host.Outcome State Fault Refusal :=
  vecOp (.vmin f) s false false fun _ _ x y _ => ExtNum.pick false x y
/-- VMAX (R408, R409). -/
def execVmax (f : Fields) (s : State) : Host.Outcome State Fault Refusal :=
  vecOp (.vmax f) s false false fun _ _ x y _ => ExtNum.pick true x y
/-- VABS (R408, R409). -/
def execVabs (f : Fields) (s : State) : Host.Outcome State Fault Refusal :=
  vecOp (.vabs f) s false false fun _ _ x _ _ => x.absolute
/-- VAND (R408). -/
def execVand (f : Fields) (s : State) : Host.Outcome State Fault Refusal :=
  vecOp (.vand f) s true false (intNum fun w a b => (lowBits w a &&& lowBits w b : Nat))
/-- VOR (R408). -/
def execVor (f : Fields) (s : State) : Host.Outcome State Fault Refusal :=
  vecOp (.vor f) s true false (intNum fun w a b => (lowBits w a ||| lowBits w b : Nat))
/-- VXOR (R408). -/
def execVxor (f : Fields) (s : State) : Host.Outcome State Fault Refusal :=
  vecOp (.vxor f) s true false (intNum fun w a b => (lowBits w a ^^^ lowBits w b : Nat))
/-- VSHL (R408). -/
def execVshl (f : Fields) (s : State) : Host.Outcome State Fault Refusal :=
  vecOp (.vshl f) s true false (intNum fun w a b => a * (2 ^ (b % w).toNat : Nat))
/-- VSHR (R408). -/
def execVshr (f : Fields) (s : State) : Host.Outcome State Fault Refusal :=
  vecOp (.vshr f) s true false (intNum fun w a b => a / (2 ^ (b % w).toNat : Nat))

/-- VCVT (R410). -/
def execVcvt (f : Fields) (s : State) : Host.Outcome State Fault Refusal :=
  issue (.vcvt f) s fun f s0 => do
    let (d, s) ← readShape s0 (s0.g f.d)
    let (a, s) ← readShape s (s.g f.a)
    shapesOk f s0 s [d, a]
    if fmtBad f d then raise s 0x32
    else if a.count ≠ d.count then raise s 0x31
    else
      shapesIn s [d, a]
      let (cs, s) ← readShapes s [d] [a]
      let ca := cs.headD []
      let (codes, g) := s.results f d.efmt (fun rm => cvtElem a.efmt d.efmt rm (mdSat f.md) s.thr.fpm) (ca.map (decodeNum a.efmt))
      let s ← endShapes s d [a] codes
      .ok (.step (s.setRng g))

/-- The group size of R249. -/
def redGroup (fmt : Nat) : Nat :=
  match fmt with
  | 2 | 3 => 8
  | 4 | 5 => 16
  | 6 | 7 | 8 => 32
  | _ => 1

/-- The FP32 sum of R249: groups summed exactly, each added with one RNE rounding. -/
def redSum (fmt : Nat) (xs : List ExtNum) : ExtNum :=
  decodeNum 1 ((chunks (redGroup fmt) xs.length xs).foldl (fun acc g =>
    encodeNum 1 .rne false 0 (ExtNum.add .rne (decodeNum 1 acc) (sumGroup g))) 0)

/-- The result of VRED on a shape without elements (R411): for a format without infinity its largest value. -/
def redEmpty (fn fmt : Nat) : Nat :=
  if fn = 0 then 0
  else
    match ffmt fmt, ifmt fmt with
    | some ff, _ => ff.pack (fn = 5) (ff.inf.getD ff.big)
    | none, some (w, sgn) => intCode w (if fn = 5 then intLo w sgn else intHi w sgn)
    | none, none => 0

/-- The exact result of VRED on a shape with elements (R411). -/
def redValue (fn fmt : Nat) (xs : List ExtNum) : ExtNum :=
  if fn = 0 then (if isFloat fmt then redSum fmt xs else xs.foldl (ExtNum.add .rne) (.zero false))
  else
    match xs with
    | [] => .nan
    | x :: xs => xs.foldl (ExtNum.pick (fn = 5)) x

/-- VRED (R411). -/
def execVred (f : Fields) (s : State) : Host.Outcome State Fault Refusal :=
  issue (.vred f) s fun f s0 => do
    let (d, s) ← readShape s0 (s0.g f.d)
    let (a, s) ← readShape s (s.g f.a)
    shapesOk f s0 s [d, a]
    if fmtBad f d || a.float ≠ d.float then raise s 0x32
    else if d.count ≠ 1 then raise s 0x31
    else
      shapesIn s [d, a]
      let (cs, s) ← readShapes s [d] [a]
      let fn := f.fn.toNat
      let x := redValue fn a.efmt ((cs.headD []).map (decodeNum a.efmt))
      let empty : Bool := a.count = 0 && fn ≠ 0
      let (codes, g) := s.results f d.efmt (fun rm r x =>
        if empty then redEmpty fn d.efmt else encElem d.efmt rm (mdSat f.md) s.thr.fpm r x) [x]
      let s ← endShapes s d [a] codes
      .ok (.step (s.setRng g))

/-- The prefixes of VSCAN (R412): the stored value of each carries on. -/
def scanAll (draws : Bool) (fmt : Nat) (rm : Rm) (sat : Bool) (fpm : BitVec 4) : BitVec 32 → ExtNum → List ExtNum → List Nat × BitVec 32
  | g, _, [] => ([], g)
  | g, p, x :: xs =>
    let g' := if draws then rngNext g else g
    let c := encElem fmt rm sat fpm g' (ExtNum.add rm p x)
    let (cs, e) := scanAll draws fmt rm sat fpm g' (decodeNum fmt c) xs
    (c :: cs, e)

/-- VSCAN (R412). -/
def execVscan (f : Fields) (s : State) : Host.Outcome State Fault Refusal :=
  issue (.vscan f) s fun f s0 => do
    let (d, s) ← readShape s0 (s0.g f.d)
    let (a, s) ← readShape s (s.g f.a)
    shapesOk f s0 s [d, a]
    if fmtBad f d || a.float ≠ d.float then raise s 0x32
    else if a.count ≠ d.count then raise s 0x31
    else
      shapesIn s [d, a]
      let (cs, s) ← readShapes s [d] [a]
      let ca := cs.headD []
      let rm := s.rm f.md
      let (codes, g) := scanAll (rm = .rsto && d.float) d.efmt rm (mdSat f.md) s.thr.fpm s.thr.rng (.zero false) (ca.map (decodeNum a.efmt))
      let s ← endShapes s d [a] codes
      .ok (.step (s.setRng g))

/-- VCMP (R413). -/
def execVcmp (f : Fields) (s : State) : Host.Outcome State Fault Refusal :=
  issue (.vcmp f) s fun f s0 => do
    let (d, s) ← readShape s0 (s0.g f.d)
    let (a, s) ← readShape s (s.g f.a)
    let (b, s) ← readB s f
    let all := d :: a :: b.toList
    shapesOk f s0 s all
    if fmtBad f d || d.float || b.any (fun h => h.float ≠ a.float) then raise s 0x32
    else if all.any fun h => h.count ≠ d.count then raise s 0x31
    else
      shapesIn s all
      let (cs, s) ← readShapes s [d] (a :: b.toList)
      let xb := elemsB f b a.float d.count (cs.getD 1 [])
      let codes := (((cs.headD []).map (decodeNum a.efmt)).zip xb).map fun (x, y) => if numCond f.fn.toNat x y then 1 else 0
      let s ← endShapes s d (a :: b.toList) codes
      .ok (.step s)

/-- VSEL (R414). -/
def execVsel (f : Fields) (s : State) : Host.Outcome State Fault Refusal :=
  issue (.vsel f) s fun f s0 => do
    let (d, s) ← readShape s0 (s0.g f.d)
    let (a, s) ← readShape s (s.g f.a)
    let (b, s) ← readShape s (s.g f.b)
    let (c, s) ← readShape s (s.thr.gpr (bits f.imm.toNat 4 0))
    let all := [d, a, b, c]
    shapesOk f s0 s all
    if fmtBad f d || c.float || a.efmt ≠ d.efmt || b.efmt ≠ d.efmt then raise s 0x32
    else if all.any fun h => h.count ≠ d.count then raise s 0x31
    else
      shapesIn s all
      let (cs, s) ← readShapes s [d] [a, b, c]
      let s ← endShapes s d [a, b, c]
        (((cs.getD 2 []).zip ((cs.getD 0 []).zip (cs.getD 1 []))).map fun (m, x, y) => if m ≠ 0 then x else y)
      .ok (.step s)

/-- VCOPY (R415). -/
def execVcopy (f : Fields) (s : State) : Host.Outcome State Fault Refusal :=
  issue (.vcopy f) s fun f s0 => do
    let (d, s) ← readShape s0 (s0.g f.d)
    let (a, s) ← readShape s (s.g f.a)
    shapesOk f s0 s [d, a]
    if fmtBad f d || a.efmt ≠ d.efmt then raise s 0x32
    else if a.count ≠ d.count then raise s 0x31
    else
      shapesIn s [d, a]
      let (cs, s) ← readShapes s [d] [a]
      let s ← endShapes s d [a] (cs.headD [])
      .ok (.step s)

/-- VFILL (R415). -/
def execVfill (f : Fields) (s : State) : Host.Outcome State Fault Refusal :=
  issue (.vfill f) s fun f s0 => do
    let (d, s) ← readShape s0 (s0.g f.d)
    shapesOk f s0 s [d]
    if fmtBad f d then raise s 0x32
    else
      shapesIn s [d]
      let (_, s) ← readShapes s [d] []
      if f.a.cls = .G then
        let s ← endShapes s d [] (List.replicate d.count ((s.g f.a).toNat % 2 ^ d.w))
        .ok (.step s)
      else
        let (codes, g) := s.results f d.efmt (fun rm => encElem d.efmt rm (mdSat f.md) s.thr.fpm) [scalarImm d.float f]
        let s ← endShapes s d [] (List.replicate d.count (codes.headD 0))
        .ok (.step (s.setRng g))

/-! ### Gather and scatter (R416) -/

/-- The index shape's formats (R416). -/
def indexFmt (h : Shape) : Bool := h.efmt = 9 || h.efmt = 10 || h.efmt = 12

/-- The element pointers of VGATH and VSCAT. -/
def elemRefs (base : Word) (w : Nat) (idx : List Int) : List Ref := idx.map fun i => refOf base (i * (w / 8 : Nat))

/-- Every element address is checked at orders 9 and 10 before any element is moved (R416). -/
def checkRefs (n : Nat) (need : Need) (s : State) : List Ref → M State
  | [] => .ok s
  | r :: rs => do
    let p ← reachM s s.who r n n need
    match p with
    | .win _ _ => checkRefs n need s rs
    | .mva a =>
      let (_, s) ← transParts s s.thr.hold (clusterOf s.core) a n need r.word
      checkRefs n need s rs

/-- Read each element as one unit, in ascending k; after a wait the instruction is executed again (R416). -/
def gather (n : Nat) (s : State) : List Ref → M (List Nat × State)
  | [] => .ok ([], s)
  | r :: rs => do
    let (d, s) ← unitRd kVR { r := true } s.destUnit r n n
    let (cs, s) ← gather n s rs
    .ok (leNat d :: cs, s)

/-- Write each element as one unit, in ascending k. -/
def scatter (n : Nat) (s : State) : List (Ref × Nat) → M State
  | [] => .ok s
  | (r, c) :: rs => do
    let s ← unitWr s.destUnit r (leBytes n c) n
    scatter n s rs

/-- VGATH (R416). -/
def execVgath (f : Fields) (s : State) : Host.Outcome State Fault Refusal :=
  issue (.vgath f) s fun f s0 => do
    let (d, s) ← readShape s0 (s0.g f.d)
    let (b, s) ← readShape s (s.g f.b)
    shapesOk f s0 s [d, b]
    if d.w < 8 || !indexFmt b then raise s 0x32
    else if b.count ≠ d.count then raise s 0x31
    else
      shapesIn s [d, b]
      let (ci, s) ← readShapes s [d] [b]
      let refs := elemRefs (s.g f.a) d.w ((ci.headD []).map fun c => (decodeNum b.efmt c).int)
      let s ← checkRefs (d.w / 8) { r := true } s refs
      let (cs, s) ← gather (d.w / 8) s refs
      let s ← endShapes s d [b] cs
      .ok (.step s)

/-- VSCAT (R416). -/
def execVscat (f : Fields) (s : State) : Host.Outcome State Fault Refusal :=
  issue (.vscat f) s fun f s0 => do
    let (a, s) ← readShape s0 (s0.g f.a)
    let (b, s) ← readShape s (s.g f.b)
    shapesOk f s0 s [a, b]
    if a.w < 8 || !indexFmt b then raise s 0x32
    else if b.count ≠ a.count then raise s 0x31
    else
      shapesIn s [a, b]
      let (cs, s) ← readShapes s [] [a, b]
      let refs := elemRefs (s.g f.d) a.w ((cs.getD 1 []).map fun c => (decodeNum b.efmt c).int)
      let s ← checkRefs (a.w / 8) { w := true } s refs
      let s ← scatter (a.w / 8) s (refs.zip (cs.headD []))
      .ok (.step (s.popShapes [a, b]))

end Sys2Proof.Machine
end

