-- ==== Sys2Proof/Machine/Tile.lean ====
section
/-! DEFINITION. Self-describing tiles (R230-R241) and the tile instructions (R422-R434). -/

namespace Sys2Proof.Machine

/-! ### Headers (R231-R234) -/

/-- A tile header. `rsv` tells that a reserved bit is set. -/
structure Hdr where
  chk  : Nat := 0
  hver : Nat := 1
  kind : Nat := 0
  efmt : Nat := 0
  slay : Nat := 0
  sfmt : Nat := 0
  enc  : Nat := 0
  n    : Nat := 1
  c    : Nat := 1
  cmaj : Bool := false
  dlen : Nat := 0
  row0 : Nat := 0
  col0 : Nat := 0
  tid  : Nat := 0
  rsv  : Bool := false
deriving DecidableEq, Repr

/-- A header's fields from its 128 bits (R231). -/
def Hdr.ofNat (v : Nat) : Hdr :=
  ⟨bits v 7 0, bits v 11 8, bits v 15 12, bits v 21 16, bits v 25 22, bits v 29 26, bits v 33 30, bits v 38 34 + 1, bits v 43 39 + 1,
    bit v 44, bits v 63 48, bits v 79 64, bits v 95 80, bits v 107 96, bits v 127 108 ≠ 0 || bits v 47 45 ≠ 0⟩

/-- The header of a tile's bytes. -/
def hdrOf (bs : List Byte) : Hdr := Hdr.ofNat (leNat (bs.take 16))

/-- CHK of a header's bytes (R232). -/
def hdrChk (bs : List Byte) : Nat := crcMsb 8 0x07 0 ((bs.take 16).drop 1)

/-- Bytes 0 to 15 with CHK computed. -/
def sealHdr (bs : List Byte) : List Byte := BitVec.ofNat 8 (hdrChk bs) :: (bs.take 16).drop 1

/-- The 16 bytes of a header, CHK computed (R231, R232). -/
def Hdr.pack (h : Hdr) : List Byte :=
  sealHdr (leBytes 16 (h.hver % 16 * 2 ^ 8 + h.kind % 16 * 2 ^ 12 + h.efmt % 64 * 2 ^ 16 + h.slay % 16 * 2 ^ 22 + h.sfmt % 16 * 2 ^ 26 +
    h.enc % 16 * 2 ^ 30 + (h.n - 1) % 32 * 2 ^ 34 + (h.c - 1) % 32 * 2 ^ 39 + (if h.cmaj then 2 ^ 44 else 0) + h.dlen % 2 ^ 16 * 2 ^ 48 +
    h.row0 % 2 ^ 16 * 2 ^ 64 + h.col0 % 2 ^ 16 * 2 ^ 80 + h.tid % 2 ^ 12 * 2 ^ 96))

/-- The check byte of a tile's header holds (R232). -/
def chkOk (bs : List Byte) : Bool := hdrChk bs = (bs.headD 0).toNat

/-- The scale entries of a header (R230). -/
def Hdr.entries (h : Hdr) : Nat :=
  match h.slay with
  | 1 => 1
  | 2 => if h.cmaj then h.c * ((h.n + 31) / 32) else h.n * ((h.c + 31) / 32)
  | 3 => h.n
  | 4 => h.c
  | _ => 0

/-- The size of the scale area (R422). -/
def Hdr.scaleBytes (h : Hdr) : Nat := h.entries * scaleSize h.sfmt

/-- The length of the tile that a header describes (R422). -/
def Hdr.len (h : Hdr) : Nat := min (16 + 16 * h.dlen + h.scaleBytes) 4112

/-- DLEN of dense or structured data (R233). -/
def Hdr.needDlen (h : Hdr) : Nat :=
  let p := h.n * h.c
  let w := fmtWidth h.efmt
  if h.enc = 1 then (p * w / 2 + p + 127) / 128 else (p * w + 127) / 128

/-- The header is well formed (R234). -/
def Hdr.wellFormed (h : Hdr) : Bool :=
  h.hver = 1 && !h.rsv && h.kind < 3 && 1 ≤ h.efmt && h.efmt ≤ 13 && h.slay < 5 && h.sfmt < 4 && h.enc < 3 &&
  ((h.slay = 0) == (h.sfmt = 0)) && (h.slay ≠ 2 || (h.sfmt = 1 && 4 ≤ h.efmt && h.efmt ≤ 8)) && (h.slay = 0 || h.efmt < 9) &&
  (h.enc ≠ 1 || (!h.cmaj && h.c % 4 = 0 && h.efmt ≠ 1 && h.efmt ≠ 12 && h.efmt ≠ 13)) && (h.enc ≠ 2 || (h.efmt = 4 && !h.cmaj)) &&
  (h.kind = 0 || h.slay = 0 && h.enc = 0 && !h.cmaj) && (h.kind ≠ 1 || h.efmt = 1 || h.efmt = 12) && (h.kind ≠ 2 || h.efmt = 12) &&
  (if h.enc = 2 then h.dlen ≤ 64 else h.dlen = h.needDlen) && 16 * h.dlen + h.scaleBytes ≤ 4096

/-! ### Elements -/

/-- The scale entry of element (i, j) (R230). -/
def Hdr.scaleIdx (h : Hdr) (i j : Nat) : Nat :=
  match h.slay with
  | 2 => if h.cmaj then j * ((h.n + 31) / 32) + i / 32 else i * ((h.c + 31) / 32) + j / 32
  | 3 => i
  | 4 => j
  | _ => 0

/-- The scale values of a tile, in entry order. -/
def scalesOf (h : Hdr) (bs : List Byte) : List ExtNum :=
  let k := scaleSize h.sfmt
  (List.range h.entries).map fun i => decodeScale h.sfmt (leNat ((bs.drop (16 + 16 * h.dlen + k * i)).take k))

/-- Bit `p` of a bit stream (R224). -/
def streamBit (v p : Nat) : Nat := v / 2 ^ p % 2

/-- A field of `n` bits whose most significant bit comes first (R237). -/
def streamField (v : Nat) : Nat → Nat → Nat
  | 0, _ => 0
  | n + 1, p => streamBit v p * 2 ^ n + streamField v n (p + 1)

/-- One element of an EXPC stream under a base exponent: its code and the next position (R237). -/
def expcElem (v b p : Nat) : Option (Nat × Nat) :=
  let sgn := streamBit v p
  let q := p + 1
  let e : Int × Nat :=
    if streamBit v q = 0 then ((b : Int), q + 1)
    else if streamBit v (q + 1) = 0 then ((if streamBit v (q + 2) = 0 then (b : Int) + 1 else (b : Int) - 1), q + 3)
    else if streamBit v (q + 2) = 0 then
      (match streamField v 2 (q + 3) with
       | 0 => (b : Int) + 2 | 1 => (b : Int) + 3 | 2 => (b : Int) - 2 | _ => (b : Int) - 3, q + 5)
    else ((streamField v 4 (q + 3) : Nat), q + 7)
  if e.1 < 0 || 15 < e.1 then none else some (sgn * 128 + e.1.toNat * 8 + streamField v 3 e.2, e.2 + 3)

/-- `n` elements of a block. -/
def expcElems (v b : Nat) : Nat → Nat → Option (List Nat × Nat)
  | 0, p => some ([], p)
  | n + 1, p =>
    match expcElem v b p with
    | none => none
    | some (c, p) => (expcElems v b n p).map fun (cs, p) => (c :: cs, p)

/-- The elements of an EXPC stream of `len` bits: blocks of 32, each ending on a byte border (R237). -/
def expcDecode (v len : Nat) : Nat → Nat → Nat → Option (List Nat)
  | 0, _, _ => some []
  | fuel + 1, n, p =>
    if n = 0 then some []
    else
      match expcElems v (streamField v 4 p) (min n 32) (p + 4) with
      | none => none
      | some (cs, p) => if len < p then none else (expcDecode v len fuel (n - 32) ((p + 7) / 8 * 8)).map (cs ++ ·)

/-- The bits of a field, most significant first. -/
def fieldBits : Nat → Nat → List Bool
  | 0, _ => []
  | n + 1, v => bit v n :: fieldBits n v

/-- The shortest exponent code of a field under a base (R237). -/
def expcCode (b e : Nat) : List Bool :=
  let d : Int := (e : Int) - b
  if d = 0 then [false]
  else if d = 1 then [true, false, false]
  else if d = -1 then [true, false, true]
  else if d = 2 then [true, true, false, false, false]
  else if d = 3 then [true, true, false, false, true]
  else if d = -2 then [true, true, false, true, false]
  else if d = -3 then [true, true, false, true, true]
  else [true, true, true] ++ fieldBits 4 e

/-- A block of E4M3 codes under a base exponent. -/
def expcBlock (b : Nat) (cs : List Nat) : List Bool :=
  fieldBits 4 b ++ cs.flatMap fun c => [bit c 7] ++ expcCode b (bits c 6 3) ++ fieldBits 3 c

/-- A block under the base exponent that makes it shortest, the smallest on a tie (R237). -/
def expcBest (cs : List Nat) : List Bool :=
  (List.range 15).foldl (fun best i => let t := expcBlock (i + 1) cs; if t.length < best.length then t else best) (expcBlock 0 cs)

/-- The bytes of a list of bits, the last padded with zero bits. -/
def bitBytes (l : List Bool) : List Byte :=
  (chunks 8 l.length l).map fun bs => BitVec.ofNat 8 (packNat 1 (bs.map fun b => if b then 1 else 0))

/-- The EXPC stream of a tile's codes (R237). -/
def expcEncode (cs : List Nat) : List Byte := (chunks 32 cs.length cs).flatMap fun b => bitBytes (expcBest b)

/-- The codes of a tile row by row, none for a position that 2:4 data does not store; no list where an EXPC stream does not
decode (R224, R231, R236, R237). -/
def tileCodes (h : Hdr) (bs : List Byte) : Option (List (Option Nat)) :=
  let w := fmtWidth h.efmt
  let p := h.n * h.c
  let v := leNat ((bs.drop 16).take (16 * h.dlen))
  match h.enc with
  | 0 =>
    some ((List.range p).map fun k =>
      let e := if h.cmaj then k % h.c * h.n + k / h.c else k
      some (v / 2 ^ (e * w) % 2 ^ w))
  | 1 =>
    some ((List.range p).map fun k =>
      let g := k / 4
      let nib := v / 2 ^ (p * w / 2 + 4 * g) % 16
      if nib / 4 = k % 4 then some (v / 2 ^ ((2 * g + 1) * w) % 2 ^ w)
      else if nib % 4 = k % 4 && nib % 4 < nib / 4 then some (v / 2 ^ (2 * g * w) % 2 ^ w)
      else none)
  | _ => (expcDecode v (128 * h.dlen) 40 p 0).map (·.map some)

/-- The exact values of a tile's elements row by row, scales applied (R230); an element that 2:4 data does not store is +0 (R236). -/
def tileNums (h : Hdr) (bs : List Byte) : Option (List ExtNum) :=
  let sc := scalesOf h bs
  (tileCodes h bs).map fun cs => (cs.zip (List.range cs.length)).map fun (c, k) =>
    let x := match c with | none => ExtNum.zero false | some c => decodeNum h.efmt c
    if h.slay = 0 then x else ExtNum.mul x (sc.getD (h.scaleIdx (k / h.c) (k % h.c)) .nan)

/-- A tile from a header, the codes of its elements in data order, and its scale bytes; DLEN by R233. -/
def tileOf (h : Hdr) (codes : List Nat) (scales : List Byte) : List Byte :=
  let h := { h with dlen := h.needDlen }
  h.pack ++ packBytes (fmtWidth h.efmt) (16 * h.dlen) codes ++ scales

/-- Elements given row by row, in data order. -/
def dataOrder {α : Type} (h : Hdr) (z : α) (xs : List α) : List α :=
  if h.cmaj then (List.range (h.n * h.c)).map fun e => xs.getD (e % h.n * h.c + e / h.n) z else xs

/-! ### Tile registers (R189, R422) -/

/-- The tile register that an operand names in the issuing core. -/
def State.tile (s : State) (o : Operand) : List Byte := s.tileAt s.core o.idx.toNat

/-- A tile register waits for the bytes of a global TLD (R424). -/
def State.tilePending (s : State) (t : Nat) : Bool :=
  s.mm.accs.any fun (_, a) => a.any fun a => a.core = s.core && a.hold = s.thr.hold && decide (a.dst = .tile t)

/-- The checks before the header stages: earlier instructions that use the registers have finished, the FP64 extension by an operand header, the
holding's tile registers; the thread is pinned (R422, R434). -/
def tilesOk (s : State) (reads : List Nat) (others : List Nat) : M State :=
  if s.heldElse ((reads ++ others).map tileHold) || (reads ++ others).any s.tilePending then stay s
  else if coreNo s.core ≠ 0 && reads.any fun t => (hdrOf (s.tileAt s.core t)).efmt = 13 then
    if s.thr.pinned then raise s 0x05 else leftM (s.migrateTo (clusterOf s.core) true)
  else if (reads ++ others).any fun t => !bit (s.htregs s.thr.hold) t then raise s 0x16
  else .ok s.pin

/-- Stages 1 and 2 of R240 for the headers of tiles, each with its address. -/
def stages12 (s : State) (ts : List (List Byte × Word)) : M Unit :=
  match ts.find? fun (b, _) => !chkOk b with
  | some (_, a) => raise s 0x30 0 a
  | none =>
    match ts.find? fun (b, _) => !(hdrOf b).wellFormed with
    | some (_, a) => raise s 0x33 0 a
    | none => .ok ()

/-- The elements of a tile that has passed the header stages; an EXPC stream that does not decode faults HDRKIND (R237). -/
def numsM (s : State) (bs : List Byte) : M (List ExtNum) :=
  match tileNums (hdrOf bs) bs with
  | some xs => .ok xs
  | none => raise s 0x33

/-! ### TLD and TST (R424) -/

/-- The bytes at a pointer as they stand, without a lookup, for the length of the tile that lies there. -/
def State.peekAt (s : State) (r : Ref) (n : Nat) : Option (List Byte) :=
  match s.reach s.who r n 1 {} with
  | .ok (.win core off) => some (s.winBytes core s.thr.hold off n)
  | .ok (.mva a) =>
    s.peekBytes s.thr.hold a n
  | .error _ => none

/-- Read units from pointer `r` up to `len` bytes, by lines. -/
def readUnits (r : Ref) : List (Nat × Nat) → State → M (List Byte × State)
  | [], s => .ok ([], s)
  | (o, k) :: l, s => do
    let (d, s) ← unitRd kVR { r := true } s (r.add o) k (if o = 0 then 16 else 1)
    let (t, s) ← readUnits r l s
    .ok (d ++ t, s)

/-- The length of the tile at a pointer: what the header's unit has returned, else the header as it stands. -/
def tileLen (s : State) (r : Ref) : Nat :=
  if s.slot.unit < s.slot.resume.unit then (hdrOf (s.slot.resume.data.getD s.slot.unit [])).len
  else match s.peekAt r 16 with
    | some h => (hdrOf h).len
    | none => 16

/-- TLD and TST need an address that is a multiple of 16, before the other causes of an address (R424, R434). -/
def tileAlign (s : State) (r : Ref) : M Unit :=
  let base : Nat :=
    if r.seg = 0 then 0
    else if r.seg = 7 then (if r.off < s.who.stkc then s.carve s.who else s.who.sovf.toNat)
    else bits (Tab.get 0 s.who.sg r.seg).toNat 56 0
  if ((base : Int) + r.off) % 16 ≠ 0 then raise s 0x14 0 r.word else .ok ()

/-- Read a tile at the own bank (R424): the header's unit first, as long as the line holds bytes of the tile, then the lines that its length asks
for. -/
def readTile (s : State) (r : Ref) : M (List Byte × State) := do
  let a := s.addrOf r
  let n := tileLen s r
  let s ← wholeOk s r n 16 { r := true }
  let (d, s) ← unitRd kVR { r := true } (s.busyOn true (winWords a n)) r (min n (128 - a % 128)) 16
  let len := (hdrOf d).len
  let (e, s) ← readUnits r (lineCuts 40 a d.length (len - d.length)) s
  .ok ((d ++ e).take len, s)

/-- A TLD from global memory or another core's bank (R424): the header is read first, as part of its unit at a bank; the slot goes on, and the register
is pending until every byte has arrived. -/
def farTile (s : State) (t : Nat) (r : Ref) : M State := do
  ldFull s
  let s ← wholeOk s r (tileLen s r) 16 { r := true }
  let (hit, r, k, s) ← locate kVR 16 16 { r := true } true 6 s r 0
  let h := s.thr.hold
  let parts : List (Tgt × Nat × PqOp) := match hit with
    | .here off _ => [(.bank s.core h off, 0, .hd (128 - off % 128))]
    | .far core off => [(.bank core h off, 0, .hd (128 - off % 128))]
    | .glob ps => (cutParts 8 ps 0).map fun (t, o, m) => (t, o, .rd m)
  clearWay s (parts.map fun (t, _, o) => (t, o.size))
  let strong := (parts.filter fun (t, _, _) => t.kind = 1).length
  let (i, s) := s.newAcc parts.length 16 (.tile t) ⟨8, false⟩ none (parts.all fun (t, _, _) => t.kind = 2)
  let s := s.modSlot fun v => { v with strong := v.strong + strong + (if strong = 0 then 0 else 1) }
  let more := some (s.who, r.word, s.slot.issued, decide (strong ≠ 0))
  let s := s.setAcc i ((s.acc i).map fun a => { a with more := more })
  .ok (parts.foldl (fun s (t, o, p) => s.toPort s.core { s.entry (some i) none p o t r.word k with vec := true, al := 16 }) s)

/-- TLD (R424). -/
def execTld (f : Fields) (s : State) : Host.Outcome State Fault Refusal :=
  issue (.tld f) s fun f s => do
    let t := f.d.idx.toNat
    let r := s.refM f
    let s ← tilesOk s [] [t]
    tileAlign s r
    match s.reach s.who r 1 1 {} with
    | .ok (.win core _) =>
      if core = s.core then
        let (d, s) ← readTile (s.holdOn [tileHold t]) r
        .ok (.step (s.setTile s.core t d))
      else
        let s ← farTile s t r
        .ok (.step s)
    | _ =>
      let s ← farTile s t r
      .ok (.step s)

/-- The entries of a store's units that go to another core's bank or to global memory. -/
def unitEntries (r : Ref) (data : List Byte) (al : Nat) : List (Nat × Nat) → State → M (List (Tgt × Nat × Nat × Word × Nat) × State)
  | [], s => .ok ([], s)
  | (o, k) :: l, s => do
    let (hit, r', j, s) ← locate kVW k (if o = 0 then al else 1) { w := true } true 6 s (r.add o) 0
    let ps := match hit with
      | .here _ _ => []
      | .far core off => [(Tgt.bank core s.thr.hold off, o, k, r'.word, j)]
      | .glob parts => (cutParts 32 parts 0).map fun (t, q, m) => (t, o + q, m, r'.word, j)
    let (rest, s) ← unitEntries r data al l s
    .ok (ps ++ rest, s)

/-- Write units at the own bank. -/
def writeUnits (r : Ref) (data : List Byte) (al : Nat) : List (Nat × Nat) → State → M State
  | [], s => .ok s
  | (o, k) :: l, s => do
    let s ← unitWr s (r.add o) ((data.drop o).take k) (if o = 0 then al else 1)
    writeUnits r data al l s

/-- A store of many bytes in units of a line: at the own bank at once, elsewhere ONE global store, performed when every byte
is (R424). -/
def bulkStore (s : State) (r : Ref) (data : List Byte) (al : Nat) : M State := do
  let cuts := lineCuts 40 (s.addrOf r) 0 data.length
  let s ← wholeOk s r data.length al { w := true }
  match s.reach s.who r 1 1 {} with
  | .ok (.win core _) =>
    if core = s.core then writeUnits r data al cuts (s.busyOn true (winWords (s.addrOf r) data.length))
    else
      let (es, s) ← unitEntries r data al cuts s
      bulk s es
  | _ =>
    let (es, s) ← unitEntries r data al cuts s
    bulk s es
where
  /-- One store of all entries. -/
  bulk (s : State) (es : List (Tgt × Nat × Nat × Word × Nat)) : M State := do
    stFull s
    if es.any fun (t, _, m, _, _) => s.pooled t m then stay (es.foldl (fun s (t, _, m, _, _) => s.dueWord t m) s)
    else
      let bank := match es with | (.bank c _ _, _) :: _ => some c | _ => none
      let (num, s) := s.newStore es.length bank
      let strong := (es.filter fun (t, _) => t.kind = 1).length
      let s := s.modSlot fun v => { v with strong := v.strong + strong }
      .ok (s.toPost (es.map fun (t, o, m, a, j) =>
        { s.entry none (some num) (.wr ((data.drop o).take m)) 0 t a j with vec := true, al := if o = 0 then al else 1 }))

/-- TST (R424). -/
def execTst (f : Fields) (s : State) : Host.Outcome State Fault Refusal :=
  issue (.tst f) s fun f s => do
    let s ← tilesOk s [] [f.d.idx.toNat]
    let t := s.tile f.d
    tileAlign s (s.refM f)
    let s ← bulkStore (s.holdOn [tileHold f.d.idx.toNat]) (s.refM f) (t.take (hdrOf t).len) 16
    .ok (.step s)

/-! ### Headers in registers (R425-R427) -/

/-- Bytes 1 to 15 from a register pair, CHK computed (R425). -/
def State.pairHdr (s : State) (o : Operand) : List Byte := sealHdr (leBytes 8 (s.g o).toNat ++ leBytes 8 (s.g1 o).toNat)

/-- THDR (R425). -/
def execThdr (f : Fields) (s : State) : Host.Outcome State Fault Refusal :=
  issue (.thdr f) s fun f s => do
    let s ← tilesOk s [] [f.a.idx.toNat]
    let t := s.tile f.a
    .ok (.step (s.setG2 f.d.idx.toNat (wordLe t) (wordLe (t.drop 8))))

/-- THSET (R425). -/
def execThset (f : Fields) (s : State) : Host.Outcome State Fault Refusal :=
  issue (.thset f) s fun f s => do
    let s ← tilesOk s [] [f.d.idx.toNat]
    .ok (.step (s.setTile s.core f.d.idx.toNat (s.pairHdr f.a ++ (s.tile f.d).drop 16)))

/-- The code that TCHK gives (R426). -/
def tchkCode (bs : List Byte) : Nat := if !chkOk bs then 0x30 else if !(hdrOf bs).wellFormed then 0x33 else 0

/-- TCHK (R426). -/
def execTchk (f : Fields) (s : State) : Host.Outcome State Fault Refusal :=
  issue (.tchk f) s fun f s => do
    let s ← tilesOk s [] [f.a.idx.toNat]
    .ok (.step (s.dst f.d (BitVec.ofNat 64 (tchkCode (s.tile f.a)))))

/-- TZERO (R427). -/
def execTzero (f : Fields) (s : State) : Host.Outcome State Fault Refusal :=
  issue (.tzero f) s fun f s => do
    let s ← tilesOk s (if f.a.cls = .G then [] else [f.d.idx.toNat]) [f.d.idx.toNat]
    let h := if f.a.cls = .G then s.pairHdr f.a else (s.tile f.d).take 16
    stages12 s [(h, 0)]
    if (hdrOf h).enc ≠ 0 then raise s 0x32 else .ok (.step (s.setTile s.core f.d.idx.toNat h))

/-! ### Conversions (R428-R430, R241) -/

/-- The shape and origin of a tile in a fresh header. -/
def Hdr.like (a : Hdr) (kind efmt : Nat) : Hdr := { kind := kind, efmt := efmt, n := a.n, c := a.c, row0 := a.row0, col0 := a.col0, tid := a.tid }

/-- KIND of a result in a format (R239, R428). -/
def accKind (acc : Bool) (fmt : Nat) : Nat := if acc && (fmt = 1 || fmt = 12) then 1 else 0

/-- TCVT (R428). -/
def execTcvt (f : Fields) (s : State) : Host.Outcome State Fault Refusal :=
  issue (.tcvt f) s fun f s => do
    let s ← tilesOk s [f.a.idx.toNat] [f.d.idx.toNat]
    let t := s.tile f.a
    stages12 s [(t, 0)]
    let a := hdrOf t
    let fmt := mdFmt f.md
    if a.kind = 2 then raise s 0x32
    else
      let xs ← numsM s t
      let (codes, g) := s.results f fmt (fun rm => cvtElem a.efmt fmt rm (mdSat f.md) s.thr.fpm) xs
      .ok (.step ((s.setTile s.core f.d.idx.toNat (tileOf (a.like (accKind (a.kind = 1) fmt) fmt) codes [])).setRng g))

/-- floor(log2 |x|) of a number; zeros rank lowest (R241). -/
def expOf (x : ExtNum) : Int :=
  match x with
  | .fin _ m e => (m.log2 : Int) + e
  | _ => -1000000

/-- Insert into a rising list of integers. -/
def insertInt (n : Int) : List Int → List Int
  | [] => [n]
  | m :: l => if n ≤ m then n :: m :: l else m :: insertInt n l

/-- EMAX of R241. -/
def emax (fmt : Nat) : Int :=
  match fmt with
  | 4 => 8 | 5 => 15 | 6 => 4 | _ => 2

/-- Every element of a block is zero. -/
def allZero (xs : List ExtNum) : Bool := xs.all fun x => x.absolute = .zero false

/-- The scale of a block: none stands for NaN, otherwise its exponent (R241). -/
def blockScale (fmt r : Nat) (xs : List ExtNum) : Option Int :=
  if xs.any fun x => x = .nan || x.absolute = .inf false then none
  else if allZero xs then some (-127)
  else
    let es := (xs.map expOf).foldr insertInt []
    let rank := if xs.length < 32 then max 1 (xs.length - (32 - r)) else r
    some (clampInt (-127) 127 (es.getD (rank - 1) 0 - emax fmt))

/-- The code of a scale in its format (R225, R241). -/
def scaleCode (sfmt : Nat) (e : Option Int) : Nat :=
  match sfmt, e with
  | 1, none => 255
  | 1, some e => (e + 127).toNat
  | 2, none => 0x7FC0
  | 2, some e => encodeNum 2 .rne false 0 (.fin false 1 e)
  | _, none => 0x7FC00000
  | _, some e => encodeNum 1 .rne false 0 (.fin false 1 e)

/-- One element of TQNT: converted under its block's scale, saturating always (R241). -/
def quantElem (fmt : Nat) (rm : Rm) (draw : BitVec 32) (p : Option Int × ExtNum) : Nat :=
  match p.1 with
  | none => 0
  | some e => encodeNum fmt rm true draw (ExtNum.mul p.2 (.fin false 1 (-e)))

/-- Elements drawn in ascending order, whatever each is (R227). -/
def drawPairs {α : Type} (draws : Bool) (enc : BitVec 32 → α → Nat) : BitVec 32 → List α → List Nat × BitVec 32
  | g, [] => ([], g)
  | g, x :: xs =>
    let g' := if draws then rngNext g else g
    let (cs, e) := drawPairs draws enc g' xs
    (enc g' x :: cs, e)

/-- TQNT (R241, R429). -/
def execTqnt (f : Fields) (s : State) : Host.Outcome State Fault Refusal :=
  issue (.tqnt f) s fun f s => do
    let s ← tilesOk s [f.a.idx.toNat] [f.d.idx.toNat]
    let t := s.tile f.a
    stages12 s [(t, 0)]
    let a := hdrOf t
    let i := f.imm.toNat
    let fmt := mdFmt f.md
    if !isFloat a.efmt || a.kind = 2 then raise s 0x32
    else
      let xs ← numsM s t
      let h := { a.like 0 fmt with slay := bits i 3 0, sfmt := bits i 7 4, cmaj := bit i 10 }
      let r := 32 - bits i 9 8
      let all := List.range (h.n * h.c)
      let blocks := (List.range h.entries).map fun q =>
        (all.filter fun k => h.scaleIdx (k / h.c) (k % h.c) = q).map fun k => xs.getD k .nan
      let sc := blocks.map (blockScale fmt r)
      let zs := blocks.map allZero
      let ps := all.map fun k =>
        let q := h.scaleIdx (k / h.c) (k % h.c)
        (sc.getD q none, if zs.getD q false then .zero false else xs.getD k .nan)
      let rm := s.rm f.md
      let (codes, g) := drawPairs (rm = .rsto) (quantElem fmt rm) s.thr.rng ps
      let scales := sc.flatMap fun e => leBytes (scaleSize h.sfmt) (scaleCode h.sfmt e)
      .ok (.step ((s.setTile s.core f.d.idx.toNat (tileOf h (dataOrder h 0 codes) scales)).setRng g))

/-- The scale area of a tile. -/
def scaleArea (h : Hdr) (bs : List Byte) : List Byte := (bs.drop (16 + 16 * h.dlen)).take h.scaleBytes

/-- TENC (R430). -/
def execTenc (f : Fields) (s : State) : Host.Outcome State Fault Refusal :=
  issue (.tenc f) s fun f s => do
    let s ← tilesOk s [f.a.idx.toNat] [f.d.idx.toNat]
    let t := s.tile f.a
    stages12 s [(t, 0)]
    let a := hdrOf t
    let i := f.imm.toNat
    let fin := fun (s : State) (bs : List Byte) (ok : Bool) =>
      let s := s.setTile s.core f.d.idx.toNat bs
      Fin.step (if bit i 5 then s.setP (bits i 4 0) ok else s)
    if bit i 6 then
      if a.enc ≠ 2 then raise s 0x32
      else
        match tileCodes a t with
        | none => raise s 0x33
        | some cs => .ok (fin s (tileOf { a with enc := 0 } (cs.map fun c => c.getD 0) (scaleArea a t)) true)
    else if a.efmt ≠ 4 || a.enc ≠ 0 || a.cmaj then raise s 0x32
    else
      let st := expcEncode (((tileCodes a t).getD []).map fun c => c.getD 0)
      let k := (st.length + 15) / 16
      if k ≤ 64 && 16 * k + a.scaleBytes ≤ 4096 then
        .ok (fin s (({ a with enc := 2, dlen := k } : Hdr).pack ++ (st ++ List.replicate 16 0).take (16 * k) ++ scaleArea a t) true)
      else .ok (fin s (t.take a.len) false)

/-! ### Arithmetic (R239, R431) -/

/-- The inferred format of two operands by stage 3 of R240, none for HDRCOMB (R239). -/
def inferFmt (a b : Hdr) : Option Nat :=
  if a.enc = 1 || b.enc = 1 || a.kind = 2 || b.kind = 2 || a.efmt = 13 || b.efmt = 13 then none
  else if isFloat a.efmt ≠ isFloat b.efmt then none
  else if isFloat a.efmt then (if a.efmt = b.efmt && a.slay = 0 && b.slay = 0 then some a.efmt else some 1)
  else if a.efmt = b.efmt then some a.efmt
  else some 12

/-- The result header of two operands (R239). -/
def inferHdr (a b : Hdr) (fmt : Nat) : Hdr :=
  { a.like (accKind (a.kind = 1 || b.kind = 1) fmt) fmt with tid := if a.tid = b.tid then a.tid else 0 }

/-- The exact values of three lists combined element by element. -/
def zip3 (g : ExtNum → ExtNum → ExtNum → ExtNum) : List ExtNum → List ExtNum → List ExtNum → List ExtNum
  | x :: xs, y :: ys, z :: zs => g x y z :: zip3 g xs ys zs
  | _, _, _ => []

/-- One element of tile arithmetic (R431): an integer result is rounded in the mode, then takes its low bits, or is clamped with .sat; NaN
and the infinities follow R229. -/
def arithElem (dst : Nat) (rm : Rm) (sat : Bool) (fpm : BitVec 4) (draw : BitVec 32) (x : ExtNum) : Nat :=
  match isFloat dst, x.toInt rm with
  | false, some i => fitInt dst sat i
  | _, _ => encodeNum dst rm (satFor dst sat fpm) draw x

/-- The shape of the tile arithmetic instructions (R431): `three` for TFMA. -/
def tileOp (i : Instr) (s : State) (three : Bool) (r : Rm → ExtNum → ExtNum → ExtNum → ExtNum) : Host.Outcome State Fault Refusal :=
  issue i s fun f s => do
    let ids := [f.a.idx.toNat, f.b.idx.toNat] ++ (if three then [bits f.imm.toNat 3 0] else [])
    let s ← tilesOk s ids [f.d.idx.toNat]
    let ta := s.tile f.a
    let tb := s.tile f.b
    let tc := if three then s.tileAt s.core (bits f.imm.toNat 3 0) else ta
    stages12 s ([(ta, 0), (tb, 0)] ++ (if three then [(tc, 0)] else []))
    let a := hdrOf ta
    let b := hdrOf tb
    let c := hdrOf tc
    match inferFmt a b with
    | none => raise s 0x32
    | some f1 =>
      let h1 := inferHdr a b f1
      match if three then inferFmt h1 c else some f1 with
      | none => raise s 0x32
      | some f2 =>
        if b.n ≠ a.n || b.c ≠ a.c || c.n ≠ a.n || c.c ≠ a.c then raise s 0x31
        else
          let xa ← numsM s ta
          let xb ← numsM s tb
          let xc ← numsM s tc
          let fmt := if mdFmt f.md = 0 then f2 else mdFmt f.md
          let acc := a.kind = 1 || b.kind = 1 || (three && c.kind = 1)
          let h := { (if three then inferHdr h1 c f2 else h1) with kind := accKind acc fmt, efmt := fmt }
          let rm := s.rm f.md
          let (codes, g) := s.results f fmt (fun rm => arithElem fmt rm (mdSat f.md) s.thr.fpm) (zip3 (r rm) xa xb xc)
          .ok (.step ((s.setTile s.core f.d.idx.toNat (tileOf h codes [])).setRng g))

/-- TADD (R431). -/
def execTadd (f : Fields) (s : State) : Host.Outcome State Fault Refusal := tileOp (.tadd f) s false fun rm x y _ => ExtNum.add rm x y
/-- TMUL (R431). -/
def execTmul (f : Fields) (s : State) : Host.Outcome State Fault Refusal := tileOp (.tmul f) s false fun _ x y _ => ExtNum.mul x y
/-- TFMA (R431). -/
def execTfma (f : Fields) (s : State) : Host.Outcome State Fault Refusal := tileOp (.tfma f) s true fun rm x y z => ExtNum.fma rm x y z
/-- TMAX (R431). -/
def execTmax (f : Fields) (s : State) : Host.Outcome State Fault Refusal := tileOp (.tmax f) s false fun _ x y _ => ExtNum.pick true x y

/-! ### Transposition (R432) -/

/-- SLAY of a transposed tile: row scales become column scales. -/
def flipSlay (l : Nat) : Nat := if l = 3 then 4 else if l = 4 then 3 else l

/-- TTRN (R432). -/
def execTtrn (f : Fields) (s : State) : Host.Outcome State Fault Refusal :=
  issue (.ttrn f) s fun f s => do
    let s ← tilesOk s [f.a.idx.toNat] [f.d.idx.toNat]
    let t := s.tile f.a
    stages12 s [(t, 0)]
    let a := hdrOf t
    let relab := f.imm.getLsbD 0
    let h := { a with n := a.c, c := a.n, row0 := a.col0, col0 := a.row0, slay := flipSlay a.slay, cmaj := if relab then !a.cmaj else a.cmaj }
    if a.enc ≠ 0 || (if relab then a.kind ≠ 0 else a.slay = 2) then raise s 0x32
    else if relab then .ok (.step (s.setTile s.core f.d.idx.toNat (h.pack ++ (t.take a.len).drop 16)))
    else
      let cs := ((tileCodes a t).getD []).map fun c => c.getD 0
      let tr := (List.range (a.n * a.c)).map fun k => cs.getD (k % h.c * a.c + k / h.c) 0
      .ok (.step (s.setTile s.core f.d.idx.toNat (tileOf h (dataOrder h 0 tr) (scaleArea a t))))

end Sys2Proof.Machine
end

