-- ==== Sys2Proof/Machine/Engine.lean ====
section
/-! DEFINITION. What the engines share (R269, R277-R279, R291, R295): reading, writing and combining memory as an engine does,
stopping and stalling a context. -/

namespace Sys2Proof.Machine

/-- An engine context at work: matrix or copy, its key, the number of its command, and the agent of it. -/
structure Eng where
  mx  : Bool
  key : Nat
  num : Nat
  who : Who
deriving DecidableEq, Repr

/-- Why an engine's access is not done: it waits (for a token, the host or a half), it meets the action WAIT (R179), it meets a
page that is not resident, or it cannot be done at all, in a write or not. Each carries the state that stands. -/
inductive EStop where
  | wait (s : State)
  | tag (s : State)
  | page (mva : Nat) (write : Bool) (s : State)
  | bad (cause info : Nat) (addr : Word) (s : State) (write : Bool := false)
deriving DecidableEq, Repr

/-- The steps of an engine. -/
abbrev E := Except EStop

/-- What a write cannot do it fails as a write (R121, FLAGS W). -/
def asWrite {α : Type} : E α → E α
  | .error (.bad c i a s _) => .error (.bad c i a s true)
  | r => r

/-- The timeline word of a context (R278). -/
def tlWord (mx : Bool) (key : Nat) : Nat :=
  let u := key / 4
  if mx then 2 ^ 30 + u % 64 * 2 ^ 19 + u / 64 * 2 ^ 13 + key % 4
  else coreX u * 2 ^ 19 + coreY u * 2 ^ 13 + key % 4

/-- What the host or a peer has answered to a context. -/
def State.engGot (s : State) (x : Eng) : List (Nat × CplStatus × List Byte) :=
  if x.mx then (s.mctx x.key).got else (s.cctx x.key).got

/-- Replace what a context has been answered. -/
def State.setGot (s : State) (mx : Bool) (key : Nat) (l : List (Nat × CplStatus × List Byte)) : State :=
  if mx then s.modMctx key fun c => { c with got := l } else s.modCctx key fun c => { c with got := l }

/-- The name under which a command is answered from outside the module: an answer belongs to the command that asked for it (R269). -/
def Eng.gotKey (x : Eng) (a : Nat) (l : Leaf) : Nat := x.num * 2 ^ 64 + Machine.gotKey a l

/-- The answers to a command are used up. -/
def State.dropEng (s : State) (x : Eng) : State := s.setGot x.mx x.key ((s.engGot x).filter fun g => g.1 / 2 ^ 64 ≠ x.num)

/-- The context as it asks for a translation. -/
def Eng.asker (x : Eng) : Asker := ⟨.eng x.mx x.key, x.who.hold, x.who.rgn⟩

/-- The context as it sends a write out of the module. -/
def Eng.sender (x : Eng) : Sender := .eng x.mx x.key

/-- A message to the host or a peer has not left yet, for which a chain's record or a context waits (R255, R269). -/
def State.sending (s : State) (p : Sender → Bool) : Bool :=
  s.hi.out.any (fun m => m.from_.any p) ||
  s.net.links.any fun (_, l) => l.queue.any fun f => f.from_.any p

/-- The record of a context by number. -/
def State.mxRec (s : State) (key num : Nat) : Option MxRec := (s.mctx key).queue.find? fun r => r.num = num

/-- Change a record of a context. -/
def State.modRec (s : State) (key num : Nat) (f : MxRec → MxRec) : State :=
  s.modMctx key fun x => { x with queue := x.queue.map fun r => if r.num = num then f r else r }

/-- The tokens that a context's present sector has paid, and those that this attempt has passed. -/
def State.engPaid (s : State) (x : Eng) : Nat × Nat :=
  if x.mx then ((s.mxRec x.key x.num).map fun r => (r.paid, r.used)).getD (0, 0)
  else ((s.cctx x.key).paid, (s.cctx x.key).used)

/-- Replace these counts. -/
def State.setPaid (s : State) (x : Eng) (p : Nat × Nat) : State :=
  if x.mx then s.modRec x.key x.num fun r => { r with paid := p.1, used := p.2 }
  else s.modCctx x.key fun c => { c with paid := p.1, used := p.2 }

/-- A context as it waits at a slice. -/
def Eng.req (x : Eng) : Req := .eng x.mx x.key

/-- A request of a context enters a slice: with the token that it took when the sector last waited, or with one that it takes
now, or it waits in its holding's queue at the port (R101). Then it is resolved against the host's state of its halves (R56). -/
def State.engEnter (s : State) (x : Eng) (slice pa n : Nat) (write : Bool) : Bool × State :=
  let (p, u) := s.engPaid x
  let (ok, s) := if u < p then (true, s.setPaid x (p, u + 1))
    else match s.takeToken slice x.who.hold x.req with
      | (true, s) => (true, s.setPaid x (p + 1, u + 1))
      | (false, s) => (false, s)
  if ok then s.hdmGate (some x.req) pa n write x.who.hold x.who.rgn else (false, s)

/-- What was done since `u` requests had passed is done for good: it will not be asked again. -/
def State.engSettle (s : State) (x : Eng) (u : Nat) : State :=
  let (p, v) := s.engPaid x
  s.setPaid x (p - (v - u), u)

/-- The attempt is over. -/
def State.engAgain (s : State) (x : Eng) : State :=
  let s := s.setPaid x ((s.engPaid x).1, 0)
  if x.mx then s else s.modCctx x.key fun c => { c with unit := 0 }

/-- The context has asked for the bytes at an address. -/
def State.engAsked (s : State) (x : Eng) (k : Nat) : Bool :=
  s.hi.reqs.any fun r => match r.purpose with | .engine m key a => m = x.mx && key = x.key && a = k | _ => false

/-- Cut a target's bytes at lines of 64 bytes. -/
def hostCuts (t : Tgt) (n : Nat) : List (Tgt × Nat × Nat) := cutTgt 64 (n + 1) t 0 n

/-- Room for one more request of a context in its holding's buffer before the host port or link, and a tag at a host port (R36,
R41). -/
def State.engRoom (s : State) (x : Eng) (a : Nat) (leaf : Leaf) : Bool :=
  if leaf.tgt = 2 then s.portRoom (s.hostPort x.who.hold a) x.who.hold && s.tagFree (s.hostPort x.who.hold a)
  else s.linkRoom (peerOf a) a x.who.hold

/-- The result of a host or peer request of an engine: an answer, or it is sent and the engine waits. -/
def engAwait (s : State) (x : Eng) (a : Nat) (leaf : Leaf) (atom : Bool) (send : State → State) (addr : Word) : E (List Byte × State) :=
  let k := x.gotKey a leaf
  match (s.engGot x).find? fun g => g.1 = k with
  | some (_, .ok, d) => .ok (d, s)
  | some (_, st, _) => .error (.bad (outCause (leaf.tgt = 3) atom st) 0 addr s)
  | none => .error (.wait (if s.engAsked x k || !s.engRoom x a leaf then s else send s))

/-- The lookup of an engine's unit (R179): engines never trap to a thread and never follow a REDIRECT. -/
def engLook (r : Ref) (s : State) (core hold kind off n : Nat) : E (List (Nat × Nat)) :=
  match s.unitLook core hold kind (winWords off n) with
  | .wait _ => .error (.tag s)
  | .trap sub w => .error (.bad 0x20 sub (wordAddr r off w) s)
  | .redirMany w => .error (.bad 0x21 1 (wordAddr r off w) s)
  | .redirect w => .error (.bad 0x21 0 (wordAddr r off w) s)
  | .go acts => .ok acts

/-- A piece of an engine's read inside one page (R269, R284, R291). -/
def engGet (x : Eng) (addr : Word) (s : State) (t : Tgt) (n : Nat) : E (List Byte × State) :=
  match t with
  | .bank core hold off => do
    let acts ← engLook (refOf addr 0) s core hold kER off n
    if s.unitBad core hold acts then .error (.bad (s.unitCode core hold acts) 0 addr s)
    else .ok (s.unitRead core hold off n acts, s.retag core hold acts)
  | .dev pa leaf =>
    match s.engEnter x leaf.home pa n false with
    | (false, s) => .error (.wait s)
    | (true, s) =>
      let (bs, bad, s) := s.homeBytes (atHome leaf x.who.hold x.who.rgn addr) pa n
      if bad then .error (.bad (s.badCode pa n) 0 addr s) else .ok (bs, s)
  | .host a leaf =>
    if leaf.tgt = 1 then
      if (s.hline (a / 64)).serves false then
        (if (s.hline (a / 64)).bad then .error (.bad 0x71 0 addr s) else .ok (s.hlcBytes a n, s))
      else .error (.wait (s.askLine (a / 64) false (.engLine (a / 64) false)))
    else
      let p : Purpose := .engine x.mx x.key (x.gotKey a leaf)
      engAwait s x a leaf false (fun s =>
        if leaf.tgt = 2 then s.hostGet (s.hostPort x.who.hold a) x.who.hold a n p else s.peerGet x.who.hold a n p) addr

/-- Pieces one after another. -/
def engGets (x : Eng) (addr : Word) : List (Tgt × Nat) → State → E (List Byte × State)
  | [], s => .ok ([], s)
  | (t, n) :: l, s => do
    let (d, s) ← engGet x addr s t n
    let (e, s) ← engGets x addr l s
    .ok (d ++ e, s)

/-- The pages of an engine's range: each piece with its target (R261). -/
def engPages (x : Eng) (addr : Word) (need : Need) : Nat → Nat → Nat → State → E (List (Tgt × Nat) × State)
  | 0, _, _, s => .ok ([], s)
  | fuel + 1, mva, n, s =>
    if n = 0 then .ok ([], s)
    else
      let k := min n (65536 - mva % 65536)
      match s.spotOf x.who.hold mva k with
      | .error c => .error (.bad c 0 addr s)
      | .ok (.win core off) => do
        let (l, s) ← engPages x addr need fuel (mva + k) (n - k) s
        .ok ((cutTgt 128 (k + 1) (.bank core x.who.hold off) 0 k).map (fun (u, _, m) => (u, m)) ++ l, s)
      | .ok (.mva _) =>
      match s.translate x.asker (clusterOf x.who.core) mva need with
      | (.ok t, s) =>
        if s.peerBad t then .error (.bad 0x16 0 addr s)
        else do
          let (l, s) ← engPages x addr need fuel (mva + k) (n - k) s
          let ps := match t with
            | .host .. => (hostCuts t k).map fun (u, _, m) => (u, m)
            | _ => (cutTgt 128 (k + 1) t 0 k).map fun (u, _, m) => (u, m)
          .ok (ps ++ l, s)
      | (.error .nonres, s) => .error (.page mva need.w s)
      | (.error .perm, s) => .error (.bad 0x16 0 addr s)
      | (.error .waits, s) => .error (.wait s)

/-- The pages of one access of an engine: bytes in pages of different KIND fault KINDSTRAD before any byte moves (R263). -/
def engSpan (x : Eng) (addr : Word) (need : Need) (mva n : Nat) (s : State) : E (List (Tgt × Nat) × State) :=
  let next := (mva / 65536 + 1) * 65536
  if mva + n ≤ next then engPages x addr need 3 mva n s
  else
    match s.walksOpen x.asker [mva, next] with
    | (false, s) => .error (.wait s)
    | (true, s) =>
      match s.kindAt x.who.hold mva, s.kindAt x.who.hold next with
      | some a, some b => if a ≠ b then .error (.bad 0x13 0 addr s) else engPages x addr need 3 mva n s
      | _, _ => engPages x addr need 3 mva n s

/-- An engine's failure at a pointer: a window that has shrunk denies the access (R439). -/
def engCause (r : Ref) (c : Nat) : Nat := if r.seg = 0 then 0x16 else c

/-- An engine reads up to one sector (ER) where a checked pointer leads. -/
def engReadAt (x : Eng) (r : Ref) (p : Spot) (n : Nat) (s : State) : E (List Byte × State) :=
  match p with
  | .win core off => do
    let acts ← engLook r s core x.who.hold kER off n
    if s.unitBad core x.who.hold acts then .error (.bad (s.unitCode core x.who.hold acts) 0 r.word s)
    else .ok (s.unitRead core x.who.hold off n acts, s.retag core x.who.hold acts)
  | .mva a => do
    let (ps, s) ← engSpan x r.word { r := true } a n s
    engGets x r.word ps s

/-- An engine reads up to one sector at a pointer. -/
def engRead (x : Eng) (r : Ref) (n : Nat) (s : State) : E (List Byte × State) :=
  if n = 0 then .ok ([], s)
  else
    match s.reach x.who r n 1 { r := true } with
    | .error c => .error (.bad (engCause r c) 0 r.word s)
    | .ok p => engReadAt x r p n s

/-- Every piece of an engine's write can go: halves, tokens, owned lines and room at the port. -/
def engReady (x : Eng) (addr : Word) : List (Tgt × Nat) → State → E State
  | [], s => .ok s
  | (t, n) :: l, s =>
    match t with
    | .bank core hold off => do
      let _ ← engLook (refOf addr 0) s core hold kEW off n
      engReady x addr l s
    | .dev pa leaf =>
      match s.engEnter x leaf.home pa n true with
      | (false, s) => .error (.wait s)
      | (true, s) => engReady x addr l s
    | .host a leaf =>
      if leaf.tgt = 1 && !(s.hline (a / 64)).serves true then
        .error (.wait (s.askLine (a / 64) true (.engLine (a / 64) true)))
      else if leaf.tgt ≠ 1 && !s.engRoom x a leaf then .error (.wait s)
      else engReady x addr l s

/-- An engine has written to a peer (R63, R269). -/
def State.engPeer (s : State) (x : Eng) (p : Nat) : State :=
  if x.mx then s.modMctx x.key fun c => { c with peers := if c.peers.contains p then c.peers else c.peers ++ [p] }
  else s.modCctx x.key fun c => { c with peers := if c.peers.contains p then c.peers else c.peers ++ [p] }

/-- Write one piece that can go. -/
def State.engPut (s : State) (x : Eng) (addr : Word) (t : Tgt) (data : List Byte) : State :=
  match t with
  | .bank core hold off =>
    match s.unitLook core hold kEW (winWords off data.length) with
    | .go acts => (s.unitWrite core hold off data acts x.who.rgn addr).retag core hold acts
    | _ => s
  | .dev pa leaf => s.putBeats (atHome leaf x.who.hold x.who.rgn addr) (data.length + 1) pa data
  | .host a leaf =>
    if leaf.tgt = 1 then s.hlcPut a data
    else if leaf.tgt = 2 then s.hostPut (s.hostPort x.who.hold a) x.who.hold a data false none (some x.sender)
    else (s.peerPut x.who.hold x.who.rgn addr a data false none (some x.sender)).engPeer x (peerOf a)

/-- Write pieces that can all go. -/
def State.engPuts (s : State) (x : Eng) (addr : Word) : List (Tgt × Nat) → List Byte → State
  | [], _ => s
  | (t, n) :: l, data => (s.engPut x addr t (data.take n)).engPuts x addr l (data.drop n)

/-- An engine writes up to one sector at a pointer (EW): the core in whose bank it has landed, if any, and its offset. -/
def engWrite (x : Eng) (r : Ref) (data : List Byte) (s : State) : E (Option (Nat × Nat) × State) :=
  if data = [] then .ok (none, s)
  else asWrite
    (match s.reach x.who r data.length 1 { w := true } with
    | .error c => .error (.bad (engCause r c) 0 r.word s)
    | .ok (.win core off) => do
      let acts ← engLook r s core x.who.hold kEW off data.length
      .ok (some (core, off), (s.unitWrite core x.who.hold off data acts x.who.rgn r.word).retag core x.who.hold acts)
    | .ok (.mva a) => do
      let (ps, s) ← engSpan x r.word { w := true } a data.length s
      let s ← engReady x r.word ps s
      .ok (none, s.engPuts x r.word ps data))

/-- An element combined in place by an engine (R293): the core in whose bank it has landed, if any. -/
def engRmw (x : Eng) (r : Ref) (o : PqOp) (s : State) : E (Option (Nat × Nat) × State) :=
  let n := o.size
  asWrite (match s.reach x.who r n n { r := true, w := true, a := true } with
  | .error c => .error (.bad (engCause r c) 0 r.word s)
  | .ok (.win core off) => do
    let acts ← engLook r s core x.who.hold kEW off n
    if s.unitBad core x.who.hold acts then .error (.bad (s.unitCode core x.who.hold acts) 0 r.word s)
    else
      let s := match o.rmw (s.unitRead core x.who.hold off n acts) with
        | some d => s.unitWrite core x.who.hold off d acts x.who.rgn r.word
        | none => s
      .ok (some (core, off), s.retag core x.who.hold acts)
  | .ok (.mva a) => do
    let (ps, s) ← engSpan x r.word { r := true, w := true, a := true } a n s
    match ps with
    | (.dev pa leaf, _) :: _ =>
      let s ← engReady x r.word [(.dev pa leaf, n)] s
      let (_, bad, s) := s.homeRmw (atHome leaf x.who.hold x.who.rgn r.word) none pa n o.rmw
      if bad then .error (.bad (s.badCode pa n) 0 r.word s) else .ok (none, s)
    | (.host h leaf, _) :: _ =>
      if leaf.tgt = 1 then
        let s ← engReady x r.word [(.host h leaf, n)] s
        if (s.hline (h / 64)).bad then .error (.bad 0x71 0 r.word s)
        else .ok (none, match o.rmw (s.hlcBytes h n) with | some d => s.hlcPut h d | none => s)
      else
        if s.nsBad x.who.hold (.host h leaf) o then .error (.bad 0x61 0 r.word s)
        else
          let p : Purpose := .engine x.mx x.key (x.gotKey h leaf)
          let (_, s) ← engAwait s x h leaf true (fun s =>
            if leaf.tgt = 2 then s.hostAtomic (s.hostPort x.who.hold h) x.who.hold h o p else s.peerAtomic x.who.hold h o p) r.word
          .ok (none, s)
    | _ => .error (.bad 0x16 0 r.word s))

/-! ### Stopping and stalling -/

/-- A context stops at a command (R279): its status, and a record in the fault queue of the issuing region. It waits at no slice any
more. -/
def State.engStop (s : State) (x : Eng) (num cause info : Nat) (addr : Word) (write : Bool := false) : State :=
  let s := s.forget x.req
  let s := if x.mx then s.modMctx x.key fun c => { c with err := true, cause := cause, ecmd := num, stall := none, waits := none }
    else s.modCctx x.key fun c => { c with err := true, cause := cause, ecmd := num, stall := none, susp := false }
  let s := if cause = 0x71 then s.modFn x.who.hold fun f => { f with beatErr := f.beatErr + 1 } else s
  s.addFault ⟨x.who.hold, false, 0, 3, cause, write, info, x.who.rgn, addr,
    BitVec.ofNat 64 (tlWord x.mx x.key + num % 2 ^ 32 * 2 ^ 32)⟩

/-- A context stalls on a page (R295): the request goes out, or the context stops with PAGE when none can be raised. -/
def State.engPage (s : State) (x : Eng) (num mva : Nat) (write : Bool) : State :=
  if s.canRequest x.who.hold then
    let s := if x.mx then s.modMctx x.key fun c => { c with stall := some mva } else s.modCctx x.key fun c => { c with stall := some mva }
    s.raisePage x.who.hold x.who.rgn mva write (.engine (tlWord x.mx x.key))
      (BitVec.ofNat 64 (tlWord x.mx x.key + num % 2 ^ 32 * 2 ^ 32))
  else s.engStop x num 0x15 0 (BitVec.ofNat 64 mva) write

/-- The record whose WAIT stalls a matrix context (R179). -/
def State.engWaits (s : State) (x : Eng) (n : Option Nat) : State :=
  if x.mx && (s.mctx x.key).waits ≠ n then s.modMctx x.key fun c => { c with waits := n } else s

/-- What becomes of a context whose access is not done. -/
def engFail (x : Eng) (num : Nat) : EStop → State
  | .wait s => s.engAgain x
  | .tag s => (s.engAgain x).engWaits x (some num)
  | .page mva w s => (s.engAgain x).engPage x num mva w
  | .bad c i a s w => s.engStop x num c i a w

/-- A stalled context walks the table again (R295). -/
def State.rewalk (s : State) (mx : Bool) (key : Nat) : State :=
  if mx then s.modMctx key fun c => { c with stall := none } else s.modCctx key fun c => { c with stall := none }

/-- The context that a timeline word names: matrix, and its key. -/
def tlCtx (w : Nat) : Bool × Nat :=
  if bits w 31 30 = 1 then (true, (bits w 18 13 * 64 + bits w 25 19) * 4 + bits w 1 0)
  else (false, coreAt (bits w 25 19) (bits w 18 13) * 4 + bits w 1 0)

/-- Bytes of an engine have landed in a core: the line's full bit (R185), and INB of the object there (R288, R291). -/
def State.engLanded (s : State) (hold rgn : Nat) (at_ : Option (Nat × Nat)) (n : Nat) (fe : Bool) (obj : Option Nat) : State :=
  match at_ with
  | none => s
  | some (core, off) =>
    let s := if fe then (sortNat [off / 128, (off + n - 1) / 128]).foldl (fun (s : State) l => s.setFe core hold (128 * l) true) s else s
    match obj with
    | some o => s.updObj core hold o rgn (BarObj.landed n)
    | none => s

end Sys2Proof.Machine
end

