-- ==== Sys2Proof/Machine/Integer.lean ====
section
/-! DEFINITION. The integer and address instructions (R338-R349), and the special registers (R161-R164). -/

namespace Sys2Proof.Machine

/-! ### The formulas of R340 and R341 -/

/-- ADD. -/
def addR (md : BitVec 8) (a b : Word) : Word := intResult md (iAt md a + iAt md b)
/-- SUB. -/
def subR (md : BitVec 8) (a b : Word) : Word := intResult md (iAt md a - iAt md b)
/-- MUL. -/
def mulR (md : BitVec 8) (a b : Word) : Word := intResult md (iAt md a * iAt md b)
/-- MULH. -/
def mulhR (md : BitVec 8) (a b : Word) : Word := intResult md (sAt md a * sAt md b / (2 ^ szBits (mdSz md) : Nat))
/-- MULHU. -/
def mulhuR (md : BitVec 8) (a b : Word) : Word := intResult md (uAt md a * uAt md b / 2 ^ szBits (mdSz md) : Nat)
/-- DIV: by 0 all ones. -/
def divR (md : BitVec 8) (a b : Word) : Word := intResult md (if sAt md b = 0 then -1 else (sAt md a).tdiv (sAt md b))
/-- DIVU: by 0 all ones. -/
def divuR (md : BitVec 8) (a b : Word) : Word := intResult md (if uAt md b = 0 then -1 else (uAt md a / uAt md b : Nat))
/-- REM: by 0 the dividend. -/
def remR (md : BitVec 8) (a b : Word) : Word := intResult md (if sAt md b = 0 then sAt md a else (sAt md a).tmod (sAt md b))
/-- REMU: by 0 the dividend. -/
def remuR (md : BitVec 8) (a b : Word) : Word := intResult md (if uAt md b = 0 then uAt md a else uAt md a % uAt md b : Nat)
/-- AND. -/
def andR (md : BitVec 8) (a b : Word) : Word := intResult md (uAt md a &&& uAt md b : Nat)
/-- OR. -/
def orR (md : BitVec 8) (a b : Word) : Word := intResult md (uAt md a ||| uAt md b : Nat)
/-- XOR. -/
def xorR (md : BitVec 8) (a b : Word) : Word := intResult md (uAt md a ^^^ uAt md b : Nat)
/-- ANDN. -/
def andnR (md : BitVec 8) (a b : Word) : Word := intResult md ((a &&& ~~~b).toNat : Nat)
/-- A shift count (R341). -/
def shAmt (md : BitVec 8) (b : Word) : Nat := uAt md b % szBits (mdSz md)
/-- SHL. -/
def shlR (md : BitVec 8) (a b : Word) : Word := intResult md (uAt md a * 2 ^ shAmt md b : Nat)
/-- SHR. -/
def shrR (md : BitVec 8) (a b : Word) : Word := intResult md (uAt md a / 2 ^ shAmt md b : Nat)
/-- SAR. -/
def sarR (md : BitVec 8) (a b : Word) : Word := intResult md (sAt md a / (2 ^ shAmt md b : Nat))
/-- ROTL. -/
def rotlR (md : BitVec 8) (a b : Word) : Word :=
  intResult md (uAt md a * 2 ^ shAmt md b + uAt md a / 2 ^ (szBits (mdSz md) - shAmt md b) : Nat)
/-- Leading zeros of `a` in `w` bits. -/
def clzNat (a w : Nat) : Nat := if a = 0 then w else w - 1 - a.log2
/-- Trailing zeros of `a` in `w` bits. -/
def ctzNat (a : Nat) : Nat → Nat
  | 0 => 0
  | w + 1 => if a % 2 = 1 then 0 else ctzNat (a / 2) w + 1
/-- The lowest `w` bits of `a` in reverse order. -/
def brevNat (a : Nat) : Nat → Nat
  | 0 => 0
  | w + 1 => a % 2 * 2 ^ w + brevNat (a / 2) w
/-- CLZ. -/
def clzR (md : BitVec 8) (a _b : Word) : Word := intResult md (clzNat (uAt md a) (szBits (mdSz md)) : Nat)
/-- CTZ. -/
def ctzR (md : BitVec 8) (a _b : Word) : Word := intResult md (ctzNat (uAt md a) (szBits (mdSz md)) : Nat)
/-- POPC. -/
def popcR (md : BitVec 8) (a _b : Word) : Word := intResult md (popc (uAt md a) (szBits (mdSz md)) : Nat)
/-- BREV. -/
def brevR (md : BitVec 8) (a _b : Word) : Word := intResult md (brevNat (uAt md a) (szBits (mdSz md)) : Nat)
/-- MIN. -/
def minR (md : BitVec 8) (a b : Word) : Word := intResult md (if sAt md a ≤ sAt md b then sAt md a else sAt md b)
/-- MAX. -/
def maxR (md : BitVec 8) (a b : Word) : Word := intResult md (if sAt md a ≤ sAt md b then sAt md b else sAt md a)
/-- MINU. -/
def minuR (md : BitVec 8) (a b : Word) : Word := intResult md (min (uAt md a) (uAt md b) : Nat)
/-- MAXU. -/
def maxuR (md : BitVec 8) (a b : Word) : Word := intResult md (max (uAt md a) (uAt md b) : Nat)
/-- ABS. -/
def absR (md : BitVec 8) (a _b : Word) : Word := intResult md ((sAt md a).natAbs : Nat)
/-- The bit count of SEXT and ZEXT (R342). -/
def extBits (b : Word) : Nat := if bits b.toNat 5 0 = 0 then 64 else bits b.toNat 5 0
/-- SEXT (R342). -/
def sextR (_md : BitVec 8) (a b : Word) : Word := extend true (extBits b) (a.toNat : Nat)
/-- ZEXT (R342). -/
def zextR (_md : BitVec 8) (a b : Word) : Word := extend false (extBits b) (a.toNat : Nat)
/-- The width of a field specification (R343). -/
def fieldWd (b : Word) : Nat := bits b.toNat 13 8 + 1
/-- The position of a field specification (R343). -/
def fieldPos (b : Word) : Nat := bits b.toNat 5 0
/-- BFX (R343). -/
def bfxR (md : BitVec 8) (a b : Word) : Word := extend (mdSgn md) (fieldWd b) (a.toNat / 2 ^ fieldPos b : Nat)
/-- BFI (R343): the old destination with the field replaced; bits above 63 are dropped. -/
def bfiR (old a b : Word) : Word :=
  let m : Word := BitVec.ofNat 64 ((2 ^ fieldWd b - 1) * 2 ^ fieldPos b)
  (old &&& ~~~m) ||| ((a <<< fieldPos b) &&& m)
/-- MOV (R344). -/
def movR (md : BitVec 8) (a _b : Word) : Word := extend (mdSgn md) (szBits (mdSz md)) (a.toNat : Nat)
/-- ADDSH (R346). -/
def addshR (imm : BitVec 32) (a b : Word) : Word :=
  BitVec.ofNat 64 (bits a.toNat 63 61 * 2 ^ 61 + (a.toNat + b.toNat * 2 ^ bits imm.toNat 2 0) % 2 ^ 61)
/-- SEGP (R346). -/
def segpR (_md : BitVec 8) (a b : Word) : Word := BitVec.ofNat 64 (b.toNat % 8 * 2 ^ 61 + a.toNat % 2 ^ 61)

/-- The shape of the integer instructions: both sources, the result, the destination (R326, R338). -/
def intOp (i : Instr) (s : State) (r : BitVec 8 → Word → Word → Word) : Host.Outcome State Fault Refusal :=
  issue i s fun f s =>
    let (a, b, s) := s.srcs f (simm f)
    .ok (.step (s.dst f.d (r f.md a b)))

/-- ADD (R340). -/
def execAdd (f : Fields) (s : State) : Host.Outcome State Fault Refusal := intOp (.add f) s addR
/-- SUB (R340). -/
def execSub (f : Fields) (s : State) : Host.Outcome State Fault Refusal := intOp (.sub f) s subR
/-- MUL (R340). -/
def execMul (f : Fields) (s : State) : Host.Outcome State Fault Refusal := intOp (.mul f) s mulR
/-- MULH (R340). -/
def execMulh (f : Fields) (s : State) : Host.Outcome State Fault Refusal := intOp (.mulh f) s mulhR
/-- MULHU (R340). -/
def execMulhu (f : Fields) (s : State) : Host.Outcome State Fault Refusal := intOp (.mulhu f) s mulhuR
/-- DIV (R340, R341). -/
def execDiv (f : Fields) (s : State) : Host.Outcome State Fault Refusal := intOp (.div f) s divR
/-- DIVU (R340, R341). -/
def execDivu (f : Fields) (s : State) : Host.Outcome State Fault Refusal := intOp (.divu f) s divuR
/-- REM (R340, R341). -/
def execRem (f : Fields) (s : State) : Host.Outcome State Fault Refusal := intOp (.rem f) s remR
/-- REMU (R340, R341). -/
def execRemu (f : Fields) (s : State) : Host.Outcome State Fault Refusal := intOp (.remu f) s remuR
/-- AND (R340). -/
def execAnd (f : Fields) (s : State) : Host.Outcome State Fault Refusal := intOp (.and f) s andR
/-- OR (R340). -/
def execOr (f : Fields) (s : State) : Host.Outcome State Fault Refusal := intOp (.or f) s orR
/-- XOR (R340). -/
def execXor (f : Fields) (s : State) : Host.Outcome State Fault Refusal := intOp (.xor f) s xorR
/-- ANDN (R340). -/
def execAndn (f : Fields) (s : State) : Host.Outcome State Fault Refusal := intOp (.andn f) s andnR
/-- SHL (R340). -/
def execShl (f : Fields) (s : State) : Host.Outcome State Fault Refusal := intOp (.shl f) s shlR
/-- SHR (R340). -/
def execShr (f : Fields) (s : State) : Host.Outcome State Fault Refusal := intOp (.shr f) s shrR
/-- SAR (R340). -/
def execSar (f : Fields) (s : State) : Host.Outcome State Fault Refusal := intOp (.sar f) s sarR
/-- ROTL (R340). -/
def execRotl (f : Fields) (s : State) : Host.Outcome State Fault Refusal := intOp (.rotl f) s rotlR
/-- CLZ (R340). -/
def execClz (f : Fields) (s : State) : Host.Outcome State Fault Refusal := intOp (.clz f) s clzR
/-- CTZ (R340). -/
def execCtz (f : Fields) (s : State) : Host.Outcome State Fault Refusal := intOp (.ctz f) s ctzR
/-- POPC (R340). -/
def execPopc (f : Fields) (s : State) : Host.Outcome State Fault Refusal := intOp (.popc f) s popcR
/-- BREV (R340). -/
def execBrev (f : Fields) (s : State) : Host.Outcome State Fault Refusal := intOp (.brev f) s brevR
/-- MIN (R340). -/
def execMin (f : Fields) (s : State) : Host.Outcome State Fault Refusal := intOp (.min f) s minR
/-- MAX (R340). -/
def execMax (f : Fields) (s : State) : Host.Outcome State Fault Refusal := intOp (.max f) s maxR
/-- MINU (R340). -/
def execMinu (f : Fields) (s : State) : Host.Outcome State Fault Refusal := intOp (.minu f) s minuR
/-- MAXU (R340). -/
def execMaxu (f : Fields) (s : State) : Host.Outcome State Fault Refusal := intOp (.maxu f) s maxuR
/-- ABS (R340). -/
def execAbs (f : Fields) (s : State) : Host.Outcome State Fault Refusal := intOp (.abs f) s absR
/-- SEXT (R342). -/
def execSext (f : Fields) (s : State) : Host.Outcome State Fault Refusal := intOp (.sext f) s sextR
/-- ZEXT (R342). -/
def execZext (f : Fields) (s : State) : Host.Outcome State Fault Refusal := intOp (.zext f) s zextR
/-- BFX (R343). -/
def execBfx (f : Fields) (s : State) : Host.Outcome State Fault Refusal := intOp (.bfx f) s bfxR
/-- MOV (R344). -/
def execMov (f : Fields) (s : State) : Host.Outcome State Fault Refusal := intOp (.mov f) s movR
/-- SEGP (R346). -/
def execSegp (f : Fields) (s : State) : Host.Outcome State Fault Refusal := intOp (.segp f) s segpR

/-- BFI (R343): reads and writes gD. -/
def execBfi (f : Fields) (s : State) : Host.Outcome State Fault Refusal :=
  issue (.bfi f) s fun f s =>
    let old := s.g f.d
    let (a, b, s) := s.srcs f (simm f)
    .ok (.step (s.dst f.d (bfiR old a b)))

/-- MOVHI (R344). -/
def execMovhi (f : Fields) (s : State) : Host.Outcome State Fault Refusal :=
  issue (.movhi f) s fun f s => .ok (.step (s.dst f.d (f.imm ++ (s.g f.d).extractLsb' 0 32)))

/-- SEL (R345): both sources are read. -/
def execSel (f : Fields) (s : State) : Host.Outcome State Fault Refusal :=
  issue (.sel f) s fun f s =>
    let c := s.thr.prd (bits f.imm.toNat 4 0) != f.imm.getLsbD 5
    let (a, b, s) := s.srcs f (simm f)
    .ok (.step (s.dst f.d (movR f.md (if c then a else b) 0)))

/-- ADDSH (R346). -/
def execAddsh (f : Fields) (s : State) : Host.Outcome State Fault Refusal :=
  issue (.addsh f) s fun f s =>
    let (a, b, s) := s.srcs f (simm f)
    .ok (.step (s.dst f.d (addshR f.imm a b)))

/-! ### Special registers (R161-R164, R347, R348) -/

/-- The word of an accumulator partition's owner register (R285). -/
def Owner.word (o : Owner) : Word := BitVec.ofNat 64 (o.used.toNat * 2 ^ 48 + (if o.none then 2 ^ 32 else 0) + o.id.toNat)

/-- The owner register of a partition of a cluster, keyed cluster * 4 + partition. -/
def State.ownerAt (s : State) (k p : Nat) : Owner := Tab.get {} s.en.owner (k * 4 + p)

/-- %mode (R162). -/
def modeWord (t : Thread) : Word :=
  BitVec.ofNat 64 ((if t.s then 1 else 0) + (if t.h then 2 else 0) + (if t.roam then 4 else 0) + (if t.bnd then 8 else 0) +
    (if t.pinned then 16 else 0))

/-- The value of a special register; `hi` selects bits 127:64 of a segment descriptor (R161). -/
def State.special (s : State) (n : Nat) (hi : Bool) : Word :=
  let t := s.thr
  let c := s.core
  let hc := s.hcAt c t.hold
  match n with
  | 0 => BitVec.ofNat 64 s.slotNo
  | 1 => BitVec.ofNat 64 (coreX c + coreY c * 2 ^ 8 + coreNo c * 2 ^ 16)
  | 2 => BitVec.ofNat 64 (coreX c / 2 + coreY c / 2 * 2 ^ 8)
  | 3 => BitVec.ofNat 64 t.hold
  | 4 => BitVec.ofNat 64 t.rgn
  | 5 => t.ctxid.zeroExtend 64
  | 6 => t.tile.zeroExtend 64
  | 7 => t.grid
  | 8 => modeWord t
  | 9 => if coreNo c = 0 then 1 else 0
  | 10 => Tab.get 0 s.co.cyc c
  | 11 => BitVec.ofNat 64 t.repc
  | 12 => t.utvec
  | 13 => t.tpc
  | 14 => t.tcause
  | 15 => t.taddr
  | 16 => t.uimask.zeroExtend 64
  | 17 => s.slot.uipend.zeroExtend 64
  | 18 => t.spc
  | 19 => t.scause
  | 20 => t.saddr
  | 21 => BitVec.ofNat 64 t.stkc
  | 22 => t.sovf
  | 23 => Tab.get 0 hc.tagrgn 0
  | 24 => Tab.get 0 hc.tagrgn 1
  | 25 => Tab.get 0 hc.tagrgn 2
  | 26 => Tab.get 0 hc.tagrgn 3
  | 27 => t.rng.zeroExtend 64
  | 28 => t.fpm.zeroExtend 64
  | 29 => BitVec.ofNat 64 s.slot.issued
  | 30 => BitVec.ofNat 64 s.slot.drained
  | _ =>
    if n ≤ 36 then
      let d := Tab.get 0 t.sg (n - 30)
      if hi then d.extractLsb' 64 64 else d.extractLsb' 0 64
    else if bit (s.haparts t.hold) (n - 37) then (s.ownerAt (clusterOf c) (n - 37)).word
    else 0x100000000

/-- MFS (R347). -/
def execMfs (f : Fields) (s : State) : Host.Outcome State Fault Refusal :=
  issue (.mfs f) s fun f s => .ok (.step (s.dst f.d (s.special f.a.idx.toNat (f.md.getLsbD 0))))

/-- The mask of the fields of a segment descriptor half that are not reserved (R193). -/
def descMask (hi : Bool) : Word := if hi then 0xF1FFFFFFFFFFFFFF else 0x01FFFFFFFFFFFFFF

/-- A segment descriptor with one half replaced (R161, R193). -/
def descSet (d : BitVec 128) (hi : Bool) (v : Word) : BitVec 128 :=
  let v := v &&& descMask hi
  if hi then v ++ d.extractLsb' 0 64 else d.extractLsb' 64 64 ++ v

/-- The write of a special register (R348). -/
def State.setSpecial (s : State) (n : Nat) (hi : Bool) (v : Word) : State :=
  match n with
  | 11 => s.modThr fun t => { t with repc := min v.toNat 64 }
  | 12 => s.modThr fun t => { t with utvec := v }
  | 13 => s.modThr fun t => { t with tpc := v }
  | 14 => s.modThr fun t => { t with tcause := v &&& 0x18001FFFF#64 }
  | 15 => s.modThr fun t => { t with taddr := v }
  | 16 => s.modThr fun t => { t with uimask := v.extractLsb' 0 8 &&& 0x83 }
  | 17 => s.modSlot fun x => { x with uipend := x.uipend &&& ~~~(v.extractLsb' 0 8 &&& 0x03) }
  | 18 => s.modThr fun t => { t with spc := v }
  | 19 => s.modThr fun t => { t with scause := v &&& 0x1FFFFFFFF#64 }
  | 20 => s.modThr fun t => { t with saddr := v }
  | 27 => s.modThr fun t => { t with rng := if v.extractLsb' 0 32 = 0 then 1 else v.extractLsb' 0 32 }
  | 28 => s.modThr fun t => { t with fpm := v.extractLsb' 0 4 }
  | _ =>
    if 23 ≤ n && n ≤ 26 then
      let h := s.thr.hold
      let s := s.pin.modHc s.core h fun c => { c with tagrgn := Tab.set 0 c.tagrgn (n - 23) (v &&& 0xF0000000FFFFFFFF) }
      s.wakeIf s.core fun x _ => (x.thr.map (·.hold)) = some h
    else if 31 ≤ n && n ≤ 36 then s.modThr fun t => { t with sg := Tab.set 0 t.sg (n - 30) (descSet (Tab.get 0 t.sg (n - 30)) hi v) }
    else s

/-- MTS (R348). -/
def execMts (f : Fields) (s : State) : Host.Outcome State Fault Refusal :=
  issue (.mts f) s fun f s =>
    let (v, s) := s.src f.a (simm f)
    .ok (.step (s.setSpecial f.d.idx.toNat (f.md.getLsbD 0) v))

end Sys2Proof.Machine
end

