-- ==== Sys2Proof/Machine/Matrix.lean ====
section
/-! DEFINITION. The matrix sequencer (R238, R247, R248, R277-R290, R435-R441, R475, R488). -/

namespace Sys2Proof.Machine

/-! ### Records (R435, R436) -/

/-- A little-endian field of a record. -/
def recW (bs : List Byte) (off n : Nat) : Nat := leNat ((bs.drop off).take n)
/-- TYPE. -/
def recType (bs : List Byte) : Nat := bits (recW bs 0 1) 3 0
/-- A bit of FLAGS. -/
def recFlag (bs : List Byte) (k : Nat) : Bool := bit (recW bs 1 1) k
/-- TILES. -/
def recTiles (bs : List Byte) : Nat := recW bs 2 2
/-- C of TILES. -/
def recC (bs : List Byte) : Nat := bits (recTiles bs) 3 0
/-- NEW of TILES. -/
def recNew (bs : List Byte) : Bool := bit (recTiles bs) 14
/-- SLAB, ROW and QTR as one position number. -/
def recPos (bs : List Byte) : Nat := bits (recTiles bs) 9 4 * 16 + bits (recTiles bs) 11 10 * 4 + bits (recTiles bs) 13 12
/-- DFMT. -/
def recDfmt (bs : List Byte) : Nat := bits (recW bs 4 1) 5 0
/-- ADDR. -/
def recAddr (bs : List Byte) : Word := BitVec.ofNat 64 (recW bs 0x18 8)
/-- DST: the core and the window offset. -/
def recDst (bs : List Byte) : Nat × Nat :=
  let v := recW bs 0x20 8
  (coreAt (bits v 38 32) (bits v 45 40), bits v 18 0)
/-- BOFF. -/
def recBoff (bs : List Byte) : Nat := bits (recW bs 0x38 4) 18 0

/-- The record is an MMA or MMAS. -/
def isMma (bs : List Byte) : Bool := recType bs = 2 || recType bs = 3
/-- The record names an accumulator tile. -/
def namesTile (bs : List Byte) : Bool := recType bs ≠ 1 && recType bs ≠ 7
/-- The record names a B position. -/
def namesPos (bs : List Byte) : Bool := recType bs = 1 || isMma bs
/-- The record writes its accumulator tile (R285). -/
def writesTile (bs : List Byte) : Bool := recType bs = 0 || isMma bs || recType bs = 5

/-- The record's checks take the appended header of its accumulator tile (R437, R438), so an earlier record that will change it is accepted first
(R475). -/
def takesApp (bs : List Byte) : Bool := recType bs = 4 || recType bs = 6 || (isMma bs && !recNew bs)

/-- The record breaks R435 or the table of R436 (HDRKIND); `short` says that MXB formed it (R440). -/
def recBad (bs : List Byte) (short : Bool) : Bool :=
  let ty := recType bs
  let t := recTiles bs
  let dst := recW bs 0x20 8
  let rm := bits (recW bs 1 1) 4 2
  bits (recW bs 0 1) 7 4 ≠ 0 || 7 < ty || bit t 15 || bits (recW bs 4 1) 7 6 ≠ 0 || recW bs 5 3 ≠ 0 || recW bs 12 4 ≠ 0 ||
  bits dst 63 46 ≠ 0 || bit dst 39 || bits dst 31 19 ≠ 0 || bits (recW bs 0x38 4) 31 19 ≠ 0 || 6 ≤ rm ||
  (recFlag bs 7 && (!isMma bs || bits (recW bs 0x18 8) 63 4 ≠ 0)) ||
  ((recFlag bs 6 || recFlag bs 5 || rm ≠ 0 || dst ≠ 0) && ty ≠ 4) || (recFlag bs 1 && !isMma bs && ty ≠ 4) ||
  (recNew bs && !isMma bs) || (bits t 13 4 ≠ 0 && !namesPos bs) || (recC bs ≠ 0 && !namesTile bs) ||
  (recDfmt bs ≠ 0 && ty ≠ 0 && ty ≠ 4) || (ty = 0 && recDfmt bs ≠ 1 && recDfmt bs ≠ 12) ||
  (ty = 4 && !([0, 1, 2, 3, 4, 5, 9, 12].contains (recDfmt bs))) ||
  (recAddr bs ≠ 0 && (ty = 0 || ty = 4 || ty = 7)) ||
  ((recW bs 0x28 8 ≠ 0 || recW bs 0x30 8 ≠ 0) && !recFlag bs 5) || (recBoff bs ≠ 0 && !recFlag bs 6) || (ty = 7 && !recFlag bs 0) ||
  (short && (recFlag bs 5 || recFlag bs 6 || (recFlag bs 0 && ty ≠ 7)))

/-! ### Tiles, positions, owners -/

/-- The key of an accumulator tile of a cluster. -/
def tileKey (k t : Nat) : Nat := k * 64 + t
/-- The key of a B position of a cluster. -/
def posKey (k p : Nat) : Nat := k * 1024 + p
/-- A B position. -/
def State.bpos (s : State) (k p : Nat) : BPos := Tab.get {} s.en.bpos (posKey k p)
/-- Change a B position. -/
def State.modBpos (s : State) (k p : Nat) (f : BPos → BPos) : State :=
  { s with en := { s.en with bpos := Tab.set {} s.en.bpos (posKey k p) (f (s.bpos k p)) } }
/-- The appended header of a tile (R437). -/
def State.appHdr (s : State) (k t : Nat) : Option (BitVec 128) := Tab.get none s.en.appHdr (tileKey k t)
/-- Set the appended header of a tile. -/
def State.setApp (s : State) (k t : Nat) (h : Option (BitVec 128)) : State :=
  { s with en := { s.en with appHdr := Tab.set none s.en.appHdr (tileKey k t) h } }
/-- The header that a tile holds. -/
def State.accHdr (s : State) (k t : Nat) : Option (BitVec 128) := Tab.get none s.en.accHdr (tileKey k t)
/-- Set the header that a tile holds. -/
def State.setAccHdr (s : State) (k t : Nat) (h : Option (BitVec 128)) : State :=
  { s with en := { s.en with accHdr := Tab.set none s.en.accHdr (tileKey k t) h } }
/-- Element `i` of a tile. -/
def State.accEl (s : State) (k t i : Nat) : BitVec 32 := Tab.get 0 s.en.acc (tileKey k t * 1024 + i)
/-- The first `n` elements of a tile. -/
def State.accEls (s : State) (k t n : Nat) : List (BitVec 32) := (List.range n).map (s.accEl k t)
/-- Write the elements of a tile. -/
def State.setAccEls (s : State) (k t : Nat) (xs : List (BitVec 32)) : State :=
  { s with en := { s.en with acc := (List.range xs.length).foldl (fun (a : Tab (BitVec 32)) i =>
      Tab.set 0 a (tileKey k t * 1024 + i) (xs.getD i 0)) s.en.acc } }
/-- The 4,096 data bytes of a tile. -/
def State.accBytes (s : State) (k t : Nat) : List Byte := (s.accEls k t 1024).flatMap fun v => leBytes 4 v.toNat
/-- 32-bit elements of bytes. -/
def words32 (bs : List Byte) : List (BitVec 32) := (List.range 1024).map fun i => BitVec.ofNat 32 (leNat ((bs.drop (4 * i)).take 4))
/-- Write an owner register. -/
def State.setOwner (s : State) (k p : Nat) (o : Owner) : State :=
  { s with en := { s.en with owner := Tab.set {} s.en.owner (k * 4 + p) o } }
/-- The 128 bits of a header's bytes. -/
def hdrBits (bs : List Byte) : BitVec 128 := BitVec.ofNat 128 (leNat (bs.take 16))
/-- The fields of a header's bits. -/
def hdrOfBits (b : BitVec 128) : Hdr := Hdr.ofNat b.toNat

/-- The partition of an owned matrix context of a holding (R285). -/
def State.ctxPart (s : State) (h c : Nat) : Nat :=
  (bitOfRank (s.haparts h) 4 0 (popc (s.hmctx h) c % popc (s.haparts h) 4)).getD 0

/-- Every record of a cluster's contexts: those that wait for a place and those accepted. -/
def State.mxRecs (s : State) (k : Nat) : List MxRec :=
  (List.range 4).flatMap fun c => (s.mctx (k * 4 + c)).wait ++ (s.mctx (k * 4 + c)).queue

/-- A record naming the partition is pending in the cluster (R286). -/
def State.partPending (s : State) (k p : Nat) : Bool :=
  (List.range 4).any fun c =>
    let x := s.mctx (k * 4 + c)
    (x.queue.any fun r => r.part = p && !(x.err && x.ecmd ≤ r.num)) || (!x.err && x.wait.any fun r => r.part = p)

/-- A slot's MXSPILL or MXFILL works on the partition (R441). -/
def State.partHeld (s : State) (k p : Nat) : Bool :=
  s.en.held.any fun (q, v) => q = k * 4 + p && ((Tab.get {} s.co.slots v).resume.data ≠ [] || (Tab.get {} s.co.slots v).resume.acc.isSome)

/-! ### The combination of headers (R238) -/

/-- Element format and group size of a product; 0 stands for the whole of K. -/
def mulFmt (a b : Nat) : Option (Nat × Nat) :=
  let wide := fun f => f = 2 || f = 3
  let eight := fun f => f = 4 || f = 5
  let low := fun f => f = 6 || f = 7 || f = 8
  let int := fun f => f = 9 || f = 10
  if wide a && wide b then some (1, 8)
  else if eight a && eight b then some (1, 16)
  else if (eight a || low a) && (eight b || low b) then some (1, 32)
  else if int a && int b then some (12, 0)
  else none

/-- The header of a product, or the cause code (R238, R240). -/
def productHdr (a b : Hdr) (c : Option Hdr) (sparse : Bool) : Except Nat Hdr :=
  let enc := if sparse then a.enc = 1 && b.enc ≠ 1 else a.enc ≠ 1 && b.enc ≠ 1
  match mulFmt a.efmt b.efmt with
  | none => .error 0x32
  | some (f, _) =>
    if a.kind ≠ 0 || b.kind ≠ 0 || !enc || (match c with | some c => c.efmt ≠ f || c.kind ≠ 1 | none => false) then .error 0x32
    else if a.c ≠ b.n || (match c with | some c => c.n ≠ a.n || c.c ≠ b.c | none => false) ||
        (a.slay = 2 && a.cmaj) || (b.slay = 2 && !b.cmaj) then .error 0x31
    else
      let h : Hdr := { kind := 1, efmt := f, n := a.n, c := b.c, row0 := a.row0, col0 := b.col0 }
      .ok { h with dlen := h.needDlen }

/-- The header that ZERO leaves (R437). -/
def zeroHdr (f : Nat) : Hdr := { kind := 1, efmt := f, n := 32, c := 32, dlen := 256 }

/-- The target formats of an accumulator (R287). -/
def drainFits (acc f : Nat) : Bool := if acc = 1 then 1 ≤ f && f ≤ 5 else f = 9 || f = 12

/-- The header that a drain writes (R287). -/
def drainHdr (c : Hdr) (f : Nat) : Hdr :=
  let h : Hdr := { kind := if f = 1 || f = 12 then 1 else 0, efmt := f, n := c.n, c := c.c, row0 := c.row0, col0 := c.col0 }
  { h with dlen := h.needDlen }

/-! ### Appends (R280, R438, R440) -/

/-- What an append finds: the header of A or of the source tile, of B, and the one that C or the position will have; the LDB
whose header it takes. -/
structure Found where
  a   : BitVec 128 := 0
  b   : BitVec 128 := 0
  c   : BitVec 128 := 0
  ldb : Nat := 0
deriving DecidableEq, Repr

/-- The header of a tile in memory, read as an LD of 16 bytes, its first two stages checked, and the rest of the tile in
range (R438, R240). -/
def readHdr (s : State) (addr : Word) : M (List Byte × State) := do
  let r := refOf addr 0
  let (bs, s) ← unitRd kLD { r := true } s r 16 16
  stages12 s [(bs, addr)]
  let _ ← reachM s s.who r (hdrOf bs).len 16 { r := true }
  .ok (bs, s)

/-- The place of A of an MMA: segment 0 or the direct window of a core of the cluster (R438). -/
def mmaSpot (s : State) (addr : Word) : M Unit := do
  let r := refOf addr 0
  let p ← reachM s s.who r 16 16 { r := true }
  match p with
  | .win core _ => if r.seg ≠ 7 && clusterOf core = clusterOf s.core then .ok () else raise s 0x16 0 addr
  | .mva _ => raise s 0x16 0 addr

/-- The operand headers of a record, checked in R240's order (R437, R438). -/
def findHdrs (s : State) (bs : List Byte) (k tile : Nat) : M (Found × State) := do
  let capp := s.appHdr k tile
  let addr := recAddr bs
  match recType bs with
  | 0 => .ok ({ c := hdrBits (zeroHdr (recDfmt bs)).pack }, s)
  | 1 =>
    let (h, s) ← readHdr s addr
    let a := hdrOf h
    let d : Hdr := { a with enc := 0 }
    let d := { d with dlen := d.needDlen }
    if a.kind ≠ 0 || a.enc = 1 || 2048 < 16 * d.dlen || 64 < a.scaleBytes then raise s 0x32 0 addr
    else .ok ({ a := hdrBits h, c := hdrBits d.pack }, s)
  | 5 =>
    let (h, s) ← readHdr s addr
    let a := hdrOf h
    if a.kind ≠ 1 || (a.efmt ≠ 1 && a.efmt ≠ 12) then raise s 0x32 0 addr else .ok ({ a := hdrBits h, c := hdrBits h }, s)
  | 4 | 6 =>
    match capp with
    | none => raise s 0x33
    | some c => .ok ({ c := c }, s)
  | 7 => .ok ({}, s)
  | ty =>
    let reg := bits addr.toNat 3 0
    let (h, at_, s) ← (if recFlag bs 7 then
        if !bit (s.htregs s.thr.hold) reg then raise s 0x16
        else if s.heldElse [tileHold reg] || s.tilePending reg then stay s
        else do
          let t := s.tileAt s.core reg
          stages12 s [(t, 0)]
          .ok (t.take 16, 0, s)
      else do
        mmaSpot s addr
        let (h, s) ← readHdr s addr
        .ok (h, addr, s) : M (List Byte × Word × State))
    let p := s.bpos k (recPos bs)
    match p.appHdr with
    | none => raise s 0x33
    | some b =>
      if !recNew bs && capp.isNone then raise s 0x33
      else
        match productHdr (hdrOf h) (hdrOfBits b) (if recNew bs then none else capp.map hdrOfBits) (ty = 3) with
        | .error c => raise s c 0 at_
        | .ok r => .ok (⟨hdrBits h, b, if recNew bs then hdrBits r.pack else capp.getD 0, p.appLdb⟩, s)

/-- The end of an append: where a STACC writes (R438), whether a DRAIN's format suits and its destination is allowed (R231,
R287, R289, R296). -/
def placesOk (s : State) (bs : List Byte) (fd : Found) : M Unit := do
  let c := hdrOfBits fd.c
  if recType bs = 6 then
    let _ ← reachM s s.who (refOf (recAddr bs) 0) (16 + 16 * c.dlen) 16 { w := true }
    .ok ()
  else if recType bs = 4 then
    let f := if recDfmt bs = 0 then c.efmt else recDfmt bs
    let (core, off) := recDst bs
    if !drainFits c.efmt f then raise s 0x32
    else if off % 16 ≠ 0 then raise s 0x14
    else if s.winSize s.thr.hold < off + (drainHdr c f).len then raise s 0x12
    else if !(s.hplot s.thr.hold).covers core then raise s 0x16
    else if recFlag bs 6 && (recBoff bs % 16 ≠ 0 || s.winSize s.thr.hold < recBoff bs + 16) then raise s 0x14
    else .ok ()
  else .ok ()

/-- The checks of R280 and the issue of an append. The record waits until its context accepts it. -/
def append (f : Fields) (s : State) (bs : List Byte) (tw : Nat) (short : Bool) : M Fin := do
  let h := s.thr.hold
  let k := clusterOf s.core
  let c := bits tw 1 0
  let ty := recType bs
  if bits tw 31 30 = 3 || bits tw 29 26 ≠ 0 || bits tw 12 8 ≠ 0 || (bits tw 31 30 ≠ 2 && bits tw 7 2 ≠ 0) then raise s 0x33
  else if bits tw 31 30 ≠ 1 || 64 ≤ bits tw 25 19 || 32 ≤ bits tw 18 13 || bits tw 18 13 * 64 + bits tw 25 19 ≠ k then raise s 0x16
  else if s.hmctx h = 0 || !bit (s.hmctx h) c || s.haparts h = 0 ||
      (namesPos bs && !bit (s.haparts h) (bits (recTiles bs) 9 4 / 16)) then raise s 0x41
  else
    let p := s.ctxPart h c
    let tile := 16 * p + recC bs
    if namesTile bs && s.partHeld k p then stay s
    else if namesTile bs && ((s.ownerAt k p).none || (s.ownerAt k p).id ≠ s.thr.ctxid) then raise s 0x40 0 (BitVec.ofNat 64 p)
    else if recBad bs short then raise s 0x33
    else
      if recFlag bs 0 then let _ ← timelineM s (BitVec.ofNat 64 (recW bs 8 4)); .ok () else .ok ()
      let ahead := (List.range 4).any fun q => (s.mctx (k * 4 + q)).wait.any fun r =>
        (takesApp bs && r.part = p && recC r.bytes = recC bs && writesTile r.bytes) ||
        (isMma bs && recType r.bytes = 1 && recPos r.bytes = recPos bs)
      if ahead || 63 ≤ s.slot.tl then stay s
      else
        let (fd, s) ← findHdrs s bs k tile
        placesOk s bs fd
        let rm := rmOf (bits (recW bs 1 1) 4 2) s.thr.fpm
        let seed := s.thr.rng
        let s := if ty = 4 && rm = .rsto then s.modThr fun t => { t with rng := rngNext t.rng } else s
        let bytes := if ty = 4 && rm = .rsto then bs.take 0x3C ++ leBytes 4 seed.toNat else bs
        let (d, s) := s.pin.dstOf f.d false
        let (i, s) := s.newId
        let t := s.thr
        let r : MxRec :=
          { num := 0, bytes := bytes, hdrA := fd.a, hdrB := fd.b, hdrC := fd.c, ldb := fd.ldb, mode := rm.code
            nsat := t.fpm.getLsbD 3, seed := seed, order := i, core := s.core, slot := s.slotNo, hold := h, rgn := t.rgn
            launch := t.launch, ctxid := t.ctxid, part := if namesTile bs then p else 4, dst := d, drainTo := s.slot.issued
            sg := t.sg, stkc := t.stkc, sovf := t.sovf, running := false, begun := 0, pos := 0, buf := [] }
        let s := s.modMctx (k * 4 + c) fun x => { x with wait := x.wait ++ [r] }
        .ok (.step (s.modSlot fun v => { v with tl := v.tl + 1 }))

/-- MXA (R440): the record is read as an LD of 64 bytes. -/
def execMxa (f : Fields) (s : State) : Host.Outcome State Fault Refusal :=
  issue (.mxa f) s fun f s => do
    let (bs, s) ← unitRd kLD { r := true } s (refOf (s.g f.b) 0) 64 64
    append f s bs (bits (s.g f.a).toNat 31 0) false

/-- The record that MXB forms from its fields (R440). -/
def mxbRec (ty imm : Nat) (b0 b1 : Word) : List Byte :=
  let w := if ty = 7 then (b0.toNat % 2 ^ 32, b1.toNat, 0, 0) else if ty = 4 then (0, 0, 0, b0.toNat) else (0, 0, b0.toNat, 0)
  leBytes 1 ty ++ leBytes 4 imm ++ leBytes 3 0 ++ leBytes 8 w.1 ++ leBytes 8 w.2.1 ++ leBytes 8 w.2.2.1 ++ leBytes 8 w.2.2.2 ++ leBytes 24 0

/-- MXB (R440). -/
def execMxb (f : Fields) (s : State) : Host.Outcome State Fault Refusal :=
  issue (.mxb f) s fun f s =>
    let z := f.b.cls = .Z
    append f s (mxbRec f.fn.toNat f.imm.toNat (if z then 0 else s.g f.b) (if z then 0 else s.g1 f.b)) (bits (s.g f.a).toNat 31 0) true

/-! ### MXOWN, MXSPILL, MXFILL (R441) -/

/-- A partition that the holding owns and that no pending record names (R286, R441). -/
def partFree (s : State) (p : Nat) : M Unit :=
  if !bit (s.haparts s.thr.hold) p then raise s 0x16
  else if s.partPending (clusterOf s.core) p then stay s
  else .ok ()

/-- MXOWN (R441). -/
def execMxown (f : Fields) (s : State) : Host.Outcome State Fault Refusal :=
  issue (.mxown f) s fun f s => do
    let p := bits (s.g f.a).toNat 1 0
    let v := s.g f.b
    let k := clusterOf s.core
    partFree s p
    if s.partHeld k p then stay s
    else
      let s := s.setOwner k p { used := 0, none := v.getLsbD 32, id := v.extractLsb' 0 32 }
      .ok (.step ((List.range 16).foldl (fun (s : State) i => s.setApp k (16 * p + i) none) s))

/-- The slot's instruction works on a partition from now on, or has finished (R441). -/
def State.holdPart (s : State) (k p : Nat) (on : Bool) : State :=
  let v := slotKey s.core s.slotNo
  let l := s.en.held.filter fun x => x.2 ≠ v
  { s with en := { s.en with held := if on then (k * 4 + p, v) :: l else l } }

/-- MXSPILL (R441). -/
def execMxspill (f : Fields) (s : State) : Host.Outcome State Fault Refusal :=
  issue (.mxspill f) s fun f s => do
    let b := (s.g f.b).toNat
    let p := bits b 1 0
    let k := clusterOf s.core
    partFree s p
    let r := refOf (s.g f.a) 0
    let _ ← reachM s s.who r 4096 4096 { w := true }
    let t := 16 * p + bits b 7 4
    let h := (s.accHdr k t).getD 0
    let s ← bulkStore (s.holdPart k p true) r (s.accBytes k t) 4096
    .ok (.step ((s.holdPart k p false).setG2 f.d.idx.toNat (h.extractLsb' 0 64) (h.extractLsb' 64 64)))

/-- A header that MXFILL may give a tile (R441). -/
def fillHdrOk (h : Hdr) : Bool := h.kind = 1 && (h.efmt = 1 || h.efmt = 12) && h.enc = 0 && h.wellFormed

/-- MXFILL (R441). -/
def execMxfill (f : Fields) (s : State) : Host.Outcome State Fault Refusal :=
  issue (.mxfill f) s fun f s => do
    let b := (s.g f.b).toNat
    let p := bits b 1 0
    let k := clusterOf s.core
    partFree s p
    let given := leBytes 8 (s.g f.d).toNat ++ leBytes 8 (s.g1 f.d).toNat
    let hdr : Option (BitVec 128) := if s.g f.d = 0 && s.g1 f.d = 0 then none else some (hdrBits (sealHdr given))
    if (match hdr with | some h => !fillHdrOk (hdrOfBits h) | none => false) then raise s 0x33
    else
      let r := refOf (s.g f.a) 0
      let _ ← reachM s s.who r 4096 4096 { r := true }
      let s ← wholeOk s r 4096 4096 { r := true }
      let (d, s) ← readUnits r (lineCuts 40 (s.addrOf r) 0 4096) (s.holdPart k p true)
      let i := bits b 7 4
      let t := 16 * p + i
      let o := s.ownerAt k p
      let s := ((s.setAccEls k t (words32 d)).setAccHdr k t hdr).setApp k t hdr
      .ok (.step ((s.setOwner k p { o with used := o.used ||| BitVec.twoPow 16 i }).holdPart k p false))

/-! ### Acceptance and start (R280-R282, R475, R488) -/

/-- MATRIX_RECORD_ACCEPT (R280): the oldest waiting record of the context is accepted: its number, gD, the USED bit and the
appended header in one step (R475). -/
def State.mxAccept (s : State) (k c : Nat) : Option State :=
  let key := k * 4 + c
  let x := s.mctx key
  match x.wait with
  | [] => none
  | r :: rest =>
    if 64 ≤ x.queue.length then none
    else
      let n := x.last + 1
      let s := s.modMctx key fun x => { x with wait := rest, last := n, queue := x.queue ++ [{ r with num := n, dst := .none }] }
      let s := s.modSlotAt r.core r.slot fun v => { v with tl := v.tl - 1 }
      let s := s.land r.core r.slot r.hold r.dst ⟨8, false⟩ (some (leBytes 8 n))
      let i := recC r.bytes
      let s := if writesTile r.bytes then
          let o := s.ownerAt k r.part
          (s.setOwner k r.part { o with used := o.used ||| BitVec.twoPow 16 i }).setApp k (16 * r.part + i) (some r.hdrC)
        else s
      some (if recType r.bytes = 1 then s.modBpos k (recPos r.bytes) fun b => { b with appHdr := some r.hdrC, appLdb := r.order } else s)

/-- MATRIX_RECORD_ACCEPT (R280): the context `sub` of cluster `unit`. -/
def execMatrixRecordAccept (s : State) : Host.Outcome State Fault Refusal := event s (s.mxAccept s.ctl.here.unit s.ctl.here.sub)

/-- The record reads memory, so it waits for the slot's stores before its append (R269). -/
def readsMem (bs : List Byte) : Bool := recType bs = 1 || recType bs = 5 || (isMma bs && !recFlag bs 7)

/-- An accepted record may start (R179, R269, R279, R281, R488). `earlier` are the records appended before it in its context; they are all complete, with
their writes performed, when the context's counter has reached the last of them. -/
def State.mxStarts (s : State) (k : Nat) (x : MxCtx) (r : MxRec) (earlier : List MxRec) : Bool :=
  let t := recType r.bytes
  !r.running && !(x.err && x.ecmd ≤ r.num) && x.stall = none && x.waits = none &&
  (!recFlag r.bytes 0 || (earlier = [] && r.num ≤ x.count + 1 &&
    (match s.timeline r.hold (recW r.bytes 8 4) with | .ok l => recW r.bytes 16 8 ≤ l.count | .error _ => false))) &&
  earlier.all (fun e => !(namesTile r.bytes && e.part = r.part && recC e.bytes = recC r.bytes) &&
    !(namesPos r.bytes && namesPos e.bytes && recPos e.bytes = recPos r.bytes)) &&
  (!readsMem r.bytes || r.drainTo ≤ (s.slotAt r.core r.slot).drained) &&
  (!isMma r.bytes || (s.bpos k (recPos r.bytes)).ldb = r.ldb) &&
  (t ≠ 1 || (s.mxRecs k).all fun e => !(namesPos e.bytes && recPos e.bytes = recPos r.bytes && e.order < r.order))

/-- The numbers of a context's records that may start. -/
def State.mxReady (s : State) (k c : Nat) : List Nat :=
  let x := s.mctx (k * 4 + c)
  (List.range x.queue.length).filterMap fun i =>
    match x.queue[i]? with
    | some r => if s.mxStarts k x r (x.queue.take i) then some r.num else none
    | none => none

/-- MATRIX_RECORD_START (R282): one record of the cluster, from the contexts by a rotating pointer. -/
def execMatrixRecordStart (s : State) : Host.Outcome State Fault Refusal :=
  let k := s.ctl.here.unit
  let first := Tab.get 0 s.en.served k
  event s (match ((List.range 4).map fun i => (first + i) % 4).find? fun c => s.mxReady k c ≠ [] with
    | none => none
    | some c =>
      let l := s.mxReady k c
      let (i, s) := s.choose l.length
      let s := { s with en := { s.en with served := Tab.set 0 s.en.served k ((c + 1) % 4) } }
      let (b, s) := s.newId
      some (s.modRec (k * 4 + c) (l.getD i 0) fun r => { r with running := true, begun := b }))

/-! ### Execution (R439) -/

/-- The context at work on a record. -/
def MxRec.eng (r : MxRec) (key : Nat) : Eng := ⟨true, key, r.num, ⟨r.core, r.slot, r.hold, r.rgn, r.launch, r.sg, r.stkc, r.sovf⟩⟩

/-- Read bytes unit by unit, going on where the record waited. -/
def recReads (x : Eng) (num : Nat) (r : Ref) (a len : Nat) : Nat → State → E (List Byte × State)
  | 0, s => .ok ([], s)
  | fuel + 1, s =>
    let buf := ((s.mxRec x.key num).map (·.buf)).getD []
    if len ≤ buf.length then .ok (buf.take len, s)
    else do
      let k := min (len - buf.length) (128 - (a + buf.length) % 128)
      let u := (s.engPaid x).2
      let (d, s) ← engRead x (r.add buf.length) k s
      recReads x num r a len fuel (((s.modRec x.key num fun e => { e with buf := e.buf ++ d }).dropEng x).engSettle x u)

/-- Write bytes unit by unit, going on where the record waited; `obj` is the object whose INB they count (R288). -/
def recWrites (x : Eng) (num : Nat) (r : Ref) (a : Nat) (data : List Byte) (obj : Option Nat) : Nat → State → E State
  | 0, s => .ok s
  | fuel + 1, s =>
    let pos := ((s.mxRec x.key num).map (·.pos)).getD 0
    if data.length ≤ pos then .ok s
    else do
      let k := min (data.length - pos) (128 - (a + pos) % 128)
      let u := (s.engPaid x).2
      let (at_, s) ← engWrite x (r.add pos) ((data.drop pos).take k) s
      let s := (s.engSettle x u).engLanded x.who.hold x.who.rgn at_ k true obj
      recWrites x num r a data obj fuel (s.modRec x.key num fun e => { e with pos := e.pos + k })

/-- The address behind a pointer of an engine, for its alignment in lines. -/
def State.engAddr (s : State) (x : Eng) (r : Ref) : Nat :=
  match s.reach x.who r 1 1 {} with
  | .ok (.win _ off) => off
  | .ok (.mva a) => a
  | .error _ => r.off.toNat

/-- The tile that a record reads, its header checked against the one that the record carries (R438). -/
def srcTile (x : Eng) (r : MxRec) (s : State) : E (List Byte × State) := do
  let len := (hdrOfBits r.hdrA).len
  let p := refOf (recAddr r.bytes) 0
  let (bs, s) ← (if isMma r.bytes && recFlag r.bytes 7 then
      .ok ((s.tileAt r.core (bits (recAddr r.bytes).toNat 3 0)).take len, s)
    else recReads x r.num p (s.engAddr x p) len 40 s : E (List Byte × State))
  if hdrBits bs ≠ r.hdrA || !chkOk bs then .error (.bad 0x30 0 (recAddr r.bytes) s) else .ok (bs, s)

/-- The values of a tile at execution, none for a position that 2:4 data does not store (R236); a stream that does not decode stops
the context (R237). -/
def engNums (bs : List Byte) (addr : Word) (s : State) : E (List (Option ExtNum)) :=
  match tileNums (hdrOf bs) bs, tileCodes (hdrOf bs) bs with
  | some xs, some cs => .ok ((xs.zip cs).map fun (x, c) => if c.isSome then some x else none)
  | _, _ => .error (.bad 0x33 0 addr s)

/-- An integer behind a decoded number. -/
def numInt : ExtNum → Int
  | .fin n m e => if n then -((m : Int) * 2 ^ e.toNat) else (m : Int) * 2 ^ e.toNat
  | _ => 0

/-- One term of a product: positions that 2:4 data does not store contribute +0 (R247). -/
def productTerm (p : Option ExtNum × Option ExtNum) : ExtNum :=
  match p with
  | (some a, some b) => ExtNum.mul a b
  | _ => .zero false

/-- One element of a product (R247, R248): row of A, column of B, the old value. -/
def productEl (efmt g : Nat) (sat : Bool) (old : BitVec 32) (ps : List (Option ExtNum × Option ExtNum)) : BitVec 32 :=
  if efmt = 1 then
    BitVec.ofNat 32 ((chunks g ps.length ps).foldl (fun acc grp =>
      encodeNum 1 .rne false 0 (ExtNum.add .rne (decodeNum 1 acc) (sumGroup (grp.map productTerm)))) old.toNat)
  else
    let v := sgnNat 32 old.toNat + (ps.map fun (a, b) => numInt (a.getD (.zero false)) * numInt (b.getD (.zero false))).foldl (· + ·) 0
    BitVec.ofInt 32 (if sat then clampInt (intLo 32 true) (intHi 32 true) v else v)

/-- The elements of a product of A (n by k) and B (k by c). -/
def product (efmt g : Nat) (sat : Bool) (n kk c : Nat) (a b : List (Option ExtNum)) (old : List (BitVec 32)) : List (BitVec 32) :=
  (List.range (n * c)).map fun e =>
    productEl efmt g sat (old.getD e 0) ((List.range kk).map fun q => (a.getD (e / c * kk + q) none, b.getD (q * c + e % c) none))

/-- ZERO (R439). -/
def runZero (x : Eng) (r : MxRec) (s : State) : E State :=
  let k := x.key / 4
  let t := 16 * r.part + recC r.bytes
  .ok ((s.setAccEls k t (List.replicate 1024 0)).setAccHdr k t (some r.hdrC))

/-- LDB (R439): the tile stands in its position with its header and scales, decoded. -/
def runLdb (x : Eng) (r : MxRec) (s : State) : E State := do
  let (bs, s) ← srcTile x r s
  let a := hdrOf bs
  match tileCodes a bs with
  | none => .error (.bad 0x33 0 (recAddr r.bytes) s)
  | some cs =>
    let data := packBytes (fmtWidth a.efmt) (16 * (hdrOfBits r.hdrC).dlen) (dataOrder a 0 (cs.map fun c => c.getD 0))
    .ok (s.modBpos (x.key / 4) (recPos r.bytes) fun b =>
      { b with hdr := some r.hdrC, data := data ++ scaleArea a bs, holes := cs.map (·.isNone), ldb := r.order })

/-- MMA and MMAS (R439). -/
def runMma (x : Eng) (r : MxRec) (s : State) : E State := do
  let (bs, s) ← srcTile x r s
  let k := x.key / 4
  let t := 16 * r.part + recC r.bytes
  let p := s.bpos k (recPos r.bytes)
  match p.hdr with
  | none => .error (.bad 0x33 0 0 s)
  | some hb =>
    let tb := leBytes 16 hb.toNat ++ p.data
    let a ← engNums bs (recAddr r.bytes) s
    let b ← engNums tb 0 s
    let b := (b.zip (List.range b.length)).map fun (x, i) => if p.holes.getD i false then none else x
    let ha := hdrOf bs
    let c := hdrOfBits r.hdrC
    let g := ((mulFmt ha.efmt (hdrOfBits hb).efmt).getD (1, 8)).2
    let n := c.n * c.c
    let old := if recNew r.bytes then [] else s.accEls k t n
    let v := product c.efmt g (recFlag r.bytes 1) c.n ha.c c.c a b old
    let s := s.setAccEls k t (if recNew r.bytes then v ++ List.replicate (1024 - n) 0 else v)
    .ok (if recNew r.bytes || (s.accHdr k t).isNone then s.setAccHdr k t (some r.hdrC) else s)

/-- The codes of a drain in its target format (R287). -/
def drainCodes (r : MxRec) (acc f : Nat) (xs : List (BitVec 32)) : List Nat :=
  if f = acc then xs.map (·.toNat)
  else if f = 9 then
    xs.map fun v => if recFlag r.bytes 1 then intCode 8 (clampInt (-128) 127 (sgnNat 32 v.toNat)) else v.toNat % 256
  else
    let rm := rmOf r.mode 0
    (drawAll (rm = .rsto) (encElem f rm (recFlag r.bytes 1) (if r.nsat then 8 else 0)) r.seed (xs.map fun v => decodeNum 1 v.toNat)).1

/-- The agent as it reaches another core's window by a window offset: the segments do not matter. -/
def Who.atCore (w : Who) (core : Nat) : Who := { w with core := core }

/-- DRAIN (R287-R290, R439): the destination is checked again, the tile is written, and a wake goes out. -/
def runDrain (x : Eng) (r : MxRec) (s : State) : E State := do
  let k := x.key / 4
  let t := 16 * r.part + recC r.bytes
  let c := hdrOfBits ((s.accHdr k t).getD r.hdrC)
  let f := if recDfmt r.bytes = 0 then c.efmt else recDfmt r.bytes
  let h := drainHdr c f
  let (core, off) := recDst r.bytes
  let tile := h.pack ++ packBytes (fmtWidth f) (16 * h.dlen) (drainCodes r c.efmt f (s.accEls k t (c.n * c.c)))
  if !(s.hplot r.hold).covers core || s.winSize r.hold < off + tile.length then .error (.bad 0x16 0 (BitVec.ofNat 64 off) s)
  else
    let y : Eng := { x with who := x.who.atCore core }
    let s ← recWrites y r.num ⟨0, (off : Nat)⟩ off tile (if recFlag r.bytes 6 then some (recBoff r.bytes) else none) 40 s
    .ok (if recFlag r.bytes 5 then
        { s with en := { s.en with wakes := s.en.wakes ++
          [(⟨clusterOf core, core, r.hold, recW r.bytes 0x28 8, BitVec.ofNat 64 (recW r.bytes 0x30 8), r.rgn, false⟩ : WakeReq)] } }
      else s)

/-- LDACC (R439). -/
def runLdacc (x : Eng) (r : MxRec) (s : State) : E State := do
  let (bs, s) ← srcTile x r s
  let k := x.key / 4
  let t := 16 * r.part + recC r.bytes
  .ok ((s.setAccEls k t (words32 (bs.drop 16))).setAccHdr k t (some r.hdrA))

/-- STACC (R439): header and data, header first. -/
def runStacc (x : Eng) (r : MxRec) (s : State) : E State :=
  let k := x.key / 4
  let t := 16 * r.part + recC r.bytes
  let h := (s.accHdr k t).getD r.hdrC
  let p := refOf (recAddr r.bytes) 0
  let data := leBytes 16 h.toNat ++ (s.accBytes k t).take (16 * (hdrOfBits h).dlen)
  recWrites x r.num p (s.engAddr x p) data none 40 s

/-- A running record of another context that names the same accumulator tile, and started earlier, takes effect first (R282). A stopped context's
records take none. -/
def State.startedBefore (s : State) (k : Nat) (r : MxRec) : Bool :=
  namesTile r.bytes && (List.range 4).any fun c =>
    let x := s.mctx (k * 4 + c)
    x.queue.any fun e => e.running && e.begun < r.begun && namesTile e.bytes && e.part = r.part && recC e.bytes = recC r.bytes &&
      !(x.err && x.ecmd ≤ e.num)

/-- A record that has started takes its effect, and leaves its context's queue when that is done (R439, R277). A record
that cannot go on waits, stalls its context or stops it (R179, R279, R295). `pos` of the place counts the context's running records
of the type. -/
def State.runRec (s : State) (ty : Nat → Bool) (run : Eng → MxRec → State → E State) : Option State :=
  let key := s.ctl.here.unit * 4 + s.ctl.here.sub
  let c := s.mctx key
  let l := c.queue.filter fun r => r.running && ty (recType r.bytes) && c.stall = none && !(c.err && c.ecmd ≤ r.num) &&
    (c.waits = none || c.waits = some r.num)
  match l[s.ctl.here.pos]? with
  | none => none
  | some r =>
    let x := r.eng key
    if s.startedBefore (key / 4) r then none
    else
      some (match run x r (s.engWaits x none) with
        | .ok s => (s.dropEng x).modMctx key fun c => { c with queue := c.queue.filter fun e => e.num ≠ r.num }
        | .error e => engFail x r.num e)

/-- ZERO (R439). -/
def execZeroRec (s : State) : Host.Outcome State Fault Refusal := event s (s.runRec (· = 0) runZero)
/-- LDB (R439). -/
def execLdbRec (s : State) : Host.Outcome State Fault Refusal := event s (s.runRec (· = 1) runLdb)
/-- MMA (R439). -/
def execMmaRec (s : State) : Host.Outcome State Fault Refusal := event s (s.runRec (· = 2) runMma)
/-- MMAS (R439). -/
def execMmasRec (s : State) : Host.Outcome State Fault Refusal := event s (s.runRec (· = 3) runMma)
/-- DRAIN (R287). -/
def execDrainRec (s : State) : Host.Outcome State Fault Refusal := event s (s.runRec (· = 4) runDrain)
/-- LDACC (R439). -/
def execLdaccRec (s : State) : Host.Outcome State Fault Refusal := event s (s.runRec (· = 5) runLdacc)
/-- STACC (R439). -/
def execStaccRec (s : State) : Host.Outcome State Fault Refusal := event s (s.runRec (· = 6) runStacc)
/-- WAIT (R281). -/
def execWaitRec (s : State) : Host.Outcome State Fault Refusal := event s (s.runRec (· = 7) fun _ _ s => .ok s)

/-! ### Timelines and restarts (R269, R277, R279) -/

/-- The number up to which every command of a context has completed. -/
def doneTo (last : Nat) (nums : List Nat) : Nat :=
  match nums with
  | [] => last
  | n :: l => l.foldl min n - 1

/-- Flushes that an engine context waits for (R63): the tag by which a peer's answer names it. -/
def engFlush (mx : Bool) (key : Nat) : Nat := 2 ^ 20 + key + (if mx then 2 ^ 20 else 0)

/-- A flush of the context is outstanding. -/
def State.engFlushing (s : State) (mx : Bool) (key : Nat) : Bool := s.net.flushes.any fun x => x.key = engFlush mx key

/-- Ask the peers that a context has written for a flush (R63, R269); peers that it writes from now on are asked anew. -/
def State.askEng (s : State) (mx : Bool) (key : Nat) (peers : List Nat) : State :=
  let s := if mx then s.modMctx key fun c => { c with peers := [] } else s.modCctx key fun c => { c with peers := [] }
  { s with net := { s.net with flushes := s.net.flushes ++ peers.map fun p => (⟨p, engFlush mx key, false⟩ : Flush) } }

/-- TIMELINE_ADVANCE (R269): the counter of copy context (`pos` 0) or matrix context (`pos` 1) `sub` reaches the last number up
to which every command has completed, once its writes to the host have left their port and peers have applied theirs (R255, R63). -/
def execTimelineAdvance (s : State) : Host.Outcome State Fault Refusal :=
  let key := s.ctl.here.unit * 4 + s.ctl.here.sub
  if s.ctl.here.pos = 1 then
    let x := s.mctx key
    let n := doneTo x.last (x.queue.map (·.num))
    event s (if n ≤ x.count || s.engFlushing true key || s.sending (· = .eng true key) then none
      else if x.peers ≠ [] then some (s.askEng true key x.peers)
      else some (s.modMctx key fun x => { x with count := n }))
  else
    let x := s.cctx key
    let n := doneTo x.last (x.queue.map (·.num))
    event s (if n ≤ x.count || s.engFlushing false key || s.sending (· = .eng false key) then none
      else if x.peers ≠ [] then some (s.askEng false key x.peers)
      else some (s.modCctx key fun x => { x with count := n }))

/-- COPY_COMMAND_ACCEPT (R291): a context takes its oldest waiting command; OUTB rises by the bytes that it will write. -/
def State.copyAccept (s : State) (key : Nat) (bytes : State → CopyCmd → Nat) : Option State :=
  let x := s.cctx key
  match x.wait with
  | [] => none
  | c :: rest =>
    if 16 ≤ x.queue.length then none
    else
      let s := s.modCctx key fun x => { x with wait := rest, last := x.last + 1, queue := x.queue ++ [{ c with num := x.last + 1 }] }
      let s := s.modSlotAt (key / 4) c.slot fun v => { v with cp := v.cp - 1 }
      some (if c.ob then s.updObj (key / 4) c.hold c.boff c.rgn (BarObj.outAdd (bytes s c)) else s)

/-- The stopped command of a context and every command behind it are abandoned (R279); those that still waited for a place take their
numbers first (DEDUCED, log entry 77). `fuel` is the number of these. -/
def State.giveUp (s : State) (mx : Bool) (key : Nat) (bytes : State → CopyCmd → Nat) : Nat → State
  | 0 => if mx then s.modMctx key fun x => { x with queue := x.queue.filter fun r => r.num < x.ecmd }
    else s.modCctx key fun x => { x with queue := x.queue.filter fun r => r.num < x.ecmd }
  | fuel + 1 =>
    let s := s.giveUp mx key bytes fuel
    let s := ((if mx then s.mxAccept (key / 4) (key % 4) else s.copyAccept key bytes).getD s)
    if mx then s.modMctx key fun x => { x with queue := x.queue.filter fun r => r.num < x.ecmd }
    else s.modCctx key fun x => { x with queue := x.queue.filter fun r => r.num < x.ecmd }

/-- A stopped context is restarted (R279): the stopped command and those behind it are abandoned, and the counter reads the
last number. A stalled context walks again; anything else is left alone (R462). -/
def State.restart (s : State) (mx : Bool) (key : Nat) (bytes : State → CopyCmd → Nat) : State :=
  if mx then
    if (s.mctx key).err then
      (s.giveUp mx key bytes (s.mctx key).wait.length).modMctx key fun x =>
        { x with count := x.last, err := false, cause := 0, ecmd := 0, stall := none, waits := none, got := [] }
    else s.rewalk mx key
  else if (s.cctx key).err then
    (s.giveUp mx key bytes (s.cctx key).wait.length).modCctx key fun x =>
      { x with count := x.last, err := false, cause := 0, ecmd := 0, stall := none, susp := false, pos := 0, walk := [], got := [],
               unit := 0, units := [], paid := 0, used := 0, owed := 0 }
  else s.rewalk mx key

end Sys2Proof.Machine
end

