-- ==== Sys2Proof/Machine/Copy.lean ====
section
/-! DEFINITION. The copy engine (R245, R246, R291-R295, R442-R449). -/

namespace Sys2Proof.Machine

/-! ### Issue (R443) -/

/-- BOFF of IMM as a byte offset (R442). -/
def cpyBoff (f : Fields) : Nat := bits f.imm.toNat 19 5 * 16
/-- CTX of IMM (R442). -/
def cpyCtx (f : Fields) : Nat := bits f.imm.toNat 1 0

/-- The range of a copy against its segment (R195, R443): translation and leaf rights are checked at each sector. -/
def rangeM (s : State) (r : Ref) (n : Nat) (need : Need) : M Unit :=
  if n = 0 then .ok ()
  else if r.seg = 0 || r.seg = 7 then
    match s.reach s.who r n 1 need with
    | .error c => raise s c 0 r.word
    | .ok _ => .ok ()
  else
    let d := Tab.get 0 s.thr.sg r.seg
    if r.off < 0 || bits d.toNat 120 64 < r.off.toNat + n - 1 || 2 ^ 57 < bits d.toNat 56 0 + r.off.toNat + n then raise s 0x10 0 r.word
    else if !descOk d need then raise s 0x11 0 r.word
    else .ok ()

/-- Step 4 of R443: the context is the holding's. -/
def ctxOk (s : State) (f : Fields) : M Unit := if bit (s.hcctx s.thr.hold) (cpyCtx f) then .ok () else raise s 0x16
/-- Step 6 of R443: the objects lie in the window. -/
def boffOk (s : State) (f : Fields) : M Unit :=
  if (f.imm.getLsbD 3 || f.imm.getLsbD 4) && s.winSize s.thr.hold < cpyBoff f + 16 then raise s 0x14 else .ok ()
/-- Step 7 of R443: a length above 2^32 - 1 faults SEGLIM. -/
def lenOk (s : State) (r : Ref) (n : Nat) : M Unit := if 2 ^ 32 ≤ n then raise s 0x10 0 r.word else .ok ()

/-- The checks have passed: the command counts in CP and waits for its context (R443). -/
def enqueueCopy (s : State) (f : Fields) (kind : CopyKind) (dst src : Word) (len : Nat) (body : List Byte) : M Fin :=
  if 63 ≤ s.slot.cp then stay s
  else
    let s := s.pin
    let t := s.thr
    let c : CopyCmd :=
      { num := 0, kind := kind, dst := dst, src := src, len := len, body := body, irq := f.imm.getLsbD 2, ib := f.imm.getLsbD 3
        ob := f.imm.getLsbD 4, boff := cpyBoff f, hold := t.hold, rgn := t.rgn, ctxid := t.ctxid, slot := s.slotNo
        launch := t.launch, sg := t.sg, stkc := t.stkc, sovf := t.sovf, drainTo := s.slot.issued }
    let s := s.modCctx (s.core * 4 + cpyCtx f) fun x => { x with wait := x.wait ++ [c] }
    .ok (.step (s.modSlot fun v => { v with cp := v.cp + 1 }))

/-- CPY (R444). -/
def execCpy (f : Fields) (s : State) : Host.Outcome State Fault Refusal :=
  issue (.cpy f) s fun f s => do
    ctxOk s f
    boffOk s f
    let n := (s.g f.b).toNat
    let src := refOf (s.g f.a) 0
    let dst := refOf (s.g f.d) 0
    lenOk s src n
    rangeM s src n { r := true }
    rangeM s dst n { w := true }
    enqueueCopy s f .lin (s.g f.d) (s.g f.a) n []

/-- The range that a shape's offsets span from a pointer, in bytes (R444). -/
def shapeRange (s : State) (h : Shape) (r : Ref) (need : Need) : M Unit :=
  if h.count = 0 then .ok ()
  else
    let (lo, hi) := h.lowHigh
    let wb := h.w / 8
    rangeM s (r.add (lo * wb)) ((hi - lo).toNat * wb + wb) need

/-- CPYS (R444). -/
def execCpys (f : Fields) (s : State) : Host.Outcome State Fault Refusal :=
  issue (.cpys f) s fun f s => do
    ctxOk s f
    let p := s.g f.b
    let bs0 := s.slot.unit
    let (h, s) ← readShape s p
    let bytes := s.slot.resume.data.getD bs0 []
    if h.w < 8 then raise s 0x33 0 p
    else
      boffOk s f
      let dir := f.imm.getLsbD 20
      let n := h.count * (h.w / 8)
      let src := refOf (s.g f.a) 0
      let dst := refOf (s.g f.d) 0
      lenOk s src n
      if dir then
        rangeM s src n { r := true }
        shapeRange s h dst { w := true }
      else
        shapeRange s h src { r := true }
        rangeM s dst n { w := true }
      enqueueCopy s f (.shaped dir) (s.g f.d) (s.g f.a) n bytes

/-- CPYM (R292, R445). -/
def execCpym (f : Fields) (s : State) : Host.Outcome State Fault Refusal :=
  issue (.cpym f) s fun f s => do
    ctxOk s f
    boffOk s f
    let n := (s.g f.b).toNat
    let src := refOf (s.g f.a) 0
    let dst := refOf (s.g f.d) 0
    lenOk s src n
    rangeM s src n { r := true }
    if dst.seg ≠ 0 then raise s 0x16 0 dst.word
    else
      let mask := f.imm.extractLsb' 20 4
      let bad := (List.range 4).filter fun q => mask.getLsbD q &&
        (!(s.hplot s.thr.hold).covers (coreOf (clusterOf s.core) q) || s.winSize s.thr.hold < dst.off.toNat + n)
      if bad ≠ [] then raise s 0x60 ((bad.map fun q => 2 ^ q).foldl (· + ·) 0)
      else enqueueCopy s f (.multi mask) (s.g f.d) (s.g f.a) n []

/-- The tensor identifier table entry at an MVA, read at issue as a load with right R (R443). -/
def tableEntry (s : State) (mva : Nat) : M (List Byte × State) :=
  unitOnce s fun s => do
    let addr := BitVec.ofNat 64 mva
    let (parts, s) ← transParts s s.thr.hold (clusterOf s.core) mva 128 { r := true } addr
    clearWay s parts
    s.sendRead (cutParts 8 parts 0) 128 1 addr 0

/-- A tensor identifier's entry (R245). -/
structure Tensor where
  base  : Nat
  exts  : List Nat
  strs  : List Int
  sbase : Nat
  sstrs : List Int
  hdr   : Hdr
deriving DecidableEq, Repr

/-- A template that CPYT accepts (R246): CHK, DLEN, ROW0, COL0 and TID are ignored. -/
def templateOk (h : Hdr) : Bool :=
  let g : Hdr := { h with dlen := h.needDlen }
  h.kind = 0 && h.enc = 0 && g.wellFormed

/-- A tensor from its 128 bytes: none for V = 0 or a bad template (R245, R246). Other reserved bits are ignored (R5). -/
def Tensor.ofBytes (bs : List Byte) : Option Tensor :=
  let w0 := recW bs 0 8
  let h := Hdr.ofNat (recW bs 0x40 16)
  if !bit w0 63 || !templateOk h then none
  else
    some ⟨bits w0 56 0, (List.range 4).map fun i => recW bs (8 + 2 * i) 2, (List.range 4).map fun i => sgnNat 32 (recW bs (0x10 + 4 * i) 4),
      bits (recW bs 0x20 8) 56 0, (List.range 4).map fun i => sgnNat 32 (recW bs (0x28 + 4 * i) 4), h⟩

/-- The origin of CPYT: row, column, d2, d3 (R442). -/
def originOf (w : Word) : Nat × Nat × Nat × Nat := (bits w.toNat 15 0, bits w.toNat 31 16, bits w.toNat 47 32, bits w.toNat 63 48)

/-- The header of the tile that CPYT extracts (R246): its dimensions stop at the tensor's edge. -/
def Tensor.tile (t : Tensor) (o : Nat × Nat × Nat × Nat) (id : Nat) : Hdr :=
  let h : Hdr := { t.hdr with n := min t.hdr.n (t.exts.getD 1 0 - o.1), c := min t.hdr.c (t.exts.getD 0 0 - o.2.1), row0 := o.1, col0 := o.2.1, tid := id }
  { h with dlen := h.needDlen }

/-- CPYT (R246, R446): the entry and the origin are kept for the sectors. -/
def execCpyt (f : Fields) (s : State) : Host.Outcome State Fault Refusal :=
  issue (.cpyt f) s fun f s => do
    ctxOk s f
    let id := bits (s.g f.a).toNat 11 0
    if id = 0 then raise s 0x33
    else
      let at_ := s.hword s.thr.hold 0x98 + 128 * id
      let (bs, s) ← tableEntry s at_
      match Tensor.ofBytes bs with
      | none => raise s 0x33 0 (BitVec.ofNat 64 at_)
      | some t =>
        let o := originOf (s.g f.b)
        if t.exts.getD 1 0 ≤ o.1 || t.exts.getD 0 0 ≤ o.2.1 || t.exts.getD 2 0 ≤ o.2.2.1 || t.exts.getD 3 0 ≤ o.2.2.2 then raise s 0x33
        else
          boffOk s f
          let dst := refOf (s.g f.d) 0
          let len := (t.tile o id).len
          if bits (s.g f.d).toNat 3 0 ≠ 0 then raise s 0x14 0 dst.word
          else
            rangeM s dst len { w := true }
            enqueueCopy s f .tensor (s.g f.d) (s.g f.b) len (bs ++ leBytes 2 id)

/-- CPYG (R294, R447). -/
def execCpyg (f : Fields) (s : State) : Host.Outcome State Fault Refusal :=
  issue (.cpyg f) s fun f s => do
    ctxOk s f
    let p := s.g f.a
    if bits p.toNat 63 61 ≠ 0 then raise s 0x33 0 p
    else
      let (bs, s) ← unitRd kLD { r := true } s (refOf p 0) 64 64
      let fmt := recW bs 0x20 8
      let first := recW bs 0x18 4
      let last := recW bs 0x1C 4
      if 63 < fmt || fmtWidth fmt < 8 || recW bs 0x38 8 ≠ 0 then raise s 0x33 0 p
      else if recW bs 0 8 % 4 ≠ 0 then raise s 0x14 0 (BitVec.ofNat 64 (recW bs 0 8))
      else if recW bs 0x28 8 % 8 ≠ 0 then raise s 0x14 0 (BitVec.ofNat 64 (recW bs 0x28 8))
      else if recW bs 0x30 8 % (fmtWidth fmt / 8) ≠ 0 then raise s 0x14 0 (BitVec.ofNat 64 (recW bs 0x30 8))
      else
        boffOk s f
        let rp := refOf (BitVec.ofNat 64 (recW bs 0 8)) (4 * (first : Int))
        if first ≤ last then rangeM s rp (4 * (last - first + 2)) { r := true } else .ok ()
        enqueueCopy s f .gather (BitVec.ofNat 64 (recW bs 0x28 8)) (BitVec.ofNat 64 (recW bs 0 8)) 0 bs

/-- The index shape of CPYX and CPYA (R448). -/
def indexShape (s : State) (p : Word) : M (Shape × List Byte × State) := do
  let u := s.slot.unit
  let (h, s) ← readShape s p
  if h.q || h.exts.length ≠ 1 || !([9, 10, 12].contains h.efmt) then raise s 0x33 0 p
  else .ok (h, s.slot.resume.data.getD u [], s)

/-- CPYX (R448). -/
def execCpyx (f : Fields) (s : State) : Host.Outcome State Fault Refusal :=
  issue (.cpyx f) s fun f s => do
    ctxOk s f
    let (h, bs, s) ← indexShape s (s.g f.b)
    boffOk s f
    shapesIn s [h]
    let n := szBytes (mdSz f.md)
    rangeM s (refOf (s.g f.a) 0) (h.count * n) { r := true }
    enqueueCopy s f (.scatter n) (s.g f.d) (s.g f.a) (h.count * n) bs

/-- CPYA (R293, R449). -/
def execCpya (f : Fields) (s : State) : Host.Outcome State Fault Refusal :=
  issue (.cpya f) s fun f s => do
    ctxOk s f
    let (h, bs, s) ← indexShape s (s.g f.b)
    boffOk s f
    shapesIn s [h]
    let n := szBytes (mdSz f.md)
    rangeM s (refOf (s.g f.a) 0) (h.count * n) { r := true }
    enqueueCopy s f (.reduce f.fn.toNat n) (s.g f.d) (s.g f.a) (h.count * n) bs

/-! ### Acceptance -/

/-- The context at work on a copy command. -/
def CopyCmd.eng (c : CopyCmd) (key : Nat) : Eng := ⟨false, key, c.num, ⟨key / 4, c.slot, c.hold, c.rgn, c.launch, c.sg, c.stkc, c.sovf⟩⟩

/-! ### Sectors (R291) -/

/-- The part of a linear destination at address `a` that sector `i` covers: its offset and length. -/
def sector (a len i : Nat) : Nat × Nat :=
  let first := min len (128 - a % 128)
  if i = 0 then (0, first) else (first + 128 * (i - 1), min 128 (len - (first + 128 * (i - 1))))

/-- The number of sectors of a linear destination. -/
def sectors (a len : Nat) : Nat := if len = 0 then 0 else 1 + (len - min len (128 - a % 128) + 127) / 128

/-- The byte offset of element `k` of a shape from its pointer (R243, R444). -/
def Shape.byteAt (h : Shape) (k : Nat) : Int := strideSum h.exts h.strs k * (h.w / 8 : Nat)

/-- The shape that a command keeps. -/
def CopyCmd.shape (c : CopyCmd) : Shape := (Shape.ofBytes 0 c.body).getD ⟨false, 9, 0, [0], [0], 0⟩

/-- Elements per sector of a scattered command: 16, or a line's worth of a shaped one. -/
def CopyCmd.perSector (c : CopyCmd) : Nat :=
  match c.kind with
  | .shaped _ => 128 / (c.shape.w / 8)
  | _ => 16

/-- The destination address of a command, for its lines. -/
def State.dstAddr (s : State) (x : Eng) (c : CopyCmd) : Nat := s.engAddr x (refOf c.dst 0)

/-- Buffers of CPYG: the length of the index buffer and of the value buffer for a count (R294). -/
def gatherLens (c : CopyCmd) (count : Nat) : Nat × Nat := (8 + 4 * count, count * (fmtWidth (recW c.body 0x20 1) / 8))

/-- The sectors of a command; of CPYG once its rows have been walked. -/
def State.copySectors (s : State) (x : Eng) (c : CopyCmd) (walk : List Nat) : Nat :=
  match c.kind with
  | .lin | .multi _ | .tensor | .shaped false => sectors (s.dstAddr x c) c.len
  | .gather =>
    let (n, m) := gatherLens c (walk.getD 1 0)
    sectors (s.dstAddr x c) n + sectors (s.engAddr x (refOf (BitVec.ofNat 64 (recW c.body 0x30 8)) 0)) m
  | _ => (c.shape.count + c.perSector - 1) / c.perSector

/-- OUTB falls as bytes are performed (R291); those of a command with writes that are on their way to the host or to a peer fall
when it completes (R269). -/
def State.performed (s : State) (x : Eng) (c : CopyCmd) (at_ : Option (Nat × Nat)) (n : Nat) : State :=
  if !c.ob then s
  else if at_.isNone && (s.sending (· = x.sender) || (s.cctx x.key).peers ≠ []) then s.modCctx x.key fun y => { y with owed := y.owed + n }
  else s.updObj (x.key / 4) c.hold c.boff c.rgn (BarObj.outSub n)

/-- The object that counts INB, where the command names one. -/
def CopyCmd.inObj (c : CopyCmd) : Option Nat := if c.ib then some c.boff else none

/-- Write one piece of a destination: the line's full bit, INB and OUTB follow (R185, R291). -/
def copyPut (x : Eng) (c : CopyCmd) (r : Ref) (data : List Byte) (fe : Bool) (s : State) : E State := do
  let (at_, s) ← engWrite x r data s
  .ok ((s.engLanded c.hold c.rgn at_ data.length fe c.inObj).performed x c at_ data.length)

/-! ### Units of a sector (R181, R182) -/

/-- A read unit of the present sector: replayed when the sector has read it before it waited, otherwise performed and recorded. -/
def copyUnit (x : Eng) (k : State → E (List Byte × State)) (s : State) : E (List Byte × State) :=
  let y := s.cctx x.key
  let s := s.modCctx x.key fun y => { y with unit := y.unit + 1 }
  match y.units[y.unit]? with
  | some d => .ok (d, s)
  | none => do
    let u := (s.engPaid x).2
    let (d, s) ← k s
    .ok (d, (s.modCctx x.key fun y => { y with units := y.units ++ [d], got := [] }).engSettle x u)

/-- Read a range in units of its 128-byte lines. -/
def copySpan (x : Eng) (r : Ref) : List (Nat × Nat) → State → E (List Byte × State)
  | [], s => .ok ([], s)
  | (o, k) :: l, s => do
    let (d, s) ← copyUnit x (engRead x (r.add o) k) s
    let (e, s) ← copySpan x r l s
    .ok (d ++ e, s)

/-- An element of a sector: its number there, where it lies, the pointer that names it, its bytes. -/
structure El where
  ix   : Nat
  spot : Spot
  r    : Ref
  n    : Nat
deriving DecidableEq, Repr

/-- The core and window offset of an element. -/
def El.core? (e : El) : Option (Nat × Nat) := match e.spot with | .win core off => some (core, off) | .mva _ => none
/-- The window words of an element. -/
def El.words (e : El) : List Nat := match e.spot with | .win _ off => winWords off e.n | .mva _ => []

/-- The cores in which elements lie. -/
def elCores (l : List El) : List Nat := (l.filterMap fun e => e.core?.map (·.1)).eraseDups
/-- The elements that lie in a core. -/
def elsIn (l : List El) (core : Nat) : List El := l.filter fun e => (e.core?.map (·.1)) = some core
/-- The elements outside every scratchpad. -/
def elsFar (l : List El) : List El := l.filter fun e => e.core?.isNone

/-- One lookup decides for all the words that a sector touches in one core (R181, R182). -/
def setLook (l : List El) (s : State) (core hold kind : Nat) : E (List (Nat × Nat)) :=
  let addr := fun w => match l.find? fun e => e.words.contains w with
    | some e => wordAddr e.r ((e.core?.map (·.2)).getD 0) w
    | none => 0
  match s.unitLook core hold kind (sortNat (l.flatMap El.words)) with
  | .wait _ => .error (.tag s)
  | .trap sub w => .error (.bad 0x20 sub (addr w) s)
  | .redirMany w => .error (.bad 0x21 1 (addr w) s)
  | .redirect w => .error (.bad 0x21 0 (addr w) s)
  | .go acts => .ok acts

/-- The bytes of elements, one behind the other, by element. -/
def splitEls : List El → List Byte → List (Nat × List Byte)
  | [], _ => []
  | e :: l, d => (e.ix, d.take e.n) :: splitEls l (d.drop e.n)

/-- Read the elements that lie in cores, each core's as one unit. -/
def readCores (x : Eng) (l : List El) : List Nat → State → E (List (Nat × List Byte) × State)
  | [], s => .ok ([], s)
  | core :: cs, s => do
    let mine := elsIn l core
    let h := x.who.hold
    let (d, s) ← copyUnit x (fun s => do
      let acts ← setLook mine s core h kER
      if s.unitBad core h acts then .error (.bad (s.unitCode core h acts) 0 (mine.head?.map (·.r.word) |>.getD 0) s)
      else .ok (mine.flatMap fun e => s.unitRead core h ((e.core?.map (·.2)).getD 0) e.n acts, s.retag core h acts)) s
    let (r, s) ← readCores x l cs s
    .ok (splitEls mine d ++ r, s)

/-- Read the elements that lie in global memory, one by one. -/
def readFar (x : Eng) : List El → State → E (List (Nat × List Byte) × State)
  | [], s => .ok ([], s)
  | e :: l, s => do
    let (d, s) ← copyUnit x (engReadAt x e.r e.spot e.n) s
    let (r, s) ← readFar x l s
    .ok ((e.ix, d) :: r, s)

/-- Read the elements of a sector: their bytes in order. -/
def readSet (x : Eng) (l : List El) (s : State) : E (List (List Byte) × State) := do
  let (a, s) ← readCores x l (elCores l) s
  let (b, s) ← readFar x (elsFar l) s
  .ok (l.map fun e => (((a ++ b).find? fun p => p.1 = e.ix).map (·.2)).getD [], s)

/-- The places of elements that pointers name. -/
def elsOf (x : Eng) (n : Nat) (need : Need) (s : State) : List Ref → Nat → E (List El)
  | [], _ => .ok []
  | r :: l, i =>
    match s.reach x.who r n 1 need with
    | .error c => .error (.bad (engCause r c) 0 r.word s)
    | .ok p => do
      let t ← elsOf x n need s l (i + 1)
      .ok (⟨i, p, r, n⟩ :: t)

/-- Read the elements that pointers name, of `n` bytes each. -/
def readRefs (x : Eng) (n : Nat) (refs : List Ref) (s : State) : E (List (List Byte) × State) := do
  let l ← elsOf x n { r := true } s refs 0
  readSet x l s

/-- The receivers of a CPYM sector are all ready (R292). -/
def multiReady (x : Eng) (c : CopyCmd) (r : Ref) (n : Nat) : List Nat → State → E Unit
  | [], _ => .ok ()
  | core :: l, s => do
    let y : Eng := { x with who := x.who.atCore core }
    match s.reach y.who r n 1 { w := true } with
    | .ok (.win _ off) =>
      let _ ← engLook r s core c.hold kEW off n
      multiReady x c r n l s
    | _ => .error (.bad 0x16 0 r.word s)

/-- Write a sector at each receiver (R292). -/
def multiPut (x : Eng) (c : CopyCmd) (r : Ref) (data : List Byte) : List Nat → State → E State
  | [], s => .ok s
  | core :: l, s => do
    let (at_, s) ← engWrite { x with who := x.who.atCore core } r data s
    multiPut x c r data l ((s.engLanded c.hold c.rgn at_ data.length true c.inObj).performed x c at_ data.length)

/-- The place of a tensor element at a bit address (R245): an MVA of the holding, outside every segment. -/
def tensorEl (x : Eng) (i : Nat) (b : Int) (w : Nat) (s : State) : E El :=
  let o := (b % 8).toNat
  let n := (o + w + 7) / 8
  let a := b / 8
  let r : Ref := ⟨0, a⟩
  if a < 0 || 2 ^ 57 < a + n then .error (.bad 0x10 0 r.word s)
  else
    match s.spotOf x.who.hold a.toNat n with
    | .error c => .error (.bad c 0 r.word s)
    | .ok p => .ok ⟨i, p, r, n⟩

/-- The places of the tensor elements that are asked for, by their bit addresses. -/
def tensorPlaces (x : Eng) (w : Nat) (bitOf : Nat → Int) (s : State) : List Nat → E (List El)
  | [] => .ok []
  | k :: l => do
    let e ← tensorEl x k (bitOf k) w s
    let t ← tensorPlaces x w bitOf s l
    .ok (e :: t)

/-- Elements of a tensor at index offsets; those not asked for read 0. -/
def tensorEls (x : Eng) (base w : Nat) (ask : Nat → Bool) (idx : Nat → Int) (ks : List Nat) (s : State) : E (List Nat × State) := do
  let bitOf := fun k => 8 * (base : Int) + idx k * w
  let want := ks.filter ask
  let l ← tensorPlaces x w bitOf s want
  let (ds, s) ← readSet x l s
  let vals := want.zip ds
  .ok (ks.map fun k => match vals.find? fun p => p.1 = k with
    | some (_, d) => leNat d / 2 ^ (bitOf k % 8).toNat % 2 ^ w
    | none => 0, s)

/-- Block sizes (Br, Bc) of a tensor's scales (R245). -/
def scaleBlock (h : Hdr) : Nat × Nat :=
  match h.slay with
  | 2 => if h.cmaj then (32, 1) else (1, 32)
  | 3 => (1, 65536)
  | 4 => (65536, 1)
  | _ => (1, 1)

/-- The index of scale entry `q` of a tile at an origin, in scale entries (R230, R245). -/
def scaleOff (t : Tensor) (h : Hdr) (o : Nat × Nat × Nat × Nat) (q : Nat) : Int :=
  let (br, bc) := scaleBlock h
  let i := match h.slay with
    | 2 => if h.cmaj then q % ((h.n + 31) / 32) * 32 else q / ((h.c + 31) / 32)
    | 3 => q
    | _ => 0
  let j := match h.slay with
    | 2 => if h.cmaj then q / ((h.n + 31) / 32) else q % ((h.c + 31) / 32) * 32
    | 4 => q
    | _ => 0
  ((o.2.1 + j) / bc : Nat) * t.sstrs.getD 0 0 + ((o.1 + i) / br : Nat) * t.sstrs.getD 1 0 + o.2.2.1 * t.sstrs.getD 2 0 + o.2.2.2 * t.sstrs.getD 3 0

/-- The bytes `off` to `off + n - 1` of the tile that CPYT extracts; only the elements and scales in them are read (R246,
R446). -/
def tensorBytes (x : Eng) (c : CopyCmd) (off n : Nat) (s : State) : E (List Byte × State) :=
  match Tensor.ofBytes c.body with
  | none => .error (.bad 0x33 0 0 s)
  | some t => do
    let o := originOf c.src
    let h := t.tile o (recW c.body 128 2)
    let w := fmtWidth h.efmt
    let d0 := 128
    let d1 := d0 + 128 * h.dlen
    let sz := scaleSize h.sfmt
    let ask := fun e => decide (d0 + e * w < 8 * (off + n) ∧ 8 * off < d0 + (e + 1) * w)
    let askS := fun q => decide (d1 + 8 * q * sz < 8 * (off + n) ∧ 8 * off < d1 + 8 * (q + 1) * sz)
    let pos := fun e => if h.cmaj then (e % h.n, e / h.n) else (e / h.c, e % h.c)
    let idx := fun e =>
      let (i, j) := pos e
      ((o.2.1 + j : Nat) : Int) * t.strs.getD 0 0 + ((o.1 + i : Nat) : Int) * t.strs.getD 1 0 + o.2.2.1 * t.strs.getD 2 0 + o.2.2.2 * t.strs.getD 3 0
    let (els, s) ← tensorEls x t.base w ask idx (List.range (h.n * h.c)) s
    let (scs, s) ← tensorEls x t.sbase (8 * sz) askS (scaleOff t h o) (List.range h.entries) s
    .ok (((tileOf h els (scs.flatMap fun v => leBytes sz v)).drop off).take n, s)

/-- The first row pointer of CPYG that lies below the one before it (R294). -/
def rowFalls (bs : List Byte) : Nat → Option Nat
  | 0 => none
  | k + 1 =>
    match rowFalls bs k with
    | some i => some i
    | none => if leNat ((bs.drop (4 * (k + 1))).take 4) < leNat ((bs.drop (4 * k)).take 4) then some (k + 1) else none

/-- The rows of a CPYG are walked once: the first entry and the count (R294). -/
def gatherWalk (x : Eng) (c : CopyCmd) (s : State) : E (List Nat × State) :=
  let first := recW c.body 0x18 4
  let last := recW c.body 0x1C 4
  let known := (s.cctx x.key).walk
  if known ≠ [] then .ok (known, s)
  else if last < first then .ok ([0, 0], s)
  else do
    let r := refOf c.src (4 * (first : Int))
    let n := 4 * (last - first + 2)
    let (bs, s) ← copySpan x r (lineCuts (n + 1) (s.engAddr x r) 0 n) s
    match rowFalls bs (last - first + 1) with
    | some i => .error (.bad 0x33 0 (r.add (4 * (i : Int))).word s)
    | none =>
      let p0 := leNat (bs.take 4)
      .ok ([p0, leNat ((bs.drop (n - 4)).take 4) - p0], s.modCctx x.key fun y => { y with unit := 0, units := [] })

/-- The bytes that a command will write, over all its destinations (R443); those of CPYG by its rows. -/
def State.copyBytes (s : State) (x : Eng) (c : CopyCmd) : Nat :=
  match c.kind with
  | .multi m => c.len * popc m.toNat 4
  | .gather =>
    let (n, m) := gatherLens c ((s.cctx x.key).walk.getD 1 0)
    n + m
  | _ => c.len

/-- A CPYG that raises OUTB is accepted once its rows have been walked (R294, R443): the oldest command of an idle context, whose reads
see the slot's earlier stores (R269). One whose rows cannot be read is accepted and stops at its first sector (DESIGN CHOICE, log entry
82). -/
def State.gatherAccept (s : State) (key : Nat) (c : CopyCmd) : Option State :=
  let y := s.cctx key
  if y.err || y.susp || y.stall ≠ none || y.queue ≠ [] || (s.slotAt (key / 4) c.slot).drained < c.drainTo then none
  else
    let c := { c with num := y.last + 1 }
    let x := c.eng key
    match gatherWalk x c s with
    | .ok (walk, s) =>
      (s.modCctx key fun y => { y with walk := walk, got := [], unit := 0, units := [], paid := 0, used := 0 }).copyAccept key fun s c =>
        s.copyBytes (c.eng key) c
    | .error (.bad ..) => s.copyAccept key fun _ _ => 0
    | .error e => some (engFail x c.num e)

/-- COPY_COMMAND_ACCEPT (R291): context `sub` of core `unit` takes its oldest waiting command; OUTB rises. -/
def execCopyCommandAccept (s : State) : Host.Outcome State Fault Refusal :=
  let key := s.ctl.here.unit * 4 + s.ctl.here.sub
  event s (match (s.cctx key).wait with
    | [] => none
    | c :: _ => if c.kind = .gather && c.ob then s.gatherAccept key c else s.copyAccept key fun s c => s.copyBytes (c.eng key) c)

/-- The scratchpad line of a destination, where it has one. -/
def State.lineAt (s : State) (x : Eng) (r : Ref) : Option (Nat × Nat) :=
  match s.reach x.who r 1 1 {} with
  | .ok (.win core off) => some (core, off / 128)
  | _ => none

/-- One sector of CPYG: of the index buffer, then of the value buffer (R294, R447). A line at which the index buffer ends and the
value buffer begins becomes full with the values (R185). -/
def gatherSector (x : Eng) (c : CopyCmd) (i : Nat) (s : State) : E State := do
  let (walk, s) ← gatherWalk x c s
  let s := s.modCctx x.key fun y => { y with walk := walk }
  let p0 := walk.getD 0 0
  let count := walk.getD 1 0
  let (n, m) := gatherLens c count
  let ia := s.dstAddr x c
  let vd := BitVec.ofNat 64 (recW c.body 0x30 8)
  if i < sectors ia n then
    let (off, k) := sector ia n i
    let skip := if off < 8 then min k (8 - off) else 0
    let (d, s) ← copyUnit x (engRead x (refOf (BitVec.ofNat 64 (recW c.body 8 8)) (4 * (p0 : Int) + ((off + skip : Nat) : Int) - 8)) (k - skip)) s
    let r := refOf c.dst off
    let shared := match s.lineAt x r, s.lineAt x (refOf vd 0), s.lineAt x (refOf vd ((m - 1 : Nat) : Int)) with
      | some (a, l), some (b, l0), some (_, l1) => decide (m ≠ 0 ∧ a = b ∧ l0 ≤ l ∧ l ≤ l1)
      | _, _, _ => false
    copyPut x c r (((leBytes 8 count).drop off).take skip ++ d) (!shared) s
  else
    let va := s.engAddr x (refOf vd 0)
    let (off, k) := sector va m (i - sectors ia n)
    let wb := fmtWidth (recW c.body 0x20 1) / 8
    let (d, s) ← copyUnit x (engRead x (refOf (BitVec.ofNat 64 (recW c.body 0x10 8)) ((p0 * wb + off : Nat) : Int)) k) s
    copyPut x c (refOf vd off) d true s

/-! ### Scattered destinations (R293, R444, R448) -/

/-- The indices of an index shape, as the window holds them. -/
def State.indexPeek (s : State) (x : Eng) (h : Shape) (k : Nat) : Int :=
  let v := leNat (s.winBytes x.who.core x.who.hold (h.bitAt k / 8) (h.w / 8))
  if h.efmt = 10 then (v : Nat) else sgnNat h.w v

/-- Read the indices of elements as the engine does. -/
def readIdx (x : Eng) (h : Shape) (ks : List Nat) (s : State) : E (List Int × State) := do
  let (ds, s) ← readRefs x (h.w / 8) (ks.map fun k => ⟨0, (h.bitAt k / 8 : Nat)⟩) s
  .ok (ds.map fun d => if h.efmt = 10 then ((leNat d : Nat) : Int) else sgnNat h.w (leNat d), s)

/-- The destination pointer of element `k` of a scattered command. -/
def State.dstPeek (s : State) (x : Eng) (c : CopyCmd) (k : Nat) : Ref :=
  match c.kind with
  | .shaped _ => refOf c.dst (c.shape.byteAt k)
  | .scatter n | .reduce _ n => refOf c.dst (s.indexPeek x c.shape k * n)
  | _ => refOf c.dst 0

/-- No element from `k` on lands in the line: the write before it was the last to the line (R185). -/
def State.lastIn (s : State) (x : Eng) (c : CopyCmd) (line : Option (Nat × Nat)) (k : Nat) : Bool :=
  match line with
  | none => false
  | some _ => ((List.range c.shape.count).drop k).all fun j => s.lineAt x (s.dstPeek x c j) ≠ line

/-- Whether a destination is allowed: true, or denied; a page that is not resident stalls (R293). -/
def destOk (x : Eng) (r : Ref) (n : Nat) (need : Need) (s : State) : E (Bool × State) :=
  match s.reach x.who r n 1 need with
  | .error _ => .ok (false, s)
  | .ok (.win _ _) => .ok (true, s)
  | .ok (.mva a) =>
    match s.translate x.asker (clusterOf x.who.core) a need with
    | (.ok t, s) => .ok (!s.peerBad t, s)
    | (.error .nonres, s) => .error (.page a need.w s)
    | (.error .waits, s) => .error (.wait s)
    | (.error .perm, s) => .ok (false, s)

/-- The mask of denied destinations of a sector (R293). -/
def deniedMask (x : Eng) (n : Nat) (need : Need) : List Ref → Nat → State → E (Nat × State)
  | [], _, s => .ok (0, s)
  | r :: l, k, s => do
    let (ok, s) ← destOk x r n need s
    let (m, s) ← deniedMask x n need l (k + 1) s
    .ok ((if ok then 0 else 2 ^ k) + m, s)

/-- Combine or write one element that lies in a core, under its unit's actions. -/
def State.putEl (s : State) (x : Eng) (c : CopyCmd) (core : Nat) (acts : List (Nat × Nat)) (e : El) (d : List Byte) : State :=
  let off := (e.core?.map (·.2)).getD 0
  let h := x.who.hold
  match c.kind with
  | .reduce fn n =>
    (match (PqOp.atom fn n (BitVec.ofNat 64 (leNat d))).rmw (s.unitRead core h off n acts) with
     | some v => s.unitWrite core h off v acts x.who.rgn e.r.word
     | none => s)
  | _ => s.unitWrite core h off d acts x.who.rgn e.r.word

/-- The elements of a sector that lie in one core, put as one unit (R181, R182); lines of which no later element is left become
full (R185), and the object counts. `next` is the first element of the next sector. -/
def putCore (x : Eng) (c : CopyCmd) (next core : Nat) (mine : List (El × List Byte)) (s : State) : E State := asWrite do
  let els := mine.map (·.1)
  let h := x.who.hold
  let acts ← setLook els s core h kEW
  if (match c.kind with | .reduce .. => s.unitBad core h acts | _ => false) then
    .error (.bad (s.unitCode core h acts) 0 (els.head?.map (·.r.word) |>.getD 0) s)
  else
    let s := (mine.foldl (fun (s : State) p => s.putEl x c core acts p.1 p.2) s).retag core h acts
    let lines := sortNat (els.flatMap fun e => e.words.map (· / 16))
    let s := lines.foldl (fun (s : State) l => if s.lastIn x c (some (core, l)) next then s.setFe core h (128 * l) true else s) s
    let total := (els.map (·.n)).foldl (· + ·) 0
    let s := match c.inObj with
      | some o => s.updObj core h o x.who.rgn (BarObj.landed total)
      | none => s
    .ok (s.performed x c (some (core, 0)) total)

/-- An element of a sector that lies in global memory. -/
def putFar (x : Eng) (c : CopyCmd) (e : El) (d : List Byte) (s : State) : E State :=
  match c.kind with
  | .reduce fn n => do
    let (at_, s) ← engRmw x e.r (.atom fn n (BitVec.ofNat 64 (leNat d))) s
    .ok (s.performed x c at_ n)
  | _ => copyPut x c e.r d false s

/-- Put the units of a sector from the one at which it waited; `walk` counts those that are done. -/
def putUnits (x : Eng) (c : CopyCmd) : List (State → E State) → Nat → State → E State
  | [], _, s => .ok s
  | k :: l, i, s =>
    if i < (s.cctx x.key).walk.getD 0 0 then putUnits x c l (i + 1) s
    else do
      let u := (s.engPaid x).2
      let s ← k s
      putUnits x c l (i + 1) ((s.modCctx x.key fun y => { y with walk := [i + 1], got := [] }).engSettle x u)

/-- Put the elements of a sector: each core's as one unit, those in global memory one by one. -/
def putSet (x : Eng) (c : CopyCmd) (next : Nat) (l : List El) (ds : List (List Byte)) (s : State) : E State :=
  let ps := l.zip ds
  putUnits x c
    (((elCores l).map fun core => putCore x c next core (ps.filter fun p => (p.1.core?.map (·.1)) = some core)) ++
      (ps.filter fun p => p.1.core?.isNone).map fun p => putFar x c p.1 p.2) 0 s

/-- One sector of a command whose destination is scattered. -/
def scatterSector (x : Eng) (c : CopyCmd) (n i : Nat) (need : Need) (s : State) : E State := do
  let h := c.shape
  let ks := ((List.range h.count).drop (i * c.perSector)).take c.perSector
  let next := i * c.perSector + ks.length
  let (idx, s) ← (match c.kind with
    | .shaped _ => .ok (ks.map h.byteAt, s)
    | _ => do
      let (l, s) ← readIdx x h ks s
      .ok (l.map (· * (n : Int)), s) : E (List Int × State))
  let refs := idx.map fun d => refOf c.dst d
  let (src, s) ← copyUnit x (engRead x (refOf c.src ((i * c.perSector * n : Nat) : Int)) (ks.length * n)) s
  let ds := chunks n (ks.length * n) src
  let bad := match c.kind with
    | .shaped _ => none
    | _ => refs.find? fun r => s.engAddr x r % n ≠ 0
  match bad with
  | some r => .error (.bad 0x14 0 r.word s)
  | none =>
    match c.kind with
    | .shaped _ => do
      let l ← elsOf x n need s refs 0
      putSet x c next l ds s
    | _ =>
      let (mask, s) ← deniedMask x n need refs 0 s
      if mask ≠ 0 then .error (.bad 0x60 mask 0 s)
      else do
        let l ← elsOf x n need s refs 0
        putSet x c next l ds s

/-- Sector `i` of a command (R291). -/
def runSector (x : Eng) (c : CopyCmd) (i : Nat) (s : State) : E State :=
  let (off, n) := sector (s.dstAddr x c) c.len i
  match c.kind with
  | .lin => do
    let (d, s) ← copyUnit x (engRead x (refOf c.src off) n) s
    copyPut x c (refOf c.dst off) d true s
  | .shaped false => do
    let h := c.shape
    let wb := h.w / 8
    let k0 := off / wb
    let ks := (List.range ((off + n + wb - 1) / wb - k0)).map (k0 + ·)
    let (ds, s) ← readRefs x wb (ks.map fun k => refOf c.src (h.byteAt k)) s
    copyPut x c (refOf c.dst off) ((ds.flatten.drop (off - k0 * wb)).take n) true s
  | .shaped true => scatterSector x c (c.shape.w / 8) i { w := true } s
  | .multi m => do
    let (d, s) ← copyUnit x (engRead x (refOf c.src off) n) s
    let cores := ((List.range 4).filter fun q => m.getLsbD q).map fun q => coreOf (clusterOf (x.key / 4)) q
    let r := refOf c.dst off
    multiReady x c r n cores s
    multiPut x c r d cores s
  | .tensor => do
    let (d, s) ← tensorBytes x c off n s
    copyPut x c (refOf c.dst off) d true s
  | .gather => gatherSector x c i s
  | .scatter n => scatterSector x c n i { w := true } s
  | .reduce _ n => scatterSector x c n i { r := true, w := true, a := true } s

/-- The context may go on with its oldest command. -/
def CopyCtx.runs (x : CopyCtx) : Bool := !x.err && !x.susp && x.stall = none

/-- COPY_SECTOR (R291): the next sector of context `sub` of core `unit`; its first read waits for the slot's stores before the
command (R269). -/
def execCopySector (s : State) : Host.Outcome State Fault Refusal :=
  let key := s.ctl.here.unit * 4 + s.ctl.here.sub
  let y := s.cctx key
  event s (match y.queue with
    | [] => none
    | c :: _ =>
      let x := c.eng key
      let more := y.pos < s.copySectors x c y.walk || (c.kind = .gather && y.walk = [])
      if !y.runs || !more || (s.slotAt (key / 4) c.slot).drained < c.drainTo then none
      else
        some (match runSector x c y.pos s with
          | .ok s => s.modCctx key fun y =>
              { y with pos := y.pos + 1, walk := if c.kind = .gather then y.walk else [], got := [], unit := 0, units := [],
                       paid := 0, used := 0 }
          | .error e => engFail x c.num e))

/-! ### Completion (R291) -/

/-- A bit of a thread's pending user interrupts, wherever the thread is (R164, R291). -/
def State.raiseCopy (s : State) (hold : Nat) (ctxid : BitVec 32) : State :=
  let mine := fun (t : Thread) => decide (t.hold = hold ∧ t.ctxid = ctxid)
  match s.co.slots.find? fun (_, v) => (v.thr.map mine) = some true with
  | some (k, _) => s.modSlotAt (k / 16) (k % 16) fun v => { v with uipend := v.uipend ||| 1 }
  | none =>
    if s.sc.flight.any fun p => mine p.thr then
      { s with sc := { s.sc with flight := s.sc.flight.map fun p => if mine p.thr then { p with uip := p.uip ||| 1 } else p } }
    else
      match s.sc.frames.find? fun f => f.hold = hold && f.st ≠ .stop && f.st ≠ .run && f.ctxid = ctxid with
      | some f =>
        (s.modFrame hold f.mva fun f => { f with uip := f.uip ||| 1 }).partBits hold f.rgn (f.mva + 8) 41 41 1
      | none => s

/-- COPY_COMPLETE (R291): the oldest command of the context has written every sector, and every write has been performed (R269): those
to the host have left their port and peers have applied theirs (R255, R63). -/
def execCopyComplete (s : State) : Host.Outcome State Fault Refusal :=
  let key := s.ctl.here.unit * 4 + s.ctl.here.sub
  let y := s.cctx key
  event s (match y.queue with
    | [] => none
    | c :: rest =>
      if !y.runs || y.pos < s.copySectors (c.eng key) c y.walk || (c.kind = .gather && y.walk = []) || s.engFlushing false key ||
        s.sending (· = .eng false key) then none
      else if y.peers ≠ [] then some (s.askEng false key y.peers)
      else
        let s := if y.owed = 0 then s else s.updObj (key / 4) c.hold c.boff c.rgn (BarObj.outSub y.owed)
        let s := s.modCctx key fun y =>
          { y with queue := rest, pos := 0, walk := [], got := [], unit := 0, units := [], paid := 0, used := 0, owed := 0 }
        some (if c.irq then s.raiseCopy c.hold c.ctxid else s))

end Sys2Proof.Machine
end

