-- ==== Sys2Proof/Machine/Task.lean ====
section
/-! DEFINITION. Regions and their checks (R117-R122, R194), sprigs (R124, R125), the kill test (R155-R157), and the task
instructions SPAWN, SPAWNB, BOUND, ROAM, MIGR, WAKE and KPOINT (R450-R455). -/

namespace Sys2Proof.Machine

/-! ### Reading a region's chain -/

/-- What reading the blocks of a region and its ancestors gives: the chain, a page to request, a denied page, or a chain
that breaks R117. -/
inductive Look where
  | ok (chain : List Nat)
  | page (mva : Nat)
  | denied (mva : Nat)
  | broken
deriving DecidableEq, Repr

/-- A word of the holding's memory as the part reads it for a thread: resident and readable on a device page. -/
def State.lookWord (s : State) (hold mva : Nat) : Except TrErr Word :=
  match s.walkFrom mva 4 3 (s.hword hold 0x40) with
  | .error e => .error e
  | .ok _ => match s.peek hold mva with | some w => .ok w | none => .error .perm

/-- Follow the parents of a block up to the holding, over at most 15 blocks (R117). -/
def State.lookChain (s : State) (hold : Nat) : Nat → Nat → Look
  | 0, _ => .broken
  | n + 1, rgn =>
    if rgn % 256 ≠ 0 || 2 ^ 57 ≤ rgn then .broken
    else
      match s.lookWord hold rgn, s.lookWord hold (rgn + 8) with
      | .ok w0, .ok w8 =>
        if bits w0.toNat 3 0 ≠ 3 || w8.toNat = 0 then .broken
        else if w8.toNat = 1 then .ok [rgn]
        else
          match s.lookChain hold n w8.toNat with
          | .ok l => .ok (rgn :: l)
          | r => r
      | .error .nonres, _ => .page rgn
      | _, _ => .denied rgn

/-- A region's block and those of its ancestors may be read: the host holds no newer copy of them (R56). -/
def State.chainGate (s : State) (q : Asker) : Nat → Nat → Bool × State
  | 0, _ => (true, s)
  | n + 1, rgn =>
    if rgn % 256 ≠ 0 || 2 ^ 57 ≤ rgn then (true, s)
    else
      match s.partGate q rgn 256 with
      | (false, s) => (false, s)
      | (true, s) => if s.peekN q.hold (rgn + 8) ≤ 1 then (true, s) else s.chainGate q n (s.peekN q.hold (rgn + 8))

/-- A region's blocks and its segment table, which may span two pages, may be read (R56, R194). -/
def State.regionGate (s : State) (q : Asker) (rgn : Nat) : Bool × State :=
  match s.chainGate q 15 rgn with
  | (false, s) => (false, s)
  | (true, s) =>
    let a := s.eff q.hold rgn 0x38
    if a = 0 || a % 16 ≠ 0 || 2 ^ 57 ≤ a + 95 then (true, s)
    else
      match s.partGate q a 96 with
      | (false, s) => (false, s)
      | (true, s) => if a % 65536 + 96 ≤ 65536 then (true, s) else s.partGate q ((a / 65536 + 1) * 65536) (a % 65536 + 96 - 65536)

/-- `a` has no bit that `b` has not, in a field. -/
def within (a b hi lo : Nat) : Bool := bits a hi lo &&& bits b hi lo = bits a hi lo

/-- A block of the chain breaks R118 against the values that its ancestors give: its plot, its masks or its MOVS. -/
def State.breach (s : State) (hold : Nat) : List Nat → Bool
  | [] => false
  | b :: up =>
    let v := fun off => s.peekN hold (b + off)
    let par := fun (off hi lo : Nat) => s.inherit hold up off hi lo (bits (s.hword hold off) hi lo) * 2 ^ lo
    let sub := fun (off hi lo : Nat) => within (v off) (par off hi lo) hi lo
    (v 0x10 ≠ 0 && (plotBad (BitVec.ofNat 64 (v 0x10)) || bits (v 0x10) 63 62 ≠ 0 ||
      !(plotOf (v 0x10)).inside (plotOf (par 0x10 63 0)))) ||
    !sub 0x18 63 32 || !sub 0x18 15 0 || ((bits (v 0x18) 63 32 ≠ 0 || bits (v 0x18) 19 0 ≠ 0) && bits (v 0x18) 19 16 ≠ s.hmovs hold) ||
    !sub 0x20 3 0 || !sub 0x20 19 4 || !sub 0x20 23 20 || !sub 0x20 27 24 || !sub 0x20 31 28 || !sub 0x90 63 0 ||
    s.breach hold up

/-- The frame pool or fault queue words break R120. -/
def State.poolBad (s : State) (hold rgn : Nat) : Bool :=
  let p := s.eff hold rgn 0x28
  let n := s.eff hold rgn 0x30
  let q := s.eff hold rgn 0x80
  p % 256 ≠ 0 || 2 ^ 57 ≤ p || n = 0 || 2 ^ 32 ≤ n || q % 64 ≠ 0 || 2 ^ 57 ≤ q

/-- The grid has a dimension of 0 (R119, R122). -/
def dimsBad (d : Nat) : Bool := bits d 15 0 = 0 || bits d 31 16 = 0 || bits d 47 32 = 0

/-- The carve-outs of the holding's slots exceed the local window (R122). -/
def State.carveBad (s : State) (hold rgn : Nat) : Bool :=
  s.winSize hold < popc (s.hslots hold) 16 * (bits (s.eff hold rgn 0x88) 11 0 * 128)

/-- Reserved bits of a segment descriptor (R193). -/
def sgBad (v : Nat) : Bool := bits v 123 121 ≠ 0 || bits v 63 57 ≠ 0

/-- The segment table of a region (R194): six descriptors; none when the launch answers RANGE. -/
def State.segTable (s : State) (hold rgn : Nat) : Option (List (BitVec 128)) :=
  let a := s.eff hold rgn 0x38
  if a = 0 then some (List.replicate 6 0)
  else if a % 16 ≠ 0 || 2 ^ 57 ≤ a + 95 then none
  else
    (List.range 6).mapM fun i =>
      match s.peek hold (a + 16 * i), s.peek hold (a + 16 * i + 8) with
      | some lo, some hi =>
        let v := lo.toNat + hi.toNat * 2 ^ 64
        if sgBad v then none else some (BitVec.ofNat 128 v)
      | _, _ => none

/-! ### Checking and starting a launch (R122) -/

/-- The region's holding is FROZEN. -/
def State.frozen (s : State) (hold : Nat) : Bool := (s.hold hold).st = .frozen

/-- The part writes FRZ into a block as it checks it (R117, R122). -/
def State.markFrz (s : State) (hold rgn : Nat) : State :=
  s.partBits hold rgn rgn 17 17 (if s.frozen hold then 1 else 0)

/-- Set or clear ACT in a block (R117). -/
def State.setAct (s : State) (hold rgn : Nat) (b : Bool) : State :=
  s.partBits hold rgn rgn 16 16 (if b then 1 else 0)

/-- Word 0x60 of a block: dealing is paused, and the next tile (R119). -/
def State.setNext (s : State) (hold rgn : Nat) (gsv : Bool) (next : Nat) : State :=
  s.partWord hold rgn (rgn + 0x60) ((if gsv then 2 ^ 63 else 0) + next % 2 ^ 48)

/-- ACT of a block. -/
def State.active (s : State) (hold rgn : Nat) : Bool := bit (s.peekN hold rgn) 16

/-- The grid of a launch (R77, R119): that of the record, without its reserved bits (R5), where it is not 0. -/
def State.gridOf (s : State) (hold rgn grid : Nat) : Nat := if bits grid 55 0 ≠ 0 then bits grid 55 0 else s.eff hold rgn 0x58

/-- The check of SPAWN and LAUNCH on a block that could be read (R122): the code, in the table's order, with the
segment descriptors. `grid` of LAUNCH stands in for word 0x58 when it is not 0 (R77). -/
def State.launchCheck (s : State) (hold rgn : Nat) (look : Look) (grid : Nat) : Nat × List (BitVec 128) :=
  let dims := s.gridOf hold rgn grid
  if s.frozen hold then (2, [])
  else if s.active hold rgn then (1, [])
  else
    match look, s.segTable hold rgn with
    | .ok c, some sg =>
      if s.breach hold c || s.poolBad hold rgn || dimsBad dims || s.carveBad hold rgn then (3, []) else (0, sg)
    | _, _ => (3, [])

/-- A launch begins: ACT := 1, NEXT := 0, GSV := 0 (R122). -/
def State.launchStart (s : State) (hold rgn : Nat) (sg : List (BitVec 128)) (arg grid : Nat) (root : Bool) (chain : Option Nat) : State :=
  let (i, s) := s.newId
  let l : Launch :=
    { id := i, hold := hold, rgn := rgn, next := 0
      dims := BitVec.ofNat 64 (s.gridOf hold rgn grid)
      entry := BitVec.ofNat 64 (s.eff hold rgn 0x68)
      arg := BitVec.ofNat 64 (if arg ≠ 0 then arg else s.eff hold rgn 0x70)
      plot := BitVec.ofNat 64 (s.eff hold rgn 0x10)
      slots := s.regionSlots hold rgn, sg := sg, root := root, alive := 0, chain := chain }
  let p : Nat × Nat × Nat := (hold, s.eff hold rgn 0x28, bits (s.eff hold rgn 0x30) 31 0)
  let s := { s with sc := { s.sc with
    launches := s.sc.launches ++ [l]
    pools := if s.sc.pools.contains p then s.sc.pools else s.sc.pools ++ [p] } }
  (s.setAct hold rgn true).setNext hold rgn false 0

/-- The launch in progress of a region. -/
def State.launchOf (s : State) (hold rgn : Nat) : Option Launch := s.sc.launches.find? fun l => l.hold = hold && l.rgn = rgn

/-! ### Sprigs (R124, R125) -/

/-- A frame of a pool that no sprig holds, from index `k` on. -/
def firstFree (used : List Nat) (base n : Nat) : Nat → Nat → Option Nat
  | 0, _ => none
  | fuel + 1, k => if used.contains (base + 256 * k) then firstFree used base n fuel ((k + 1) % n) else some (base + 256 * k)

/-- The frames of a region's pool that are reserved. -/
def State.usedFrames (s : State) (hold base n : Nat) : List Nat :=
  (s.sc.frames.filter fun f => f.hold = hold && base ≤ f.mva && f.mva < base + 256 * n).map (·.mva)

/-- Some frame of the region's pool is free. -/
def State.frameFree (s : State) (hold rgn : Nat) : Bool :=
  let n := bits (s.eff hold rgn 0x30) 31 0
  (s.usedFrames hold (s.eff hold rgn 0x28) n).length < n

/-- Take a free frame of the region's pool; which one is the part's choice. -/
def State.takeFrame (s : State) (hold rgn : Nat) : Option Nat × State :=
  let n := bits (s.eff hold rgn 0x30) 31 0
  let base := s.eff hold rgn 0x28
  let used := s.usedFrames hold base n
  if n ≤ used.length then (none, s)
  else
    let (k, s) := s.choose n
    (firstFree used base n (used.length + 1) k, s)

/-- The next context id of a holding; when the counter wraps, the holding's owner registers become none (R125). -/
def State.newCtx (s : State) (hold : Nat) : BitVec 32 × State :=
  let wrap : Bool := decide (2 ^ 26 ≤ (s.hold hold).ctxNext)
  let n := if wrap then 0 else (s.hold hold).ctxNext
  let s := if wrap then
      { s with en := { s.en with owner := s.en.owner.map fun (k, o) =>
          if (s.hplot hold).covers (coreOf (k / 4) 0) && bit (s.haparts hold) (k % 4) then (k, { o with none := true }) else (k, o) } }
    else s
  (BitVec.ofNat 32 (hold * 2 ^ 26 + n), s.modHold hold fun v => { v with ctxNext := n + 1 })

/-- %rng of a new sprig (R125). -/
def rngOf (id : BitVec 32) : BitVec 32 := if id ^^^ 0x9E3779B9 = 0 then 1 else id ^^^ 0x9E3779B9

/-- A frame is put on a list: word 0xF8 links it there (R129); the part alone gives the word a meaning. -/
def State.linkFrame (s : State) (hold rgn mva : Nat) : State :=
  let (w, s) := s.freeWord
  s.partWord hold rgn (mva + 0xF8) w.toNat

/-- Create a sprig (R124): reserve the frame, write its initial state, assign the context id, count it. `regs` are the
first G registers; a bound makes it a bounded sprig (R145). -/
def State.sprig (s : State) (l : Launch) (frame : Nat) (pc : Word) (regs : List Word) (bound : Option Word) (tile : BitVec 48) : State :=
  let (id, s) := s.newCtx l.hold
  let t : Thread :=
    { pc := pc, g := (List.range regs.length).foldl (fun (g : Tab Word) i => Tab.set 0 g i (regs.getD i 0)) []
      roam := s.effRoam l.hold l.rgn && !l.root, bnd := bound.isSome, bound := bound.getD 0, rng := rngOf id
      hold := l.hold, rgn := l.rgn, frame := frame, ctxid := id, tile := tile, grid := l.dims, root := l.root, launch := l.id }
  let rec_ : FrameRec :=
    { hold := l.hold, mva := frame, pool := s.eff l.hold l.rgn 0x28, st := .new, rgn := l.rgn, launch := l.id, core := 0
      tile := tile, grid := l.dims, root := l.root, bnd := bound.isSome, uip := 0, ctxid := id }
  let s := { s with sc := { s.sc with
    frames := s.sc.frames ++ [rec_]
    launches := s.sc.launches.map fun (x : Launch) => if x.id = l.id then { x with alive := x.alive + 1 } else x } }
  ((s.partWrite l.hold l.rgn frame (frameBytes t .new 0 0 0)).linkFrame l.hold l.rgn frame).count l.hold l.rgn 0xA0

/-- Append a sprig to the dispatch queue that its region keeps in a core's cluster, marked for the core (R123). -/
def State.enqueue (s : State) (l : Launch) (core mva : Nat) : State :=
  let d : Disp := ⟨l.hold, l.rgn, l.id, core, mva⟩
  { s with sc := { s.sc with disp := s.sc.disp ++ [d] } }

/-- The launch that a new sprig of an active region joins; the block says ACT = 1 (R145, R455). -/
def State.joined (s : State) (hold rgn : Nat) : Launch :=
  (s.launchOf hold rgn).getD
    { id := 0, hold := hold, rgn := rgn, next := 0, dims := BitVec.ofNat 64 (s.eff hold rgn 0x58)
      entry := BitVec.ofNat 64 (s.eff hold rgn 0x68), arg := BitVec.ofNat 64 (s.eff hold rgn 0x70)
      plot := BitVec.ofNat 64 (s.eff hold rgn 0x10), slots := s.regionSlots hold rgn
      sg := List.replicate 6 0, root := false, alive := 0, chain := none }

/-! ### The kill test (R155-R157) -/

/-- The effective cell mask of a region (R118, R150): the nearest one that is not 0. Where a block on the way to it cannot be read, none
is known (DEDUCED, log entry 81). -/
def State.cellMask (s : State) (hold : Nat) : Nat → Nat → Option Nat
  | 0, _ => none
  | n + 1, rgn =>
    match s.peek hold (rgn + 0x90), s.peek hold (rgn + 8) with
    | some m, some up =>
      if m ≠ 0 then some m.toNat
      else if up.toNat = 1 then some (s.hword hold 0x90)
      else if up = 0 then none
      else s.cellMask hold n up.toNat
    | _, _ => none

/-- The cell of a region's bounded sprigs (R150). -/
def State.cellOf (s : State) (hold rgn : Nat) : Option Nat := (s.cellMask hold 15 rgn).bind fun m => bitOfRank m 64 0 0

/-- Doomed(t, k) of R155. -/
def State.doomed (s : State) (hold rgn : Nat) (bnd : Bool) (bound : Word) (k : Nat) : Bool :=
  bnd && (match s.cellOf hold rgn with
    | none => false
    | some c => (s.replica k c).set && !better (s.replica k c).max bound (s.replica k c).value)

/-- A doomed sprig's frame is FREE and the killed counter counts (R157). -/
def State.killFrame (s : State) (hold mva rgn launch : Nat) : State :=
  ((s.freeFrame hold mva rgn).count hold rgn 0xB0).sprigGone launch

/-- The slot of a doomed thread is freed once its LD and TL counters are 0 (R157). -/
def State.reap (s : State) (core slot : Nat) : State :=
  let v := s.slotAt core slot
  match v.thr with
  | some t =>
    if v.leave = .kill && v.ld = 0 && v.tl = 0 then
      (match s.exitReady t.hold t.rgn t.frame with
       | (false, s) => s
       | (true, s) => (s.vacate core slot).killFrame t.hold t.frame t.rgn t.launch)
    else s
  | none => s

/-- The blocks of a region can be read; otherwise the page is requested (R487). -/
def State.chainReady (s : State) (q : Asker) (rgn : Nat) : Bool × State :=
  match s.chainGate q 15 rgn with
  | (false, s) => (false, s)
  | (true, s) =>
    match s.lookChain q.hold 15 rgn with
    | .page a => s.frameReady q.hold rgn a
    | _ => (true, s)

/-- The scheduler as it reads a region's blocks. -/
def schedAsker (hold rgn : Nat) : Asker := ⟨.sched hold rgn, hold, rgn⟩

/-- The blocks of a bounded sprig's region can be read, so that a kill point finds its cell; otherwise the instruction waits for the
page (R150, R487). -/
def killReady (s : State) (bnd : Bool) : M State :=
  if s.thr.s || s.thr.h || !bnd then .ok s
  else do
    lostRead s (BitVec.ofNat 64 s.thr.rgn)
    match s.chainReady s.asker s.thr.rgn with
    | (true, s) => .ok s
    | (false, s) => stay s

/-- A kill point in the thread's slot: a doomed thread ends, any other goes on at PC + 12 (R453). -/
def killPoint (s : State) : M Fin :=
  let t := s.thr
  if !t.s && !t.h && s.doomed t.hold t.rgn t.bnd t.bound (clusterOf s.core) then
    .ok (.gone ((s.modSlot fun v => { v.fresh with leave := .kill, late := [], yld := false }).reap s.core s.slotNo))
  else .ok (.step s)

/-! ### The instructions -/

/-- The region's block and its ancestors as SPAWN, SPAWNB and WAKE read them (R451): a page to request parks the thread,
a denied read faults PERM, a block of which the host holds a newer copy is waited for (R56), and when the host does not answer the read faults INTEG
(R60). -/
def lookRegion (s : State) (rgn : Nat) : M (Look × State) := do
  lostRead s (BitVec.ofNat 64 rgn)
  match s.regionGate s.asker rgn with
  | (false, s) => stay s
  | (true, s) =>
    match s.lookChain s.thr.hold 15 rgn with
    | .page a => pageOut s (BitVec.ofNat 64 a) a false
    | .denied a => raise s 0x16 0 (BitVec.ofNat 64 a)
    | l => .ok (l, s)

/-- Wait as a release at a region's effective plot. -/
def releaseAt (s : State) (rgn : Nat) : M State := release s (BitVec.ofNat 64 (s.eff s.thr.hold rgn 0x10))

/-- SPAWN (R451). -/
def execSpawn (f : Fields) (s : State) : Host.Outcome State Fault Refusal :=
  issue (.spawn f) s fun f s => do
    let rgn := (s.g f.a).toNat
    let arg := (s.gz f.b).toNat
    let h := s.thr.hold
    ldFull s
    if rgn % 256 ≠ 0 || 2 ^ 57 ≤ rgn then .ok (.step (s.dst f.d 3))
    else
      let (look, s) ← lookRegion s rgn
      let s ← releaseAt s rgn
      let s := s.markFrz h rgn
      let (code, sg) := s.launchCheck h rgn look 0
      let s := if code = 0 then s.launchStart h rgn sg arg 0 false none else s
      .ok (.step (s.dst f.d (BitVec.ofNat 64 code)))

/-- The region that a task record names (R144). -/
def recordRgn (bs : List Byte) (own : Nat) : Nat :=
  let r := leNat ((bs.drop 16).take 8)
  if r = 0 then own else r

/-- Reserved bits of a task record (R144). -/
def recordBad (bs : List Byte) : Bool :=
  let q := leNat ((bs.drop 24).take 8)
  16 ≤ q

/-- The code of SPAWNB (R145). -/
def State.spawnbCode (s : State) (hold rgn : Nat) (bs : List Byte) (look : Look) : Nat :=
  match look with
  | .ok _ =>
    if recordBad bs || s.poolBad hold rgn || (s.segTable hold rgn).isNone then 3
    else if s.frozen hold || !s.active hold rgn then 2
    else if !s.frameFree hold rgn then 1
    else 0
  | _ => 3

/-- Push a new frame onto a search queue (R146, R147). -/
def State.pushSearch (s : State) (hold k q mva : Nat) : State :=
  let e : Listed := ⟨hold, k, q, mva⟩
  { s with sc := { s.sc with search := if bit (s.fn hold).sqmode.toNat q then e :: s.sc.search else s.sc.search ++ [e] } }

/-- A frame for a new sprig (R124): its page and its region's block can be reached, so that the part may write them; otherwise the
instruction waits with a page request (R487). -/
def newFrame (s : State) (hold rgn : Nat) : M (Nat × State) :=
  match s.takeFrame hold rgn with
  | (none, s) => stay s
  | (some m, s) =>
    match s.exitReady hold rgn m with
    | (false, s) => stay s
    | (true, s) => .ok (m, s)

/-- Create a bounded sprig in a frame and push it (R145, R146). -/
def State.spawnBounded (s : State) (hold rgn core m : Nat) (bs : List Byte) : State :=
  let l := s.joined hold rgn
  let w := fun i => BitVec.ofNat 64 (leNat ((bs.drop (8 * i)).take 8))
  let p := s.effPlot hold rgn
  let inside := p.x0 ≤ coreX core / 2 * 2 && coreX core / 2 * 2 + 1 ≤ p.x1 && p.y0 ≤ coreY core / 2 * 2 && coreY core / 2 * 2 + 1 ≤ p.y1
  let k := if inside then clusterOf core else clusterOf (coreAt p.x0 p.y0)
  (s.sprig l m (w 1) [w 4, w 5, w 6, w 7] (some (w 0)) 0).pushSearch hold k (bits (w 3).toNat 3 0) m

/-- SPAWNB (R145, R452). -/
def execSpawnb (f : Fields) (s : State) : Host.Outcome State Fault Refusal :=
  issue (.spawnb f) s fun f s => do
    ldFull s
    let (bs, s) ← unitRd kLD { r := true } s (refOf (s.g f.a) 0) 64 64
    let h := s.thr.hold
    let rgn := recordRgn bs s.thr.rgn
    let (look, s) ← lookRegion s rgn
    let s ← releaseAt s rgn
    let s := match look with | .ok _ => s.markFrz h rgn | _ => s
    let code := s.spawnbCode h rgn bs look
    if code ≠ 0 then .ok (.step (s.dst f.d (BitVec.ofNat 64 code)))
    else
      let (m, s) ← newFrame s h rgn
      .ok (.step ((s.spawnBounded h rgn s.core m bs).dst f.d 0))

/-- BOUND (R453): the bound goes to the thread and to its frame, then the kill point. -/
def execBound (f : Fields) (s : State) : Host.Outcome State Fault Refusal :=
  issue (.bound f) s fun f s => do
    let s ← killReady s true
    let (a, s) := s.src f.a 0
    match s.frameReady s.thr.hold s.thr.rgn s.thr.frame with
    | (false, s) => stay s
    | (true, s) =>
      let s := s.modThr fun t => { t with bound := a, bnd := true }
      killPoint (s.partWord s.thr.hold s.thr.rgn (s.thr.frame + 0xE8) a.toNat)

/-- KPOINT (R453). -/
def execKpoint (f : Fields) (s : State) : Host.Outcome State Fault Refusal :=
  issue (.kpoint f) s fun _ s => do
    let s ← killReady s s.thr.bnd
    killPoint s

/-- The ROAM bit as a thread reads it: a thread that runs with a stack carve-out has become pinned (R131). -/
def Thread.roamBit (t : Thread) : Bool := t.roam && t.stkc = 0

/-- ROAM (R454). A root sprig stays pinned (R480). -/
def execRoam (f : Fields) (s : State) : Host.Outcome State Fault Refusal :=
  issue (.roam f) s fun f s =>
    let old : Word := if s.thr.roamBit then 1 else 0
    let s := s.dst f.d old
    .ok (.step (s.modThr fun t => { t with roam := f.imm.getLsbD 0 && t.stkc = 0 && !t.root }))

/-- MIGR (R454): the thread departs with the PC of the next instruction. A root sprig is always pinned (R480). -/
def execMigr (f : Fields) (s : State) : Host.Outcome State Fault Refusal :=
  issue (.migr f) s fun f s =>
    let w := (s.g f.a).toNat
    let c := coreAt (bits w 6 0) (bits w 13 8)
    let t := s.thr
    if !(s.hplot t.hold).covers c || t.stkc ≠ 0 || t.s || t.h then raise s 0x16
    else if t.root then .ok (.step s)
    else
      let s := s.modThr fun t => { t with roam := true }
      if clusterOf c = clusterOf s.core then .ok (.step s) else .ok (.step (s.migrateTo (clusterOf c) false))

/-- The code of WAKE (R455). -/
def State.wakeCode (s : State) (hold rgn core : Nat) (look : Look) : Nat :=
  match look with
  | .ok _ =>
    if !(s.effPlot hold rgn).covers core || s.poolBad hold rgn then 3
    else if s.frozen hold || !s.active hold rgn then 2
    else if !s.frameFree hold rgn then 1
    else 0
  | _ => 3

/-- A woken sprig is created and joins its region's dispatch queue in the core's cluster (R455, R290). -/
def State.wakeSprig (s : State) (hold rgn core m : Nat) (arg : Word) : State :=
  let l := s.joined hold rgn
  (s.sprig l m l.entry [l.arg, arg] none (BitVec.ofNat 48 (coreX core + coreY core * 2 ^ 16))).enqueue l core m

/-- WAKE (R455). -/
def execWake (f : Fields) (s : State) : Host.Outcome State Fault Refusal :=
  issue (.wake f) s fun f s => do
    let rgn := (s.g f.a).toNat
    let w := (s.g f.b).toNat
    let core := coreAt (bits w 6 0) (bits w 13 8)
    let h := s.thr.hold
    let arg := s.g1 f.b
    ldFull s
    let (look, s) ← lookRegion s rgn
    let s ← releaseAt s rgn
    let s := match look with | .ok _ => s.markFrz h rgn | _ => s
    let code := s.wakeCode h rgn core look
    if code ≠ 0 then .ok (.step (s.dst f.d (BitVec.ofNat 64 code)))
    else
      let (m, s) ← newFrame s h rgn
      .ok (.step ((s.wakeSprig h rgn core m arg).dst f.d 0))

end Sys2Proof.Machine
end

