-- ==== Sys2Proof/Machine/Holdings.lean ====
section
/-! DEFINITION. Holdings: who owns a slot now (R127, R480), the slice ring (R112, R113), the end of a turn (R139), the checks
of a block (R98, R99, R114, R483), clearing shares (R108, R110, R160), the capability table (R92, R93, R485), and what a
destroyed or reset holding loses (R110, R115). -/

namespace Sys2Proof.Machine

/-! ### Threads of a holding in slots -/

/-- Keys of the slots that hold a thread of a holding other than a root sprig (R480). -/
def State.slotsOf (s : State) (h : Nat) : List Nat :=
  (s.co.slots.filter fun (_, v) => (v.thr.map fun t => t.hold = h && !t.root) = some true).map (·.1)

/-- A member of the ring other than the one whose turn runs still has a thread in the core (R113). -/
def State.draining (s : State) (core : Nat) : Option Nat :=
  (s.co.slots.findSome? fun (k, v) =>
    if k / 16 ≠ core then none
    else v.thr.bind fun t => if !t.root && s.inRing t.hold && t.hold ≠ s.hd.turn then some t.hold else none)

/-- The holding to which a slot belongs at this moment: a root sprig's holding in every turn (R480), a member whose turn has
ended until its last thread has left the core (R113, R139), and otherwise the owner of the number (R127). -/
def State.ownerNow (s : State) (core slot : Nat) : Option Nat :=
  match (s.slotAt core slot).thr with
  | some t => some t.hold
  | none =>
    match s.slotOwner core slot with
    | none => none
    | some h => if s.inRing h && s.ringed then (match s.draining core with | some m => some m | none => some h) else some h

/-! ### The end of a turn and FREEZE (R139) -/

/-- The launches of a holding. -/
def State.launchesOf (s : State) (h : Nat) : List Launch := s.sc.launches.filter fun l => l.hold = h

/-- Tiles of a grid (R119). -/
def gridTiles (d : Nat) : Nat := bits d 15 0 * bits d 31 16 * bits d 47 32

/-- Dealing pauses: NEXT is written and GSV := 1 (R139). -/
def State.pauseDealing (s : State) (h : Nat) : State :=
  (s.launchesOf h).foldl (fun s l => if l.next < gridTiles l.dims.toNat then s.setNext h l.rgn true l.next else s) s

/-- Dealing goes on at NEXT. -/
def State.resumeDealing (s : State) (h : Nat) : State :=
  (s.launchesOf h).foldl (fun s l => if l.next < gridTiles l.dims.toNat then s.setNext h l.rgn false l.next else s) s

/-- Admission stops, dealing pauses, and the end is broadcast to every core that holds a thread (R139). -/
def State.beginEnd (s : State) (h : Nat) : State :=
  let cores := ((s.slotsOf h).map (· / 16)).eraseDups
  let s := (s.modHold h fun v => { v with stopped := true }).pauseDealing h
  { s with hd := { s.hd with ended := s.hd.ended ++ (cores.map fun c => (h, c)).filter fun p => !s.hd.ended.contains p } }

/-- Admission and dealing start again. -/
def State.endStop (s : State) (h : Nat) : State := (s.modHold h fun v => { v with stopped := false }).resumeDealing h

/-- The thread of a slot is to be spilled at the next instruction boundary (R137); a queue request of it that waits is discarded (R391). -/
def State.orderSpill (s : State) (k : Nat) : State :=
  let v := Tab.get {} s.co.slots k
  if v.leave = .stay && v.thr.isSome then
    (s.dropQ (k / 16) (k % 16)).modSlotAt (k / 16) (k % 16) fun v => { v.fresh with leave := .spill, yld := false }
  else s

/-- Every thread of the holding is pre-empted with a drain allowance of 0 (R110, R115). -/
def State.preempt (s : State) (h : Nat) : State :=
  (s.slotsOf h).foldl (fun s k => s.orderSpill k)
    ((s.modHold h fun v => { v with stopped := true }).pauseDealing h)

/-- Members of the ring in ascending order. -/
def State.ring (s : State) : List Nat := (List.range Config.holdings).filter s.inRing

/-- The member whose turn follows: the next in ascending order that is not frozen, wrapping round (R113). -/
def State.nextTurn (s : State) : Nat :=
  let l := s.ring.filter fun h => !s.frozen h
  match l.find? (s.hd.turn < ·) with
  | some h => h
  | none => l.head?.getD 0

/-- The core that times the turns (R113). -/
def State.turnCore (s : State) : Nat := coreAt (s.hplot 0).x0 (s.hplot 0).y0

/-- The next turn begins; it is timed from now (R113). -/
def State.startTurn (s : State) : State :=
  let n := s.nextTurn
  let s := { s with hd := { s.hd with turn := n, turnAt := s.cyc s.turnCore } }
  if s.frozen n then s else s.endStop n

/-- The region blocks of a holding's launches can be written; otherwise a page is requested and the step waits (R487). -/
def State.blocksReady (s : State) (h : Nat) : Bool × State :=
  (s.launchesOf h).foldl (fun (p : Bool × State) l =>
    let (ok, s) := p.2.frameReady h l.rgn l.rgn
    (p.1 && ok, s)) (true, s)

/-- The blocks that the end of a turn and the beginning of the next write can be written (R139, R487). -/
def State.turnReady (s : State) : Bool × State :=
  match s.blocksReady s.hd.turn with
  | (false, s) => (false, s)
  | (true, s) => s.blocksReady s.nextTurn

/-- Admission and dealing of the holding stand still: it is frozen, or it is a member of the ring out of its turn (R109, R113). -/
def State.halted (s : State) (h : Nat) : Bool := s.frozen h || (s.ringed && s.inRing h && s.hd.turn ≠ h)

/-! ### FRZ (R117, R482) -/

/-- A holding's block at a physical address may be read and written: the host holds no copy of it (R56), and pool entries for it are
pulled (R209). -/
def State.blockGate (s : State) (q : Asker) (a : Nat) : Bool × State :=
  match s.hdmGate (some q.who) a 256 true q.hold q.rgn with
  | (false, s) => (false, s)
  | (true, s) => s.gateWords q ((List.range 32).map fun i => a + 8 * i)

/-- FRZ can be written wherever it stands: in the holding's block and in the region blocks (R487). -/
def State.frzReady (s : State) (q : Asker) (h : Nat) : Bool × State :=
  match s.blocksReady h with
  | (false, s) => (false, s)
  | (true, s) => match (s.hold h).addr with
    | some a => s.blockGate q a
    | none => (true, s)

/-- FRZ is written into the holding's block and into every region block with ACT = 1. -/
def State.writeFrz (s : State) (h : Nat) : State :=
  let s := match (s.hold h).addr with
    | none => s
    | some a =>
      let v := (s.rootWord a).toNat
      s.rootPut h 0 a (BitVec.ofNat 64 (v - bits v 17 17 * 2 ^ 17 + (if s.frozen h then 2 ^ 17 else 0)))
  (s.launchesOf h).foldl (fun s (l : Launch) => s.markFrz h l.rgn) s

/-! ### Checks of a block -/

/-- The words of a block at a device physical address. -/
def State.blockAt (s : State) (pa : Nat) : Tab Word :=
  (List.range 32).foldl (fun (t : Tab Word) i => Tab.set 0 t (8 * i) (s.rootWord (pa + 8 * i))) []

/-- A word of a block as a number. -/
def wordIn (w : Tab Word) (off : Nat) : Nat := (Tab.get 0 w off).toNat

/-- The key slots of a block: first and last (R97, R98). -/
def keysOf (w : Tab Word) : Nat × Nat := (bits (wordIn w 0x48) 7 0, bits (wordIn w 0x48) 7 0 + bits (wordIn w 0x48) 15 8)

/-- The fields of a block keep R98; a ring member needs a SLICE of 4,096 cycles. -/
def blockOk (w : Tab Word) (ring : Bool) : Bool :=
  let p := wordIn w 0x10
  let v := wordIn w 0x18
  let c := wordIn w 0x20
  let k := wordIn w 0x48
  !plotBad (BitVec.ofNat 64 p) && bits p 63 62 = 0 && (plotOf p).aligned &&
  bits v 63 32 ≠ 0 && bits v 15 0 ≠ 0 && bit v (bits v 19 16) &&
  bits c 27 24 ≠ 0 && decide ((bits c 23 20 = 0) ↔ (bits c 31 28 = 0)) &&
  bits k 24 16 ≤ 256 && bits k 24 16 ≤ bits k 47 32 && bits k 47 32 ≤ 4096 && (keysOf w).2 ≤ 255 &&
  (!ring || 4096 ≤ bits (wordIn w 0x50) 31 0)

/-- Two rectangles have a core in common. -/
def Plot.meets (p q : Plot) : Bool := p.x0 ≤ q.x1 && q.x0 ≤ p.x1 && p.y0 ≤ q.y1 && q.y0 ≤ p.y1

/-- The holdings that exist, other than one. -/
def State.others (s : State) (h : Nat) : List Nat := (List.range Config.holdings).filter fun g => g ≠ h && s.live g

/-- Two fields have no bit in common. -/
def apart (a b hi lo : Nat) : Bool := bits a hi lo &&& bits b hi lo = 0

/-- The shares of two blocks on common cores and clusters are disjoint (R99, R112, R483); ring members share slots. -/
def disjoint (w x : Tab Word) (ring : Bool) : Bool :=
  let f := fun (off hi lo : Nat) => apart (wordIn w off) (wordIn x off) hi lo
  (ring || f 0x18 15 0) && f 0x18 63 32 && f 0x20 3 0 && f 0x20 19 4 && f 0x20 27 24 && f 0x20 23 20 && f 0x20 31 28 && f 0x48 31 28

/-- The region operation that is in progress on a holding, while its root sprig still stands in its slot (R107). -/
def State.busyWith (s : State) (h : Nat) : Option Busy :=
  match (s.hold h).busy with
  | some b => if ((Tab.get {} s.co.slots b.by_).thr.map (·.root)) = some true then some b else none
  | none => none

/-- The blocks whose shares a holding owns: its own, and the one that a RESIZE in progress will give it. -/
def State.claims (s : State) (g : Nat) : List (Tab Word) :=
  (s.hold g).words :: (match s.busyWith g with
    | some b => if b.op = 1 && b.stage = 0 then [b.words] else []
    | none => [])

/-- The largest value of some blocks. -/
def most (l : List (Tab Word)) (f : Tab Word → Nat) : Nat := l.foldl (fun n x => max n (f x)) 0

/-- A share of the block is owned elsewhere (R99, R483). -/
def State.conflict (s : State) (h : Nat) (w : Tab Word) (ring : Bool) : Bool :=
  let p := plotOf (wordIn w 0x10)
  let at_ := fun (x : Tab Word) => plotOf (wordIn x 0x10)
  let gs := (s.others h).map fun g => (g, s.claims g)
  let rate := gs.foldl (fun n (_, l) => n + most l fun x => bits (wordIn x 0x48) 24 16) (bits (wordIn w 0x48) 24 16)
  let near := (gs.map fun (g, l) => (g, l.filter fun x => p.meets (at_ x))).filter fun (_, l) => l ≠ []
  -- the vaults at which the coverings of the plot change
  let xs := p.x0 :: near.flatMap fun (_, l) => l.map fun x => (at_ x).x0
  let ys := p.y0 :: near.flatMap fun (_, l) => l.map fun x => (at_ x).y0
  256 < rate ||
  (gs.any fun (_, l) => l.any fun x =>
    !apart (wordIn w 0x90) (wordIn x 0x90) 63 0 || ((keysOf w).1 ≤ (keysOf x).2 && (keysOf x).1 ≤ (keysOf w).2)) ||
  (near.any fun (g, l) => l.any fun x => !disjoint w x (ring && s.inRing g)) ||
  (xs.any fun x => ys.any fun y =>
    p.covers (coreAt x y) &&
      3 < near.foldl (fun n (_, l) => n + most (l.filter fun z => (at_ z).covers (coreAt x y)) fun z => popc (bits (wordIn z 0x48) 31 28) 4)
        (popc (bits (wordIn w 0x48) 31 28) 4))

/-! ### Clearing shares (R108, R110, R160, R277) -/

/-- Masks of shares: banks, tile registers, slot queues, copy contexts, partitions, matrix contexts. -/
structure Shares where
  banks  : Nat
  tregs  : Nat
  queues : Nat
  cctx   : Nat
  aparts : Nat
  mctx   : Nat
deriving DecidableEq, Repr

/-- The shares of a block. -/
def sharesOf (w : Tab Word) : Shares :=
  let c := wordIn w 0x20
  ⟨bits (wordIn w 0x18) 63 32, bits c 19 4, bits c 3 0, bits c 27 24, bits c 23 20, bits c 31 28⟩

/-- What is in the first mask and not in the second. -/
def minus (a b : Nat) : Nat := a - (a &&& b)

/-- The shares that a block has and another has not. -/
def Shares.minus (a b : Shares) : Shares :=
  ⟨Machine.minus a.banks b.banks, Machine.minus a.tregs b.tregs, Machine.minus a.queues b.queues, Machine.minus a.cctx b.cctx,
    Machine.minus a.aparts b.aparts, Machine.minus a.mctx b.mctx⟩

/-- Zero shares in the clusters that a test names. -/
def State.zeroShares (s : State) (at_ : Nat → Bool) (x : Shares) : State :=
  let core := fun c => at_ (clusterOf c)
  { s with
    co := { s.co with
      spad := s.co.spad.filter fun (k, _) => !(core (k / 2 ^ 19) && bit x.banks (k % 2 ^ 19 / 16384))
      poison := s.co.poison.filter fun (k, _) => !(core (k / 2 ^ 14) && bit x.banks (k % 2 ^ 14 / 512))
      ecc := s.co.ecc.filter fun (k, _) => !(core (k / 2 ^ 14) && bit x.banks (k % 2 ^ 14 / 512))
      tag := s.co.tag.filter fun (k, _) => !(core (k / 65536) && bit x.banks (k % 65536 / 2048))
      fe := s.co.fe.filter fun (k, _) => !(core (k / 4096) && bit x.banks (k % 4096 / 128))
      treg := s.co.treg.filter fun (k, _) => !(core (k / 4112 / 16) && bit x.tregs (k / 4112 % 16))
      sq := s.co.sq.filter fun (k, _) => !(core (k / 4) && bit x.queues (k % 4)) }
    en := { s.en with
      copy := s.en.copy.filter fun (k, _) => !(core (k / 4) && bit x.cctx (k % 4))
      mx := s.en.mx.filter fun (k, _) => !(at_ (k / 4) && bit x.mctx (k % 4))
      owner := s.en.owner.filter fun (k, _) => !(at_ (k / 4) && bit x.aparts (k % 4))
      acc := s.en.acc.filter fun (k, _) => !(at_ (k / 65536) && bit x.aparts (k % 65536 / 16384))
      accHdr := s.en.accHdr.filter fun (k, _) => !(at_ (k / 64) && bit x.aparts (k % 64 / 16))
      appHdr := s.en.appHdr.filter fun (k, _) => !(at_ (k / 64) && bit x.aparts (k % 64 / 16))
      bpos := s.en.bpos.filter fun (k, _) => !(at_ (k / 1024) && bit x.aparts (k % 1024 / 256)) } }

/-- What a holding has in the cores of some clusters is zeroed: tag regions, action tables, link queues, mailboxes, barrier
registers (R160). -/
def State.zeroHc (s : State) (h : Nat) (at_ : Nat → Bool) : State :=
  { s with co := { s.co with hc := s.co.hc.filter fun (k, _) => !(k % 64 = h && at_ (clusterOf (k / 64))) } }

/-! ### Keys and cells -/

/-- Registrations and pool entries that tests name are dropped without merging. -/
def State.dropHeld (s : State) (reg : Nat → AtHome → Bool) (pool : Nat → PoolEnt → Bool) : State :=
  let pools := (s.mm.pools.map fun ((c, l) : Nat × List PoolEnt) => (c, l.filter fun e => !pool c e)).filter fun (_, l) => l ≠ []
  let mine := fun (c w : Nat) => (((s.l1 c w).bind (·.reg)).map (reg c)) = some true
  let home := s.mm.home.filterMap fun ((k, st) : Nat × HomeSt) =>
    match st with
    | .reg c => if mine c (k % wordSpan) then none else some (k, st)
    | .pool cs =>
      let cs' := cs.filter fun c => (Tab.get [] pools c).any fun (e : PoolEnt) => decide (e.word = k % wordSpan) && decide (e.home = k / wordSpan)
      if cs' = [] then none else some (k, .pool cs')
    | .unreg => none
  { s with mm := { s.mm with
      pools := pools
      home := home
      l1 := s.mm.l1.filter fun ((k, l) : Nat × Option L1Word) => ((l.bind (·.reg)).map (reg (k / wordSpan))) ≠ some true
      regs := (s.mm.regs.map fun ((k, l) : Nat × List Nat) => (k, l.filter fun w =>
        match Tab.get .unreg home (k * wordSpan + w) with | .reg _ => true | _ => false)).filter fun (_, l) => l ≠ [] } }

/-- A key slot is cleared: every L2 line under it is invalidated without write-back (R464), and no word that a core holds under it is
written any more (R222). -/
def State.clearKey (s : State) (k : Nat) : State :=
  let s := (s.l2Drop fun l => l.key = k).dropHeld (fun _ a => a.key = k) (fun _ e => e.key = k)
  { s with hd := { s.hd with keys := Tab.set none s.hd.keys k none } }

/-- Key slots from `lo` to `hi` are cleared. -/
def State.clearKeys (s : State) (lo hi : Nat) (but : Nat → Bool) : State :=
  (List.range (hi + 1 - lo)).foldl (fun s i => if but (lo + i) then s else s.clearKey (lo + i)) s

/-- The cells of a mask are reset to the unset state and belong to an owner (R105, R154). -/
def State.resetCells (s : State) (mask owner : Nat) : State :=
  s.upto 64 fun s c => if bit mask c then (s.setCell c { s.cell c with owner := owner }).resetCell c false else s

/-- Some cell of the mask still waits for the crier (R154). -/
def State.cellsPending (s : State) (mask : Nat) : Bool := s.sc.crier.any fun m => bit mask m.cell && s.resetPending m.cell

/-! ### Rotas (R37-R40) -/

/-- The key of a rota. -/
def rotaKey : RotaId → Nat
  | .mesh core dir => core * 4 + dir
  | .kryas l => 2 ^ 15 + l
  | .host p => 2 ^ 15 + 64 + p
  | .master => 2 ^ 15 + 128

/-- A rota. -/
def State.rota (s : State) (i : Nat) : Rota := Tab.get {} s.net.rotas i
/-- Change a rota. -/
def State.modRota (s : State) (i : Nat) (f : Rota → Rota) : State :=
  { s with net := { s.net with rotas := Tab.set {} s.net.rotas i (f (s.rota i)) } }

/-- Entries of a table that name a holding become open (R110). -/
def openEntries (t : Tab (BitVec 8)) (h : Nat) : Tab (BitVec 8) := t.filter fun (_, e) => entryOwner e ≠ some h

/-! ### The capability table (R92, R93, R485) -/

/-- The mask that a holding's block gives a resource type, with its width. -/
def capMask (w : Tab Word) (type : Nat) : Nat × Nat :=
  let c := wordIn w 0x20
  match type with
  | 0x11 => (bits (wordIn w 0x18) 15 0, 16)
  | 0x12 => (bits (wordIn w 0x18) 63 32, 32)
  | 0x13 => (bits c 3 0, 4)
  | 0x14 => (bits c 19 4, 16)
  | 0x15 => (bits c 27 24, 4)
  | 0x16 => (bits c 23 20, 4)
  | 0x17 => (bits c 31 28, 4)
  | 0x18 => (bits (wordIn w 0x48) 31 28, 4)
  | _ => (wordIn w 0x90, 64)

/-- TOTAL of the module, GRAIN and SCOPE of a resource type (R93). -/
def capShape (type : Nat) : Nat × Nat × Nat :=
  match type with
  | 0x10 => (8192, 4, 5) | 0x11 => (16, 1, 0) | 0x12 => (32, 1, 0) | 0x13 => (4, 1, 0) | 0x14 => (16, 1, 0) | 0x15 => (4, 1, 0)
  | 0x16 => (4, 1, 1) | 0x17 => (4, 1, 1) | 0x18 => (4, 1, 3) | 0x19 => (256, 1, 2) | 0x1A => (64, 1, 4) | 0x1B => (256, 1, 5)
  | 0x1C => (64, 1, 5) | _ => (64, 1, 5)

/-- Entries of a rota that a holding owns. -/
def rotaOwn (t : Tab (BitVec 8)) (h : Nat) : Nat := (t.filter fun (_, e) => entryOwner e = some h).length

/-- What one holding owns of a type, in the unit where it owns most (R485). -/
def State.capOwn (s : State) (h type : Nat) : Nat :=
  let w := (s.hold h).words
  let p := s.hplot h
  match type with
  | 0x10 => (p.x1 + 1 - p.x0) * (p.y1 + 1 - p.y0)
  | 0x19 => bits (wordIn w 0x48) 24 16
  | 0x1A => s.net.rotas.foldl (fun n (_, r) => max n (rotaOwn r.active h)) 0
  | 0x1B => bits (wordIn w 0x48) 15 8 + 1
  | 0x1D => 1
  | _ => let (m, n) := capMask w type; popc m n

/-- The cores at which the coverings of some plots change. -/
def State.capPoints (s : State) (gs : List Nat) : List Nat :=
  (gs.map fun g => (s.hplot g).x0).flatMap fun x => gs.map fun g => coreAt x (s.hplot g).y0

/-- ASSIGNED as the physical function sees it (R485). -/
def State.capAssigned (s : State) (type : Nat) : Nat :=
  let all := s.others 0
  let gs := if type = 0x10 || type = 0x11 then all.filter fun g => !s.inRing g else all
  match type with
  | 0x10 => if gs = [] then 0 else ((List.range 2048).filter fun k => gs.any fun g => (s.hplot g).hasCluster k).length * 4
  | 0x19 => gs.foldl (fun n g => n + s.capOwn g type) 0
  | 0x1A => s.net.rotas.foldl (fun n (_, r) => max n (gs.foldl (fun m g => m + rotaOwn r.active g) 0)) 0
  | 0x1B | 0x1C | 0x1D => gs.foldl (fun n g => n + s.capOwn g type) 0
  | _ => (s.capPoints gs).foldl (fun n c => max n (gs.foldl (fun m g => if (s.hplot g).covers c then m + s.capOwn g type else m) 0)) 0

/-- The resource records of a function (R92). -/
def State.capRecs (s : State) (fn : Nat) : List CapRec :=
  (List.range 14).map fun i =>
    let ty := 0x10 + i
    let (total, grain, scope) := capShape ty
    if fn = 0 then ⟨ty, total, s.capAssigned ty, grain, scope⟩
    else ⟨ty, if s.live fn then s.capOwn fn ty else 0, 0, grain, scope⟩

/-- The capability table is rebuilt (R92, R484). -/
def State.capBuild (s : State) : State :=
  { s with hd := { s.hd with cap := (List.range Config.holdings).foldl (fun (t : Tab (List CapRec)) n =>
      if n = 0 || s.live n then Tab.set [] t n (s.capRecs n) else Tab.set [] t n []) s.hd.cap } }

/-! ### What a holding loses (R110, R115) -/

/-- Registrations and pool entries of a holding in the cores of some clusters are dropped without merging (R110, step 4); copies in
those L1s are given up. -/
def State.dropRegs (s : State) (h : Nat) (at_ : Nat → Bool) : State :=
  let core := fun c => at_ (clusterOf c)
  let s := s.dropHeld (fun c a => core c && a.hold = h) (fun c e => core c && e.hold = h)
  { s with mm := { s.mm with l1 := s.mm.l1.filter fun ((k, l) : Nat × Option L1Word) => !core (k / wordSpan) || (l.bind (·.reg)).isSome } }

/-- The holding of a request that waits, where its name says it. -/
def Req.of (r : Req) (h : Nat) : Bool :=
  match r with
  | .agent _ g _ => g = h
  | .sched g _ => g = h
  | _ => false

/-- The outstanding page request indices of a function are quarantined (R52). -/
def State.quarantine (s : State) (h : Nat) : State :=
  { s with hi := { s.hi with
    pageReqs := s.hi.pageReqs.map fun (r : PageReq) => if r.fn = h then { r with quar := true, joined := [] } else r
    pageWait := s.hi.pageWait.filter fun w => w.fn ≠ h } }

/-- What else than a frame waits for a page; a frame that waits for one is discarded with its holding's contexts (R52). -/
def Waiter.isFrame : Waiter → Bool
  | .frame .. => true
  | _ => false

/-- The indices of a function that goes on are quarantined (R52): accesses that waited for them ask for their pages again, under other
indices, so that its threads can leave. -/
def State.requarantine (s : State) (h : Nat) : State :=
  let waiting := s.hi.pageWait.filter fun w => w.fn = h && w.who.isFrame
  let s := s.quarantine h
  let s := { s with
    hi := { s.hi with pageWait := s.hi.pageWait ++ waiting }
    mm := { s.mm with portq := s.mm.portq.map fun ((k, l) : Nat × List PqEnt) =>
      (k, l.map fun (e : PqEnt) => if e.who.hold = h then { e with page := e.page.map fun (p : Word × Bool) => (p.1, true) } else e) }
  }
  (s.sc.parts.filter fun p => p.hold = h).foldl (fun (s : State) p => s.partTry p) s

/-- Accesses of a holding that wait in post buffers, port queues, at a slice or at a home are dropped; a dropped store counts as
performed. -/
def State.dropAccesses (s : State) (h : Nat) : State :=
  let gone := (s.co.slots.flatMap fun (_, v) => v.post.filter fun e => e.who.hold = h) ++
    (s.mm.portq.flatMap fun (_, l) => l.filter fun e => e.who.hold = h)
  let s := { s with
    co := { s.co with slots := s.co.slots.map fun (k, v) => (k, { v with post := v.post.filter fun e => e.who.hold ≠ h }) }
    mm := { s.mm with
      portq := (s.mm.portq.map fun (k, l) => (k, l.filter fun (e : PqEnt) => e.who.hold ≠ h)).filter fun (_, l) => l ≠ [] }
    hi := { s.hi with waits := s.hi.waits.filter fun w => w.hold ≠ h
                      bad := s.hi.bad.filter fun r => !r.of h
                      got := s.hi.got.filter fun p => !p.1.of h
                      writes := s.hi.writes.filter fun w => w.hold ≠ h }
    hd := { s.hd with tokenQ := s.hd.tokenQ.filter fun q => q.hold ≠ h, grants := s.hd.grants.filter fun q => q.hold ≠ h } }
  gone.foldl (fun s e => s.noteDone e.note) s

/-- The copy and matrix commands of a holding are abandoned (R110, step 2): its contexts are empty, and their timelines keep their
values; commands appended later take the numbers that follow (DEDUCED, log entry 65). -/
def State.abandon (s : State) (h : Nat) : State :=
  { s with en := { s.en with
    copy := s.en.copy.map fun ((k, c) : Nat × CopyCtx) =>
      (k, if (s.hplot h).covers (k / 4) && bit (s.hcctx h) (k % 4) then
        { count := c.count, last := c.count, err := c.err, cause := c.cause, ecmd := c.ecmd } else c)
    mx := s.en.mx.map fun ((k, c) : Nat × MxCtx) =>
      (k, if (s.hplot h).hasCluster (k / 4) && bit (s.hmctx h) (k % 4) then
        { count := c.count, last := c.count, err := c.err, cause := c.cause, ecmd := c.ecmd } else c) } }

/-- Contexts, frames, parked packets, dispatch and search queues and pending records of a holding are discarded (R110, step 3), and what
waits for its page requests, whose answers are discarded too (R52, R141). -/
def State.discard (s : State) (h : Nat) : State :=
  let f := fun (l : Listed) => decide (l.hold ≠ h)
  let s := s.quarantine h
  let s := { s with
    sc := { s.sc with
      launches := s.sc.launches.filter fun l => l.hold ≠ h
      pools := s.sc.pools.filter fun p => p.1 ≠ h
      frames := s.sc.frames.filter fun l => l.hold ≠ h
      disp := s.sc.disp.filter fun l => l.hold ≠ h
      stile := s.sc.stile.filter f
      resume := s.sc.resume.filter f
      search := s.sc.search.filter f
      flight := s.sc.flight.filter fun p => p.thr.hold ≠ h
      faults := s.sc.faults.filter fun r => r.hold ≠ h
      lostb := s.sc.lostb.filter fun p => p.1 ≠ h
      parts := s.sc.parts.filter fun p => p.hold ≠ h
      qreqs := s.sc.qreqs.filter fun q => q.hold ≠ h
      added := s.sc.added.filter fun p => p.1 ≠ h }
    co := { s.co with barMsg := s.co.barMsg.filter fun m => m.hold ≠ h }
    en := { s.en with wakes := s.en.wakes.filter fun w => w.hold ≠ h }
    hi := { s.hi with reqs := s.hi.reqs.map fun (r : HostReq) =>
                        (match r.purpose with
                         | .line .. => r
                         | .engLine .. => r
                         | _ => if r.fn = h then { r with purpose := .dropped } else r)
                      arrived := s.hi.arrived.filter fun p => p.1 ≠ h
                      stops := s.hi.stops.filter fun p => p.1 ≠ h }
    hd := { s.hd with ended := s.hd.ended.filter fun p => p.1 ≠ h } }
  s.tlbDrop fun t => t.hold = h

/-- Frames of a holding become FREE in memory (R130). -/
def State.freeFrames (s : State) (h : Nat) : State :=
  (s.sc.frames.filter fun f => f.hold = h).foldl (fun s f => s.setFst h f.mva f.rgn .free) s

/-- Steps 2 to 5 of R110: commands abandoned, work discarded, state zeroed, L2 lines invalidated, keys cleared. -/
def State.wipe (s : State) (h : Nat) : State :=
  let w := (s.hold h).words
  let at_ := (s.hplot h).hasCluster
  let (lo, hi) := keysOf w
  let s := ((((s.freeFrames h).abandon h).dropAccesses h).discard h)
  let s := ((s.zeroShares at_ { sharesOf w with cctx := 0, mctx := 0 }).zeroHc h at_).dropRegs h fun _ => true
  (s.clearKeys lo hi fun _ => false).modHold h fun v => { v with moves := [] }

/-- The flits and flushes of a holding that wait in the mesh and before the links are discarded (R110, step 6); a store among them
counts as performed. -/
def State.dropFlits (s : State) (h : Nat) : State :=
  let gone := fun (f : TxFlit) => decide (f.hold = h)
  let notes := s.net.links.flatMap fun ((_, l) : Nat × Link) => (l.queue.filter gone).filterMap (·.note)
  let s := { s with net := { s.net with
    links := (s.net.links.map fun ((k, l) : Nat × Link) => (k, { l with queue := l.queue.filter fun f => !gone f })).filter
      fun (_, l) => decide (l ≠ ({} : Link))
    flits := s.net.flits.filter fun f => f.hold ≠ h } }
  notes.foldl (fun s n => s.noteDone n) s

/-- Step 6 of R110: rotas opened, queued link flits discarded, cells reset. -/
def State.openShares (s : State) (h : Nat) : State :=
  let s := s.dropFlits h
  let s := { s with net := { s.net with
    rotas := (s.net.rotas.map fun ((k, r) : Nat × Rota) => (k, { r with active := openEntries r.active h, shadow := openEntries r.shadow h })).filter
      fun (_, r) => decide (r ≠ ({} : Rota)) } }
  let s := { s with hd := { s.hd with bucket := s.hd.bucket.filter fun (k, _) => k % 64 ≠ h
                                      loan := s.hd.loan.filter fun (k, _) => k % 64 ≠ h } }
  s.resetCells (s.hword h 0x90) h

/-- Step 7 of R110, once the crier has carried the resets of the cells (R154): the holding is FREE, its cells unassigned, the table
rebuilt. What has come for the holding since the steps before is discarded with it. A new holding of the number finds its contexts and
its chain as at reset (R78, R277). When the last SLICED holding leaves the ring, holding 0 goes on as before the ring (R111, R116). -/
def State.unmake (s : State) (h : Nat) : State :=
  let s := (s.wipe h).dropFlits h
  let turn : Bool := decide (s.hd.turn = h)
  let x := sharesOf (s.hold h).words
  let s := s.zeroShares (s.hplot h).hasCluster ⟨0, 0, 0, x.cctx, 0, x.mctx⟩
  let s := s.modFn h fun f => { f with chain := {} }
  let cells := s.hword h 0x90
  let s := (s.upto 64 fun s c => if bit cells c then s.setCell c { s.cell c with owner := 0 } else s).setHold h {}
  let s := if turn && s.ringed then s.startTurn else if s.ringed then s
    else
      let s := { s with hd := { s.hd with turn := 0 } }
      if (s.hold 0).stopped && !s.frozen 0 then s.endStop 0 else s
  s.capBuild

end Sys2Proof.Machine
end

