-- ==== Sys2Proof/Machine/System.lean ====
section
/-! DEFINITION. The system instructions: SPILL, RESTO, RGNOP, KEYSET, TLBINV, ROTA, SCALL, SRET, IDLE and PGVER (R460-R469,
R96-R116, R219-R221, R479-R485). -/

namespace Sys2Proof.Machine

/-! ### SPILL, RESTO (R461, R462) -/

/-- SPILL (R461): the thread of the named slot is ordered out, and the instruction completes once it has left. -/
def execSpill (f : Fields) (s : State) : Host.Outcome State Fault Refusal :=
  issue (.spill f) s fun f s =>
    let n := if f.a.cls = .I then bits f.imm.toNat 3 0 else bits (s.g f.a).toNat 3 0
    let v := s.slotAt s.core n
    if s.slot.sent then (if v.leave = .stay then .ok (.step s) else stay s)
    else if s.ownerNow s.core n ≠ some s.thr.hold || n = s.slotNo || (v.thr.map (·.root)) = some true then raise s 0x16
    else if v.thr.isNone then .ok (.step s)
    else stay ((s.orderSpill (slotKey s.core n)).modSlot fun v => { v with sent := true })

/-- RESTO with FRM = 0 (R462): a stopped or stalled engine context is restarted. -/
def execResto (f : Fields) (s : State) : Host.Outcome State Fault Refusal :=
  issue (.resto f) s fun f s => do
    let w := bits (s.g f.a).toNat 31 0
    let _ ← timelineM s (s.g f.a)
    if bits w 31 30 = 2 then raise s 0x16
    else
      let (mx, key) := tlCtx w
      .ok (.step (s.restart mx key fun s c => s.copyBytes (c.eng key) c))

/-- The MVA names a frame of some frame pool of the holding: of the holding's block, of a region that
it has launched, or one that is reserved. -/
def State.inPool (s : State) (h mva : Nat) : Bool :=
  let range := fun (base n : Nat) => base ≤ mva && mva < base + 256 * n
  range (s.hword h 0x28) (bits (s.hword h 0x30) 31 0) || (s.frame h mva).isSome ||
  s.sc.pools.any fun p => p.1 = h && range p.2.1 p.2.2

/-- A page-parked frame goes to the resume list of the core where it parked (R130, R136). -/
def State.requeue (s : State) (h mva : Nat) : State :=
  match s.frame h mva with
  | none => s
  | some f =>
    if f.st ≠ .page then s
    else
      let s := (s.setFst h mva f.rgn .spill).linkFrame h f.rgn mva
      { s with sc := { s.sc with resume := s.sc.resume ++ [(⟨h, f.core, 0, mva⟩ : Listed)] } }

/-- RESTO with FRM = 1 (R462). -/
def execRestoFrame (f : Fields) (s : State) : Host.Outcome State Fault Refusal :=
  issue (.restoFrame f) s fun f s =>
    let a := (s.g f.a).toNat
    if a % 256 ≠ 0 then raise s 0x14 0 (s.g f.a)
    else if !s.inPool s.thr.hold a then raise s 0x16 0 (s.g f.a)
    else .ok (.step (s.requeue s.thr.hold a))

/-! ### RGNOP (R106-R114, R463, R482-R485) -/

/-- The words that RESIZE keeps when the block gives 0 (R482). -/
def keptWords : List Nat := [0x28, 0x30, 0x38, 0x40, 0x78, 0x80, 0x88, 0x98]

/-- The value of a kept word, without the reserved bits of word 0x88 (R5). -/
def keptIn (w : Tab Word) (o : Nat) : Nat := if o = 0x88 then bits (wordIn w o) 56 0 else wordIn w o

/-- The block of a RESIZE with the kept words filled in (R482). -/
def keepWords (old new : Tab Word) : Tab Word :=
  keptWords.foldl (fun (t : Tab Word) o => if keptIn new o = 0 then Tab.set 0 t o (Tab.get 0 old o) else t) new

/-- Banks are gained or lost only above the highest bank already owned (R108). -/
def banksOk (old new : Nat) : Bool :=
  (List.range 32).all fun b =>
    (bit old b = bit new b) || (!bit old b && (List.range 32).all fun c => !(bit old c && b < c)) ||
    (bit old b && (List.range 32).all fun c => !(bit old c && bit new c && b < c))

/-- RESIZE changes what only a FROZEN holding may change (R108, R482). -/
def frozenOnly (old given new : Tab Word) : Bool :=
  (keptWords.any fun o => keptIn given o ≠ 0 && keptIn given o ≠ keptIn old o) ||
  wordIn old 0x10 ≠ wordIn new 0x10 || bits (wordIn old 0x18) 63 32 ≠ bits (wordIn new 0x18) 63 32 ||
  bits (wordIn old 0x18) 19 16 ≠ bits (wordIn new 0x18) 19 16 || bits (wordIn old 0x20) 31 0 ≠ bits (wordIn new 0x20) 31 0 ||
  (keysOf old).1 < (keysOf new).1 || (keysOf new).2 < (keysOf old).2 || minus (wordIn old 0x90) (wordIn new 0x90) ≠ 0

/-- The plot, SLOTS or MOVS of two blocks differ (R114). -/
def placeDiffers (w x : Tab Word) : Bool :=
  wordIn w 0x10 ≠ wordIn x 0x10 || bits (wordIn w 0x18) 15 0 ≠ bits (wordIn x 0x18) 15 0 ||
  bits (wordIn w 0x18) 19 16 ≠ bits (wordIn x 0x18) 19 16

/-- The slot number or core of a root sprig of the holding would be lost (R480). -/
def State.rootLost (s : State) (h : Nat) (w : Tab Word) : Bool :=
  s.co.slots.any fun (k, v) => (v.thr.map fun t => t.hold = h && t.root) = some true &&
    (!bit (wordIn w 0x18) (k % 16) || !(plotOf (wordIn w 0x10)).covers (k / 16))

/-- Slots whose threads a RESIZE spills: lost slots, and slots with a carve-out whose rank changes (R108, R191). -/
def State.resizeSpills (s : State) (h : Nat) (w : Tab Word) : List Nat :=
  let old := s.hslots h
  let new := bits (wordIn w 0x18) 15 0
  (s.slotsOf h).filter fun k =>
    !bit new (k % 16) || (popc old (k % 16) ≠ popc new (k % 16) && ((Tab.get {} s.co.slots k).thr.map (·.stkc)).getD 0 ≠ 0)

/-- The code with which RESIZE answers before it changes anything (R108, R114, R480, R482). -/
def State.resizeCode (s : State) (h : Nat) (given new : Tab Word) : Nat :=
  let v := s.hold h
  let ring := s.inRing h && (h ≠ 0 || s.ringed)
  if v.st = .active && frozenOnly v.words given new then 2
  else if h = 0 && ((s.ringed && placeDiffers v.words new) || s.rootLost 0 new) then 2
  else if !blockOk new ring || (h ≠ 0 && ring && placeDiffers new (s.hold 0).words) ||
      !banksOk (s.hbanks h) (bits (wordIn new 0x18) 63 32) then 3
  else if s.conflict h new ring then 4
  else 0

/-- The core to which a tile of a launch is dealt (R123). -/
def dealCore (plot dims : Nat) (tile : BitVec 48) : Nat :=
  let p := plotOf plot
  let x := bits tile.toNat 15 0
  let y := bits tile.toNat 31 16
  coreAt (p.x0 + x / 2 ^ bits dims 51 48 % (p.x1 + 1 - p.x0)) (p.y0 + y / 2 ^ bits dims 55 52 % (p.y1 + 1 - p.y0))

/-- What is left of a plot inside another; the whole of the other when nothing is left (DESIGN CHOICE, log entry 83). -/
def Plot.clip (p q : Plot) : Plot :=
  let r : Plot := ⟨max p.x0 q.x0, max p.y0 q.y0, min p.x1 q.x1, min p.y1 q.y1⟩
  if r.x0 ≤ r.x1 && r.y0 ≤ r.y1 then r else q

/-- The word of a rectangle. -/
def Plot.word (p : Plot) : Word := BitVec.ofNat 64 (p.x0 + p.y0 * 2 ^ 8 + p.x1 * 2 ^ 16 + p.y1 * 2 ^ 24)

/-- The effective plot of a region as a new plot of the holding leaves it (R108, R118). -/
def State.plotLeft (s : State) (h rgn : Nat) (new : Plot) : Plot :=
  match s.inherit h (s.chainOf h rgn) 0x10 63 0 0 with
  | 0 => new
  | v => (plotOf v).clip new

/-- Work that waits in clusters that leave the plot (R108): queued sprigs are dealt or pushed again over the region's effective
plot, and parked threads wait at the new plot's corner. -/
def State.replaceWork (s : State) (h : Nat) (new : Plot) : State :=
  let l := s.sc.launches.map fun (l : Launch) => if l.hold = h then { l with plot := (s.plotLeft h l.rgn new).word } else l
  let plotFor := fun (id : Nat) => ((l.find? fun x => x.id = id).map (·.plot)).getD new.word
  let corner := coreAt new.x0 new.y0
  let gone := fun (k : Nat) => !new.hasCluster k
  let disp := s.sc.disp.map fun (d : Disp) =>
    if d.hold = h && !new.covers d.core then
      (match s.frame h d.mva with
       | some f => { d with core := dealCore (plotFor d.launch).toNat f.grid.toNat f.tile }
       | none => d)
    else d
  let moved := s.sc.search.filter fun e => e.hold = h && gone e.unit
  let pushed := moved.map fun e =>
    let p := plotOf (plotFor (((s.frame h e.mva).map (·.launch)).getD 0)).toNat
    { e with unit := clusterOf (coreAt p.x0 p.y0) }
  let kept := s.sc.search.filter fun e => !(e.hold = h && gone e.unit)
  let search := pushed.foldl (fun (q : List Listed) e => if bit (s.fn h).sqmode.toNat e.sub then e :: q else q ++ [e]) kept
  { s with sc := { s.sc with
    launches := l
    disp := disp
    search := search
    stile := s.sc.stile.map fun (e : Listed) => if e.hold = h && gone e.unit then { e with unit := clusterOf corner } else e
    resume := s.sc.resume.map fun (e : Listed) => if e.hold = h && !new.covers e.unit then { e with unit := corner } else e
    frames := s.sc.frames.map fun (f : FrameRec) => if f.hold = h && !new.covers f.core then { f with core := corner } else f } }

/-- RESIZE takes effect (R108, R482): lost shares are zeroed, lost keys cleared, the block becomes the holding's. A subset register
that is left outside the plot is invalid until it is rewritten (R204). -/
def State.resizeDo (s : State) (h pa : Nat) (w : Tab Word) : State :=
  let old := (s.hold h).words
  let p := s.hplot h
  let q := plotOf (wordIn w 0x10)
  let gone := fun k => p.hasCluster k && !q.hasCluster k
  let s := (((s.zeroShares gone (sharesOf old)).zeroHc h gone).dropRegs h gone).zeroShares p.hasCluster ((sharesOf old).minus (sharesOf w))
  let s := if wordIn old 0x10 = wordIn w 0x10 then s else s.replaceWork h q
  let s := s.clearKeys (keysOf old).1 (keysOf old).2 fun k => (keysOf w).1 ≤ k && k ≤ (keysOf w).2
  let s := keptWords.foldl (fun (s : State) o =>
    if s.rootWord (pa + o) = Tab.get 0 w o then s else s.rootPut h 0 (pa + o) (Tab.get 0 w o)) s
  let s := (s.modHold h fun v => { v with words := w, addr := some pa, stopped := s.halted h }).modFn h fun f =>
    { f with subBad := BitVec.ofNat 16 ((List.range 16).foldl (fun n i =>
        n + (if f.subBad.getLsbD i || (Tab.get 0 f.subset i ≠ 0 && !(plotOf (Tab.get 0 f.subset i).toNat).inside q) then 2 ^ i else 0)) 0) }
  let s := (List.range 64).foldl (fun (s : State) c =>
    if bit (wordIn w 0x90) c && !bit (wordIn old 0x90) c then s.setCell c { s.cell c with owner := h } else s) s
  ((s.resetCells (minus (wordIn old 0x90) (wordIn w 0x90)) 0).writeFrz h).capBuild

/-- CREATE and SLICE take effect (R105, R106, R160, R277, R482); the new holding's chain is as at reset (R78, R83). -/
def State.createDo (s : State) (h pa : Nat) (w : Tab Word) (st : HState) : State :=
  let at_ := (plotOf (wordIn w 0x10)).hasCluster
  let first : Bool := decide (st = .sliced) && !s.ringed
  let s := (s.zeroShares at_ (sharesOf w)).zeroHc h at_
  let s := (s.setHold h { st := st, words := w, addr := some pa, stopped := st = .sliced }).modFn h fun f => { f with chain := {} }
  let s := if first then { s with hd := { s.hd with turn := 0, turnAt := s.cyc s.turnCore } } else s
  ((s.resetCells (wordIn w 0x90) h).writeFrz h).capBuild

/-- Every engine context of the holding is idle: nothing waits in it that could still run (R109). -/
def State.enginesIdle (s : State) (h : Nat) : Bool :=
  (s.en.copy.all fun (k, c) => !((s.hplot h).covers (k / 4) && bit (s.hcctx h) (k % 4)) || c.err || c.susp || (c.queue = [] && c.wait = [] && c.count = c.last)) &&
  (s.en.mx.all fun (k, c) => !((s.hplot h).hasCluster (k / 4) && bit (s.hmctx h) (k % 4)) || c.err || (c.queue = [] && c.wait = [] && c.count = c.last))

/-- RGNOP answers a code. -/
def answerCode (s : State) (f : Fields) (code : Nat) : M Fin := .ok (.step (s.dst f.d (BitVec.ofNat 64 code)))

/-- The operation of the present slot goes on: it waits for cells to be reset (R154). -/
def State.busyCells (s : State) (h op mask : Nat) : State :=
  s.modHold h fun v => { v with busy := some ⟨slotKey s.core s.slotNo, op, 1, mask, [], 0⟩ }

/-- The operation of the present slot waits for threads to leave. -/
def State.busyThreads (s : State) (h op : Nat) (w : Tab Word) (pa : Nat) : State :=
  s.modHold h fun v => { v with busy := some ⟨slotKey s.core s.slotNo, op, 0, 0, w, pa⟩ }

/-- The last wait of an operation: until the crier has carried the resets of its cells (R154); then a holding that is destroyed is
FREE (R110). -/
def finishCells (s : State) (f : Fields) (h op mask : Nat) : M Fin :=
  if s.cellsPending mask then stay (s.busyCells h op mask)
  else answerCode ((if op = 4 then s.unmake h else s).modHold h fun v => { v with busy := none }) f 0

/-- A holding's block may be read and written at a device physical address; otherwise the instruction waits (R56, R60). -/
def blockOpen (s : State) (a : Nat) : M State := do
  lostRead s (BitVec.ofNat 64 a)
  match s.blockGate s.asker a with
  | (true, s) => .ok s
  | (false, s) => stay s

/-- FRZ of a holding may be written (R487). -/
def frzOpen (s : State) (h : Nat) : M State :=
  match s.frzReady s.asker h with
  | (true, s) => .ok s
  | (false, s) => stay s

/-- The common course of RGNOP: BUSY, also while a reset of the holding is under way (R115, R116), an operation of the same slot that
goes on, or the start of a new one (R107, R484). -/
def rgnop (op : Nat) (f : Fields) (s : State) (start : State → Nat → Nat → M Fin) (go : State → Nat → Busy → M Fin) : M Fin := do
  let s ← release s modulePlot
  let pa := (s.g f.a).toNat
  let h := bits (s.g f.b).toNat 5 0
  match s.busyWith h with
  | some b =>
    if b.by_ = slotKey s.core s.slotNo && b.op = op then
      (if b.stage = 1 then finishCells s f h op b.cells else go s h b)
    else answerCode s f 1
  | none => if (s.hold h).reset ≠ 0 then answerCode s f 1 else start s pa h

/-- CREATE and SLICE from FREE. -/
def makeHolding (op : Nat) (st : HState) (ring : Bool) (f : Fields) (s : State) (pa h : Nat) : M Fin :=
  if h = 0 || s.live h then answerCode s f 2
  else if pa % 256 ≠ 0 || dramSize < pa + 256 then answerCode s f 3
  else do
    let s ← blockOpen s pa
    let w := s.blockAt pa
    if !blockOk w ring || (ring && (placeDiffers w (s.hold 0).words || bits (s.hword 0 0x50) 31 0 < 4096)) then answerCode s f 3
    else if s.conflict h w ring then answerCode s f 4
    else finishCells (s.createDo h pa w st) f h op (wordIn w 0x90)

/-- RGNOP.create (R106). -/
def execRgnopCreate (f : Fields) (s : State) : Host.Outcome State Fault Refusal :=
  issue (.rgnopCreate f) s fun f s => rgnop 0 f s (makeHolding 0 .active false f) (fun s h b => finishCells s f h 0 b.cells)

/-- RGNOP.slice (R114). -/
def execRgnopSlice (f : Fields) (s : State) : Host.Outcome State Fault Refusal :=
  issue (.rgnopSlice f) s fun f s => rgnop 5 f s (makeHolding 5 .sliced true f) (fun s h b => finishCells s f h 5 b.cells)

/-- A RESIZE is given up before it has changed anything: the holding goes on as it was. -/
def State.resizeOff (s : State) (h : Nat) : State :=
  let s := s.modHold h fun v => { v with busy := none }
  if (s.hold h).stopped && !s.halted h then s.endStop h else s

/-- RESIZE once its threads have left. A ring that has grown meanwhile may forbid it (R112, R114). -/
def resizeEnd (f : Fields) (s : State) (h pa : Nat) (w : Tab Word) : M Fin :=
  if h = 0 && s.ringed && placeDiffers (s.hold 0).words w then answerCode (s.resizeOff h) f 2
  else if h ≠ 0 && s.inRing h && placeDiffers w (s.hold 0).words then answerCode (s.resizeOff h) f 3
  else do
    let s ← blockOpen s pa
    let s ← frzOpen s h
    let lost := minus (s.hword h 0x90) (wordIn w 0x90)
    finishCells (s.resizeDo h pa w) f h 1 lost

/-- RGNOP.resize (R108). -/
def execRgnopResize (f : Fields) (s : State) : Host.Outcome State Fault Refusal :=
  issue (.rgnopResize f) s fun f s => rgnop 1 f s
    (fun s pa h =>
      let v := s.hold h
      if v.st ≠ .active && v.st ≠ .frozen then answerCode s f 2
      else if pa % 256 ≠ 0 || dramSize < pa + 256 then answerCode s f 3
      else do
        let s ← blockOpen s pa
        let given := s.blockAt pa
        let w := keepWords v.words given
        let code := s.resizeCode h given w
        if code ≠ 0 then answerCode s f code
        else
          match s.resizeSpills h w with
          | [] => resizeEnd f s h pa w
          | ks =>
            let s := ks.foldl (fun (s : State) k => s.orderSpill k) s
            stay ((s.modHold h fun v => { v with stopped := true }).busyThreads h 1 w pa))
    (fun s h b => match s.resizeSpills h b.words with
      | [] => resizeEnd f s h b.addr b.words
      | ks => stay (ks.foldl (fun (s : State) k => s.orderSpill k) s))

/-- RGNOP.freeze (R109): as a turn's end, then the holding waits until no thread and no context runs. -/
def execRgnopFreeze (f : Fields) (s : State) : Host.Outcome State Fault Refusal :=
  issue (.rgnopFreeze f) s fun f s => rgnop 2 f s
    (fun s pa h =>
      let v := s.hold h
      if v.st ≠ .active && v.st ≠ .sliced then answerCode s f 2
      else if pa % 256 ≠ 0 then answerCode s f 3
      else do
        let s ← frzOpen s h
        let (ok, s) := if s.ringed then s.turnReady else (true, s)
        if !ok then stay s
        else
        let mine : Bool := s.ringed && s.inRing h && decide (s.hd.turn = h)
        let s := ((s.modHold h fun v => { v with st := .frozen, prev := v.st }).beginEnd h).writeFrz h
        let s := if mine then s.startTurn else s
        if s.slotsOf h = [] && s.enginesIdle h then answerCode s f 0 else stay (s.busyThreads h 2 [] pa))
    (fun s h _ =>
      if s.slotsOf h = [] && s.enginesIdle h then answerCode (s.modHold h fun v => { v with busy := none }) f 0 else stay s)

/-- RGNOP.thaw (R106). A turn that a frozen member had, since every member was frozen, passes on (R113). -/
def execRgnopThaw (f : Fields) (s : State) : Host.Outcome State Fault Refusal :=
  issue (.rgnopThaw f) s fun f s => rgnop 3 f s
    (fun s pa h =>
      if !s.frozen h then answerCode s f 2
      else if pa % 256 ≠ 0 then answerCode s f 3
      else do
        let s ← frzOpen s h
        let s := s.modHold h fun v => { v with st := v.prev, prev := .free }
        let s := if s.ringed && s.inRing h && s.frozen s.hd.turn then s.startTurn else s
        answerCode ((if s.halted h then s else s.endStop h).writeFrz h) f 0)
    (fun s _ _ => answerCode s f 0)

/-- RGNOP.destroy (R110). -/
def execRgnopDestroy (f : Fields) (s : State) : Host.Outcome State Fault Refusal :=
  issue (.rgnopDestroy f) s fun f s =>
    let fin := fun (s : State) (h : Nat) =>
      finishCells ((s.wipe h).openShares h) f h 4 (s.hword h 0x90)
    rgnop 4 f s
      (fun s pa h =>
        if h = 0 || !s.live h then answerCode s f 2
        else if pa % 256 ≠ 0 then answerCode s f 3
        else
          let s := (s.requarantine h).preempt h
          if s.slotsOf h = [] then fin s h else stay (s.busyThreads h 4 [] pa))
      (fun s h _ => if s.slotsOf h = [] then fin s h else stay s)

/-! ### KEYSET (R464) -/

/-- Bytes at a device physical address, as root's operations read them (R484). -/
def State.rootBytes (s : State) (pa n : Nat) : List Byte := (List.range (n / 8)).flatMap fun i => leBytes 8 (s.rootWord (pa + 8 * i)).toNat

/-- Bytes at a device physical address may be read; otherwise the instruction waits (R56, R60). -/
def rootOpen (s : State) (pa n : Nat) : M State := do
  lostRead s (BitVec.ofNat 64 pa)
  match s.gateWords s.asker ((List.range (n / 8)).map fun i => pa + 8 * i) with
  | (true, s) => .ok s
  | (false, s) => stay s

/-- KEYSET (R464): the data key and the tweak key are loaded into the named slot; lines under its old key are written back first. -/
def execKeyset (f : Fields) (s : State) : Host.Outcome State Fault Refusal :=
  issue (.keyset f) s fun f s => do
    let s ← release s modulePlot
    let pa := (s.g f.a).toNat
    let k := bits (s.g f.b).toNat 7 0
    if pa % 64 ≠ 0 then raise s 0x14 0 (s.g f.a)
    else if dramSize < pa + 64 then raise s 0x16 0 (s.g f.a)
    else do
      let s ← rootOpen s pa 64
      let v := BitVec.ofNat 512 (leNat (s.rootBytes pa 64))
      let s := s.l2Flush fun l => l.key = k
      .ok (.step { s with hd := { s.hd with keys := Tab.set none s.hd.keys k (some v) } })

/-- KEYSET with CLR = 1 (R464). -/
def execKeysetClear (f : Fields) (s : State) : Host.Outcome State Fault Refusal :=
  issue (.keysetClear f) s fun f s => do
    let s ← release s modulePlot
    .ok (.step (s.clearKey (bits (s.g f.b).toNat 7 0)))

/-! ### TLBINV (R465) -/

/-- An access of the holding that has been translated is not yet performed: it waits in a post buffer, a port queue, a pool, on its way
to a home, at a host port or link, or for an answer from outside the module. -/
def State.accessOpen (s : State) (h : Nat) : Bool :=
  let mine := fun (e : PqEnt) => decide (e.who.hold = h) && (match e.tgt with | .bank .. => false | _ => true)
  (s.co.slots.any fun (_, v) => v.post.any mine) || (s.mm.portq.any fun (_, l) => l.any mine) ||
  (s.mm.pools.any fun (_, l) => l.any fun (e : PoolEnt) => e.hold = h) ||
  (s.hi.writes.any fun (w : HostWrite) => w.hold = h) ||
  (s.hi.out.any fun (m : OutMsg) => decide (m.msg.hold = h) && (match m.msg with | .write .. => true | .atomicReq .. => true | _ => false)) ||
  (s.net.links.any fun ((_, l) : Nat × Link) => l.queue.any fun (f : TxFlit) => decide (f.hold = h) &&
    f.msgs.any fun m => match m with | .write .. => true | .atomic .. => true | _ => false) ||
  s.hi.reqs.any fun (r : HostReq) => match r.purpose with
    | .load _ e => e.who.hold = h
    | .atomic _ e => e.who.hold = h
    | .line _ e _ => e.who.hold = h
    | .peer _ e => e.who.hold = h
    | .engine .. => r.fn = h
    | .agent .. => r.fn = h
    | _ => false

/-- A redirected repeat that waits at its port for a page walks again when the page is covered (R486). -/
def State.walkRepeat (s : State) (h : Nat) (covers : Nat → Bool) (e : PqEnt) : PqEnt :=
  match e.page with
  | some (ptr, _) =>
    if e.who.hold ≠ h then e
    else
      match s.reach e.who (refOf ptr 0) e.op.size e.op.size e.need with
      | .ok (.mva a) => if covers a then { e with page := some (ptr, true) } else e
      | _ => { e with page := some (ptr, true) }
  | none => e

/-- Engine work, redirected repeats and part accesses of a holding that wait for a page walk again (R295, R439, R486, R487). -/
def State.walkAgain (s : State) (h : Nat) (covers : Nat → Bool) : State :=
  let hit := fun (o : Option Nat) => match o with | some a => covers a | none => false
  let owns := fun (mx : Bool) (k : Nat) =>
    if mx then (s.hplot h).hasCluster (k / 4) && bit (s.hmctx h) (k % 4) else (s.hplot h).covers (k / 4) && bit (s.hcctx h) (k % 4)
  let s := { s with en := { s.en with
    copy := s.en.copy.map fun ((k, c) : Nat × CopyCtx) => (k, if owns false k && hit c.stall then { c with stall := none } else c)
    mx := s.en.mx.map fun ((k, c) : Nat × MxCtx) => (k, if owns true k && hit c.stall then { c with stall := none } else c) } }
  let s := { s with mm := { s.mm with portq := s.mm.portq.map fun ((k, l) : Nat × List PqEnt) => (k, l.map (s.walkRepeat h covers)) } }
  (s.sc.parts.filter fun p => p.hold = h && covers p.mva).foldl (fun (s : State) p => s.partTry p) s

/-- Two addresses lie in one page, as large as the leaf that maps the first, or in one of 64 KiB where none maps it (R465). -/
def State.onePage (s : State) (h a b : Nat) : Bool :=
  a / 65536 = b / 65536 ||
  (match s.walkFrom a 4 3 (s.hword h 0x40) with
   | .ok (l, _, _) => a / 2 ^ levelShift l = b / 2 ^ levelShift l
   | .error _ => false)

/-- Every pool entry of a holding is to be merged. -/
def State.dueHold (s : State) (h : Nat) : State :=
  { s with mm := { s.mm with pools := s.mm.pools.map fun ((c, l) : Nat × List PoolEnt) =>
      (c, l.map fun e => if e.hold = h then { e with due := true } else e) } }

/-- Queue requests of a holding that wait at a home translate again: their instructions are issued once more (R391). -/
def State.reissueQ (s : State) (h : Nat) : State :=
  (s.sc.qreqs.filter fun q => q.hold = h && q.taken.isNone).foldl (fun (s : State) q =>
    (s.dropQ q.core q.slot).modSlotAt q.core q.slot fun v => { v with sent := false }) s

/-- TLBINV (R465). -/
def execTlbinv (f : Fields) (s : State) : Host.Outcome State Fault Refusal :=
  issue (.tlbinv f) s fun f s =>
    let n := bits f.imm.toNat 13 8
    if n ≠ 0 && !s.thr.root then raise s 0x03
    else
      let h := if s.thr.root then n else s.thr.hold
      let all := f.imm.getLsbD 0
      let mva := (s.g f.a).toNat
      let s := s.tlbDrop fun t => t.hold = h && (all || (bits t.entry.toNat 4 1 ≠ 0 && t.tag = tlbTag t.level mva))
      let s := s.reissueQ h
      if s.accessOpen h then stay (s.dueHold h)
      else .ok (.step (s.walkAgain h fun a => all || s.onePage h a mva))

/-! ### ROTA (R466, R38, R40) -/

/-- The rota that an identifier names; none for a bad one or a mesh output that leads off the mesh (R466, R22). -/
def rotaOf (v : Nat) : Option RotaId :=
  let x := bits v 6 0
  let y := bits v 13 8
  let d := bits v 17 16
  if bits v 61 18 ≠ 0 || bits v 15 14 ≠ 0 || bit v 7 || (bits v 63 62 ≠ 0 && (d ≠ 0 || y ≠ 0)) then none
  else
    match bits v 63 62 with
    | 0 => if (d = 0 && y = 0) || (d = 2 && y = 63) then none else some (.mesh (coreAt x y) d)
    | 1 => if x < 48 then some (.kryas x) else none
    | 2 => if x < 2 then some (.host x) else none
    | _ => if x = 0 then some .master else none

/-- ROTA (R466): the shadow table is written. -/
def execRota (f : Fields) (s : State) : Host.Outcome State Fault Refusal :=
  issue (.rota f) s fun f s => do
    let s ← release s modulePlot
    let pa := (s.g f.b).toNat
    match rotaOf (s.g f.a).toNat with
    | none | some .master => raise s 0x16
    | some r =>
      if pa % 64 ≠ 0 then raise s 0x14 0 (s.g f.b)
      else if dramSize < pa + 64 then raise s 0x16 0 (s.g f.b)
      else do
        let s ← rootOpen s pa 64
        let t := (s.rootBytes pa 64).map (· &&& 0xBF)
        if t.any fun e => (match entryOwner e with | some h => !s.live h | none => false) then raise s 0x16
        else if (s.rota (rotaKey r)).arm then .ok (.step s)
        else .ok (.step (s.modRota (rotaKey r) fun v => { v with shadow := Tab.setBytes [] 0 t }))

/-- ROTA with CTL = 1 (R466): ARM and TEPOCH, or the module epoch at the master. -/
def execRotaCtl (f : Fields) (s : State) : Host.Outcome State Fault Refusal :=
  issue (.rotaCtl f) s fun f s => do
    let s ← release s modulePlot
    let v := (s.g f.b).toNat
    match rotaOf (s.g f.a).toNat with
    | none => raise s 0x16
    | some .master => .ok (.step { s with net := { s.net with epoch := BitVec.ofNat 16 v } })
    | some r => .ok (.step (s.modRota (rotaKey r) fun x => { x with arm := bit v 32, tepoch := BitVec.ofNat 16 (bits v 31 16) }))

/-! ### SCALL, SRET, IDLE (R467, R468) -/

/-- SCALL (R467): a supervisor fault whose %spc names the next instruction. It has issued, so that YLD marks the slot (R307). -/
def execScall (f : Fields) (s : State) : Host.Outcome State Fault Refusal :=
  issue (.scall f) s fun f s =>
    let c := bits f.imm.toNat 7 0
    let s := s.yieldIf f.yld
    if s.thr.s || s.hword s.thr.hold 0x78 = 0 then raise s c
    else raise (s.modThr fun t => { t with pc := t.pc + 12 }) c

/-- SRET (R140, R467). -/
def execSret (f : Fields) (s : State) : Host.Outcome State Fault Refusal :=
  issue (.sret f) s fun _ s => if s.thr.s then .ok (.goto (s.modThr Thread.sret) s.thr.spc) else raise s 0x03

/-- IDLE (R468): the slot waits until its idling ends, an interrupt bit is set or its limit has passed. -/
def execIdle (f : Fields) (s : State) : Host.Outcome State Fault Refusal :=
  issue (.idle f) s fun f s =>
    let n := (s.g f.a).toNat
    let v := s.slot
    let late : Bool := match v.idleBy with | some c => decide (c ≤ s.cyc s.core) | none => false
    if v.sent && (!v.idling || late || v.uipend ≠ 0) then .ok (.step s)
    else if v.sent then stay s
    else if v.uipend ≠ 0 then .ok (.step s)
    else stay (s.modSlot fun v => { v with sent := true, idling := true, idleBy := if n = 0 then none else some (s.cyc s.core + n) })

/-! ### PGVER (R219-R221, R469) -/

/-- A move slot of a holding. -/
def State.move (s : State) (h n : Nat) : Option MoveSlot := Tab.get none (s.hold h).moves n
/-- Set a move slot. -/
def State.setMove (s : State) (h n : Nat) (m : Option MoveSlot) : State :=
  s.modHold h fun v => { v with moves := Tab.set none v.moves n m }

/-- Every registration of a frame is revoked and every pool entry of it is pulled, one that has not been enlisted too (R220). -/
def State.settleFrame (s : State) (frame : Nat) : State :=
  let ks := (s.mm.home.filter fun ((k, _) : Nat × HomeSt) => k % wordSpan / 8192 = frame).map fun (k, _) => k
  let s := ks.foldl (fun (s : State) k => s.settle (k / wordSpan) (k % wordSpan)) s
  let es := s.mm.pools.flatMap fun ((c, l) : Nat × List PoolEnt) =>
    (l.filter fun (e : PoolEnt) => decide (e.word / 8192 = frame)).map fun (e : PoolEnt) => (c, e.home, e.word)
  es.foldl (fun (s : State) (p : Nat × Nat × Nat) => s.pullCore p.2.1 p.2.2 p.1) s

/-- The lowest free move slot. -/
def State.freeMove (s : State) (h : Nat) : Option Nat := (List.range 8).find? fun i => (s.move h i).isNone

/-- PGVER with OP 00 (R219, R469). An address of the direct window has no leaf (R196). -/
def execPgverArm (f : Fields) (s : State) : Host.Outcome State Fault Refusal :=
  issue (.pgverArm f) s fun f s =>
    let a := (s.g f.a).toNat
    let h := s.thr.hold
    if a % 65536 ≠ 0 then raise s 0x14 0 (s.g f.a)
    else if 2 ^ 57 ≤ a then raise s 0x16 0 (s.g f.a)
    else if bits a 56 52 = 0x1F then raise s 0x16 0 (s.g f.a)
    else
      match s.walkNow s.asker a 4 3 (s.hword h 0x40) with
      | (.error .nonres, s) => pageOut s (s.g f.a) a false
      | (.error .perm, s) => raise s 0x16 0 (s.g f.a)
      | (.error .waits, s) => stay s
      | (.ok (l, at_, e), s) =>
        let frame := bits e.toNat 63 34
        if l ≠ 0 || !s.leafOk h l a {} e || bits e.toNat 29 28 ≠ 0 || s.inHdm (frame * 65536) || s.armed (frame * 65536) then
          raise s 0x16 0 (s.g f.a)
        else
          match s.freeMove h with
          | none => .ok (.step (s.dst f.d 1))
          | some i =>
            let s := s.settleFrame frame
            .ok (.step ((s.setMove h i (some ⟨a / 65536, at_, e, frame, 0⟩)).dst f.d (BitVec.ofNat 64 (i * 256))))

/-- PGVER with OP 01 (R469). -/
def execPgverRead (f : Fields) (s : State) : Host.Outcome State Fault Refusal :=
  issue (.pgverRead f) s fun f s =>
    let v := ((s.move s.thr.hold (bits (s.gz f.b).toNat 2 0)).map (·.version)).getD 0
    .ok (.step (s.dst f.d (BitVec.ofNat 64 v)))

/-- A target in a frame, in the new frame. -/
def Tgt.moved (old new : Nat) (t : Tgt) : Tgt :=
  match t with
  | .dev pa leaf =>
    if pa / 65536 = old then
      let pb := new * 65536 + pa % 65536
      .dev pb (leaf.at pb)
    else t
  | _ => t

/-- Accesses held at the homes of a frame, those of threads, queue requests, and those of the host, peers and chains, translate again and
go to the new frame (R221). -/
def State.moveHeld (s : State) (old new : Nat) (h : Nat) : State :=
  let go := fun (x : PqEnt) => if x.who.hold = h then { x with tgt := x.tgt.moved old new } else x
  { s with
    hi := { s.hi with writes := s.hi.writes.map fun (w : HostWrite) => if w.hold = h then { w with tgt := w.tgt.moved old new } else w }
    mm := { s.mm with portq := s.mm.portq.map fun ((k, l) : Nat × List PqEnt) => (k, l.map go) }
    sc := { s.sc with qreqs := s.sc.qreqs.map fun (q : QReq) => if q.hold = h then { q with hdrAt := q.hdrAt.moved old new } else q }
    co := { s.co with slots := s.co.slots.map fun ((k, v) : Nat × Slot) => (k, { v with post := v.post.map go }) } }

/-- PGVER with OP 10 (R221, R469). A frame that has come into the active HDM-DB region since the arm is not remapped: the move is
abandoned (R54; DEDUCED, log entry 64). -/
def execPgverCommit (f : Fields) (s : State) : Host.Outcome State Fault Refusal :=
  issue (.pgverCommit f) s fun f s =>
    let n := bits (s.g f.a).toNat 2 0
    let want := bits (s.g f.a).toNat 63 32
    let frame := bits (s.gz f.b).toNat 29 0
    let h := s.thr.hold
    if dramSize ≤ frame * 65536 || s.inHdm (frame * 65536) then raise s 0x16
    else
      match s.move h n with
      | none => .ok (.step (s.dst f.d 2))
      | some m =>
        match s.hdmGate (some s.asker.who) m.leafAt 8 true h s.thr.rgn with
        | (false, s) => stay s
        | (true, s) =>
          let ok : Bool := decide (m.version = want) && decide (s.rawWord m.leafAt = m.leaf) && !s.inHdm (m.frame * 65536)
          let s := s.setMove h n none
          if ok then
            let e := BitVec.ofNat 64 (bits m.leaf.toNat 33 0 + frame * 2 ^ 34)
            let s := (s.rawPut h s.thr.rgn m.leafAt e).tlbDrop fun t => t.pa = m.leafAt
            .ok (.step ((s.moveHeld m.frame frame h).dst f.d 0))
          else .ok (.step (s.dst f.d 2))

/-- PGVER with OP 11 (R469). -/
def execPgverFree (f : Fields) (s : State) : Host.Outcome State Fault Refusal :=
  issue (.pgverFree f) s fun f s => .ok (.step ((s.setMove s.thr.hold (bits (s.gz f.b).toNat 2 0) none).dst f.d 0))

end Sys2Proof.Machine
end

