-- ==== Sys2Proof/Machine/Ports.lean ====
section
/-! DEFINITION. The steps of accesses on their way: post buffers (R256), port queues (R257, R486), tokens (R101), pools (R209,
R212-R216), evictions (R210), answers (R313) and wakes of parked accesses (R183). -/

namespace Sys2Proof.Machine

/-! ### Post buffers (R256) -/

/-- An older entry of the list touches a word of the entry. -/
def blocked (older : List PqEnt) (e : PqEnt) : Bool := older.any fun o => o.meets e.tgt e.op.size

/-- POST_BUFFER_MOVE (R256): a store goes from a slot's post buffer to its cluster's port queue. A store of a KIND 10 page leaves the ordered
stores with its last part (R266). -/
def execPostBufferMove (s : State) : Host.Outcome State Fault Refusal :=
  let l := s.slot.post
  let n := s.ctl.here.pos
  event s (match l[n]? with
    | none => none
    | some e =>
      if blocked (l.take n) e then none
      else
        let s := (s.modSlot fun v => { v with post := l.eraseIdx n }).toPort s.core e
        some (match e.store with
          | some k => if e.kind = 2 && (l.eraseIdx n).all (fun x => x.store ≠ some k) then s.unorder s.core s.slotNo k else s
          | none => s))

/-! ### The end of an entry -/

/-- An entry as it waits at a slice. -/
def PqEnt.req (e : PqEnt) (k : Nat) : Req := .ent k e.who.core e.who.slot e.acc e.store e.at_

/-- The entry leaves its port queue: strongly ordered accesses and releases are counted down (R262, R264), a store part is
performed (R255). -/
def State.entDone (s : State) (k : Nat) (e : PqEnt) : State :=
  ((s.forget (e.req k)).setPortq k ((s.portq k).erase e)).noteDone e.note

/-- A part of a read in flight has its bytes; an acquire notes the host writes that gave them (R62). -/
def State.accPut (s : State) (e : PqEnt) (bs : List Byte) (src : List (Nat × Nat)) : State :=
  match e.acc with
  | none => s
  | some i =>
    match s.acc i with
    | none => s
    | some a => s.setAcc i (some { a with left := a.left - 1, buf := Tab.setBytes a.buf e.at_ bs, src := a.src ++ src })

/-- A part of a read in flight has met a cause (R486); the first one counts. -/
def State.accFail (s : State) (e : PqEnt) (code sub : Nat) (addr : Word) : State :=
  match e.acc with
  | none => s
  | some i =>
    match s.acc i with
    | none => s
    | some a => s.setAcc i (some { a with left := a.left - 1, cause := if a.cause.isSome then a.cause else some (code, sub, addr) })

/-- The entry is answered with bytes. -/
def State.entOk (s : State) (k : Nat) (e : PqEnt) (bs : List Byte) (src : List (Nat × Nat) := []) : State := (s.entDone k e).accPut e bs src

/-- The entry meets a cause after issue: a read hands it to its thread, a store is dropped with a record (R486). -/
def State.entFail (s : State) (k : Nat) (e : PqEnt) (code sub : Nat) (addr : Word) : State :=
  let s := s.entDone k e
  if e.store.isSome then s.addFault (dropRec e.who.hold e.who.rgn code addr) else s.accFail e code sub addr

/-! ### Performing at a bank (R254, R363, R486) -/

/-- The access kind of an entry at a bank (R176). -/
def PqEnt.bankKind (e : PqEnt) : Nat :=
  match e.op with
  | .rd _ => if e.vec then kVR else kLD
  | .hd _ => kVR
  | .wr _ | .bits .. => if e.vec then kVW else kST
  | _ => kAT

/-- The address of a word of the entry's unit. -/
def PqEnt.wordAddr (e : PqEnt) (off w : Nat) : Word := Machine.wordAddr (refOf e.addr 0) off w

/-- Replace an entry of a port queue. -/
def State.setEnt (s : State) (k : Nat) (e e' : PqEnt) : State := s.setPortq k ((s.portq k).map fun x => if x = e then e' else x)

/-! ### Redirected repeats (R178, R486) -/

/-- The entry's agent as it asks for a translation at its port. -/
def PqEnt.asker (e : PqEnt) (k : Nat) : Asker := ⟨e.req k, e.who.hold, e.who.rgn⟩

/-- The bytes that an operation needs at a target: a tile's header has 16. -/
def PqOp.reach : PqOp → Nat
  | .hd _ => 16
  | o => o.size

/-- The part of an operation for some of its bytes; one that is no plain read or write stays whole. -/
def PqOp.slice (o : PqOp) (off n : Nat) : PqOp :=
  match o with
  | .rd _ => .rd n
  | .wr d => .wr ((d.drop off).take n)
  | .bits m v => .bits ((m.drop off).take n) ((v.drop off).take n)
  | o => o

/-- Why a redirected repeat has no targets yet, or none: a page that is not resident, an entry of the table that waits for the host
(R56), or a cause. -/
inductive EntStop where
  | page (mva : Nat)
  | waits
  | bad (code : Nat)
deriving DecidableEq, Repr

/-- The targets of a redirected repeat from an MVA on, page by page (R196, R201, R261). -/
def State.entPages (s : State) (k : Nat) (e : PqEnt) : Nat → Nat → Nat → Except EntStop (List (Tgt × Nat)) × State
  | 0, _, _ => (.ok [], s)
  | fuel + 1, mva, n =>
    if n = 0 then (.ok [], s)
    else
      let m := min n (65536 - mva % 65536)
      let rest := fun (s : State) (t : Tgt) =>
        match s.entPages k e fuel (mva + m) (n - m) with
        | (.ok l, s) => (.ok ((t, m) :: l), s)
        | r => r
      match s.spotOf e.who.hold mva m with
      | .error c => (.error (.bad c), s)
      | .ok (.win core off) => rest s (.bank core e.who.hold off)
      | .ok (.mva _) =>
        match s.translate (e.asker k) k mva e.need with
        | (.ok t, s) => if s.peerBad t then (.error (.bad 0x16), s) else rest s t
        | (.error .perm, s) => (.error (.bad 0x16), s)
        | (.error .nonres, s) => (.error (.page mva), s)
        | (.error .waits, s) => (.error .waits, s)

/-- The targets of a redirected repeat at an MVA: pages of different KIND fault KINDSTRAD before any byte moves (R263). -/
def State.entSpan (s : State) (k : Nat) (e : PqEnt) (mva n : Nat) : Except EntStop (List (Tgt × Nat)) × State :=
  let next := (mva / 65536 + 1) * 65536
  if mva + n ≤ next then s.entPages k e 2 mva n
  else
    match s.walksOpen (e.asker k) [mva, next] with
    | (false, s) => (.error .waits, s)
    | (true, s) =>
      match s.kindAt e.who.hold mva, s.kindAt e.who.hold next with
      | some a, some b => if a ≠ b then (.error (.bad 0x13), s) else s.entPages k e 3 mva n
      | _, _ => s.entPages k e 3 mva n

/-- The entries that carry a redirected repeat on: one, or of a vector or tile unit one for each line of a bank and each element or
beat of global memory (R181, R261). -/
def PqEnt.parts (e : PqEnt) (r : Ref) (ps : List (Tgt × Nat)) : List PqEnt :=
  let at_ := fun (t : Tgt) (o : Nat) (op : PqOp) =>
    { e with op := op, at_ := e.at_ + o, tgt := t, addr := (r.add o).word, kind := t.kind, paid := false, page := none
             al := if o = 0 then e.al else 1 }
  match e.op, ps with
  | .hd _, (.bank c h off, _) :: _ => [at_ (.bank c h off) 0 (.hd (128 - off % 128))]
  | .hd _, _ => (cutParts 8 ps 0).map fun (t, o, m) => at_ t o (.rd m)
  | op, (t, _) :: _ =>
    if e.vec then
      let gran := match t, op with | .bank .., _ => 128 | _, .rd _ => 8 | _, _ => 32
      (cutParts gran ps 0).map fun (t, o, m) => at_ t o (op.slice o m)
    else [at_ t 0 op]
  | _, [] => []

/-- An entry gives way to those that carry it on: the read or store that it belongs to has that many more parts, and strongly ordered
accesses are counted anew (R262); a store of which all that is left goes to KIND 10 pages leaves the ordered stores (R266). -/
def State.goParts (s : State) (k : Nat) (e : PqEnt) (l : List PqEnt) : State :=
  let more := l.length - 1
  let s : State := match e.acc with
    | some i => s.setAcc i ((s.acc i).map fun a => { a with left := a.left + more })
    | none => s
  let s := s.modSlotAt e.who.core e.who.slot fun v =>
    { v with strong := v.strong + (l.filter fun (x : PqEnt) => x.kind = 1).length - (if e.kind = 1 then 1 else 0)
             stores := if more = 0 then v.stores else v.stores.map fun (o : StoreOut) => if e.store = some o.num then { o with left := o.left + more } else o }
  let s := s.setPortq k ((s.portq k).flatMap fun x => if x = e then l else [x])
  match e.store with
  | some num =>
    if l.all (fun x => x.kind = 2) && (s.slotAt e.who.core e.who.slot).stores.any fun o => o.num = num && o.left = l.length then
      s.unorder e.who.core e.who.slot num
    else s
  | none => s

/-- A REDIRECT from a bank is followed (R178): the entry goes on to its new targets, waits at the port for a page (R486), for the host's
state of a half, or for the merge of the core's own pool entry (R216), or meets a cause. -/
def State.follow (s : State) (k : Nat) (e : PqEnt) (ptr : Word) : State :=
  let r := refOf ptr 0
  let n := e.op.reach
  let wait := fun (s : State) => if e.page = some (ptr, true) then s else s.setEnt k e { e with page := some (ptr, true) }
  let go := fun (s : State) (ps : List (Tgt × Nat)) =>
    if ps.any fun (t, m) => s.pooledAt e.who.core t m then wait (ps.foldl (fun s (t, m) => s.dueAt e.who.core t m) s)
    else if e.bankKind = kAT && ps.any fun (t, _) => s.nsBad e.who.hold t e.op then s.entFail k e 0x61 0 ptr
    else s.goParts k e (e.parts r ps)
  match s.reach e.who r n e.al e.need with
  | .error c => s.entFail k e c 0 ptr
  | .ok (.win core off) => go s [(.bank core e.who.hold off, n)]
  | .ok (.mva a) =>
    match s.entSpan k e a n with
    | (.ok ps, s) => go s ps
    | (.error .waits, s) => wait s
    | (.error (.bad c), s) => s.entFail k e c 0 ptr
    | (.error (.page m), s) =>
      if s.canRequest e.who.hold then
        (s.setEnt k e { e with page := some (ptr, false) }).raisePage e.who.hold e.who.rgn m e.need.w (.access k e.addr) 0
      else s.entFail k e 0x15 0 ptr

/-- A compare-and-swap has compared: equal, it writes, and the port sets D in the leaf (R201, R379; DEDUCED, log
entry 78). -/
def State.dirtyAt (s : State) (k : Nat) (e : PqEnt) (old : List Byte) : State :=
  if e.op.compares && (e.op.rmw old).isSome then
    match s.reach e.who (refOf e.addr 0) e.op.size e.op.size e.need with
    | .ok (.mva a) => (s.translate (e.asker k) k a { e.need with soft := false }).2
    | _ => s
  else s

/-- The leaf in which a compare-and-swap may set D can be written, so that the swap can follow the comparison at once (R56, R201). -/
def State.dirtyReady (s : State) (k : Nat) (e : PqEnt) : Bool × State :=
  if !e.op.compares then (true, s)
  else
    match s.reach e.who (refOf e.addr 0) e.op.size e.op.size e.need with
    | .ok (.mva a) =>
      (match s.rootReady (e.asker k) a with
       | (false, s) => (false, s)
       | (true, s) =>
         match s.walkFrom a 4 3 (s.hword e.who.hold 0x40) with
         | .ok (_, at_, _) => s.hdmGate (some (e.req k)) at_ 8 true e.who.hold e.who.rgn
         | .error _ => (true, s))
    | _ => (true, s)

/-- The bytes that an entry takes from its unit: those of a tile's first unit that belong to the tile (R424). -/
def State.unitSize (s : State) (e : PqEnt) (core hold off : Nat) : Nat :=
  match e.op with
  | .hd n => min n (hdrOf (s.winBytes core hold off 16)).len
  | o => o.size

/-- A tile's first unit has returned that many bytes. -/
def State.accSize (s : State) (e : PqEnt) (n : Nat) : State :=
  match e.acc with
  | some i => s.setAcc i ((s.acc i).map fun a => { a with size := n })
  | none => s

/-- An entry at a bank; none while the bank answers WAIT. -/
def State.atBank (s : State) (k : Nat) (e : PqEnt) (core hold off : Nat) : Option State :=
  let n := s.unitSize e core hold off
  match e.op with
  | .tagld | .tagst _ | .tagcas .. | .feget | .feset | .feclr =>
    let (v, s) := s.padNow core hold off e.op
    some (s.entOk k e (leBytes 8 v.toNat))
  | _ =>
    match s.unitLook core hold e.bankKind (winWords off n) with
    | .wait _ => none
    | .trap sub w => some (s.entFail k e 0x20 sub (e.wordAddr off w))
    | .redirMany w => some (s.entFail k e 0x21 1 (e.wordAddr off w))
    | .redirect w =>
      if 4 ≤ e.redirs then some (s.entFail k e 0x21 0 (e.wordAddr off w))
      else if s.winBad core hold (8 * w) then some (s.entFail k e (s.winCode core hold (8 * w)) 0 (e.wordAddr off w))
      else
        let e1 := { e with redirs := e.redirs + 1 }
        some ((s.setEnt k e e1).follow k e1 (wordLe (s.winBytes core hold (8 * w) 8)))
    | .go acts =>
      match e.op with
      | .wr d => some (((s.unitWrite core hold off d acts e.who.rgn e.addr).retag core hold acts).entOk k e [])
      | .rd _ =>
        if s.unitBad core hold acts then some (s.entFail k e (s.unitCode core hold acts) 0 e.addr)
        else some ((s.retag core hold acts).entOk k e (s.unitRead core hold off n acts))
      | .hd _ =>
        if s.unitBad core hold acts then some (s.entFail k e (s.unitCode core hold acts) 0 e.addr)
        else some (((s.retag core hold acts).accSize e n).entOk k e (s.unitRead core hold off n acts))
      | _ =>
        if s.unitBad core hold acts then some (s.entFail k e (s.unitCode core hold acts) 0 e.addr)
        else
          let old := s.unitRead core hold off n acts
          let s := match e.op.rmw old with
            | some d => s.unitWrite core hold off d acts e.who.rgn e.addr
            | none => s
          some ((s.retag core hold acts).entOk k e old)

/-! ### Performing at a home (R209, R257) -/

/-- The write-backs and merges of a WBK (R370): the core's pool entries are merged, and its registered words of the line become valid
and unregistered. -/
def State.wbkLine (s : State) (a : AtHome) (core line : Nat) : State :=
  (lineWords line).foldl (fun (s : State) w =>
    let s := s.mergeCore a.home w core
    match s.l1 core w with
    | some l => if l.reg.isSome && s.homeSt a.home w = HomeSt.reg core then (s.revoke a.home w).setL1 core w (some { l with reg := none }) else s
    | none => s) s

/-- The bytes of a read inside one word, or that they are poisoned. -/
def State.homeRead (s : State) (a : AtHome) (core pa n : Nat) (keep : Bool) : Option (List Byte) × State :=
  let (v, s) := s.homeLoad a core (pa / 8) keep
  if s.wordBad a (pa / 8) then (none, s) else (some ((v.drop (pa % 8)).take n), s)

/-- An entry performed at its home. -/
def State.atHomeDo (s : State) (k : Nat) (e : PqEnt) (pa : Nat) (leaf : Leaf) : State :=
  let a := atHome leaf e.who.hold e.who.rgn e.addr
  let s := if leaf.home = k then s else s.inject 0 (coreOf k 0) (coreOf leaf.home 0) e.who.hold e.op.data
  let back := fun (bs : List Byte) (s : State) => if leaf.home = k then s else s.inject 1 (coreOf leaf.home 0) (coreOf k 0) e.who.hold bs
  let src := if e.op.size ≤ 16 then s.hostOf pa e.op.size else []
  if (s.keyMat leaf.key).isNone then s.entFail k e 0x16 0 e.addr
  else
    match e.op with
    | .rd n =>
      match s.homeRead a e.who.core pa n (leaf.kind ≠ 1) with
      | (some bs, s) => back bs (s.entOk k e bs src)
      | (none, s) => back [] (s.entFail k e (s.badCode pa n) 0 e.addr)
    | .wr d => back [] ((s.homeStore a (if leaf.kind = 1 then none else some e.who.core) pa d).entOk k e [])
    | .wbk => back [] ((s.wbkLine a e.who.core (pa / 128)).entOk k e [])
    | o =>
      match s.homeRmw a (some e.who.core) pa o.size o.rmw with
      | (old, false, s) => back old ((s.dirtyAt k e old).entOk k e old src)
      | (_, true, s) => back [] (s.entFail k e (s.badCode pa o.size) 0 e.addr)

/-- The registrant's own store stays in its L1 and enters no slice (R209). -/
def State.ownStore (s : State) (e : PqEnt) (pa : Nat) (leaf : Leaf) : Bool :=
  match e.op with
  | .wr d => leaf.kind ≠ 1 && pa / 8 = (pa + d.length - 1) / 8 && s.homeSt leaf.home (pa / 8) = HomeSt.reg e.who.core &&
      (s.l1 e.who.core (pa / 8)).isSome
  | _ => false

/-- The entry is another part of the same access to the same line: one token pays for them all (R102). -/
def PqEnt.sameLine (x e : PqEnt) : Bool :=
  x.who.core = e.who.core && x.who.slot = e.who.slot && x.acc = e.acc && x.store = e.store &&
  (match x.tgt, e.tgt with | .dev a l, .dev b m => a / 128 = b / 128 && l.home = m.home | _, _ => false)

/-- The token that an entry has taken pays for every part of its access to the line. -/
def State.payLine (s : State) (k : Nat) (e : PqEnt) : State :=
  let pay := fun (x : PqEnt) => if x.sameLine e then { x with paid := true } else x
  (s.setPortq k ((s.portq k).map pay)).modSlotAt e.who.core e.who.slot fun v => { v with post := v.post.map pay }

/-- An entry for a device word: a token of the slice, the host's state of the half, then the home (R55, R101, R209). A request without
a token waits in its holding's queue at the port, one that the host's state holds up waits at the home. -/
def State.atDev (s : State) (k : Nat) (e : PqEnt) (pa : Nat) (leaf : Leaf) : Option State :=
  if s.ownStore e pa leaf then some (s.atHomeDo k e pa leaf)
  else
    match if e.paid then (true, s) else s.takeToken leaf.home e.who.hold (e.req k) with
    | (false, s') => if s.stirred s' then some s' else none
    | (true, s1) =>
      let s1 := if e.paid then s1 else s1.payLine k e
      let e1 := { e with paid := true }
      match s1.hdmGate (some (e1.req k)) pa e.op.size (match e.op with | .rd _ => false | _ => true) e.who.hold e.who.rgn with
      | (true, s2) =>
        (match s2.dirtyReady k e1 with
         | (true, s) => some (s.atHomeDo k e1 pa leaf)
         | (false, s') => if e.paid && !s.stirred s' then none else some s')
      | (false, s') => if e.paid && !s.stirred s' then none else some s'

/-! ### Performing outside the module (R48, R64-R66, R32-R34) -/

/-- An entry for a line of the host-line cache; none while the line has been asked for (R64, R65). -/
def State.atLine (s : State) (k : Nat) (e : PqEnt) (addr : Nat) : Option State :=
  let own : Bool := match e.op with | .rd _ => false | _ => true
  if (s.hline (addr / 64)).serves own then
    match s.dirtyReady k e with
    | (false, s') => if s.stirred s' then some s' else none
    | (true, s) =>
    some (match e.op with
      | .rd n => if (s.hline (addr / 64)).bad then s.entFail k e 0x71 0 e.addr else s.entOk k e (s.hlcBytes addr n)
      | .wr d => (s.hlcPut addr d).entOk k e []
      | o =>
        let old := s.hlcBytes addr o.size
        if (s.hline (addr / 64)).bad then s.entFail k e 0x71 0 e.addr
        else ((match o.rmw old with | some d => s.hlcPut addr d | none => s).dirtyAt k e old).entOk k e old)
  else
    let s' := s.askLine (addr / 64) own (.line k e own)
    if s'.hi.reqs.length = s.hi.reqs.length then none else some s'

/-- The entry leaves its port queue for an I/O die on the way to the host or a peer, whose answer completes it. -/
def State.entSent (s : State) (k : Nat) (e : PqEnt) (die : Nat) : State :=
  (s.setPortq k ((s.portq k).erase e)).inject 0 (coreOf k 0) (ioDie die) e.who.hold e.op.data

/-- An entry for the host (TGT 10): a posted write, a read, or an AtomicOp; none while its port has no room or no tag (R36, R41). -/
def State.atHost (s : State) (k : Nat) (e : PqEnt) (addr : Nat) : Option State :=
  let h := e.who.hold
  let port := s.hostPort h addr
  if !s.portRoom port h then none
  else
    match e.op with
    | .wr d => some ((s.entSent k e port).hostPut port h addr d false (some e.note))
    | .bits _ v => some ((s.entSent k e port).hostPut port h addr v false (some e.note))
    | .rd n => if s.tagFree port then some ((s.entSent k e port).hostGet port h addr n (.load k e)) else none
    | o => if s.tagFree port then some ((s.entSent k e port).hostAtomic port h addr o (.atomic k e)) else none

/-- An entry for a peer (TGT 11): a posted write, a read, or an atomic at the target's home; none while the link has no room (R41). -/
def State.atPeer (s : State) (k : Nat) (e : PqEnt) (addr : Nat) : Option State :=
  let h := e.who.hold
  let die := s.peerDie addr
  let wrote := fun (s : State) => s.modSlotAt e.who.core e.who.slot fun v =>
    { v with peers := if v.peers.contains (peerOf addr) then v.peers else v.peers ++ [peerOf addr] }
  if !s.linkRoom (peerOf addr) addr h then none
  else
    match e.op with
    | .wr d => some ((wrote (s.entSent k e die)).peerPut h e.who.rgn e.addr addr d false (some e.note))
    | .bits _ v => some ((wrote (s.entSent k e die)).peerPut h e.who.rgn e.addr addr v false (some e.note))
    | .rd n => some ((s.entSent k e die).peerGet h addr n (.peer k e))
    | o =>
      if e.store.isSome then some ((wrote (s.entSent k e die)).peerAtomic h addr o (.peer k { e with store := none }) (some e.note))
      else some ((s.entSent k e die).peerAtomic h addr o (.peer k e))

/-- Perform one entry of a port queue; none while it waits. -/
def State.performEnt (s : State) (k : Nat) (e : PqEnt) : Option State :=
  match e.page with
  | some (_, false) => none
  | some (ptr, true) =>
    let s' := s.follow k e ptr
    if (s'.portq k).contains e && !s.stirred s' then none else some s'
  | none =>
    match e.tgt with
    | .bank core hold off => s.atBank k e core hold off
    | .dev pa leaf => s.atDev k e pa leaf
    | .host addr leaf =>
      match leaf.tgt with
      | 1 => s.atLine k e addr
      | 2 => s.atHost k e addr
      | _ => s.atPeer k e addr

/-- PORT_QUEUE_PERFORM (R257): an entry with no older entry of the same core for its words. -/
def execPortQueuePerform (s : State) : Host.Outcome State Fault Refusal :=
  let k := s.ctl.here.unit
  let n := s.ctl.here.pos
  event s (match (s.portq k)[n]? with
    | none => none
    | some e => if blocked (((s.portq k).take n).filter fun o => o.who.core = e.who.core) e then none else s.performEnt k e)

/-! ### Tokens (R101) -/

/-- TOKEN_WINDOW (R101): a slice port starts a window. -/
def State.tokenWindow (s : State) (slice : Nat) : State :=
  let s := (List.range Config.holdings).foldl (fun (s : State) h =>
    if !s.live h then s
    else
      let k := tokKey slice h
      let loan := Tab.get 0 s.hd.loan k
      let repay := min loan (s.trate h)
      let b := Tab.get 0 s.hd.bucket k + s.trate h - repay
      let excess := b - s.tdepth h
      { s with hd := { s.hd with
        loan := Tab.set 0 s.hd.loan k (loan - repay)
        bucket := Tab.set 0 s.hd.bucket k (b - excess)
        pool := Tab.set 0 s.hd.pool slice (Tab.get 0 s.hd.pool slice + repay + excess) } }) s
  let rate := (List.range Config.holdings).foldl (fun n h => n + s.trate h) 0
  { s with hd := { s.hd with pool := Tab.set 0 s.hd.pool slice (min (Tab.get 0 s.hd.pool slice + (256 - rate)) 1024) } }

/-- TOKEN_WINDOW (R101). -/
def execTokenWindow (s : State) : Host.Outcome State Fault Refusal :=
  event s (
    let k := s.ctl.here.unit
    if k < 2048 then some (s.tokenWindow k) else none)

/-- The holdings that wait at a slice port, from the one after the holding served last (R101). -/
def State.waiting (s : State) (slice : Nat) : List Nat :=
  let hs := (List.range Config.holdings).filter fun h => s.hd.tokenQ.any fun q => q.slice = slice && q.hold = h
  let last := Tab.get 0 s.hd.served slice
  (hs.filter (last < ·)) ++ hs.filter (· ≤ last)

/-- The port queue entry of a request. -/
def State.reqEnt (s : State) (r : Req) : Option (Nat × PqEnt) :=
  match r with
  | .ent k .. => ((s.portq k).find? fun e => e.req k = r).map fun e => (k, e)
  | _ => none

/-- SLICE_PORT_SERVE (R101): the port serves the oldest waiting request of the next holding that has a token. -/
def execSlicePortServe (s : State) : Host.Outcome State Fault Refusal :=
  let slice := s.ctl.here.unit
  event s ((s.waiting slice).findSome? fun h =>
    match s.hd.tokenQ.find? fun q => q.slice = slice && q.hold = h, s.token slice h with
    | some q, some s =>
      let s := { s with hd := { s.hd with tokenQ := s.hd.tokenQ.erase q, grants := s.hd.grants ++ [q], served := Tab.set 0 s.hd.served slice h } }
      some ((match s.reqEnt q.who with | some (k, e) => s.performEnt k e | none => none).getD s)
    | _, _ => none)

/-! ### Pools and evictions (R209-R216) -/

/-- A pool entry's enlist or merge enters its home (R215), once a token and the host's state allow it. -/
def State.poolEnter (s : State) (core : Nat) (e : PoolEnt) : Bool × State :=
  s.enter (.pool core e.word) e.home (8 * e.word) 8 true e.hold e.rgn

/-- ENLIST (R212, R214): the home adds the core, or refuses when 8 cores are enlisted; at an armed page the contribution is merged
at once (R220). -/
def execEnlist (s : State) : Host.Outcome State Fault Refusal :=
  let c := s.ctl.here.unit
  event s (match (s.pools c)[s.ctl.here.pos]? with
    | none => none
    | some e =>
      if e.enlisted || e.refused then none
      else
        match s.poolEnter c e with
        | (false, s') => if s.stirred s' then some s' else none
        | (true, s) =>
          let upd := fun (s : State) (x : PoolEnt) => s.setPools c ((s.pools c).map fun y => if y = e then x else y)
          if s.armed (8 * e.word) then some (upd s { e with due := true, refused := true })
          else
            match s.homeSt e.home e.word with
            | .pool p =>
              if 8 ≤ p.length then some (upd s { e with due := true, refused := true })
              else some (upd (s.setHome e.home e.word (.pool (p ++ [c]))) { e with enlisted := true })
            | _ => some (upd ((s.revoke e.home e.word).setHome e.home e.word (.pool [c])) { e with enlisted := true }))

/-- A store of the core to the word of a pool entry waits at the cluster's port: the merge comes after it (R256). -/
def State.mergeBehind (s : State) (core : Nat) (e : PoolEnt) : Bool :=
  (s.portq (clusterOf core)).any fun x => x.who.core = core && x.store.isSome &&
    (match x.tgt with | .dev pa _ => pa / 8 ≤ e.word && e.word ≤ (pa + x.op.size - 1) / 8 | _ => false)

/-- POOL_MERGE (R209, R213): the core's entry, whose enlist the home has answered, is applied at the home and freed. -/
def execPoolMerge (s : State) : Host.Outcome State Fault Refusal :=
  let c := s.ctl.here.unit
  event s (match (s.pools c)[s.ctl.here.pos]? with
    | none => none
    | some e =>
      if !e.due || !(e.enlisted || e.refused) || s.mergeBehind c e then none
      else
        match s.poolEnter c e with
        | (false, s') => if s.stirred s' then some s' else none
        | (true, s) =>
          let free := fun (s : State) => s.setPools c ((s.pools c).erase e)
          match s.homeSt e.home e.word with
          | .pool p =>
            if p.contains c then
              let p' := p.filter (· ≠ c)
              some ((free (s.applyEnt c e)).setHome e.home e.word (if p' = [] then .unreg else .pool p'))
            else some ((free (s.settle e.home e.word)).applyEnt c e)
          | _ => some ((free (s.settle e.home e.word)).applyEnt c e))

/-- L1_EVICTION (R208, R210): a core's L1 gives up a word; a registered one is written back. -/
def execL1Eviction (s : State) : Host.Outcome State Fault Refusal :=
  let c := s.ctl.here.unit
  let w := s.ctl.here.pos
  event s (if (s.l1 c w).isSome then some (s.l1Evict c w) else none)

/-! ### Answers and wakes -/

/-- The bytes of a tile behind those that its first unit has returned (R424): one read for each line that they touch, in an access in
flight; the first strongly ordered one keeps the count that the header held. Each names no word until its port has translated it. -/
def State.tileRest (s : State) (i : Nat) (a : Acc) (who : Who) (ptr : Word) (strong : Bool) : State :=
  let len := (hdrOf a.bytes).len
  let r := refOf ptr 0
  let base := match s.reach who r 1 1 {} with
    | .ok (.win _ off) => off
    | .ok (.mva m) => m
    | .error _ => 0
  let cuts := if a.cause.isSome then [] else lineCuts 40 base a.size (len - a.size)
  let ents := cuts.map fun (o, m) =>
    let p := (r.add o).word
    (⟨who, some i, none, .rd m, o, .bank who.core who.hold (2 ^ 20), p, 0, if strong then 1 else 0, false, false, true, 1, some (p, true)⟩ : PqEnt)
  let s := s.setAcc i (some { a with left := ents.length, size := if a.cause.isSome then a.size else len, more := none })
  let s := s.modSlotAt a.core a.slot fun v => { v with strong := if strong then v.strong + ents.length - 1 else v.strong }
  s.setPortq (clusterOf a.core) (s.portq (clusterOf a.core) ++ ents)

/-- REMOTE_BANK_ANSWER (R313, R486): every part of an access in flight is answered; a tile whose first unit has returned reads on, once the
slot's stores before it have left the post buffer (R256, R424); an acquire at KIND 11 that has read a host write's value also waits for the
host writes before it (R62). -/
def execRemoteBankAnswer (s : State) : Host.Outcome State Fault Refusal :=
  let i := s.ctl.here.pos
  event s (match s.acc i with
    | none => none
    | some a =>
      let waits : Bool := match a.acq with | some w => s.acqOpen w a.src | none => false
      if a.left ≠ 0 || waits then none
      else
        match a.more with
        | none => some (s.answer i a)
        | some (who, ptr, num, strong) =>
          if (s.slotAt a.core a.slot).post.any fun e => e.store.any (· ≤ num) then none else some (s.tileRest i a who ptr strong))

/-- PARKED_ACCESS_WAKE (R183): a parked access that an event has woken may look up again. A destination unit or an element of VGATH or
VSCAT starts again with its instruction, and the parked unit goes on at the word where it was (R243, R416, R473). -/
def execParkedAccessWake (s : State) : Host.Outcome State Fault Refusal :=
  event s (match s.slot.park with
    | some p => if p.woken then some (s.modSlot fun v =>
        if v.resume.again then
          { v with park := none, stalled := none, busy := [], busyAt := none
                   resume := { addr := v.resume.addr, redirs := v.resume.redirs, own := v.resume.own, served := v.resume.served } }
        else { v with park := none, stalled := none }) else none
    | none => none)

end Sys2Proof.Machine
end

