-- ==== Sys2Proof/Machine/Agent.lean ====
section
/-! DEFINITION. Accesses to a holding's memory that no thread makes: by host windows, peers and host chains (R34, R47, R61, R62,
R77), and by the part when it copies a carve-out (R191). -/

namespace Sys2Proof.Machine

/-! ### Translated pieces -/

/-- The source number of a host chain; 0 and 1 are the host ports, 2 + p peer p. -/
def chainPort (fn : Nat) : Nat := 64 + fn

/-- The source number of the part's copies of carve-outs. -/
def carveSrc : Nat := 128

/-- A step that waits has brought something about when it newly waits, has its token or has asked. -/
def State.moved (s t : State) : Option State := if s.stirred t || s.hi.reqs.length ≠ t.hi.reqs.length then some t else none

/-- A range of MVAs cut at multiples of 64: address, offset in the range, bytes. -/
def cut64 : Nat → Nat → Nat → Nat → List (Nat × Nat × Nat)
  | 0, _, _, _ => []
  | fuel + 1, a, off, n =>
    if n = 0 then []
    else
      let k := min n (64 - a % 64)
      (a, off, k) :: cut64 fuel (a + k) (off + k) (n - k)

/-- The piece at `a` lies in a line of which the transfer has paid an earlier piece: `cont` when the transfer has come so far in
pieces before this one, which starts at `off` (R102). -/
def paidLine (cont : Bool) (a off : Nat) : Bool := a % 128 ≠ 0 && (cont || off ≠ 0)

/-- The port at which an agent's accesses are translated: a port of an I/O die for the host (R47), and the memory port of the plot's
corner cluster for the others (R34). -/
def State.agentPort (s : State) (src h : Nat) : Nat := if src < 2 then ioPort src else s.corner h

/-- Where an agent's access leads: through the direct window to a bank (R196), otherwise through the holding's page table with the
leaf's rights (R34, R47). A first touch made so writes the slice of the plot's corner: DESIGN CHOICE, log entry 54. -/
def State.agentAt (s : State) (src h mva n : Nat) (need : Need) : Except TrErr Tgt × State :=
  match s.spotOf h mva n with
  | .error _ => (.error .perm, s)
  | .ok (.win core off) => (.ok (.bank core h off), s)
  | .ok (.mva a) =>
    match s.translate ⟨.agent src h mva, h, 0⟩ (s.agentPort src h) a need with
    | (.ok t, s) => if s.peerBad t then (.error .perm, s) else (.ok t, s)
    | (.error e, s) => (.error e, s)

/-- A piece of an agent's access: its MVA, its offset in the access, its bytes, and where it leads. -/
structure Leg where
  mva : Nat
  off : Nat
  n   : Nat
  tgt : Tgt
deriving DecidableEq, Repr

/-- Where the pieces of an agent's access lead, each translated once; or the first piece that waits or is denied. -/
def State.agentPlan (s : State) (src h mva n : Nat) (need : Need) : Except TrErr (List Leg) × State :=
  (cut64 (n + 1) mva 0 n).foldl (fun (p : Except TrErr (List Leg) × State) q =>
    match p with
    | (.error e, s) => (.error e, s)
    | (.ok l, s) =>
      match s.agentAt src h q.1 q.2.2 need with
      | (.ok t, s) => (.ok (l ++ [⟨q.1, q.2.1, q.2.2, t⟩]), s)
      | (.error e, s) => (.error e, s)) (.ok [], s)

/-! ### Reads -/

/-- The outcome of a read that no thread makes. -/
inductive Got where
  | data (bs : List Byte) (bad : Bool)
  | denied
  | waits
deriving DecidableEq, Repr

/-- What an agent's request to the host or a peer has been answered. -/
def State.agentGot (s : State) (who : Req) (addr : Nat) : Option (CplStatus × List Byte) :=
  (s.hi.got.find? fun g => g.1 = who && g.2.1 = addr).map fun g => g.2.2

/-- An agent's request at a host or peer address: its answer, or it goes out when its port has room, and the agent waits. -/
def State.agentAsk (s : State) (who : Req) (h a : Nat) (leaf : Leaf) (send : State → State) : Option (CplStatus × List Byte) × State :=
  match s.agentGot who (gotKey a leaf) with
  | some g => (some g, s)
  | none =>
    let asked := s.hi.reqs.any fun r => match r.purpose with | .agent w k => w = who && k = gotKey a leaf | _ => false
    let room := if leaf.tgt = 2 then s.portRoom (s.hostPort h a) h && s.tagFree (s.hostPort h a) else s.linkRoom (peerOf a) a h
    (none, if asked || !room then s else send s)

/-- An agent's read takes tokens: those of chains do (R102). -/
def charged (src : Nat) : Bool := 64 ≤ src && src < carveSrc

/-- One piece of an agent's read where it leads, its line paid already or not. A read whose wait for the host has timed out has poisoned
data (R60). At a bank it is looked up as a load (DEDUCED, log entry 62); a carve-out is copied plainly (R191). -/
def State.agentPiece (s : State) (src h : Nat) (paid : Bool) (g : Leg) : Got × State :=
  let who : Req := .agent src h g.mva
  if s.hi.bad.contains who then (.data (List.replicate g.n 0) true, s)
  else
    match g.tgt with
    | .bank core hold off =>
      if src = carveSrc then (.data (s.winBytes core hold off g.n) (s.winBad core hold off), s)
      else
        (match s.unitLook core hold kLD (winWords off g.n) with
         | .go acts => (.data (s.unitRead core hold off g.n acts) (s.unitBad core hold acts), s.retag core hold acts)
         | .wait _ => (.waits, s)
         | _ => (.denied, s))
    | .dev pa leaf =>
      (match if charged src && !paid then s.enter who leaf.home pa g.n false h 0 else s.hdmGate (some who) pa g.n false h 0 with
       | (false, s) => (.waits, s)
       | (true, s) =>
         let (d, b, s) := s.homeBytes (atHome leaf h 0 (BitVec.ofNat 64 g.mva)) pa g.n
         (.data d b, s))
    | .host a leaf =>
      if leaf.tgt = 1 then
        if (s.hline (a / 64)).serves false then (.data (s.hlcBytes a g.n) (s.hline (a / 64)).bad, s)
        else (.waits, s.askLine (a / 64) false (.engLine (a / 64) false))
      else
        let p : Purpose := .agent who (gotKey a leaf)
        match s.agentAsk who h a leaf fun s => if leaf.tgt = 2 then s.hostGet (s.hostPort h a) h a g.n p else s.peerGet h a g.n p with
        | (some (.ok, d), s) => (.data d false, s)
        | (some (.poisoned, d), s) => (.data ((d ++ List.replicate g.n 0).take g.n) true, s)
        | (some _, s) => (.denied, s)
        | (none, s) => (.waits, s)

/-- An agent's access is over: what was kept for its pieces is given up. -/
def State.agentOver (s : State) (src h mva n : Nat) : State :=
  let mine := fun (r : Req) => (cut64 (n + 1) mva 0 n).any fun q => r = .agent src h q.1
  { s with hi := { s.hi with got := s.hi.got.filter fun g => !mine g.1
                             bad := s.hi.bad.filter fun r => !mine r
                             waits := s.hi.waits.filter fun w => !mine w.who }
           hd := { s.hd with tokenQ := s.hd.tokenQ.filter fun q => !mine q.who, grants := s.hd.grants.filter fun q => !mine q.who } }

/-- The token that a piece of a read has taken. -/
def Leg.token (g : Leg) (src h : Nat) (paid : Bool) : List TokenReq :=
  match g.tgt with
  | .dev _ leaf => if charged src && !paid then [⟨leaf.home, h, .agent src h g.mva⟩] else []
  | _ => []

/-- The pieces of a read, one after another: what each gives, and the tokens that they have taken; or the outcome of the first that waits or
is denied. -/
def State.agentLegs (s : State) (src h : Nat) (cont : Bool) : List Leg → Except Got (List (List Byte × Bool)) × List TokenReq × State
  | [] => (.ok [], [], s)
  | g :: l =>
    let paid := paidLine cont g.mva g.off
    match s.agentPiece src h paid g with
    | (.data d b, s) =>
      let (r, took, s) := s.agentLegs src h cont l
      (r.map ((d, b) :: ·), g.token src h paid ++ took, s)
    | (r, s) => (.error r, [], s)

/-- A read of a holding's memory by the host, a peer, a chain or the part (`src` as in `HostWrite`): its pieces with their poison, or denied,
or waiting (R34, R47, R56). When one piece waits, those before it are read again, with the tokens that they have taken. -/
def State.agentPieces (s : State) (src h mva n : Nat) (cont : Bool := false) : Except Got (List (List Byte × Bool)) × State :=
  match s.agentPlan src h mva n { r := true } with
  | (.error .waits, s) => (.error .waits, s)
  | (.error _, s) => (.error .denied, s.agentOver src h mva n)
  | (.ok l, s) =>
    match s.agentLegs src h cont l with
    | (.error .waits, took, s) => (.error .waits, took.foldl (fun (s : State) q => s.keepToken q) s)
    | (r, _, s) => (r, s.agentOver src h mva n)

/-- A read as one piece of data. -/
def State.agentRead (s : State) (src h mva n : Nat) (cont : Bool := false) : Got × State :=
  match s.agentPieces src h mva n cont with
  | (.ok l, s) => (.data (l.flatMap (·.1)) (l.any (·.2)), s)
  | (.error g, s) => (g, s)

/-! ### Writes (R61-R63) -/

/-- The outcome of a write that no thread makes: on its way, denied, or waiting with none of it done. -/
inductive Put where
  | done | denied | waits
deriving DecidableEq, Repr

/-- An access counts as an MMIO error (R45). -/
def State.mmioError (s : State) (fn : Nat) : State := s.modFn fn fun f => { f with mmioErr := f.mmioErr + 1 }

/-- A number for the next host write of a port (R62). -/
def State.nextNum (s : State) (port : Nat) : Nat × State :=
  let n := Tab.get 0 s.hi.hwNext port
  (n, { s with hi := { s.hi with hwNext := Tab.set 0 s.hi.hwNext port (n + 1) } })

/-- Bytes on their way to their home as one host write. -/
def State.postAt (s : State) (w : HostWrite) : State := { s with hi := { s.hi with writes := s.hi.writes ++ [w] } }

/-- A write of bytes by an agent: none of it happens when a piece is denied or waits. A line is paid for once (R102). -/
def State.agentWrite (s : State) (port num h mva : Nat) (data : List Byte) (bad : Bool) (cont : Bool := false) : Put × State :=
  match s.agentPlan port h mva data.length { w := true } with
  | (.error .waits, s) => (.waits, s)
  | (.error _, s) => (.denied, s.agentOver port h mva data.length)
  | (.ok l, s) =>
    (.done, l.foldl (fun (s : State) g =>
      s.postAt ⟨port, num, h, g.tgt, ((data.drop g.off).take g.n).map some, bad, paidLine cont g.mva g.off⟩)
      (s.agentOver port h mva data.length))

/-- The runs of present bytes of a partial write: offset and bytes. -/
def runsOf : Nat → List (Option Byte) → List (Nat × List Byte)
  | _, [] => []
  | off, none :: l => runsOf (off + 1) l
  | off, some b :: l =>
    match runsOf (off + 1) l with
    | (o, bs) :: r => if o = off + 1 then (off, b :: bs) :: r else (off, [b]) :: (o, bs) :: r
    | [] => [(off, [b])]

/-- Write runs of bytes at a home; poisoned data poisons the beats that it touches (R71). -/
def State.putRuns (s : State) (a : AtHome) (pa : Nat) (data : List (Option Byte)) (bad : Bool) : State :=
  (runsOf 0 data).foldl (fun (s : State) (p : Nat × List Byte) =>
    let s := s.putBeats a (p.2.length + 1) (pa + p.1) p.2
    if bad then
      (List.range ((pa + p.1 + p.2.length + 31) / 32 - (pa + p.1) / 32)).foldl (fun (s : State) i =>
        let b := ((pa + p.1) / 32 + i) * 32
        s.setPoison (a.at b) b true) s
    else s) s

end Sys2Proof.Machine
end

