-- ==== Sys2Proof/Machine/Scheduler.lean ====
section
/-! DEFINITION. The steps of the scheduler: the barrel (R127, R128), dealing (R123, R124), admission (R126, R148), migration
(R133, R134), page parking (R136), spills (R137-R139), turns (R113), fault queues (R121), the part's waiting accesses
(R487), crier messages (R152), idling (R468) and wakes of drains (R290). -/

namespace Sys2Proof.Machine

/-! ### The barrel (R127, R128) -/

/-- The slot can issue in this cycle as far as its own state says. -/
def State.canIssue (s : State) (core k : Nat) : Bool :=
  let v := s.slotAt core k
  v.thr.isSome && v.leave = .stay && !v.sfu && v.stalled ≠ some (Tab.get 0 s.co.cyc core) && v.park.isNone && v.carve.isNone

/-- The slot that takes the cycle: the visited one when it is ready, else the first ready slot of its holding in rotation
order that is not yielded. -/
def State.pickSlot (s : State) (core visited : Nat) : Option Nat :=
  if s.canIssue core visited then some visited
  else
    match s.ownerNow core visited with
    | none => none
    | some h =>
      ((List.range 15).map fun i => (visited + 1 + i) % 16).find? fun k =>
        s.canIssue core k && !(s.slotAt core k).yld && decide (s.ownerNow core k = some h)

/-- ISSUE_CYCLE (R127): the visit clears the slot's yield mark; the slot that takes the cycle issues at the next step, or the
cycle idles. Slots whose threads have ended and wait for their last loads or their frame's page are freed first (R157, R477). -/
def execIssueCycle (s : State) : Host.Outcome State Fault Refusal :=
  event s (
    let c := s.core
    let s := s.upto 16 fun s k => (s.reap c k).haltOn c k
    let v := s.cyc c % 16
    let s := if (s.slotAt c v).yld then s.modSlotAt c v fun x => { x with yld := false } else s
    match s.pickSlot c v with
    | some k => some { s with ctl := { s.ctl with here := ⟨c, k, 0⟩, issue := true } }
    | none => some (s.endCycle c))

/-- USER_INTERRUPT (R168): at an instruction boundary of the slot the lowest eligible interrupt is delivered. -/
def execUserInterrupt (s : State) : Host.Outcome State Fault Refusal :=
  event s (match s.slot.thr with
    | none => none
    | some t =>
      if s.slot.leave ≠ .stay || s.slot.late ≠ [] || !s.slot.atBoundary then none
      else (s.slot.eligible t).map fun b => s.interrupt t b)

/-- IDLE_LIMIT (R468): the limit of an idling slot has passed. -/
def execIdleLimit (s : State) : Host.Outcome State Fault Refusal :=
  event s (match s.slot.idling, s.slot.idleBy with
    | true, some c => if c ≤ s.cyc s.core then some (s.modSlot fun v => { v with idling := false, idleBy := none }) else none
    | _, _ => none)

/-! ### The carve-out (R191) -/

/-- Bytes of the carve-out that are copied. -/
def carveBytes (t : Thread) : Nat := min t.stkc 65536

/-- The pages at %sovf that the copy touches are resident. -/
def State.carveReady (s : State) (t : Thread) : Bool × State :=
  if t.stkc = 0 then (true, s)
  else
    let n := carveBytes t
    let first := min n (65536 - t.sovf.toNat % 65536)
    let (a, s) := s.frameReady t.hold t.rgn t.sovf.toNat first
    let (b, s) := if first < n then s.frameReady t.hold t.rgn (t.sovf.toNat + first) (n - first) else (true, s)
    (a && b, s)

/-- Where beat `i` of a slot's carve-out lies in the window. -/
def State.carveAt (s : State) (core slot : Nat) (t : Thread) (i : Nat) : Nat :=
  s.carve ⟨core, slot, t.hold, t.rgn, t.launch, t.sg, t.stkc, t.sovf⟩ + 32 * i

/-- A copy of the carve-out has come to beat `i`: outwards, or back in. -/
def State.carveTo (s : State) (core slot : Nat) (p : Option (Bool × Nat)) : State := s.modSlotAt core slot fun v => { v with carve := p }

/-- Copy the beats of a slot's carve-out from `i` on to %sovf, each with its poison, until one has to wait. -/
def State.carvePut (s : State) (core slot : Nat) (t : Thread) : Nat → Nat → State
  | 0, i => s.carveTo core slot (some (true, i))
  | n + 1, i =>
    let off := s.carveAt core slot t i
    match s.agentWrite carveSrc (slotKey core slot) t.hold (t.sovf.toNat + 32 * i) (s.winBytes core t.hold off 32) (s.winBad core t.hold off)
      (decide (i ≠ 0)) with
    | (.done, s) => s.carvePut core slot t n (i + 1)
    | (.denied, s) => (s.dropPart t.hold).carvePut core slot t n (i + 1)
    | (.waits, s) => s.carveTo core slot (some (true, i))

/-- The carve-out of a slot is copied to %sovf: every beat is where it leads. -/
def State.carveOut (s : State) (core slot : Nat) (t : Thread) : Bool × State :=
  let m := carveBytes t / 32
  if m = 0 then (true, s)
  else
    let i := match (s.slotAt core slot).carve with | some (true, i) => i | _ => 0
    let s := s.carvePut core slot t (m - i) i
    ((s.slotAt core slot).carve = some (true, m) && !s.hi.writes.any fun w => w.port = carveSrc && w.num = slotKey core slot, s)

/-- Bytes that nothing gives: free values. -/
def State.freeBytes (s : State) (n : Nat) : List Byte × State :=
  ((List.range (n / 8)).flatMap fun i => leBytes 8 (Config.freeWord (s.ctl.free + i)).toNat,
   { s with ctl := { s.ctl with free := s.ctl.free + n / 8 } })

/-- Copy the beats of %sovf from `i` on back into the slot's carve-out, each with its poison, until one has to wait; where the page denies
the read the bytes are free values. -/
def State.carveGet (s : State) (core slot : Nat) (t : Thread) : Nat → Nat → State
  | 0, _ => s.carveTo core slot none
  | n + 1, i =>
    let off := s.carveAt core slot t i
    match s.agentRead carveSrc t.hold (t.sovf.toNat + 32 * i) 32 (decide (i ≠ 0)) with
    | (.data bs bad, s) => ((s.winPut core t.hold off bs).winPoison core t.hold off bad).carveGet core slot t n (i + 1)
    | (.denied, s) =>
      let (bs, s) := s.freeBytes 32
      (s.winPut core t.hold off bs).carveGet core slot t n (i + 1)
    | (.waits, s) => s.carveTo core slot (some (false, i))

/-- The carve-out is copied back into the admitting slot before the thread's first issue, once the pages are resident. -/
def State.carveIn (s : State) (core slot : Nat) (t : Thread) (i : Nat) : State :=
  match s.carveReady t with
  | (false, s) => s.carveTo core slot (some (false, i))
  | (true, s) => s.carveGet core slot t (carveBytes t / 32 - i) i

/-- A thread in the slot still waits for its carve-out. -/
def Slot.loading (v : Slot) : Option (Thread × Nat) :=
  match v.thr, v.carve with
  | some t, some (false, i) => some (t, i)
  | _, _ => none

/-! ### Leaving a slot -/

/-- A thread as its frame or packet takes it: what is not kept is gone (R159), and a handler's progress is discarded (R138);
inside both handlers the user handler's entry is what is executed again. -/
def Thread.leaving (t : Thread) : Thread :=
  { t with
    pc := if t.h then t.tpc else if t.s then t.spc else t.pc
    rep := none, s := false, h := false, hu := [], hs := [], tpc := 0, tcause := 0, taddr := 0, spc := 0, scause := 0, saddr := 0 }

/-- A cause that waits for the next boundary is delivered before the thread leaves (R486). -/
def State.lateFirst (s : State) (core slot : Nat) (keep : Bool) : Option State :=
  (firstLate (s.slotAt core slot).late).map fun c =>
    let s := s.modSlotAt core slot fun v => { v with late := v.late.filter (· ≠ c), leave := if keep then v.leave else .stay }
    s.takeAt core slot ⟨c.cause, c.sub, c.addr, true, false, c.write⟩

/-- MIGRATION_DEPARTURE (R133, R273): the counters are 0, the stores are performed, the pools are merged; the packet leaves. -/
def execMigrationDeparture (s : State) : Host.Outcome State Fault Refusal :=
  let c := s.core
  let k := s.slotNo
  event s (match s.slot.thr, s.slot.leave with
    | some t, .migrate cl x =>
      match s.lateFirst c k false with
      | some s => some s
      | none =>
        let v := s.slot
        if v.ld ≠ 0 || v.tl ≠ 0 || v.drained ≠ v.issued || !s.poolsClear c k then none
        else
          let p : Packet := { cluster := cl, thr := { t.leaving with xmig := x }, uip := v.uip }
          let s := s.vacate c k
          some { s with sc := { s.sc with flight := s.sc.flight ++ [p] } }
    | _, _ => none)

/-- PAGE_PARK (R136): the thread goes into its frame with status PAGE, and the page is requested. -/
def execPagePark (s : State) : Host.Outcome State Fault Refusal :=
  let c := s.core
  let k := s.slotNo
  event s (match s.slot.thr, s.slot.leave with
    | some t, .page addr mva write =>
      match s.lateFirst c k false with
      | some s => some s
      | none =>
        if s.slot.ld ≠ 0 || s.slot.tl ≠ 0 then none
        else if !s.canRequest t.hold then some (s.stopThread c k ⟨0x15, 0, addr, false, false, write⟩)
        else
          match s.frameReady t.hold t.rgn t.frame with
          | (false, s) => some s
          | (true, s) =>
            match s.carveReady t with
            | (false, s) => some s
            | (true, s) =>
              match s.carveOut c k t with
              | (false, s) => some s
              | (true, s) =>
              let s := (s.saveFrame c k t.leaving .page (causeWord 0x15 addr) 0).vacate c k
              let s := s.modFrame t.hold t.frame fun f => { f with addr := addr }
              some (s.raisePage t.hold t.rgn mva write (.frame t.hold t.frame) (BitVec.ofNat 64 t.frame))
    | _, _ => none)

/-- The stalled copy contexts of a thread in its core are suspended; the residual copy record names them (R295). -/
def State.suspend (s : State) (core : Nat) (ctxid : BitVec 32) : Nat × State :=
  (List.range 4).foldl (fun (p : Nat × State) i =>
    let x := p.2.cctx (core * 4 + i)
    match x.queue with
    | c :: _ =>
      if c.ctxid = ctxid && x.stall.isSome && !x.err then
        (p.1 + 2 ^ i + c.num % 4096 * 2 ^ (12 + 12 * i), p.2.modCctx (core * 4 + i) fun y => { y with susp := true })
      else p
    | [] => p) (0, s)

/-- The suspended copy contexts of a thread go on, in whichever core they are (R295). -/
def State.unsuspend (s : State) (ctxid : BitVec 32) : State :=
  s.en.copy.foldl (fun (s : State) ((k, x) : Nat × CopyCtx) =>
    if x.susp && (match x.queue with | c :: _ => decide (c.ctxid = ctxid) | [] => true) then s.modCctx k fun y => { y with susp := false }
    else s) s

/-- The slot is ordered out and its counters allow it (R137); a roaming thread also waits for its pool entries (R273). -/
def State.canSpill (s : State) (core slot : Nat) : Bool :=
  let v := s.slotAt core slot
  match v.thr with
  | some t => v.leave = .spill && v.loading.isNone && v.ld = 0 && v.tl = 0 && (t.pinned || s.poolsClear core slot)
  | none => false

/-- A RESIZE in progress takes the slot number away: its threads resume in the same core (R108). -/
def State.slotLost (s : State) (h slot : Nat) : Bool :=
  match s.busyWith h with
  | some b => b.op = 1 && !bit (bits (wordIn b.words 0x18) 15 0) slot
  | none => false

/-- SLOT_SPILL (R137, R138): threads of a core leave in ascending slot number, each for its frame with status SPILL and for the
resume list of the core or, when it roams and its slot is not lost, the stile list of the cluster (R108, R130). -/
def execSlotSpill (s : State) : Host.Outcome State Fault Refusal :=
  let c := s.core
  let k := s.slotNo
  event s (match s.slot.thr with
    | none => none
    | some t =>
      if s.slot.leave ≠ .spill then none
      else
        match s.lateFirst c k true with
        | some s => some s
        | none =>
          if !t.pinned && !s.poolsClear c k && s.slot.ld = 0 && s.slot.tl = 0 && (s.pools c).any (fun e => e.mask.getLsbD k && !e.due) then
            some (s.duePools c k)
          else if !s.canSpill c k || (List.range k).any (fun j => s.canSpill c j) then none
          else
            match s.frameReady t.hold t.rgn t.frame with
            | (false, s) => some s
            | (true, s) =>
              match s.carveReady t with
              | (false, s) => some s
              | (true, s) =>
                match s.carveOut c k t with
                | (false, s) => some s
                | (true, s) =>
                let (res, s) := if k = s.hmovs t.hold then s.suspend c t.ctxid else (0, s)
                let s := (s.saveFrame c k t.leaving .spill 0 res).vacate c k
                let s := s.linkFrame t.hold t.rgn t.frame
                some (if t.pinned || s.slotLost t.hold k then { s with sc := { s.sc with resume := s.sc.resume ++ [(⟨t.hold, c, 0, t.frame⟩ : Listed)] } }
                  else { s with sc := { s.sc with stile := s.sc.stile ++ [(⟨t.hold, clusterOf c, 0, t.frame⟩ : Listed)] } }))

/-! ### Admission (R126) -/

/-- The slot is free for a holding that admits threads. -/
def State.openSlot (s : State) (core slot h : Nat) : Bool :=
  (s.slotAt core slot).thr.isNone && decide (s.ownerNow core slot = some h) && !(s.hold h).stopped

/-- The slot number is one that the sprigs of a launch may take: its region's effective SLOTS narrow the holding's, unless
none of them is left (R118). -/
def State.slotMay (s : State) (h launch slot : Nat) : Bool :=
  match s.sc.launches.find? fun l => l.id = launch with
  | some l => bit l.slots slot || (List.range 16).all fun k => !(bit l.slots k && bit (s.hslots h) k)
  | none => true

/-- The launch of a frame's sprig. -/
def State.launchAt (s : State) (h mva : Nat) : Nat := ((s.frame h mva).map (·.launch)).getD 0

/-- The lowest slot of a core that is free for a sprig of a launch. -/
def State.openIn (s : State) (core h launch : Nat) : Option Nat :=
  (List.range 16).find? fun k => s.openSlot core k h && s.slotMay h launch k

/-- The core of a cluster that takes a migrant: core 0 for XMIG = 1, else the lowest with a free slot (R126, R134). -/
def State.migrantCore (s : State) (cluster h launch : Nat) (xmig : Bool) : Option Nat :=
  (List.range (if xmig then 1 else 4)).findSome? fun q =>
    if (s.openIn (coreOf cluster q) h launch).isSome then some (coreOf cluster q) else none

/-- Where an admitted frame stands before (R126, R148). -/
inductive Source where
  | stile | resume | dispatch | search
deriving DecidableEq, Repr

/-- The first non-empty source of R126 for a slot of a core, and its frame. -/
def State.source3 (s : State) (core slot h : Nat) : Option (Source × Nat) :=
  match s.sc.stile.find? fun e => e.hold = h && e.unit = clusterOf core && s.slotMay h (s.launchAt h e.mva) slot &&
      s.migrantCore e.unit h (s.launchAt h e.mva) (e.sub = 1) = some core with
  | some e => some (.stile, e.mva)
  | none =>
    match s.sc.resume.find? fun e => e.hold = h && e.unit = core && s.slotMay h (s.launchAt h e.mva) slot with
    | some e => some (.resume, e.mva)
    | none =>
      let best := fun (b : Option Disp) (d : Disp) =>
        match b with
        | none => some d
        | some x =>
          let p := s.effPrio h d.rgn
          let q := s.effPrio h x.rgn
          if q < p || (p = q && d.launch < x.launch) then some d else some x
      ((s.sc.disp.filter fun d => d.hold = h && d.core = core && s.slotMay h d.launch slot).foldl best none).map fun d => (.dispatch, d.mva)

/-- The head of a search queue. -/
def State.searchHead (s : State) (h cluster q : Nat) : Option Nat :=
  (s.sc.search.find? fun e => e.hold = h && e.unit = cluster && e.sub = q).map (·.mva)

/-- The region's plot covers the core and its slot mask the slot, so that the slot may take the head (R118, R148, R478). -/
def State.mayTake (s : State) (h core slot mva : Nat) : Bool :=
  match s.frame h mva with
  | some f => (s.effPlot h f.rgn).covers core && s.slotMay h f.launch slot
  | none => false

/-- The first head of the holding's search queues in a core's cluster that a slot may take (R148). -/
def State.headFor (s : State) (h core slot : Nat) : Option Nat :=
  (List.range 16).findSome? fun q => (s.searchHead h (clusterOf core) q).bind fun m => if s.mayTake h core slot m then some m else none

/-- A lower free slot of the cluster would take some head (R148). -/
def State.lowerSlot (s : State) (h core slot : Nat) : Bool :=
  (List.range 4).any fun q =>
    let c := coreOf (clusterOf core) q
    (List.range 16).any fun k =>
      (q < coreNo core || (q = coreNo core && k < slot)) && s.openSlot c k h && (s.headFor h c k).isSome && (s.source3 c k h).isNone

/-- The source from which a free slot is filled. Free slots are filled from the search queues in ascending order: the slot stands back while
a lower one would take a head (R148). -/
def State.source (s : State) (core slot h : Nat) : Option (Source × Nat) :=
  match s.source3 core slot h with
  | some x => some x
  | none =>
    match s.headFor h core slot with
    | some m => if s.lowerSlot h core slot then none else some (.search, m)
    | none => none

/-- A frame leaves the list on which it waits. -/
def State.unlist (s : State) (h mva : Nat) : State :=
  let keep := fun (e : Listed) => !(e.hold = h && e.mva = mva)
  { s with sc := { s.sc with
    stile := s.sc.stile.filter keep
    resume := s.sc.resume.filter keep
    search := s.sc.search.filter keep
    disp := s.sc.disp.filter fun d => !(d.hold = h && d.mva = mva) } }

/-- The segment descriptors that the launch keeps (R194). -/
def State.launchSg (s : State) (id : Nat) : Tab (BitVec 128) :=
  match s.sc.launches.find? fun l => l.id = id with
  | some l => (List.range 6).foldl (fun (t : Tab (BitVec 128)) i => Tab.set 0 t (i + 1) (l.sg.getD i 0)) []
  | none => []

/-- What admission loads into a thread (R126): vector, stack registers and segments. A thread that would run with a stack
carve-out is pinned (R131). -/
def State.entering (s : State) (t : Thread) : Thread :=
  let w := s.eff t.hold t.rgn 0x88
  let pool := s.eff t.hold t.rgn 0x28
  let stkc := bits w 11 0 * 128
  { t.leaving with
    utvec := BitVec.ofNat 64 (s.eff t.hold t.rgn 0x78), stkc := stkc
    sovf := BitVec.ofNat 64 (bits w 56 12 * 4096 + 65536 * ((t.frame - pool) / 256))
    sg := s.launchSg t.launch, roam := t.roam && stkc = 0, xmig := false }

/-- A thread starts in a slot (R126, R159, R188, R264): pending interrupt bits come with it, and the core acquires. -/
def State.seat (s : State) (core slot : Nat) (t : Thread) (uip : BitVec 2) : State :=
  let mov : Bool := decide (slot = s.hmovs t.hold)
  let mail : Bool := mov && (s.hcAt core t.hold).mail
  let s := if mail then s.modHc core t.hold fun h => { h with mail := false } else s
  let s := s.modSlotAt core slot fun v =>
    { v with thr := some t, uipend := BitVec.ofNat 8 uip.toNat ||| (if mail then 2 else 0) }
  (s.acquire core).unsuspend t.ctxid

/-- The frame of a seated thread is RUN, and XMIG is cleared (R129, R130). -/
def State.claimFrame (s : State) (t : Thread) (xmig : Bool) : State :=
  let s := s.setFst t.hold t.frame t.rgn .run
  if xmig then s.partBits t.hold t.rgn (t.frame + 8) 39 39 0 else s

/-- A slot is filled from a frame: the kill point first (R156), then the admission. -/
def State.fill (s : State) (core slot h : Nat) (src : Source) (mva : Nat) : State :=
  match s.frame h mva with
  | none => s.unlist h mva
  | some f =>
    match s.frameReady h f.rgn mva with
    | (false, s) => s
    | (true, s) =>
      let t := s.frameThread f
      let uip := BitVec.ofNat 2 (bits (s.peekN h (mva + 8)) 42 41)
      match s.chainReady (schedAsker h t.rgn) t.rgn with
      | (false, s) => s
      | (true, s) =>
        let s := { s with ctl := { s.ctl with free := s.ctl.free + 256 } }
        if src ≠ .dispatch && s.doomed h t.rgn t.bnd t.bound (clusterOf core) then
          (match s.exitReady h t.rgn mva with
           | (false, s) => s
           | (true, s) => ((s.unsuspend f.ctxid).unlist h mva).killFrame h mva t.rgn f.launch)
        else
          let t := s.entering t
          match if f.st = .spill then s.carveReady t else (true, s) with
          | (false, s) => s
          | (true, s) =>
            let s := ((s.unlist h mva).seat core slot t uip).claimFrame t (src = .stile && f.st = .mig)
            if f.st = .spill && t.stkc ≠ 0 then s.carveIn core slot t 0 else s

/-- SLOT_FILL (R126, R148): a free slot is filled, or a thread that was admitted and waits for its carve-out has more of it copied back
(R191). -/
def execSlotFill (s : State) : Host.Outcome State Fault Refusal :=
  event s (
    match s.slot.loading with
    | some (t, i) => some (s.carveIn s.core s.slotNo t i)
    | none =>
    if s.slot.thr.isSome then none
    else
      match s.ownerNow s.core s.slotNo with
      | none => none
      | some h =>
        if !s.openSlot s.core s.slotNo h then none
        else (s.source s.core s.slotNo h).map fun (src, m) => s.fill s.core s.slotNo h src m)

/-- The packet is written into its frame, which joins the stile's list (R134). -/
def State.parkPacket (s : State) (p : Packet) : State :=
  let t := p.thr
  let s := s.partWrite t.hold t.rgn t.frame (frameBytes t .mig p.uip 0 0)
  let s := s.modFrame t.hold t.frame fun f => { f with st := .mig, bnd := t.bnd, uip := p.uip }
  let s := s.linkFrame t.hold t.rgn t.frame
  { s with sc := { s.sc with stile := s.sc.stile ++ [(⟨t.hold, p.cluster, if t.xmig then 1 else 0, t.frame⟩ : Listed)] } }

/-- STILE_ARRIVAL (R134): the kill point, then a free slot unless an older migrant waits for one, else the frame. -/
def execStileArrival (s : State) : Host.Outcome State Fault Refusal :=
  event s (match s.sc.flight[s.ctl.here.pos]? with
    | none => none
    | some p =>
      let t := p.thr
      let land := fun (s : State) => { s with sc := { s.sc with flight := s.sc.flight.eraseIdx s.ctl.here.pos } }
      match s.chainReady (schedAsker t.hold t.rgn) t.rgn with
      | (false, s) => some s
      | (true, s) =>
        if s.doomed t.hold t.rgn t.bnd t.bound p.cluster then
          (match s.exitReady t.hold t.rgn t.frame with
           | (false, s) => some s
           | (true, s) => some ((land s).killFrame t.hold t.frame t.rgn t.launch))
        else
          let core := s.migrantCore p.cluster t.hold t.launch t.xmig
          let older := s.sc.stile.any fun e => e.hold = t.hold && e.unit = p.cluster &&
            (core = s.migrantCore p.cluster t.hold (s.launchAt t.hold e.mva) (e.sub = 1))
          match core.bind fun c => (s.openIn c t.hold t.launch).map fun k => (c, k) with
          | some (c, k) =>
            if older then
              (match s.frameReady t.hold t.rgn t.frame with
               | (false, s) => some s
               | (true, s) => some ((land s).parkPacket p))
            else some ((land s).seat c k (s.entering t) p.uip)
          | none =>
            match s.frameReady t.hold t.rgn t.frame with
            | (false, s) => some s
            | (true, s) => some ((land s).parkPacket p))

/-- A thread parked for a page that will not come stops with PAGE once its frame and its region's block can be written (R140, R487). -/
def State.pageStop (s : State) (h m : Nat) (write : Bool) (done : State → State) : State :=
  match s.frame h m with
  | none => done s
  | some f =>
    if f.st ≠ .page then done s
    else
      match s.exitReady h f.rgn m with
      | (false, s) => s
      | (true, s) =>
        ((((done s).setFst h m f.rgn .stop).count h f.rgn 0xB8).sprigGone f.launch).addFault
          ⟨h, false, 0, 1, 0x15, write, 0, f.rgn, f.addr, BitVec.ofNat 64 m⟩

/-- PAGE_ARRIVAL (R136): a frame whose page request was answered goes to the resume list of its core; at a position behind these it is one
that stops (R50). -/
def execPageArrival (s : State) : Host.Outcome State Fault Refusal :=
  let n := s.ctl.here.pos
  event s (match s.hi.arrived[n]? with
    | none =>
      let i := n - s.hi.arrived.length
      (s.hi.stops[i]?).map fun (h, m, write) =>
        s.pageStop h m write fun s => { s with hi := { s.hi with stops := s.hi.stops.eraseIdx i } }
    | some (h, m) =>
      let s := { s with hi := { s.hi with arrived := s.hi.arrived.eraseIdx n } }
      some (s.requeue h m))

/-! ### Dealing and the end of a launch (R123, R124) -/

/-- The tile of a linear index (R123). -/
def gridTile (dims n : Nat) : BitVec 48 :=
  let gx := bits dims 15 0
  let gy := bits dims 31 16
  BitVec.ofNat 48 (n % gx + n / gx % gy * 2 ^ 16 + n / (gx * gy) * 2 ^ 32)

/-- DEAL_TILE (R123, R124): the next tile of a launch becomes a sprig in the dispatch queue of its core. -/
def execDealTile (s : State) : Host.Outcome State Fault Refusal :=
  event s (match s.sc.launches.find? fun l => l.id = s.ctl.here.pos with
    | none => none
    | some l =>
      if (s.hold l.hold).stopped || gridTiles l.dims.toNat ≤ l.next then none
      else
        match s.chainReady (schedAsker l.hold l.rgn) l.rgn with
        | (false, s) => some s
        | (true, s) =>
          match s.takeFrame l.hold l.rgn with
          | (none, _) => none
          | (some m, s) =>
            match s.exitReady l.hold l.rgn m with
            | (false, s) => some s
            | (true, s) =>
            let tile := gridTile l.dims.toNat l.next
            let core := dealCore l.plot.toNat l.dims.toNat tile
            let s := (s.sprig l m l.entry [l.arg] none tile).enqueue l core m
            let s := { s with sc := { s.sc with launches := s.sc.launches.map fun (x : Launch) =>
              if x.id = l.id then { x with next := x.next + 1 } else x } }
            some (s.setNext l.hold l.rgn false (l.next + 1)))

/-- A command of the launch still holds it open (R124): it is not completed, and its context is not stopped at it or before.
One that still waits for a place in such a context's queue is open too (DESIGN CHOICE, log entry 89). -/
def State.commandsOpen (s : State) (id : Nat) : Bool :=
  (s.en.copy.any fun (_, c) => (c.queue ++ c.wait).any fun x => x.launch = id && !(c.err && c.ecmd ≤ x.num)) ||
  (s.en.mx.any fun (_, c) => (c.queue ++ c.wait).any fun x => x.launch = id && !(c.err && c.ecmd ≤ x.num))

/-- A store of a launch is not yet performed at its home (R77, R333): it waits in a post buffer, a port queue, or before a link or host
port (R255). -/
def State.storesOpen (s : State) (launch : Nat) : Bool :=
  let mine := fun (n : Option Note) => (n.map (·.launch)) = some launch
  (s.co.slots.any fun (_, v) => v.post.any fun e => e.who.launch = launch) ||
  (s.mm.portq.any fun (_, l) => l.any fun e => e.who.launch = launch) ||
  (s.hi.out.any fun m => mine m.note) || s.net.links.any fun ((_, l) : Nat × Link) => l.queue.any fun f => mine f.note

/-- LAUNCH_COMPLETE (R124, R333): ACT returns to 0 once every sprig has ended, every command is over and every store is performed. -/
def execLaunchComplete (s : State) : Host.Outcome State Fault Refusal :=
  event s (match s.sc.launches.find? fun l => l.id = s.ctl.here.pos with
    | none => none
    | some l =>
      if l.next < gridTiles l.dims.toNat || l.alive ≠ 0 || s.commandsOpen l.id || s.storesOpen l.id then none
      else
        match s.frameReady l.hold l.rgn l.rgn with
        | (false, s) => some s
        | (true, s) =>
          let s := s.setAct l.hold l.rgn false
          some { s with sc := { s.sc with launches := s.sc.launches.filter fun x => x.id ≠ l.id } })

/-- A wake that arrives is judged once, as its region's block stands then (R290): it goes on, or it is discarded. -/
def State.wakeJudged (s : State) (n : Nat) (w : WakeReq) : State :=
  let drop := fun (s : State) =>
    { s with en := { s.en with wakes := s.en.wakes.eraseIdx n } }.addFault ⟨w.hold, false, 0, 5, 0x16, false, 0, w.from_, 0, 0⟩
  match s.lookChain w.hold 15 w.rgn with
  | .ok _ =>
    let s := s.markFrz w.hold w.rgn
    if s.frozen w.hold || !s.active w.hold w.rgn then drop s
    else { s with en := { s.en with wakes := s.en.wakes.set n { w with arrived := true } } }
  | _ => drop s

/-- DRAIN_WAKE (R290): the wake is judged when it arrives, and once a frame is free it creates a sprig. -/
def execDrainWake (s : State) : Host.Outcome State Fault Refusal :=
  let n := s.ctl.here.pos
  event s (match s.en.wakes[n]? with
    | none => none
    | some w =>
      match s.regionGate (schedAsker w.hold w.rgn) w.rgn with
      | (false, s) => some s
      | (true, s) =>
        if !w.arrived then some (s.wakeJudged n w)
        else
          match s.takeFrame w.hold w.rgn with
          | (none, _) => none
          | (some m, s) =>
            match s.exitReady w.hold w.rgn m with
            | (false, s) => some s
            | (true, s) =>
              some ({ s with en := { s.en with wakes := s.en.wakes.eraseIdx n } }.wakeSprig w.hold w.rgn w.core m w.arg))

/-! ### Turns and drains (R113, R139) -/

/-- TURN_END (R113): the turn's SLICE has passed at the corner core; its end is broadcast, and the next turn begins. -/
def execTurnEnd (s : State) : Host.Outcome State Fault Refusal :=
  event s (
    let h := s.hd.turn
    let past := (2 ^ 64 + s.cyc s.turnCore - s.hd.turnAt) % 2 ^ 64
    if !s.ringed || past < bits (s.hword h 0x50) 31 0 then none
    else
      match s.turnReady with
      | (false, s) => some s
      | (true, s) => some ((s.beginEnd h).startTurn))

/-- SLICE_END_BROADCAST (R139): a core receives the end of a turn or the start of a FREEZE; each thread's drain allowance
starts to count, and a thread with none is ordered out at once. Root sprigs are left alone (R480). -/
def execSliceEndBroadcast (s : State) : Host.Outcome State Fault Refusal :=
  event s (
    let c := s.ctl.here.unit
    let h := s.ctl.here.sub
    if !s.hd.ended.contains (h, c) then none
    else
      let s := { s with hd := { s.hd with ended := s.hd.ended.filter (· ≠ (h, c)) } }
      some (s.upto 16 fun s k =>
        match (s.slotAt c k).thr with
        | some t =>
          if t.hold ≠ h || t.root then s
          else
            let d := s.effDrain h t.rgn
            if d = 0 then s.orderSpill (slotKey c k) else s.modSlotAt c k fun v => { v with drainBy := some (s.cyc c + d) }
        | none => s))

/-- DRAIN_ALLOWANCE_EXPIRY (R139). -/
def execDrainAllowanceExpiry (s : State) : Host.Outcome State Fault Refusal :=
  event s (match s.slot.drainBy with
    | none => none
    | some c =>
      if s.cyc s.core < c || s.slot.thr.isNone then none
      else some ((s.modSlot fun v => { v with drainBy := none }).orderSpill (slotKey s.core s.slotNo)))

/-! ### Fault and supervisor queues (R121) -/

/-- The header to which a record goes. -/
def State.recHdr (s : State) (r : FaultRec) : Nat := if r.super then r.hdr else s.eff r.hold r.rgn 0x80

/-- What the part finds at a page that it must write: where the bytes are, that it has to wait, or that the access is dropped. -/
inductive PartPage where
  | ready (a : AtHome) (pa : Nat)
  | waits
  | dropped
deriving DecidableEq, Repr

/-- Bytes of a page that the part is to write at once: the page is waited for (R487), and the host gives up its copy of a half (R56). -/
def State.partPage (s : State) (h rgn mva n : Nat) : PartPage × State :=
  match s.frameReady h rgn mva n with
  | (false, s) => (.waits, s)
  | (true, s) =>
    match s.translate ⟨.sched h mva, h, rgn⟩ (s.corner h) mva { r := true, w := true } with
    | (.ok (.dev pa leaf), s) =>
      (match s.hdmGate (some (.sched h mva)) pa n true h rgn with
       | (false, s) => (.waits, s)
       | (true, s) => (.ready (atHome leaf h rgn (BitVec.ofNat 64 mva)) pa, s))
    | (.error .waits, s) => (.waits, s)
    | (_, s) => (.dropped, s)

/-- Every slot that idles for the holding goes on (R121, R468). -/
def State.wakeIdle (s : State) (h : Nat) : State :=
  { s with co := { s.co with slots := s.co.slots.map fun ((k, v) : Nat × Slot) =>
    (k, if v.idling && decide (v.thr.map (·.hold) = some h) then { v with idling := false } else v) } }

/-- The bytes of a record (R121). -/
def FaultRec.bytes (r : FaultRec) (lost : Bool) : List Byte :=
  [BitVec.ofNat 8 r.type, BitVec.ofNat 8 r.cause, BitVec.ofNat 8 r.hold,
   BitVec.ofNat 8 ((if r.write then 1 else 0) + (if lost then 2 else 0))] ++
  leBytes 4 r.info ++ leBytes 8 r.rgn ++ leBytes 8 r.addr.toNat ++ leBytes 8 r.obj.toNat

/-- The outcome of adding a record: it is done with, it waits, or it waits for room in the ring. -/
inductive Added where
  | done | waits | full
deriving DecidableEq, Repr

/-- Write a word of a queue's header, which has been found at a home. -/
def State.putHead (s : State) (a : AtHome) (pa off v : Nat) : State := s.putBeats a 2 (pa + off) (leBytes 8 v)

/-- Add a record to its queue (R121): the record is performed before TAIL moves and the host is told. -/
def State.addRecord (s : State) (r : FaultRec) : Added × State :=
  let h := r.hold
  match if r.super then (true, s) else s.chainReady (schedAsker h r.rgn) r.rgn with
  | (false, s) => (.waits, s)
  | (true, s) =>
  let hdr := s.recHdr r
  if hdr = 0 then (.done, s)
  else
    match s.partPage h r.rgn hdr 64 with
    | (.waits, s) => (.waits, s)
    | (.dropped, s) => (.done, s.dropPart h)
    | (.ready a pa, s) =>
      let cap := bits (s.peekN h (hdr + 8)) 15 0
      let head := s.peekN h (hdr + 0x10)
      let tail := s.peekN h (hdr + 0x18)
      if (2 ^ 64 + tail - head) % 2 ^ 64 ≤ cap then
        let at_ := (bits (s.peekN h hdr) 56 0 + 32 * (tail % (cap + 1))) % 2 ^ 57
        match s.partPage h r.rgn at_ 32 with
        | (.waits, s) => (.waits, s)
        | (p, s) =>
          let lost := s.sc.lostb.contains (h, hdr)
          let s := { s with sc := { s.sc with lostb := s.sc.lostb.filter (· ≠ (h, hdr)) } }
          let s := match p with
            | .ready b q => s.putBeats b 2 q (r.bytes lost)
            | _ => s.dropPart h
          let s := s.putHead a pa 0x18 ((tail + 1) % 2 ^ 64)
          let held := fun (p : Nat × Nat × Nat) => !(p.1 = h && p.2.1 = hdr) || (2 ^ 64 + p.2.2 - head) % 2 ^ 64 ≤ cap
          let s := if r.super then s
            else { s with sc := { s.sc with added := (s.sc.added.filter held) ++ [(h, hdr, tail)] } }
          let notify := s.peekN h (hdr + 8) / 2 ^ 32
          let s := if bit notify 31 && bit (s.fn h).chain.facc.toNat 1 then s.send (.msix (s.hostPort h 0) h (bits notify 5 0)) else s
          (.done, if r.super then s.wakeIdle h else s)
      else if r.type = 2 then (.full, s)
      else
        let s := s.putHead a pa 0x20 ((s.peekN h (hdr + 0x20) + 1) % 2 ^ 64)
        (.done, { s with sc := { s.sc with lostb := if s.sc.lostb.contains (h, hdr) then s.sc.lostb else s.sc.lostb ++ [(h, hdr)] } })

/-- An earlier page-request record waits for the same ring (R121). -/
def State.behind (s : State) (r : FaultRec) (n : Nat) : Bool :=
  r.type = 2 && (s.sc.faults.take n).any fun q => q.type = 2 && q.hold = r.hold && s.recHdr q = s.recHdr r

/-- FAULT_QUEUE_RECORD_ADD (R121). -/
def execFaultQueueRecordAdd (s : State) : Host.Outcome State Fault Refusal :=
  let n := s.ctl.here.pos
  event s (match s.sc.faults[n]? with
    | none => none
    | some r =>
      if s.behind r n then none
      else
        match s.addRecord r with
        | (.full, _) => none
        | (.waits, s) => some s
        | (.done, s) => some { s with sc := { s.sc with faults := s.sc.faults.erase r } })

/-- Page-request records that wait on a ring are written in order as far as it has room. -/
def State.flushRing (s : State) : List FaultRec → State
  | [] => s
  | r :: rs =>
    match s.addRecord r with
    | (.done, s) => ({ s with sc := { s.sc with faults := s.sc.faults.erase r } }).flushRing rs
    | (_, s) => s

/-- HEAD_STORE (R121): a store to HEAD has been performed; waiting page-request records are written at once. -/
def execHeadStore (s : State) : Host.Outcome State Fault Refusal :=
  event s (
    let l := s.sc.faults.filter fun r => r.type = 2 && r.hold = s.ctl.here.unit && s.recHdr r = s.ctl.here.pos
    if l = [] then none else some (s.flushRing l))

/-! ### The part's waiting accesses, the crier -/

/-- PART_ACCESS (R487): a waiting access of the part is performed, once its page is resident, or dropped. -/
def execPartAccess (s : State) : Host.Outcome State Fault Refusal :=
  event s (match s.sc.parts[s.ctl.here.pos]? with
    | none => none
    | some p => if s.resident p.hold p.mva || !s.canRequest p.hold then some (s.partTry p) else none)

/-- CRIER_MESSAGE (R152): a message reaches a cluster's replica. -/
def execCrierMessage (s : State) : Host.Outcome State Fault Refusal :=
  let k := s.ctl.here.unit
  let n := s.ctl.here.pos
  event s (match s.sc.crier[n]? with
    | none => none
    | some m =>
      if 2048 ≤ k || m.seen.contains k then none
      else
        let s := s.setReplica k m.cell (improve m.max (s.replica k m.cell) m.gen m.set m.value)
        some { s with sc := { s.sc with crier :=
          if m.seen.length = 2047 then s.sc.crier.eraseIdx n
          else (s.sc.crier.take n) ++ ({ m with seen := k :: m.seen } : Cry) :: s.sc.crier.drop (n + 1) } })

end Sys2Proof.Machine
end

