-- ==== Sys2Proof/Machine/Hostmem.lean ====
section
/-! DEFINITION. Writes of the host, of peers and of chains at their homes and accesses through window M (R47, R61-R63, R77), and the
completion of requests that the part has sent (R49, R67, R71). -/

namespace Sys2Proof.Machine

/-! ### Host and peer writes (R61-R63) -/

/-- Two targets lie in the same 64 bytes. -/
def Tgt.same64 : Tgt → Tgt → Bool
  | .bank c _ o, .bank d _ p => c = d && o / 64 = p / 64
  | .dev a _, .dev b _ => a / 64 = b / 64
  | .host a l, .host b m => l.tgt = m.tgt && a / 64 = b / 64
  | _, _ => false

/-- A write goes on behind another one: for the same half, or of a line for which that one pays (R61, R102). -/
def HostWrite.behind (w o : HostWrite) : Bool :=
  o.tgt.same64 w.tgt || (w.paid && o.port = w.port && o.num = w.num &&
    (match o.tgt, w.tgt with | .dev a _, .dev b _ => a / 128 = b / 128 | _, _ => false))

/-- Whose write it is when it leaves the module (R63, R77). -/
def HostWrite.sender (w : HostWrite) : Option Sender :=
  if w.port < 2 || carveSrc ≤ w.port then none
  else if w.port < 64 then some (.peer (w.port - 2))
  else some (.chain (w.port - 64) w.num)

/-- A chain's record has posted a write to the host at a port (R81). -/
def State.chainPosted (s : State) (fn num port : Nat) : State :=
  s.modFn fn fun f => { f with chain := { f.chain with ports := (num, port) :: f.chain.ports.filter fun p => p.1 ≠ num } }

/-- A chain's record has written to a peer, which has to apply the write (R63, R77). -/
def State.chainPeer (s : State) (fn num peer : Nat) : State :=
  s.modFn fn fun f => { f with chain := { f.chain with
    peers := if f.chain.peers.contains (num, peer) then f.chain.peers else f.chain.peers ++ [(num, peer)] } }

/-- A write has gone to a host port or to a peer. -/
def State.wentOut (s : State) (w : HostWrite) (port : Option Nat) (peer : Nat) : State :=
  match w.sender with
  | some (.chain fn num) => (match port with | some p => s.chainPosted fn num p | none => s.chainPeer fn num peer)
  | _ => s

/-- An agent's write that cannot be performed where it leads is dropped: counted for the host (R47), with a record for others. -/
def State.agentDrop (s : State) (w : HostWrite) (cause : Nat) : State :=
  if w.port < 2 then s.mmioError w.hold else s.addFault (dropRec w.hold 0 cause 0)

/-- A host, peer or chain write where it leads: at a bank, looked up as a store (DEDUCED, log entry 62), at its home after pulls and revocations,
once its line is paid for (R102) and the host's state of the half allows it (R56), or in host memory, the line cache or a peer; none
while it waits. A carve-out is copied plainly (R191). -/
def State.writeDo (s : State) (n : Nat) (w : HostWrite) : Option State :=
  let took := fun (s : State) => { s with hi := { s.hi with writes := s.hi.writes.eraseIdx n } }
  let bs := w.data.filterMap id
  match w.tgt with
  | .bank core hold off =>
    if w.port = carveSrc then some (((took s).winPut core hold off bs).winPoison core hold off w.poison)
    else
      (match s.unitLook core hold kST (winWords off bs.length) with
       | .go acts =>
         let s := (took s).unitWrite core hold off bs acts 0 0
         let s := if w.poison then acts.foldl (fun (s : State) a => s.winPoison core hold (8 * a.1) true) s else s
         some (s.retag core hold acts)
       | .wait _ => none
       | .trap .. => some ((took s).agentDrop w 0x20)
       | _ => some ((took s).agentDrop w 0x21))
  | .dev pa leaf =>
    let who : Req := .write w.port w.num pa
    (match if w.paid || w.port = carveSrc then s.hdmGate (some who) pa w.data.length true w.hold 0
           else s.enter who leaf.home pa w.data.length true w.hold 0 with
     | (false, s') => if s.stirred s' then some s' else none
     | (true, s) =>
       let s := (took s).putRuns (atHome leaf w.hold 0 0) pa w.data w.poison
       some (if w.port < 2 then s.writtenBy pa w.data.length (some (w.port, w.num)) else s))
  | .host a leaf =>
    let port := s.hostPort w.hold a
    if leaf.tgt = 1 then
      if (s.hline (a / 64)).serves true then
        let s := (took s).hlcPut a bs
        some (if w.poison then s.setHline (a / 64) { s.hline (a / 64) with bad := true } else s)
      else
        let s' := s.askLine (a / 64) true (.engLine (a / 64) true)
        if s'.hi.reqs.length = s.hi.reqs.length then none else some s'
    else if leaf.tgt = 2 then
      (if s.portRoom port w.hold then some (((took s).hostPut port w.hold a bs w.poison none w.sender).wentOut w (some port) 0) else none)
    else if s.linkRoom (peerOf a) a w.hold then
      some (((took s).peerPut w.hold 0 0 a bs w.poison none w.sender).wentOut w none (peerOf a))
    else none

/-! ### Window M (R47) -/

/-- Pieces of data as completions of at most 512 bytes (R36), poisoned where a piece is. -/
def completions : List (List Byte × Bool) → List (List Byte × Bool)
  | [] => []
  | (b, x) :: l =>
    match completions l with
    | (c, y) :: r => if b.length + c.length ≤ 512 then (b ++ c, x || y) :: r else (b, x) :: (c, y) :: r
    | [] => [(b, x)]

/-- Room before a port for the completions of a read (R41). -/
def State.cplRoom (s : State) (port fn n : Nat) : Bool :=
  (s.hi.out.filter fun m => m.msg.port = port && m.msg.hold = fn).length + (n / 512 + 2) ≤ 16

/-- BAR4 of the physical function of port A addresses the staging buffer (R90). -/
def State.staged (s : State) (port fn : Nat) : Bool := s.st.waiting && s.pw.strapBoot = 1 && port = 0 && fn = 0

/-- The MVA at an offset of window M: segment 1 of the holding's segment table (R47, R194), which waits as any read of the part does (R56);
denied beyond the segment's limit. -/
def State.windowMva (s : State) (port h off n : Nat) : Except Put Nat × State :=
  let t := s.hword h 0x38
  let who : Req := .agent port h t
  let at_ := fun (lo hi : Nat) => if off + n ≤ bits hi 56 0 + 1 then Except.ok (bits lo 56 0 + off) else Except.error Put.denied
  if t = 0 then (at_ 0 0, s)
  else if s.hi.bad.contains who then (.error .denied, s.agentOver port h t 16)
  else
    match s.partGate ⟨who, h, 0⟩ t 16 with
    | (false, s) => (.error .waits, s)
    | (true, s) =>
      match s.peek h t, s.peek h (t + 8) with
      | some lo, some hi => (at_ lo.toNat hi.toNat, s)
      | _, _ => (.error .denied, s)

/-- The completions of a read leave for its port. -/
def State.complyM (s : State) (r : HostRead) (l : List (List Byte × Bool)) : State :=
  (completions l).foldl (fun (s : State) p => s.send (.cplData r.port r.fn p.1 p.2)) s

/-- An access through window M that is denied: a read is aborted, a write dropped and counted (R47). -/
def State.denyM (s : State) (r : HostRead) : State := if r.put.isSome then s.mmioError r.fn else s.send (.cplCA r.port r.fn)

/-- The staging buffer of 32 MiB behind window M (R90); beyond it nothing is kept and zeros are read. -/
def State.stageM (s : State) (r : HostRead) : State :=
  let room := 2 ^ 25 - r.off
  match r.put with
  | some (_, d) => { s with st := { s.st with staging := Tab.setBytes s.st.staging r.off (d.take room) } }
  | none =>
    let bs := Tab.bytes s.st.staging r.off (min r.len room) ++ List.replicate (r.len - min r.len room) 0
    s.complyM r ((cut64 (r.len + 1) r.off 0 r.len).map fun p => ((bs.drop p.2.1).take p.2.2, false))

/-- An access through window M (R47): a read is completed once there is room before its port, a write goes to its home, and one that is
denied has no effect; it waits in the state that the error gives. -/
def State.windowM (s : State) (r : HostRead) : Except State State :=
  if r.put.isNone && !s.cplRoom r.port r.fn r.len then .error s
  else if s.staged r.port r.fn then .ok (s.stageM r)
  else
    match s.windowMva r.port r.fn r.off r.len with
    | (.error .waits, s) => .error s
    | (.error _, s) => .ok (s.denyM r)
    | (.ok a, s) =>
      match r.put with
      | some (num, data) =>
        (match s.agentWrite r.port num r.fn a data false with
         | (.done, s) => .ok s
         | (.denied, s) => .ok (s.denyM r)
         | (.waits, s) => .error s)
      | none =>
        match s.agentPieces r.port r.fn a r.len with
        | (.ok l, s) => .ok (s.complyM r l)
        | (.error .waits, s) => .error s
        | (.error _, s) => .ok (s.denyM r)

/-- An access comes to window M behind a write of its port that waits: it does not pass it (R62). -/
def State.behindWrite (s : State) (i port : Nat) : Bool := (s.hi.reads.take i).any fun r => r.port = port && r.put.isSome

/-- An access through window M that waits is tried again. -/
def State.readAgain (s : State) (i : Nat) (r : HostRead) : Option State :=
  if s.behindWrite i r.port then none
  else
    match s.windowM r with
    | .ok s => some { s with hi := { s.hi with reads := s.hi.reads.eraseIdx i } }
    | .error s' => s.moved s'

/-- HOST_WRITE (R61): a host, peer or chain write is performed where it leads, in order with earlier ones for the same half. At a
position behind the writes it is an access through window M that waits (DESIGN CHOICE, log entry 66). -/
def execHostWrite (s : State) : Host.Outcome State Fault Refusal :=
  let n := s.ctl.here.pos
  event s (match s.hi.writes[n]? with
    | none =>
      let i := n - s.hi.writes.length
      (s.hi.reads[i]?).bind fun r => s.readAgain i r
    | some w => if (s.hi.writes.take n).any fun o => w.behind o then none else s.writeDo n w)

/-! ### Completions -/

/-- The engine context of a queue's head. -/
def State.headEng (s : State) (mx : Bool) (key : Nat) : Option (Eng × Nat) :=
  if mx then (s.mctx key).queue.head?.map fun r => (r.eng key, r.num) else (s.cctx key).queue.head?.map fun c => (c.eng key, c.num)

/-- A translation joins a port's translation cache of 2,048 entries, tagged by function and PASID (R49). -/
def State.atcAdd (s : State) (port fn page : Nat) : State :=
  let e : AtcEnt := ⟨port, fn, s.pasid fn, page⟩
  let mine := s.hi.atc.filter fun e => e.port = port
  let (k, s) := if mine.length < 2048 then (0, s) else s.choose mine.length
  let l := if mine.length < 2048 then s.hi.atc else s.hi.atc.erase (mine.getD k e)
  { s with hi := { s.hi with atc := if l.contains e then l else l ++ [e] } }

/-- What an invalidation waits for has come about: every request that used a matching entry has its completion, and every posted
write that did has left the port (R49). -/
def State.atcReady (s : State) (w : AtcWait) : Bool :=
  (!s.hi.reqs.any fun r => w.ids.contains r.id) &&
  !s.hi.out.any fun m => match m.msg with
    | .write p f a x _ _ => p = w.port && f = w.fn && x.xlat && w.page ≤ a / 4096 && a / 4096 < w.page + w.size
    | _ => false

/-- Invalidations that have waited for their last request are completed (R49). -/
def State.atcDone (s : State) : State :=
  (s.hi.atcWait.filter s.atcReady).foldl (fun (s : State) w => s.send (.atsDone w.port w.fn))
    { s with hi := { s.hi with atcWait := s.hi.atcWait.filter fun w => !s.atcReady w } }

/-- A read or atomic in flight at the host or a peer has its answer: the entry has left its port queue. -/
def State.answered (s : State) (k : Nat) (e : PqEnt) (peer atom : Bool) (status : CplStatus) (data : List Byte) : State :=
  if status = CplStatus.ok then (s.dirtyAt k e data).entOk k e data else s.entFail k e (outCause peer atom status) 0 e.addr

/-- A line comes to the host-line cache (R64, R65); a failed request leaves a poisoned line. A line that is owned already stays as it
is. -/
def State.lineCame (s : State) (line : Nat) (own : Bool) (status : CplStatus) (data : List Byte) : State :=
  if 2 ≤ (s.hline line).st then s
  else
    s.hlcRoom.setHline line { st := if own then 2 else 1, data := (data ++ List.replicate 64 0).take 64, bad := status ≠ CplStatus.ok }

/-- A request that the part sent is completed (R67): the answer goes to whoever waits for it. -/
def State.complete (s : State) (r : HostReq) (status : CplStatus) (data : List Byte) : State :=
  let s := { s with hi := { s.hi with reqs := s.hi.reqs.filter fun q => q.id ≠ r.id } }
  let s := match r.purpose with
    | .dropped => s
    | .chain fn =>
      if (s.fn fn).chain.asked = some r.id then
        s.modFn fn fun f => { f with chain := { f.chain with asked := none, got := some (if status = CplStatus.ok then some data else none) } }
      else s
    | .load k e => s.answered k e false false status data
    | .atomic k e => s.answered k e false true status data
    | .peer k e =>
      if e.acc.isNone then
        (if status = CplStatus.ok then s else s.addFault (dropRec e.who.hold e.who.rgn (outCause true true status) e.addr))
      else s.answered k e true false status data
    | .line _ e own =>
      (match e.tgt with
       | .host a _ => s.lineCame (a / 64) own status data
       | _ => s)
    | .engLine line own => s.lineCame line own status data
    | .translate port fn page => if status = CplStatus.ok then s.atcAdd port fn page else s
    | .copyh fn num _ =>
      s.modFn fn fun f => { f with chain := { f.chain with recs := f.chain.recs.map fun (x : Rec) =>
        if x.num = num && x.asked then
          { x with asked := false, buf := some (if status = CplStatus.ok || status = CplStatus.poisoned then data else [], status ≠ CplStatus.ok) }
        else x } }
    | .engine mx key a => s.setGot mx key (s.engGot ⟨mx, key, 0, {}⟩ ++ [(a, status, data)])
    | .agent who a => { s with hi := { s.hi with got := s.hi.got ++ [(who, a, status, data)] } }
  s.atcDone

/-- HOST_COMPLETION (R67): a completion arrives at a host port for the request at position `pos`. -/
def execHostCompletion (status : CplStatus) (data : List Byte) (s : State) : Host.Outcome State Fault Refusal :=
  event s (match s.hi.reqs[s.ctl.here.pos]? with
    | none => none
    | some r => if 2 ≤ r.port then none else some (s.complete r status data))

end Sys2Proof.Machine
end

