-- ==== Sys2Proof/Machine/Chain.lean ====
section
/-! DEFINITION. The host chain (R72-R83): its registers, fetching records, executing them, completion, the mirror, and the
summary record set of RESYNC (R94, R95). Events of a chain happen at `unit` = the function and `pos` = the record's number. -/

namespace Sys2Proof.Machine

/-- The chain of a function. -/
def State.chainAt (s : State) (fn : Nat) : Chain := (s.fn fn).chain
/-- Change the chain of a function. -/
def State.modChain (s : State) (fn : Nat) (g : Chain → Chain) : State := s.modFn fn fun f => { f with chain := g f.chain }

/-! ### Registers (R72-R75) -/

/-- A write of CTAIL (R75). -/
def State.putCtail (s : State) (fn v : Nat) : State :=
  if v < (s.chainAt fn).ctail then s.mmioError fn else s.modChain fn fun c => { c with ctail := v }

/-- A write of CHEAD (R75). -/
def State.putChead (s : State) (fn : Nat) (v : Word) : State :=
  if (s.chainAt fn).run then s.mmioError fn else s.modChain fn fun c => { c with chead := v, prev := none }

/-- GO (R74). -/
def State.chainGo (s : State) (fn : Nat) : State :=
  if (s.chainAt fn).run then s else s.modChain fn fun c => { c with run := true, err := 0, erec := 0 }

/-- CTAIL_WRITE (R75). -/
def execCtailWrite (value : Word) (s : State) : Host.Outcome State Fault Refusal := event s (some (s.putCtail s.ctl.here.unit value.toNat))

/-- CHEAD_WRITE (R75). -/
def execCheadWrite (value : Word) (s : State) : Host.Outcome State Fault Refusal := event s (some (s.putChead s.ctl.here.unit value))

/-- GO (R74). -/
def execGo (s : State) : Host.Outcome State Fault Refusal := event s (some (s.chainGo s.ctl.here.unit))

/-- CSTAT as it reads (R74). -/
def Chain.cstat (c : Chain) : Nat := c.erec % 2 ^ 24 * 2 ^ 32 + c.err.toNat * 2 ^ 24 + (if c.run then 2 else 0)

/-! ### Stopping (R79) -/

/-- A record stops the chain: ERR and EREC are set and CHEAD keeps the record's address. Records after it that have not started
are given up; they are fetched again. The frames of its stopped sprigs stay reserved: nothing in the model abandons a launch (R130;
DESIGN CHOICE, log entry 91). -/
def State.chainStop (s : State) (fn num : Nat) (ptr : Word) (err : BitVec 8) : State :=
  s.modChain fn fun c => { c with run := false, err := err, erec := num % 2 ^ 24, chead := ptr, next := num, prev := none, asked := none,
                                  got := none, recs := c.recs.filter fun r => r.num < num || (num < r.num && r.acted) }

/-- A record that has started turns out to be one that cannot be executed, before any of its effects. While an earlier one is still to be
fetched it is given up, and fetched again in its turn; otherwise it stops the chain (R79). -/
def State.recStop (s : State) (fn : Nat) (r : Rec) (err : BitVec 8) : State :=
  if (s.chainAt fn).next ≤ r.num then s.modChain fn fun c => { c with recs := c.recs.filter fun x => x.num ≠ r.num }
  else s.chainStop fn r.num r.ptr err

/-- A SPACE field or a chain pointer has a reserved value, or lies in the holding's memory without DEVCHAIN (R73). -/
def ptrBad (p : Word) (facc : Word) : Bool :=
  bits p.toNat 5 2 ≠ 0 || 2 ≤ bits p.toNat 1 0 || (bits p.toNat 1 0 = 1 && !facc.getLsbD 2)

/-- Address of a chain pointer. -/
def ptrAddr (p : Word) : Nat := p.toNat / 64 * 64

/-! ### Fetching (R75, R76) -/

/-- TYPE, FLAGS or a reserved byte of a record is not allowed (R76, R77). A VEC above 63 and a byte that the type does not list count as
such: DESIGN CHOICE, log entry 84. -/
def recordMalformed (bs : List Byte) : Bool :=
  let ty := leNat (bs.take 1)
  let w := fun i n => leNat ((bs.drop i).take n)
  ty = 0 || 5 < ty || 64 ≤ w 1 1 || w 2 6 ≠ 0 ||
  (match ty with
   | 1 | 2 => w 40 24 ≠ 0
   | 3 => 64 ≤ w 32 2 || w 34 30 ≠ 0
   | 4 => w 32 32 ≠ 0
   | _ => w 24 40 ≠ 0)

/-- A space field of a record has a reserved value (R73, R79). -/
def spacesBad (bs : List Byte) : Bool :=
  let f := leNat ((bs.drop 1).take 1)
  2 ≤ bits f 3 2 || 2 ≤ bits f 5 4

/-- The words of a record. -/
def wordsIn (bs : List Byte) : List Word := (List.range 8).map fun i => BitVec.ofNat 64 (leNat ((bs.drop (8 * i)).take 8))

/-- A record that has been read joins the records of the chain, or stops it (R76, R79). Until its NEXT is read CHEAD goes on naming it:
DESIGN CHOICE, log entry 58. -/
def State.takeRecord (s : State) (fn : Nat) (bs : List Byte) : State :=
  let c := s.chainAt fn
  if recordMalformed bs then s.chainStop fn c.next c.chead 0x01
  else if spacesBad bs then s.chainStop fn c.next c.chead 0x02
  else
    let r : Rec := { num := c.next, type := leNat (bs.take 1), flags := BitVec.ofNat 8 (leNat ((bs.drop 1).take 1)),
                     body := wordsIn bs, ptr := c.chead }
    s.modChain fn fun c => { c with recs := c.recs ++ [r], next := c.next + 1, prev := some c.chead }

/-- A FEATURE record has not completed: nothing more is fetched (R83). -/
def Chain.featuring (c : Chain) : Bool := c.recs.any fun r => r.type = 5 && !r.done

/-- RECORD_FETCH (R75): the pointer to the next record is read, then the record itself. A host address takes a request and its
completion (R73); an MVA is read through the holding's page table. -/
def execRecordFetch (s : State) : Host.Outcome State Fault Refusal :=
  let fn := s.ctl.here.unit
  let c := s.chainAt fn
  event s (
    if !c.run || c.ctail < c.next || c.asked.isSome || c.featuring || 64 ≤ (c.recs.filter fun r => !r.done).length then none
    else
      match c.recs.find? fun r => r.num = c.next, c.prev with
      -- a record that had started before an earlier one stopped the chain: only its NEXT is wanted
      | some _, none => some (s.modChain fn fun c => { c with next := c.next + 1, prev := some c.chead })
      | _, prev =>
        let at_ := prev.getD c.chead
        let n := if prev.isSome then 8 else 64
        let addr := ptrAddr at_ + (if prev.isSome then 8 else 0)
        if prev.isNone && ptrBad at_ c.facc then some (s.chainStop fn c.next c.chead 0x02)
        else
          let fin := fun (s : State) (d : Option (List Byte)) =>
            match d, prev with
            | some bs, some _ => s.modChain fn fun c => { c with chead := BitVec.ofNat 64 (leNat (bs.take 8)), prev := none }
            | some bs, none => s.takeRecord fn bs
            -- the pointer to the record could not be read: a later GO reads it again (R79)
            | none, some p => (s.chainStop fn c.next p 0x03).modChain fn fun c => { c with prev := some p }
            | none, none => s.chainStop fn c.next c.chead 0x03
          match c.got with
          | some d => some (fin (s.modChain fn fun c => { c with got := none }) d)
          | none =>
            if bits at_.toNat 1 0 = 0 then
              if !s.tagFree (s.hostPort fn addr) || !s.portRoom (s.hostPort fn addr) fn then none else
              let s := s.modChain fn fun c => { c with asked := some s.ctl.nextId }
              some (s.hostGet (s.hostPort fn addr) fn addr n (.chain fn))
            else
              match s.agentRead (chainPort fn) fn addr n with
              | (.waits, s') => s.moved s'
              | (.data bs false, s) => some (fin s (some bs))
              | (_, s) => some (fin s none))

/-! ### Starting a record (R78) -/

/-- The record of the present step, when it is of the type and may start or go on: every earlier record has started, and a
record with SER waits for all of them to complete. -/
def State.startable (s : State) (type : Nat) : Option Rec :=
  let c := s.chainAt s.ctl.here.unit
  (c.recs.find? fun r => r.num = s.ctl.here.pos).bind fun r =>
    if r.type ≠ type || r.done then none
    else if r.acted then some r
    else if (c.recs.any fun q => q.num < r.num && !q.acted) || (r.flags.getLsbD 0 && c.tlcur + 1 < r.num) then none
    else some r

/-- Change a record. -/
def State.modChainRec (s : State) (fn num : Nat) (g : Rec → Rec) : State :=
  s.modChain fn fun c => { c with recs := c.recs.map fun (r : Rec) => if r.num = num then g r else r }

/-- A record has started. -/
def State.act (s : State) (fn num : Nat) (left : Nat) (done : Bool) : State :=
  (s.modChainRec fn num fun r => { r with acted := true, left := left, done := done }).modChain fn fun c => { c with first := false }

/-- A word of the record. -/
def Rec.word (r : Rec) (i : Nat) : Nat := (r.body.getD i 0).toNat
/-- The space of the source (R76). -/
def Rec.ssp (r : Rec) : Nat := bits r.flags.toNat 3 2
/-- The space of the destination (R76). -/
def Rec.dsp (r : Rec) : Nat := bits r.flags.toNat 5 4

/-- A write of the chain to device memory is still on its way. -/
def State.chainWrites (s : State) (fn : Nat) (p : Nat → Bool) : Bool := s.hi.writes.any fun w => w.port = chainPort fn && p w.num

/-- FEATURE (R83). -/
def execFeature (s : State) : Host.Outcome State Fault Refusal :=
  let fn := s.ctl.here.unit
  event s ((s.startable 5).bind fun r =>
    if r.acted then none
    else if !(s.chainAt fn).first then some (s.recStop fn r 0x04)
    else some ((s.act fn r.num 0 false).modChain fn fun c => { c with facc := BitVec.ofNat 64 (r.word 2 % 16) }))

/-- Root privilege of a launch on holding 0's chain (R479). -/
def State.rootLaunch (s : State) (fn rgn : Nat) : Bool :=
  fn = 0 && s.hi.rootRgn.getLsbD 0 && bits s.hi.rootRgn.toNat 56 8 * 256 = rgn

/-- LAUNCH (R77): the checks of SPAWN, a release, and the start of dealing. -/
def execLaunch (s : State) : Host.Outcome State Fault Refusal :=
  let fn := s.ctl.here.unit
  event s ((s.startable 1).bind fun r =>
    let rgn := r.word 2
    if r.acted || s.chainWrites fn (· < r.num) || s.sending (fun x => match x with | .chain g k => g = fn && k < r.num | _ => false) then none
    else
      match s.regionGate (schedAsker fn rgn) rgn with
      | (false, s') => s.moved s'
      | (true, s) =>
      let look := if s.live fn then s.lookChain fn 15 rgn else .broken
      let s := match look with | .ok _ => s.markFrz fn rgn | _ => s
      match s.launchCheck fn rgn look (r.word 4) with
      | (0, sg) =>
        let i := s.ctl.nextId
        some ((s.launchStart fn rgn sg (r.word 3) (r.word 4) (s.rootLaunch fn rgn) (some r.num)).act fn r.num i false)
      | _ => some (s.recStop fn r 0x05))

/-- A range in a space can be accessed: every page of an MVA range, or bank of the direct window, grants it. -/
def State.spaceOk (s : State) (fn space a n : Nat) (need : Need) : Put × State :=
  if space = 0 then (.done, s)
  else if !s.live fn || 2 ^ 57 < a + n then (.denied, s)
  else
    (List.range ((a + n + 16383) / 16384 - a / 16384)).foldl (fun (p : Put × State) i =>
      let b := max a ((a / 16384 + i) * 16384)
      match p with
      | (.done, s) =>
        (match s.agentAt (chainPort fn) fn b (min (a + n) ((a / 16384 + i + 1) * 16384) - b) need with
         | (.ok _, s) => (.done, s)
         | (.error .waits, s) => (.waits, s)
         | (_, s) => (.denied, s))
      | p => p) (.done, s)

/-- A write of a record to a space: as a host write to device memory, or posted to the host once there is room before the port (R36, R41).
`cont` says that the record has written before it (R102). -/
def State.spacePut (s : State) (fn num space a : Nat) (data : List Byte) (bad : Bool) (cont : Bool) : Put × State :=
  if space = 0 then
    let p := s.hostPort fn a
    if s.portRoom p fn then (.done, (s.hostPut p fn a data bad none (some (.chain fn num))).chainPosted fn num p) else (.waits, s)
  else s.agentWrite (chainPort fn) num fn a data bad cont

/-- Pieces that a record writes one after another, until one waits or is denied; those that are left come back. -/
def State.putPieces (s : State) (fn num space : Nat) : Bool → List (List Byte × Bool) → Nat → Put × List (List Byte × Bool) × State
  | _, [], _ => (.done, [], s)
  | cont, (bs, bad) :: l, a =>
    match s.spacePut fn num space a bs bad cont with
    | (.done, s) => s.putPieces fn num space true l (a + bs.length)
    | (p, s) => (p, (bs, bad) :: l, s)

/-- A record goes on to write its pieces into the bytes from `a` to `e`; the pieces that are left reach up to `e`. -/
def State.recWrite (s : State) (fn : Nat) (r : Rec) (a e : Nat) (fin : Rec → Rec) : Option State :=
  let at_ := e - (r.pieces.map (·.1.length)).sum
  match s.spaceOk fn r.dsp at_ (e - at_) { w := true } with
  | (.denied, s) => some (s.recStop fn r 0x06)
  | (.waits, s') => s.moved s'
  | (.done, t) =>
    match t.putPieces fn r.num r.dsp (decide (a < at_)) r.pieces at_ with
    | (.done, _, t) => some (t.modChainRec fn r.num fun x => fin { x with pieces := [] })
    | (.denied, _, t) => some (t.recStop fn r 0x06)
    | (.waits, l, t) => if l.length < r.pieces.length then some (t.modChainRec fn r.num fun x => { x with pieces := l }) else s.moved t

/-- SIGNAL (R77). -/
def execSignal (s : State) : Host.Outcome State Fault Refusal :=
  let fn := s.ctl.here.unit
  event s ((s.startable 3).bind fun r =>
    let a := r.word 2
    if r.acted then none
    else if a % 8 ≠ 0 then some (s.recStop fn r 0x06)
    else
      match s.spaceOk fn r.dsp a 8 { w := true } with
      | (.denied, s) => some (s.recStop fn r 0x06)
      | (.waits, s') => s.moved s'
      | (.done, t) =>
        match t.spacePut fn r.num r.dsp a (leBytes 8 (r.word 3)) false false with
        | (.done, t) => some (t.act fn r.num 0 false)
        | (.denied, t) => some (t.recStop fn r 0x06)
        | (.waits, t) => s.moved t)

/-- The next piece that a COPYH reads: bytes of one beat, so that poison goes by beats (R79). -/
def Rec.piece (r : Rec) : Nat := min (r.word 4 - r.left) (32 - (r.word 2 + r.left) % 32)

/-- A piece of a COPYH has been read, or stops the chain (R79). Nothing is written before all has been read, so that a record that
stops has had no effect (DEDUCED, log entry 68). -/
def State.copyhGot (s : State) (fn : Nat) (r : Rec) (bs : List Byte) (bad : Bool) : State :=
  let n := r.piece
  if bs = [] then s.recStop fn r 0x06
  else if bad && !(s.chainAt fn).facc.getLsbD 3 then s.recStop fn r 0x07
  else s.modChainRec fn r.num fun x => { x with left := x.left + n, buf := none, asked := false, pieces := x.pieces ++ [(bs.take n, bad)] }

/-- COPYH (R77): the checks and the start of a record, then one piece read in a step, and once all is read the writes go out; a line is paid
for once (R102). -/
def execCopyh (s : State) : Host.Outcome State Fault Refusal :=
  let fn := s.ctl.here.unit
  event s ((s.startable 2).bind fun r =>
    let src := r.word 2
    let dst := r.word 3
    let n := r.word 4
    if !r.acted then
      if n = 0 || 2 ^ 36 < n then some (s.recStop fn r 0x06)
      else
        match s.spaceOk fn r.ssp src n { r := true } with
        | (.denied, s) => some (s.recStop fn r 0x06)
        | (.waits, s') => s.moved s'
        | (.done, t) =>
          match t.spaceOk fn r.dsp dst n { w := true } with
          | (.denied, s) => some (s.recStop fn r 0x06)
          | (.waits, t) => s.moved t
          | (.done, s) => some (s.act fn r.num 0 false)
    else if n < r.left || r.asked then none
    else if n = r.left then s.recWrite fn r dst (dst + n) fun x => { x with left := n + 1 }
    else
      match r.buf with
      | some (bs, bad) => some (s.copyhGot fn r bs bad)
      | none =>
        let a := src + r.left
        if r.ssp = 0 then
          (if s.tagFree (s.hostPort fn a) && s.portRoom (s.hostPort fn a) fn then
            some ((s.modChainRec fn r.num fun x => { x with asked := true }).hostGet (s.hostPort fn a) fn a r.piece (.copyh fn r.num r.left))
           else none)
        else
          match s.agentRead (chainPort fn) fn a r.piece (decide (r.left ≠ 0)) with
          | (.waits, s') => s.moved s'
          | (.denied, s) => some (s.recStop fn r 0x06)
          | (.data bs bad, s) => some (s.copyhGot fn r bs bad))

/-! ### RESYNC (R94, R95) -/

/-- STATE of a link (R35). -/
def LState.code : LState → Nat
  | .down => 0 | .train => 1 | .up8 => 2 | .up4 => 3 | .fail => 4

/-- A Kryas link's status register (R35). -/
def Link.status (l : Link) : Nat :=
  l.dropc * 2 ^ 40 + l.retc * 2 ^ 24 + l.nakc * 2 ^ 8 + l.peer.toNat * 2 ^ 5 + (if l.algn then 16 else 0) + l.st.code

/-- A record as R92 frames it: TYPE, LEN, the value, and zeros up to a multiple of 8 bytes. -/
def tlv (type : Nat) (value : List Byte) : List Byte :=
  leBytes 2 type ++ leBytes 2 value.length ++ value ++ List.replicate ((4 + 7 * value.length) % 8) 0

/-- A record of the set: its type, and words as its value, framed as R92 lays down. The manual gives the order of the values
of a summary record and not their widths; each takes one word here. -/
def frameRec (type : Nat) (ws : List Nat) : List Byte := tlv type (ws.flatMap (leBytes 8))

/-- The pending fault queue records of a holding, oldest first: those that its rings hold and software has not consumed, then those
on their way; region, cause and address of each (R121). -/
def State.pending (s : State) (h : Nat) : List (List Nat) :=
  (s.sc.added.filterMap fun (p : Nat × Nat × Nat) =>
    let (g, hdr, i) := p
    let cap := bits (s.peekN h (hdr + 8)) 15 0
    let head := s.peekN h (hdr + 0x10)
    let n := (2 ^ 64 + s.peekN h (hdr + 0x18) - head) % 2 ^ 64
    if g ≠ h || min n (cap + 1) ≤ (2 ^ 64 + i - head) % 2 ^ 64 then none
    else
      let a := (bits (s.peekN h hdr) 56 0 + 32 * (i % (cap + 1))) % 2 ^ 57
      some [h, s.peekN h (a + 8), bits (s.peekN h a) 15 8, s.peekN h (a + 16)]) ++
  (s.sc.faults.filter fun r => r.hold = h && !r.super).map fun r => [h, r.rgn, r.cause, r.addr.toNat]

/-- The state of a holding as a number: FREE, ACTIVE, FROZEN, SLICED. -/
def HState.code : HState → Nat
  | .free => 0 | .active => 1 | .frozen => 2 | .sliced => 3

/-- The summary records that a function receives, without the header (R94, R95). The link records of the host ports 48 and 49 have as status
2 while the port is up and 0 while it is down (DESIGN CHOICE, log entry 86). -/
def State.summary (s : State) (fn : Nat) : List (Nat × List Nat) :=
  let hs := if fn = 0 then List.range Config.holdings else [fn]
  (hs.map fun h => (0x0101, [h, (s.hold h).st.code, ((s.hold h).addr).getD 0, s.hword h 0x10, (s.pending h).length])) ++
  (hs.map fun h =>
    let c := s.chainAt h
    (0x0102, [h, c.chead.toNat, c.ctail, c.tlcur, c.cstat])) ++
  (hs.flatMap fun h => ((s.pending h).take 64).map fun w => (0x0103, w)) ++
  (hs.map fun h => (0x0104, [h, 15, (s.chainAt h).facc.toNat])) ++
  (if fn = 0 then
    (List.range 48).map (fun l => (0x0105, [l, (s.link l).status, (s.rota (rotaKey (.kryas l))).cepoch.toNat])) ++
    [(0x0105, [48, if s.hi.upA.isSome then 2 else 0, (s.rota (rotaKey (.host 0))).cepoch.toNat]),
     (0x0105, [49, if s.hi.upB.isSome then 2 else 0, (s.rota (rotaKey (.host 1))).cepoch.toNat])]
   else []) ++
  hs.map fun h =>
    let f := s.fn h
    (0x0106, [h, f.mmioErr, f.qdisc, f.beatErr, f.ecc, f.dropped])

/-- As many whole records as fit into some bytes. -/
def fitting : Nat → List (List Byte) → List (List Byte)
  | _, [] => []
  | n, r :: l => if r.length ≤ n then r :: fitting (n - r.length) l else []

/-- The bytes of the summary set for a buffer of `n` bytes (R94): header, records, end record. -/
def State.summaryBytes (s : State) (fn n : Nat) : List Byte :=
  let rs := (s.summary fn).map fun p => frameRec p.1 p.2
  let head := fun (k : Nat) (trunc : Bool) => frameRec 0x0100 [k, if trunc then 1 else 0, 1, s.pw.time, s.pw.time]
  let hl := (head 0 false).length
  let fit := fitting (n - hl - 8) rs
  let trunc : Bool := decide (fit.length < rs.length)
  (if hl + 8 ≤ n then head fit.length trunc ++ fit.flatten else []) ++ leBytes 8 0

/-- RESYNC (R94): the set as it stands when the record starts is written into the buffer, 64 bytes at a time. -/
def execResync (s : State) : Host.Outcome State Fault Refusal :=
  let fn := s.ctl.here.unit
  event s ((s.startable 4).bind fun r =>
    let a := r.word 2
    let n := r.word 3
    if r.acted then (if r.pieces = [] then none else s.recWrite fn r a (a + r.left) id)
    else if a % 8 ≠ 0 || n < 8 then some (s.recStop fn r 0x06)
    else
      let bs := s.summaryBytes fn n
      match s.spaceOk fn r.dsp a bs.length { w := true } with
      | (.denied, s) => some (s.recStop fn r 0x06)
      | (.waits, s') => s.moved s'
      | (.done, s) =>
        some ((s.act fn r.num bs.length false).modChainRec fn r.num fun x =>
          { x with pieces := (cut64 (bs.length + 1) a 0 bs.length).map fun p => ((bs.drop p.2.1).take p.2.2, false) }))

/-! ### Completion (R77, R78, R80) -/

/-- The writes of a record have all been performed: at their homes (R61), or sent by the host port or a link. -/
def State.recordSent (s : State) (fn num : Nat) : Bool := !s.chainWrites fn (· = num) && !s.sending (· = .chain fn num)

/-- The tag by which a peer's answer names the flush that a record waits for (R63). -/
def chainFlush (fn num : Nat) : Nat := 2 ^ 22 + fn + 64 * num

/-- The peers to which a record has written and that have not been asked for a flush. -/
def State.recPeers (s : State) (fn num : Nat) : List Nat := ((s.chainAt fn).peers.filter fun p => p.1 = num).map (·.2)

/-- Ask the peers that a record has written for a flush (R63). -/
def State.askChain (s : State) (fn num : Nat) : State :=
  let ps := s.recPeers fn num
  let s := s.modChain fn fun c => { c with peers := c.peers.filter fun p => p.1 ≠ num }
  { s with net := { s.net with flushes := s.net.flushes ++ ps.map fun p => (⟨p, chainFlush fn num, false⟩ : Flush) } }

/-- The posted writes to the host that a later mirror write may have to follow: of records beyond `t`, and the last of those up to it (R81). -/
def portsFrom (l : List (Nat × Nat)) (t : Nat) : List (Nat × Nat) := l.filter (t < ·.1) ++ (l.find? (·.1 ≤ t)).toList

/-- The record has done what R77 asks for its completion. -/
def State.recordOver (s : State) (fn : Nat) (r : Rec) : Bool :=
  r.acted && s.recordSent fn r.num &&
  (match r.type with
   | 1 => !(s.sc.launches.any fun l => l.id = r.left) && !s.storesOpen r.left
   | 2 => decide (r.word 4 < r.left)
   | 4 => r.pieces = []
   | _ => true)

/-- TLCUR: how far records have all completed (R78). -/
def advanceTl (recs : List Rec) : Nat → Nat → Nat
  | 0, t => t
  | n + 1, t => if recs.any fun r => r.num = t + 1 && r.done then advanceTl recs n (t + 1) else t

/-- RECORD_COMPLETE (R78): the record is complete once peers have applied its writes, a SIGNAL sends its MSI-X, TLCUR advances, and the
mirror falls due. The MSI-X goes by the port of host address 0: DESIGN CHOICE, log entry 84. -/
def execRecordComplete (s : State) : Host.Outcome State Fault Refusal :=
  let fn := s.ctl.here.unit
  event s (((s.chainAt fn).recs.find? fun r => r.num = s.ctl.here.pos).bind fun r =>
    if r.done || !s.recordOver fn r || s.net.flushes.any (fun x => x.key = chainFlush fn r.num) then none
    else if s.recPeers fn r.num ≠ [] then some (s.askChain fn r.num)
    else
      let c := s.chainAt fn
      let s := if r.type = 3 && r.flags.getLsbD 1 && c.facc.getLsbD 1 then s.send (.msix (s.hostPort fn 0) fn (bits (r.word 4) 15 0)) else s
      let recs := c.recs.map fun (x : Rec) => if x.num = r.num then { x with done := true } else x
      let t := advanceTl recs recs.length c.tlcur
      let due : Bool := c.facc.getLsbD 0 && decide (c.tlmir.toNat / 8 ≠ 0) && decide (c.tlcur < t)
      let m := if due then some t else c.mirror
      some (s.modChain fn fun c => { c with recs := recs.filter fun x => t < x.num, tlcur := t, mirror := m, ports := portsFrom c.ports t }))

/-- MIRROR_WRITE (R80, R81): by the port of the last posted write to the host of the records that the value covers (DEDUCED, log entry 69);
nothing is sent while TLMIR is 0, and a write waits for room before its port (R41). -/
def execMirrorWrite (s : State) : Host.Outcome State Fault Refusal :=
  let fn := s.ctl.here.unit
  event s ((s.chainAt fn).mirror.bind fun v =>
    let a := (s.chainAt fn).tlmir.toNat / 8 * 8
    let p := ((s.chainAt fn).ports.find? (·.1 ≤ v)).elim (s.hostPort fn a) (·.2)
    let t := s.modChain fn fun c => { c with mirror := none }
    if a = 0 then some t else if s.portRoom p fn then some (t.hostPut p fn a (leBytes 8 v) false) else none)

end Sys2Proof.Machine
end

