-- ==== Sys2Proof/Machine/Control.lean ====
section
/-! DEFINITION. The control instructions (R327-R337) and REP (R311, R312). -/

namespace Sys2Proof.Machine

/-- NOP (R329). -/
def execNop (f : Fields) (s : State) : Host.Outcome State Fault Refusal :=
  issue (.nop f) s fun _ s => .ok (.step s)

/-- A branch to a target formed by R327; a target outside the segment faults SEGLIM. -/
def branch (s : State) (base : Word) (disp : Int) : M Fin :=
  match target base disp with
  | some pc => .ok (.goto s pc)
  | none => raise s 0x10 0 (refOf base disp).word

/-- BRA (R330). -/
def execBra (f : Fields) (s : State) : Host.Outcome State Fault Refusal :=
  issue (.bra f) s fun f s => branch s s.thr.pc (4 * f.imm.toInt)

/-- BRX (R330). -/
def execBrx (f : Fields) (s : State) : Host.Outcome State Fault Refusal :=
  issue (.brx f) s fun f s => branch s (s.g f.a) f.imm.toInt

/-- CALL (R331): the target is formed before the link is written. -/
def execCall (f : Fields) (s : State) : Host.Outcome State Fault Refusal :=
  issue (.call f) s fun f s =>
    let base := if f.a.cls = .Z then s.thr.pc else s.g f.a
    let disp := if f.a.cls = .Z then 4 * f.imm.toInt else f.imm.toInt
    match target base disp, target s.thr.pc 12 with
    | some pc, some link => .ok (.goto (s.dst f.d link) pc)
    | none, _ => raise s 0x10 0 (refOf base disp).word
    | _, none => raise s 0x10 0 (refOf s.thr.pc 12).word

/-- LOOP (R332). -/
def execLoop (f : Fields) (s : State) : Host.Outcome State Fault Refusal :=
  issue (.loop f) s fun f s =>
    let n := s.g f.d - 1
    if n = 0 then .ok (.step (s.dst f.d n))
    else
      match target s.thr.pc (4 * f.imm.toInt) with
      | some pc => .ok (.goto (s.dst f.d n) pc)
      | none => raise s 0x10 0 (refOf s.thr.pc (4 * f.imm.toInt)).word

/-- REP (R311, R312): the repeat starts, or resumes at the iteration that %repc names. -/
def execRep (f : Fields) (s : State) : Host.Outcome State Fault Refusal :=
  issue (.rep f) s fun f s => do
    let pc := s.thr.pc
    let n := bits f.imm.toNat 5 0 + 1
    let m := f.imm.extractLsb' 6 3
    if n < s.thr.repc then raise s 0x06
    else
    let (w, s) ← fetchAt s (pc + 12)
    if repBad w m then raise s 0x06
    else
      .ok (.goto (s.modThr fun t =>
        { t with repc := if t.repc = 0 then n else t.repc, rep := some ⟨n, bits f.imm.toNat 11 9, m⟩ }) pc)

/-- The plot word of a region's effective plot, at which SPAWN, LAUNCH and EXIT release (R272). -/
def State.regionPlot (s : State) (t : Thread) : Word := BitVec.ofNat 64 (s.eff t.hold t.rgn 0x10)

/-- A thread retires: its frame is FREE and the retired counter counts (R130, R333). -/
def State.retireThread (s : State) (t : Thread) : State :=
  let s := s.vacate s.core s.slotNo
  ((s.freeFrame t.hold t.frame t.rgn).count t.hold t.rgn 0xA8).sprigGone t.launch

/-- EXIT (R333): a release at the region's plot, for which every earlier store is performed but those of KIND 10 pages, then LD and TL at 0,
then the slot is free. -/
def execExit (f : Fields) (s : State) : Host.Outcome State Fault Refusal :=
  issue (.exit f) s fun _ s => do
    let t := s.thr
    let s ← release s (s.regionPlot t)
    if !s.exitSettled s.core s.slotNo (s.regionPlot t) || s.slot.ld ≠ 0 || s.slot.tl ≠ 0 then stay s
    else
      match s.exitReady t.hold t.rgn t.frame with
      | (false, s) => stay s
      | (true, s) => .ok (.gone (s.retireThread t))

/-- TRAP (R334): it has issued when its trap is taken, so that YLD marks the slot (R307). -/
def execTrap (f : Fields) (s : State) : Host.Outcome State Fault Refusal :=
  issue (.trap f) s fun f s => .error (.raise ⟨bits f.imm.toNat 7 0, 0, 0, false, true, false⟩ (s.yieldIf f.yld))

/-- TRET (R335). -/
def execTret (f : Fields) (s : State) : Host.Outcome State Fault Refusal :=
  issue (.tret f) s fun _ s => .ok (.goto (s.modThr Thread.tret) s.thr.tpc)

/-- UIEN (R336). -/
def execUien (f : Fields) (s : State) : Host.Outcome State Fault Refusal :=
  issue (.uien f) s fun f s =>
    let old := s.thr.uimask.getLsbD 7
    let s := s.modThr fun t => { t with uimask := (t.uimask &&& 0x7F) ||| (if f.imm.getLsbD 0 then 0x80 else 0) }
    .ok (.step (s.dst f.d (if old then 1 else 0)))

end Sys2Proof.Machine
end

