-- ==== Sys2Proof/Machine/Fp64.lean ====
section
/-! DEFINITION. The FP64 extension (R456-R459). -/

namespace Sys2Proof.Machine

/-- DADD (R456). -/
def execDadd (f : Fields) (s : State) : Host.Outcome State Fault Refusal := fp64Op (.dadd f) s fun rm a b _ => ExtNum.add rm a b
/-- DSUB (R456). -/
def execDsub (f : Fields) (s : State) : Host.Outcome State Fault Refusal := fp64Op (.dsub f) s fun rm a b _ => ExtNum.add rm a b.negate
/-- DMUL (R456). -/
def execDmul (f : Fields) (s : State) : Host.Outcome State Fault Refusal := fp64Op (.dmul f) s fun _ a b _ => ExtNum.mul a b
/-- DFMA (R456). -/
def execDfma (f : Fields) (s : State) : Host.Outcome State Fault Refusal := fp64Op (.dfma f) s fun rm a b d => ExtNum.fma rm a b d
/-- DDIV (R456). -/
def execDdiv (f : Fields) (s : State) : Host.Outcome State Fault Refusal := fp64Op (.ddiv f) s fun _ a b _ => ExtNum.div a b
/-- DSQRT (R456). -/
def execDsqrt (f : Fields) (s : State) : Host.Outcome State Fault Refusal := fp64Op (.dsqrt f) s fun _ a _ _ => ExtNum.sqrt a

/-- DCVT (R458). -/
def execDcvt (f : Fields) (s : State) : Host.Outcome State Fault Refusal :=
  issue (.dcvt f) s fun f s => convert s f 13

/-- DCMP (R459). -/
def execDcmp (f : Fields) (s : State) : Host.Outcome State Fault Refusal :=
  issue (.dcmp f) s fun f s =>
    let (a, b, s) := s.srcs f (rawImm f)
    .ok (.step (s.setP f.d.idx.toNat (numCond (bits f.imm.toNat 2 0) (numOf 13 a) (numOf 13 b))))

end Sys2Proof.Machine
end

