-- ==== Sys2Proof/Machine/Attest.lean ====
section
/-! DEFINITION. SHA-384 (FIPS 180-4), with which the part measures itself (R91). -/

namespace Sys2Proof.Machine

/-- The largest number of at most `n` bits whose k-th power is at most `v`. -/
def rootOf (k v n : Nat) : Nat :=
  (List.range n).foldl (fun r i => if (r + 2 ^ (n - 1 - i)) ^ k ≤ v then r + 2 ^ (n - 1 - i) else r) 0

/-- The primes below 410: the first 80. -/
def shaPrimes : List Nat := (List.range 410).filter fun p => 2 ≤ p && (List.range p).all fun d => d < 2 || p % d ≠ 0

/-- The 80 round constants: 64 bits of the fractions of the cube roots of the primes. -/
def shaK : List Word := shaPrimes.map fun p => BitVec.ofNat 64 (rootOf 3 (p * 2 ^ 192) 67)

/-- The first chaining value of SHA-384: 64 bits of the fractions of the square roots of the ninth to sixteenth primes. -/
def shaH : List Word := ((shaPrimes.drop 8).take 8).map fun p => BitVec.ofNat 64 (rootOf 2 (p * 2 ^ 128) 67)

/-- Bytes most significant first. -/
def beBytes (n v : Nat) : List Byte := (leBytes n v).reverse

/-- A message with its padding. -/
def shaPad (bs : List Byte) : List Byte :=
  bs ++ [0x80] ++ List.replicate ((239 - bs.length % 128) % 128) 0 ++ beBytes 16 (8 * bs.length)

/-- The 80 words of a block's schedule: `n` are still to be made. -/
def shaWords : Nat → List Word → List Word
  | 0, w => w
  | n + 1, w =>
    let x := fun (i : Nat) => w.getD (w.length - i) 0
    let a := x 15
    let b := x 2
    let s0 := a.rotateRight 1 ^^^ a.rotateRight 8 ^^^ (a >>> 7)
    let s1 := b.rotateRight 19 ^^^ b.rotateRight 61 ^^^ (b >>> 6)
    shaWords n (w ++ [x 16 + s0 + x 7 + s1])

/-- One round. -/
def shaRound (v : List Word) (kw : Word) : List Word :=
  match v with
  | [a, b, c, d, e, f, g, h] =>
    let t := h + (e.rotateRight 14 ^^^ e.rotateRight 18 ^^^ e.rotateRight 41) + ((e &&& f) ^^^ (~~~e &&& g)) + kw
    let u := (a.rotateRight 28 ^^^ a.rotateRight 34 ^^^ a.rotateRight 39) + ((a &&& b) ^^^ (a &&& c) ^^^ (b &&& c))
    [t + u, a, b, c, d + t, e, f, g]
  | _ => v

/-- One block of 128 bytes. -/
def shaBlock (h : List Word) (block : List Byte) : List Word :=
  let w := shaWords 64 ((List.range 16).map fun i => BitVec.ofNat 64 (leNat (((block.drop (8 * i)).take 8).reverse)))
  List.zipWith (· + ·) h ((List.zipWith (· + ·) shaK w).foldl shaRound h)

/-- SHA-384 of bytes. -/
def sha384 (bs : List Byte) : List Byte :=
  let p := shaPad bs
  let h := (List.range (p.length / 128)).foldl (fun h i => shaBlock h ((p.drop (128 * i)).take 128)) shaH
  (h.take 6).flatMap fun w => beBytes 8 w.toNat

end Sys2Proof.Machine
end

