-- ==== Sys2Proof/Machine/Link.lean ====
section
/-! DEFINITION. Kryas links: training, retrains and failure (R30, R31, R35), receiving and sending flits (R26-R29, R39), and requests
from peers (R34, R63). Events of a link happen at `unit` = the link. -/

namespace Sys2Proof.Machine

/-! ### Failure (R30, R31) -/

/-- Flits that carry only posted writes. -/
def TxFlit.posted (f : TxFlit) : Bool := f.msgs.all fun m => match m with | .write .. => true | _ => false

/-- The requests of this module that a flit carries. -/
def TxFlit.asks (f : TxFlit) : List Nat := f.msgs.filterMap fun m => match m with | .read t .. => some t | .atomic t .. => some t | _ => none

/-- The flit carries the link that it comes from, when that link has failed (R31). -/
def TxFlit.failed (f : TxFlit) : Bool := f.olink.isSome

/-- The lowest-numbered link of a peer's route mask that is up, other than one (R31). -/
def State.spareLink (s : State) (peer but : Nat) : Option Nat := (s.upLinks peer).find? (· ≠ but)

/-- Flits that no link can carry are dropped: posted ones are counted at the link, requests wait for their timeout, flushes are sent
again when a link is up (R31). -/
def State.dropTx (s : State) (l : Nat) (fs : List TxFlit) : State :=
  let peer := (s.link l).peer.toNat
  let s := (fs.filterMap (·.note)).foldl (fun s n => s.noteDone n) s
  let s := { s with net := { s.net with
    lost := s.net.lost ++ fs.flatMap TxFlit.asks
    flushes := s.net.flushes.map fun (x : Flush) => if x.peer = peer then { x with sent := false } else x } }
  s.modLink l fun x => { x with dropc := min (x.dropc + (fs.filter TxFlit.posted).length) 0xFFFF }

/-- The unacknowledged flits of a link are sent over another link as failover flits, in SEQ order and before any new flit to the peer,
and what the link has not yet sent goes behind them; with no link up they are dropped (R31). A flit that already was a failover flit
keeps its OLINK. -/
def State.failOver (s : State) (l : Nat) : State :=
  let k := s.link l
  let old := k.replay.map fun (f : TxFlit) => { f with olink := some (f.olink.getD l) }
  let s := s.modLink l fun k => { k with replay := [], resend := [], queue := [] }
  match s.spareLink k.peer.toNat l with
  | some n =>
    s.modLink n fun x =>
      { x with queue := x.queue.filter TxFlit.failed ++ old ++ k.queue.filter TxFlit.failed ++ (x.queue ++ k.queue).filter fun f => !f.failed }
  | none => s.dropTx l (old ++ k.queue)

/-- The link enters FAIL (R30, R31). -/
def State.failLink (s : State) (l : Nat) : State := (s.failOver l).modLink l fun k => { k with st := .fail, algn := false, mkAge := 0, mkRow := 0 }

/-- A link has trained (R30, R25): its state, the peer learned, and every unacknowledged flit is sent again. -/
def State.trained (s : State) (l : Nat) (r : Trained) (peer : BitVec 3) : State :=
  match r with
  | .failed =>
    let n := (s.link l).failRun + 1
    let s := s.modLink l fun k => { k with failRun := n }
    if 3 ≤ n then s.failLink l else s
  | _ =>
    let s := s.modLink l fun k => { k with st := if r = .up8 then .up8 else .up4, peer := peer, failRun := 0, nakRun := 0, resend := k.replay }
    if peer = s.pw.strapPos then s.failLink l else s

/-- LINK_TRAINING_DONE (R30). -/
def execLinkTrainingDone (result : Trained) (peer : BitVec 3) (s : State) : Host.Outcome State Fault Refusal :=
  let l := s.ctl.here.unit
  event s (if (s.link l).st = .train then some (s.trained l result peer) else none)

/-- A retrain begins (R30). -/
def State.retrain (s : State) (l : Nat) : State :=
  s.modLink l fun k => { k with st := .train, algn := false, mkAge := 0, mkRow := 0, retc := min (k.retc + 1) 0xFFFF, nakRun := 0 }

/-- RETRAIN (R30): a lane lost lock, or the same SEQ has been NAKed 8 times in a row. -/
def execRetrain (lockLost : Bool) (s : State) : Host.Outcome State Fault Refusal :=
  let l := s.ctl.here.unit
  let k := s.link l
  event s (if k.st.up && (lockLost || 8 ≤ k.nakRun) then some (s.retrain l) else none)

/-- A link is reset (R35): a link that is up first fails over its unacknowledged flits; the replay buffer, the sequence numbers, the
credits and the count of failed retrains start anew, and the link trains. DROPC, RETC and NAKC keep their values. The last SEQ that was
accepted stays known for failover flits that are still on their way (DEDUCED, log entry 61). -/
def State.resetLink (s : State) (l : Nat) : State :=
  let s := if (s.link l).st.up then s.failOver l else s
  s.modLink l fun k =>
    { st := .train, peer := k.peer, dropc := k.dropc, retc := k.retc, nakc := k.nakc, queue := k.queue, ptr := k.ptr, wire := k.wire
      rxFo := if k.st = .down || k.st = .train then k.rxFo else some k.rxGood }

/-- RST (R35): root resets the link; or the peer has reset its end, which this end sees as the loss of lock, and resets its own side
in the same way. -/
def execRst (s : State) : Host.Outcome State Fault Refusal :=
  let l := s.ctl.here.unit
  event s (if 48 ≤ l then none else some (s.resetLink l))

/-! ### Receiving (R26-R29) -/

/-- A flit passes its CRC, its TYPE is not reserved and its reserved bits are 0 (R26). -/
def flitGood (hdr : BitVec 96) (payload : List Byte) (crc : BitVec 32) : Bool :=
  let bs := leBytes 12 hdr.toNat ++ payload
  bs.length = 252 && crcLsb 0xEDB88320 0xFFFFFFFF bs ^^^ 0xFFFFFFFF = crc.toNat &&
  bits hdr.toNat 60 58 ≤ 2 && bits hdr.toNat 19 0 = 0

/-- Flits after an acknowledged number: when the number is in the list, what stands behind it. Failover flits have the numbers of
another link: they are released by the acknowledgement of an ordinary flit that was sent after them (DESIGN CHOICE, log entry 93). -/
def afterAck (ack : BitVec 12) (l : List TxFlit) : List TxFlit :=
  let hit := fun (f : TxFlit) => decide (f.seq = ack) && !f.failed
  if l.any hit then (l.dropWhile fun f => !hit f).drop 1 else l

/-- The ACK and NAK fields of a good flit (R29, R30): a NAK makes every flit after ACK be sent again. -/
def Link.ackNak (k : Link) (hdr : Nat) : Link :=
  let ack := BitVec.ofNat 12 (bits hdr 83 72)
  let k := { k with replay := afterAck ack k.replay, resend := afterAck ack k.resend }
  if bit hdr 71 then
    { k with nakc := min (k.nakc + 1) 0xFFFF, resend := k.replay
             nakRun := if k.nakRun ≠ 0 && k.nakSeq = ack + 1 then k.nakRun + 1 else 1, nakSeq := ack + 1 }
  else k

/-- The key of a holding's credit on a virtual channel. -/
def credKey (vc hold : Nat) : Nat := vc * 64 + hold

/-- The credit return of a good flit (R28). The tables count the credits in use. -/
def Link.credit (k : Link) (hdr : Nat) : Link :=
  let n := bits hdr 42 36
  let vc := bits hdr 51 50
  if bit hdr 43 then { k with pool := Tab.set 0 k.pool vc (Tab.get 0 k.pool vc - n) }
  else
    let c := credKey vc (bits hdr 49 44)
    { k with owned := Tab.set 0 k.owned c (Tab.get 0 k.owned c - n) }

/-- A peer has answered a flush: the releases and timelines that it was sent for go on (R63). -/
def State.flushDone (s : State) (peer : Nat) : State :=
  { s with net := { s.net with flushes := s.net.flushes.filter fun x => !(x.peer = peer && x.sent) } }

/-- A message arrives from a link's peer. Data whose check values do not match are poisoned (R71); an error response to a write is the
PERM of its source (R34, DEDUCED, log entry 63). -/
def State.message (s : State) (l : Nat) (m : LinkMsg) : State :=
  let peer := (s.link l).peer.toNat
  match m with
  | .read .. | .write .. | .atomic .. | .flush _ =>
    { s with net := { s.net with peerReqs := s.net.peerReqs ++ [(⟨l, peer, m⟩ : PeerReq)] } }
  | .readResp tag status data chk =>
    (match s.hi.reqs.find? fun r => r.id = tag && r.port = 2 + peer with
     | some r => s.complete r (if status = CplStatus.ok && checksBad data chk then .poisoned else status) data
     | none => s)
  | .denied hold rgn addr => s.addFault (dropRec hold rgn 0x16 addr)
  | .flushDone _ => s.flushDone peer
  | .root _ => s

/-- A credit return for the flit of a header (R28). -/
def creditFor (hdr : Nat) : CreditRet := ⟨bits hdr 62 61, bits hdr 69 64, bit hdr 63, 1⟩

/-- A flit has come on the link, with a marker or without (R41): a marker is in time 64 flits after the last one, give or take a core
cycle, which at full width is a flit. One that is not in time, or does not come, ends the alignment; three in time in a row restore it. -/
def Link.markIn (k : Link) (mrk : Bool) : Link :=
  let tol := if k.st = .up8 then 1 else 0
  let age := min (k.mkAge + 1) 255
  if mrk then
    let row := if 64 ≤ age + tol && age ≤ 64 + tol then min (k.mkRow + 1) 3 else 0
    { k with mkAge := 0, mkRow := row, algn := decide (row = 3) || (k.algn && decide (row ≠ 0)) }
  else if age ≤ 64 + tol then { k with mkAge := age }
  else { k with mkAge := age, mkRow := 0, algn := false }

/-- A failover flit of a link has come, whose sending has used a credit: it is owed back once, however often the flit is sent again
(R28, R29). -/
def Link.foCredit (k : Link) (o hdr : Nat) (seq : BitVec 12) : Link :=
  if k.foRx.contains (o, seq) then k else { k with foRx := ((o, seq) :: k.foRx).take 256, owed := k.owed ++ [creditFor hdr] }

/-- Deliver the messages of an accepted flit; its buffer is freed and a credit is owed (R28). -/
def State.deliver (s : State) (l hdr : Nat) (msgs : List LinkMsg) : State :=
  (msgs.foldl (fun (s : State) m => s.message l m) s).modLink l fun k => { k with owed := k.owed ++ [creditFor hdr] }

/-- `a` follows `b` in the order of 12-bit numbers. -/
def seqAfter (a b : BitVec 12) : Bool := 1 ≤ (a - b).toNat && (a - b).toNat < 2048

/-- A failover flit for a link arrives over another (R29, R31): the next number after the last one accepted on OLINK, or after the one
accepted before OLINK was reset, is taken; a number that is not greater is a duplicate and is discarded; a number further on is out of
sequence. -/
def State.failoverIn (s : State) (l o hdr : Nat) (seq : BitVec 12) (msgs : List LinkMsg) : State :=
  let k := s.link o
  let take := fun (s : State) => (msgs.foldl (fun (s : State) m => s.message l m) s).modLink l fun k => k.foCredit o hdr seq
  if seq = k.rxGood + 1 then take (s.modLink o fun k => { k with rxGood := seq })
  else if k.rxFo = some (seq - 1) then take (s.modLink o fun k => { k with rxFo := some seq })
  else if seqAfter seq k.rxGood && (match k.rxFo with | some r => seqAfter seq r | none => true) then
    s.modLink l fun k => { k with nakDue := true }
  else s.modLink l fun k => k.foCredit o hdr seq

/-- KRYAS_FLIT_RECEIVE (R29, R31). -/
def execKryasFlitReceive (hdr : BitVec 96) (payload : List Byte) (crc : BitVec 32) (msgs : List LinkMsg) (s : State) :
    Host.Outcome State Fault Refusal :=
  let l := s.ctl.here.unit
  event s (
    if !(s.link l).st.up then none
    else if !flitGood hdr payload crc then some (s.modLink l fun k => { k.markIn false with nakDue := true })
    else
      let h := hdr.toNat
      let seq := BitVec.ofNat 12 (bits h 95 84)
      let s := s.modLink l fun k => ((k.ackNak h).credit h).markIn (bit h 70)
      match bits h 60 58 with
      | 0 => some (if seq = (s.link l).rxGood then s else s.modLink l fun k => { k with nakDue := true })
      | 1 =>
        if seq = (s.link l).rxGood + 1 then some ((s.modLink l fun k => { k with rxGood := seq }).deliver l h msgs)
        else some (s.modLink l fun k => { k with nakDue := true })
      | _ => some (s.failoverIn l (bits h 57 52) h seq msgs))

/-! ### Sending (R26-R29, R39-R41) -/

/-- A router, or an I/O die. -/
def State.router (s : State) (i : Nat) : Router := Tab.get {} s.net.routers i
/-- Change a router. -/
def State.modRouter (s : State) (i : Nat) (f : Router → Router) : State :=
  { s with net := { s.net with routers := Tab.set {} s.net.routers i (f (s.router i)) } }

/-- The epoch that a rota's markers carry: the router's, or the one of its I/O die (R41). -/
def State.epochAt (s : State) (r : RotaId) : BitVec 16 :=
  match r with
  | .mesh core _ => (s.router core).epoch
  | .kryas l => if l < 24 then s.net.epoch else (s.router (ioDie 1)).epoch
  | .host p => if p = 0 then s.net.epoch else (s.router (ioDie 1)).epoch
  | .master => s.net.epoch

/-- A holding owns a slot of the link's rota, so that the receiver keeps credits for it (R28). -/
def Rota.owns (r : Rota) (hold : Nat) : Bool := r.active.any fun (_, e) => entryOwner e = some hold

/-- Credit for a flit: owned credit of 8 flits, or open credit of 128 (R28). -/
def Link.hasCredit (k : Link) (r : Rota) (f : TxFlit) (opn : Bool) : Bool :=
  if opn then Tab.get 0 k.pool f.vc < 128 else f.vc ≠ 3 && r.owns f.hold && Tab.get 0 k.owned (credKey f.vc f.hold) < 8

/-- The oldest flit of a list, responses before requests. -/
def firstFlit (l : List TxFlit) : Option TxFlit := ((l.filter fun f => f.vc = 1) ++ l.filter fun f => f.vc ≠ 1).head?

/-- The flit for an open slot: root traffic first, then the holdings by a rotating pointer (R39). -/
def openPick (l : List TxFlit) (ptr : Nat) : Option TxFlit :=
  match l.find? fun f => f.vc = 3 with
  | some f => some f
  | none => ((List.range 64).map fun i => (ptr + 1 + i) % 64).findSome? fun h => firstFlit (l.filter fun f => f.hold = h)

/-- Failover flits to a peer wait on some link: no new flit leaves for the peer before them (R31). -/
def State.failoverDue (s : State) (peer : Nat) : Bool := s.net.links.any fun (_, k) => k.peer.toNat = peer && k.queue.any TxFlit.failed

/-- What a Kryas link sends in a slot (R29, R31, R39): a flit to be sent again when the slot is of its kind, else a failover flit or,
with none due, a new flit while the replay buffer has room, else none. -/
def Link.pick (k : Link) (r : Rota) (owner : Option Nat) (due : Bool) : Option (TxFlit × Bool) :=
  match k.resend with
  | f :: _ => if (match owner with | some h => !f.opn && f.hold = h | none => f.opn) then some (f, true) else none
  | [] =>
    if 256 ≤ k.replay.length then none
    else
      let q := match k.queue.filter TxFlit.failed with | f :: _ => [f] | [] => if due then [] else k.queue
      (match owner with
       | some h => firstFlit (q.filter fun f => f.hold = h && k.hasCredit r f false)
       | none => openPick (q.filter fun f => k.hasCredit r f true) k.ptr).map fun f => (f, false)

/-- The header of a flit (R26); without one, a null flit's, whose SEQ is the last number that the link itself has given, also after a failover
flit (DESIGN CHOICE, log entry 93). -/
def Link.header (k : Link) (f : Option TxFlit) (mrk : Bool) (epoch : BitVec 16) : BitVec 96 :=
  let c : CreditRet := k.owed.headD ⟨0, 0, false, 0⟩
  let common := k.rxGood.toNat * 2 ^ 72 + (if k.nakDue then 2 ^ 71 else 0) + (if mrk then 2 ^ 70 else 0) + c.vc * 2 ^ 50 + c.hold * 2 ^ 44 +
    (if c.opn then 2 ^ 43 else 0) + c.n * 2 ^ 36 + (if mrk then epoch.toNat * 2 ^ 20 else 0)
  BitVec.ofNat 96 (match f with
    | none => k.txSeq.toNat * 2 ^ 84 + common
    | some f =>
      f.seq.toNat * 2 ^ 84 + f.hold * 2 ^ 64 + (if f.opn then 2 ^ 63 else 0) + f.vc * 2 ^ 61 +
      (match f.olink with | some o => 2 * 2 ^ 58 + o * 2 ^ 52 | none => 2 ^ 58) + common)

/-- The 240 payload bytes into which messages are packed (R26); the manual does not give the packing. -/
def payloadOf (msgs : List LinkMsg) : List Byte := (List.range 240).map (Config.payloadByte msgs)

/-- The CRC-32 of a flit (R26). -/
def flitCrc (hdr : BitVec 96) (payload : List Byte) : Nat := crcLsb 0xEDB88320 0xFFFFFFFF (leBytes 12 hdr.toNat ++ payload) ^^^ 0xFFFFFFFF

/-- The 256 bytes of a flit that has left (R26): header, payload, CRC. -/
def Wire.bytes (w : Wire) : List Byte := leBytes 12 w.hdr.toNat ++ payloadOf w.msgs ++ leBytes 4 (flitCrc w.hdr (payloadOf w.msgs))

/-- A message that changes memory of the peer. -/
def msgWrites : LinkMsg → Bool
  | .write .. | .atomic .. => true
  | _ => false

/-- Writes to the peer that are still on some link (R63). -/
def State.writesOut (s : State) (peer : Nat) : Bool :=
  s.net.links.any fun (_, k) => k.peer.toNat = peer && (k.queue ++ k.replay).any fun f => f.msgs.any msgWrites

/-- Flushes that wait for the link's peer go out as one once the earlier writes have reached it and the last flush is answered (R63). -/
def State.sendFlushes (s : State) (l : Nat) : State :=
  let peer := (s.link l).peer.toNat
  let mine := s.net.flushes.filter fun x => x.peer = peer
  if mine ≠ [] && mine.all (fun x => !x.sent) && !s.writesOut peer && (s.upLinks peer).head? = some l then
    let s := { s with net := { s.net with flushes := s.net.flushes.map fun (x : Flush) => if x.peer = peer then { x with sent := true } else x } }
    s.queueMsg l 0 1 (.flush s.pw.strapPos.toNat)
  else s

/-- The link sends a flit, or without one a null flit, with the acknowledgement and a credit return that it owes (R26, R29). -/
def Link.emit (k : Link) (f : Option TxFlit) (mrk : Bool) (epoch : BitVec 16) : Link :=
  { k with wire := k.wire ++ [(⟨k.header f mrk epoch, (f.map (·.msgs)).getD []⟩ : Wire)], nakDue := false, owed := k.owed.drop 1 }

/-- A flit leaves the link for the first time: it takes the next SEQ, unless it is a failover flit, uses a credit of the slot's kind,
and stays for replay (R28, R29). -/
def Link.sendNew (k : Link) (f : TxFlit) (opn mrk : Bool) (epoch : BitVec 16) : Link :=
  let g : TxFlit := { f with seq := if f.failed then f.seq else k.txSeq + 1, opn := opn }
  let c := credKey f.vc f.hold
  { (k.emit (some g) mrk epoch) with
    txSeq := if f.failed then k.txSeq else k.txSeq + 1
    replay := k.replay ++ [{ g with note := none }]
    queue := k.queue.erase f
    ptr := if opn && f.vc ≠ 3 then f.hold else k.ptr
    pool := if opn then Tab.set 0 k.pool f.vc (Tab.get 0 k.pool f.vc + 1) else k.pool
    owned := if opn then k.owned else Tab.set 0 k.owned c (Tab.get 0 k.owned c + 1) }

/-- A Kryas link starts a slot (R29, R39). A store whose flit leaves is performed (R255). -/
def State.kryasSlot (s : State) (l : Nat) (r : Rota) : State :=
  let s := s.sendFlushes l
  let k := s.link l
  let owner := if k.algn then entryOwner (Tab.get 0 r.active r.slot) else none
  let mrk : Bool := decide (r.slot = 0)
  let epoch := s.epochAt (.kryas l)
  match k.pick r owner (s.failoverDue k.peer.toNat) with
  | none => s.modLink l fun k => k.emit none mrk epoch
  | some (f, true) => s.modLink l fun k => { (k.emit (some f) mrk epoch) with resend := k.resend.drop 1 }
  | some (f, false) =>
    let s := s.modLink l fun k => k.sendNew f owner.isNone mrk epoch
    match f.note with
    | some n => s.noteDone n
    | none => s

/-! ### Peers (R31, R34, R63) -/

/-- A request waits for an answer that no link will bring: its flit was dropped, or no link of the peer's route mask is up (R31). -/
def State.unreachable (s : State) (r : HostReq) : Bool := 2 ≤ r.port && (s.net.lost.contains r.id || s.upLinks (r.port - 2) = [])

/-- NONPOSTED_TIMEOUT (R31): an outstanding request that no link can carry completes with poisoned data. At a position behind the
requests it is a flush: the writes that it waits for have been dropped. -/
def execNonpostedTimeout (s : State) : Host.Outcome State Fault Refusal :=
  let n := s.ctl.here.pos
  event s (match s.hi.reqs[n]? with
    | none =>
      (s.net.flushes[n - s.hi.reqs.length]?).bind fun x =>
        if s.upLinks x.peer = [] then some { s with net := { s.net with flushes := s.net.flushes.filter fun y => y.peer ≠ x.peer } } else none
    | some r =>
      if s.unreachable r then some ({ s with net := { s.net with lost := s.net.lost.erase r.id } }.complete r .poisoned []) else none)

/-- The grant that a peer request meets (R34): the local holding and MVA, when the entry is valid, the bytes lie below the limit
and the rights are there. The limit counts bytes, and an entry whose holding is FREE acts as invalid: DESIGN CHOICE, log entry 53. -/
def State.grant (s : State) (peer src off n : Nat) (need : Need) : Option (Nat × Nat) :=
  let g := Tab.get {} s.net.grants (peer * 64 + src)
  if g.valid && off + n ≤ g.limit && (!need.r || g.r) && (!need.w || g.w) && (!need.a || g.a) && s.live g.hold then
    some (g.hold, g.base + off)
  else none

/-- A request from a peer is done with. -/
def State.takeReq (s : State) (n : Nat) : State := { s with net := { s.net with peerReqs := s.net.peerReqs.eraseIdx n } }

/-- Answer a peer over the link by which it asked: data, poisoned by their check values (R71), or an error response (R34). -/
def State.respond (s : State) (q : PeerReq) (hold tag : Nat) (g : Got) : State :=
  s.queueMsg q.link hold 1 (match g with
    | .data d bad => .readResp tag .ok d (dataChecks d bad)
    | _ => .readResp tag .aborted [] [])

/-- An atomic of a holding's memory for a peer, where it leads: at its home once the host's state of the half allows it (R34, R56), at
a bank as AT (DEDUCED, log entry 62), at the host-line cache, the host, or a further peer. -/
def State.agentRmw (s : State) (src h mva n : Nat) (o : PqOp) (t : Tgt) : Got × State :=
  let who : Req := .agent src h mva
  if s.hi.bad.contains who then (.data (List.replicate n 0) true, s)
  else if s.nsBad h t o then (.denied, s)
  else
    match t with
    | .bank core hold off =>
      (match s.unitLook core hold kAT (winWords off n) with
       | .go acts =>
         let old := s.unitRead core hold off n acts
         let bad := s.unitBad core hold acts
         let s := match o.rmw old with
           | some d => if bad then s else s.unitWrite core hold off d acts 0 (BitVec.ofNat 64 mva)
           | none => s
         (.data old bad, s.retag core hold acts)
       | .wait _ => (.waits, s)
       | _ => (.denied, s))
    | .dev pa leaf =>
      (match s.hdmGate (some who) pa n true h 0 with
       | (false, s) => (.waits, s)
       | (true, s) =>
         let (old, bad, s) := s.homeRmw (atHome leaf h 0 (BitVec.ofNat 64 mva)) none pa n o.rmw
         (.data old bad, s))
    | .host a leaf =>
      if leaf.tgt = 1 then
        if (s.hline (a / 64)).serves true then
          let old := s.hlcBytes a n
          if (s.hline (a / 64)).bad then (.data old true, s)
          else (.data old false, match o.rmw old with | some d => s.hlcPut a d | none => s)
        else (.waits, s.askLine (a / 64) true (.engLine (a / 64) true))
      else
        let p : Purpose := .agent who (gotKey a leaf)
        match s.agentAsk who h a leaf fun s => if leaf.tgt = 2 then s.hostAtomic (s.hostPort h a) h a o p else s.peerAtomic h a o p with
        | (some (.ok, d), s) => (.data d false, s)
        | (some (.poisoned, d), s) => (.data ((d ++ List.replicate n 0).take n) true, s)
        | (some _, s) => (.denied, s)
        | (none, s) => (.waits, s)

/-- The atomic of a peer request: translated with the rights R, W and A (R34), setting D when it writes (R379). -/
def State.agentAtomic (s : State) (src h mva n : Nat) (o : PqOp) : Got × State :=
  match s.agentAt src h mva n { atomNeed with soft := o.compares } with
  | (.error .waits, s) => (.waits, s)
  | (.error _, s) => (.denied, s.agentOver src h mva n)
  | (.ok t, s) =>
    let ended := fun (p : Got × State) => match p with
      | (.waits, s) => (Got.waits, s)
      | (g, s) => (g, s.agentOver src h mva n)
    match s.agentRmw src h mva n o t with
    | (.data d bad, s') =>
      -- a compare that succeeds writes, so that D has to be set first
      if o.compares && !bad && (o.rmw d).isSome then
        (match s.agentAt src h mva n atomNeed with
         | (.error .waits, s) => (.waits, s)
         | (_, s) => ended (s.agentRmw src h mva n o t))
      else ended (.data d bad, s')
    | p => ended p

/-- A peer's read or atomic has been tried: it is answered, or waits on; none when nothing has changed. -/
def State.peerTried (s : State) (n : Nat) (q : PeerReq) (hold tag : Nat) (r : Got × State) : Option State :=
  match r.1 with
  | .waits => s.moved r.2
  | g => some ((r.2.takeReq n).respond q hold tag g)

/-- A write or an atomic of the peer that came before is still to be performed. -/
def State.behindPeer (s : State) (n peer : Nat) : Bool := (s.net.peerReqs.take n).any fun p => p.peer = peer && msgWrites p.msg

/-- PEER_REQUEST (R34): the request is looked up, and performed as the local holding or answered with an error, behind earlier writes of the
peer. A write goes to its home as a host write does (R63); bad check values make it a poisoned write, and of an atomic a poisoned answer
(R71), and a write that is denied brings its source an error response (DEDUCED, log entry 63). -/
def execPeerRequest (s : State) : Host.Outcome State Fault Refusal :=
  let n := s.ctl.here.pos
  event s (match s.net.peerReqs[n]? with
    | none => none
    | some q =>
      if s.behindPeer n q.peer then none
      else
      match q.msg with
      | .read tag _ src off len =>
        (match s.grant q.peer src off len { r := true } with
         | none => some ((s.takeReq n).respond q 0 tag .denied)
         | some (h, a) => s.peerTried n q h tag (s.agentRead (2 + q.peer) h a len))
      | .write _ src off data chk rgn addr =>
        (match s.grant q.peer src off data.length { w := true } with
         | none => some ((s.takeReq n).queueMsg q.link 0 1 (.denied src rgn addr))
         | some (h, a) =>
           let (i, t) := s.nextNum (2 + q.peer)
           match t.agentWrite (2 + q.peer) i h a data (checksBad data chk) with
           | (.done, t) => some (t.takeReq n)
           | (.denied, t) => some ((t.takeReq n).queueMsg q.link h 1 (.denied src rgn addr))
           | (.waits, t) => s.moved { t with hi := { t.hi with hwNext := s.hi.hwNext } })
      | .atomic tag _ src fn off len a b chk =>
        (match s.grant q.peer src off len atomNeed with
         | none => some ((s.takeReq n).respond q 0 tag .denied)
         | some (h, m) =>
           if checksBad (operandBeat a b) chk then some ((s.takeReq n).respond q h tag (.data (List.replicate len 0) true))
           else s.peerTried n q h tag (s.agentAtomic (2 + q.peer) h m len (peerOp fn len a b)))
      | _ => none)

/-- PEER_FLUSH (R63): a peer's flush is answered once its writes have been applied. -/
def execPeerFlush (s : State) : Host.Outcome State Fault Refusal :=
  let n := s.ctl.here.pos
  event s (match s.net.peerReqs[n]? with
    | none => none
    | some q =>
      match q.msg with
      | .flush _ =>
        if (s.hi.writes.any fun w => w.port = 2 + q.peer) || s.behindPeer n q.peer || s.sending (· = .peer q.peer) then none
        else
          some ((s.takeReq n).queueMsg q.link 0 1 (.flushDone s.pw.strapPos.toNat))
      | _ => none)

end Sys2Proof.Machine
end

