-- ==== Sys2Proof/Machine/Rota.lean ====
section
/-! DEFINITION. Rotas: slots and markers (R37-R41), what host ports send (R39, R255), and the mesh's flits (R22, R42). -/

namespace Sys2Proof.Machine

/-! ### Credit (R39)

The numbers of credits of mesh links and of host ports, and how they come back, are not stated: which holdings lack credit in a slot is
free (bit h: holding h; bit 64: channel 3; DESIGN CHOICE, log entry 85). -/

/-- The holdings that lack credit in a slot that starts. -/
def State.lacking (s : State) : Nat × State := s.choose (2 ^ 65)

/-! ### Host ports -/

/-- The oldest message of a list, responses before requests. -/
def firstOut (l : List (OutMsg × Nat)) : Option (OutMsg × Nat) := ((l.filter fun m => m.1.msg.resp) ++ l.filter fun m => !m.1.msg.resp).head?

/-- A message leaves its host port: a store that it carries is performed (R255), and an invalidation that waited for it goes on (R49). -/
def State.leaveHost (s : State) (i : Nat) (m : OutMsg) : State :=
  let s := { s with hi := { s.hi with out := s.hi.out.eraseIdx i, sent := s.hi.sent ++ [m.msg] } }
  (match m.note with | some n => s.noteDone n | none => s).atcDone

/-- The port's link is up. -/
def State.portUp (s : State) (p : Nat) : Bool := if p = 0 then s.hi.upA.isSome else s.hi.upB.isSome

/-- A host port starts a slot (R39): the oldest message of the slot's owner leaves, or in an open slot one of the next holding in
turn, each with credit. One message a slot: DEDUCED, log entry 71. -/
def State.hostSlot (s : State) (p : Nat) (r : Rota) : State :=
  let (lack, s) := s.lacking
  let l := s.hi.out.zipIdx.filter fun m => m.1.msg.port = p && !bit lack m.1.msg.hold
  let of_ := fun (h : Nat) => firstOut (l.filter fun m => m.1.msg.hold = h)
  let owner := entryOwner (Tab.get 0 r.active r.slot)
  match (if s.portUp p then (match owner with | some h => of_ h | none => ((List.range 64).map fun i => (r.ptr + 1 + i) % 64).findSome? of_) else none) with
  | some (m, i) =>
    let s := s.leaveHost i m
    if owner.isSome then s else s.modRota (rotaKey (.host p)) fun x => { x with ptr := m.msg.hold }
  | none => s

/-! ### The mesh -/

/-- A mesh output exists: its neighbour, or an I/O die beyond the west or east edge (R22). -/
def meshOutput (core dir : Nat) : Bool := core < 8192 && dir < 4 && (outEnd core dir).isSome

/-- The holding may use a slot of a rota at a router; out of alignment owned slots act as open ones (R39, R41). -/
def State.slotFor (s : State) (here out slot hold : Nat) : Bool :=
  match entryOwner (Tab.get 0 (s.rota (rotaKey (.mesh here out))).active slot) with
  | none => true
  | some h => h = hold || !(s.router here).aligned

/-- A flit may leave by an output in a slot: it is ready for the slot, or stands in its holding's buffer (R42). -/
def MeshFlit.readyAt (f : MeshFlit) (core dir slot : Nat) : Bool :=
  f.here = core && f.out = dir && !f.moving && (f.buffered || f.ready = slot)

/-- The oldest flit of a list, responses before requests. -/
def firstMesh (l : List (MeshFlit × Nat)) : Option Nat := (((l.filter fun f => f.1.vc = 1) ++ l.filter fun f => f.1.vc ≠ 1).head?).map (·.2)

/-- The flit that leaves by an output in a slot (R39): the oldest of the owner, or in an open slot root traffic first and then one of
the next holding in turn, each with credit. The spec names no message that is root management traffic, so that no flit is of channel 3. -/
def State.meshPick (s : State) (core dir : Nat) (r : Rota) (owner : Option Nat) (lack : Nat) : Option Nat :=
  let l := s.net.flits.zipIdx.filter fun f => f.1.readyAt core dir r.slot && !bit lack (if f.1.vc = 3 then 64 else f.1.hold)
  let of_ := fun (h : Nat) => firstMesh (l.filter fun f => f.1.hold = h)
  match owner with
  | some h => of_ h
  | none =>
    match l.find? fun f => f.1.vc = 3 with
    | some f => some f.2
    | none => ((List.range 64).map fun i => (r.ptr + 1 + i) % 64).findSome? of_

/-- A mesh output starts a slot (R39): one flit leaves in it, and a flit that was ready for the slot and did not get it waits in its
holding's buffer (R42). -/
def State.meshSlot (s : State) (core dir : Nat) (r : Rota) : State :=
  let owner := if (s.router core).aligned then entryOwner (Tab.get 0 r.active r.slot) else none
  let (lack, s) := s.lacking
  let pick := s.meshPick core dir r owner lack
  let f := pick.bind fun i => s.net.flits[i]?
  let go := fun (x : MeshFlit × Nat) =>
    if pick = some x.2 then { x.1 with here := (outEnd core dir).getD x.1.here, moving := true, ready := r.slot, buffered := false }
    else if x.1.readyAt core dir r.slot then { x.1 with buffered := true } else x.1
  let s := { s with net := { s.net with flits := s.net.flits.zipIdx.map go } }
  match owner, f with
  | none, some f => s.modRota (rotaKey (.mesh core dir)) fun x => { x with ptr := f.hold }
  | _, _ => s

/-- FLIT_HOP (R22, R42): a flit that is on its way arrives. At its own core or an I/O die it leaves the mesh; otherwise it is ready for
slot s + D of its next link, or waits in its holding's buffer, when the holding may not use that slot or another flit of the holding is
to have it. -/
def execFlitHop (s : State) : Host.Outcome State Fault Refusal :=
  let n := s.ctl.here.pos
  event s (match s.net.flits[n]? with
    | none => none
    | some f =>
      if !f.moving then none
      else
        let out := nextOut f.here f.dst
        if 8192 ≤ f.here || out = 4 then some { s with net := { s.net with flits := s.net.flits.eraseIdx n } }
        else
          let slot := (f.ready + hopDelay f.here out) % 64
          let taken := s.net.flits.any fun g => g.hold = f.hold && g.readyAt f.here out slot && !g.buffered
          let g := { f with out := out, ready := slot, moving := false, buffered := taken || !s.slotFor f.here out slot f.hold }
          some { s with net := { s.net with flits := s.net.flits.set n g } })

/-! ### Slots and markers -/

/-- A period begins whose marker carries the epoch for which the rota is armed (R40). -/
def Rota.swaps (r : Rota) (epoch : BitVec 16) : Bool := r.slot = 0 && r.arm && r.tepoch = epoch

/-- The slot of a rota that starts now: at slot 0 the marker's epoch is noted and an armed rota swaps its tables at TEPOCH (R40). -/
def Rota.start (r : Rota) (epoch : BitVec 16) : Rota :=
  let x := if r.slot = 0 then { r with cepoch := epoch } else r
  if r.swaps epoch then { x with active := r.shadow, shadow := r.active, arm := false } else x

/-- A slot 63 that is shortened by a cycle has none left: slot 0 starts in its place (R41). -/
def Rota.short (r : Rota) : Rota := if r.slot = 63 && r.adjust < 0 then { r with slot := 0, adjust := 0 } else r

/-- The slot after the present one: a lengthened slot 63 takes a second cycle (R41). -/
def Rota.next (r : Rota) : Rota :=
  if r.slot = 63 && 0 < r.adjust then { r with slot := 64, adjust := 0 } else { r with slot := (r.slot + 1) % 64 }

/-- A rota's next slot starts and is used as `send` says; a swap of tables changes the capability table (R92, DEDUCED, log entry 67). -/
def State.slotStart (s : State) (rota : RotaId) (send : State → Rota → State) : State :=
  let key := rotaKey rota
  let r := (s.rota key).short
  if 64 ≤ r.slot then s.modRota key fun x => { x with slot := 0 }
  else
    let t := s.modRota key fun _ => r.start (s.epochAt rota)
    let t := if r.swaps (s.epochAt rota) then t.capBuild else t
    (send t (r.start (s.epochAt rota))).modRota key Rota.next

/-- ROTA_SLOT_START (R39, R40): the next slot of a rota starts. -/
def execRotaSlotStart (rota : RotaId) (s : State) : Host.Outcome State Fault Refusal :=
  event s (match rota with
    | .mesh core dir => if meshOutput core dir then some (s.slotStart rota fun s r => s.meshSlot core dir r) else none
    | .kryas l => if l < 48 && (s.link l).st.up then some (s.slotStart rota fun s r => s.kryasSlot l r) else none
    | .host p => if p < 2 then some (s.slotStart rota fun s r => s.hostSlot p r) else none
    | .master => none)

/-- The epoch of the marker from which a router takes its phase (R41): its west neighbour's, I/O die 0's at x = 0, and for I/O die 1
that of the last core of row 0. -/
def State.refEpoch (s : State) (i : Nat) : BitVec 16 :=
  if i = ioDie 1 then (s.router (coreAt 127 0)).epoch
  else if coreX i = 0 then s.net.epoch
  else (s.router (i - 1)).epoch

/-- Change the rotas of a router's outputs. -/
def State.modOutputs (s : State) (core : Nat) (f : Nat → Rota → Rota) : State :=
  s.upto 4 fun s d => if meshOutput core d then s.modRota (rotaKey (.mesh core d)) (f d) else s

/-- ROTA_MARKER_ARRIVAL (R41): a marker arrives `late` cycles after its time, or does not arrive. Within a cycle the next slot 63 of the
outputs makes up for it; else the alignment is lost and the outputs take their phase from this marker: each starts its slot D. -/
def execRotaMarkerArrival (epoch : Option (BitVec 16)) (late : Int) (s : State) : Host.Outcome State Fault Refusal :=
  let i := s.ctl.here.unit
  event s (
    if i = ioDie 0 || ioDie 1 < i then none
    else
      match epoch with
      | none => some (s.modRouter i fun x => { x with aligned := false, inRow := 0 })
      | some e =>
        if e ≠ s.refEpoch i then none
        else if -1 ≤ late && late ≤ 1 then
          some ((s.modRouter i fun x =>
            { epoch := e, inRow := min (x.inRow + 1) 3, aligned := x.aligned || decide (3 ≤ x.inRow + 1) }).modOutputs i fun _ r => { r with adjust := late })
        else some ((s.modRouter i fun _ => { epoch := e }).modOutputs i fun d r => { r with slot := hopDelay i d, adjust := 0 }))

end Sys2Proof.Machine
end

