-- ==== Sys2Proof/Machine/Start.lean ====
section
/-! DEFINITION. Power, signals and rails (R8-R21), and the start sequence (R84-R90, R481). -/

namespace Sys2Proof.Machine

/-- Change the power and signal state. -/
def State.modPw (s : State) (f : Power → Power) : State := { s with pw := f s.pw }
/-- Change the start state. -/
def State.modSt (s : State) (f : Start → Start) : State := { s with st := f s.st }

/-! ### Rails (R10, R19-R21) -/

/-- The main rails in the order in which the power-down path removes them (R20), by their place in the order in which they rise: VCORE,
VIO, VSRAM, VDRAM. -/
def railsDown : List Nat := [3, 2, 1, 0]

/-- A main rail goes, if it is up. -/
def Power.dropRail (p : Power) (n : Nat) : Power := { p with rails := min p.rails n }

/-- The main rails are removed one after the other, PGOOD is deasserted, and the core clock stops (R10, R20). The table's steps are whole,
so the moments between are not seen: DESIGN CHOICE, log entry 50. -/
def Power.railsOff (p : Power) : Power :=
  { (railsDown.foldl Power.dropRail p) with
    pgood := false, released := false, seq := .idle, coldNext := true, clock := 0, below := 0, hot := false, overLim := false }

/-- The main rails are gone: work in flight and every register of the dies are lost, and the next start is cold. What the
model itself adds stays. -/
def State.dark (s : State) : State :=
  { s with st := {}, net := {}, hi := {}, hd := {}, mm := {}, co := {}, sc := {}, en := {}, ctl := { s.ctl with issue := false }, pw := s.pw.railsOff }

/-- The power-down path: the rails go, and the module is in STBY (R20, R21). -/
def State.powerDown (s : State) (ev : List PowerEvent) : State :=
  s.dark.modPw fun p => { p with mode := .stby, log := p.log ++ ev }

/-- The controller is in reset: the module power limit is the default again (R11, R16). Its time goes on (DESIGN CHOICE, log entry 52). -/
def Power.resetCtl (p : Power) : Power := { p with limit := 10000 }

/-- The controller runs: VAUX is there and MOD_RST# is high (R8, R16). -/
def Power.awake (p : Power) : Bool := p.vaux && p.modRst

/-- The power-on sequence begins in STBY whenever PWR_EN and MOD_RST# are high (R10, R19). -/
def State.beginSeq (s : State) : State :=
  if s.pw.awake && s.pw.pwrEn && s.pw.mode = .stby && s.pw.seq = .idle then s.modPw fun p => { p with seq := .boot } else s

/-- A step of the Ranbor controller, which alone moves the module between its power states (R10). STBY is left on the levels of the
signals, so that a module that a trip or a rail fault has brought there begins its sequence again. -/
def ranbor (r : Option State) : Host.Outcome State Fault Refusal :=
  match r with
  | some s => .next s.beginSeq
  | none => .fault .notEnabled

/-- VAUX_PRESENT (R10). -/
def execVauxPresent (s : State) : Host.Outcome State Fault Refusal :=
  ranbor (if s.pw.vaux then none else some (s.modPw fun p => { p with vaux := true, mode := .stby }))

/-- VAUX_ABSENT (R10). -/
def execVauxAbsent (s : State) : Host.Outcome State Fault Refusal :=
  ranbor (if s.pw.vaux then some (s.dark.modPw fun p => { p.resetCtl with vaux := false, mode := .off }) else none)

/-- PWR_EN_HIGH (R19). -/
def execPwrEnHigh (s : State) : Host.Outcome State Fault Refusal :=
  ranbor (if s.pw.pwrEn then none else some (s.modPw fun p => { p with pwrEn := true }))

/-- PWR_EN_LOW (R21): the power-down path is taken at once and logged; without a sequence or rails only the signal changes. -/
def execPwrEnLow (s : State) : Host.Outcome State Fault Refusal :=
  ranbor (
    if !s.pw.pwrEn then none
    else
      let s := s.modPw fun p => { p with pwrEn := false }
      some (if s.pw.seq = .idle || !s.pw.modRst then s else s.powerDown [.pwrEnLow s.pw.time]))

/-- MOD_RST_FALL (R21): the reset logic removes the rails; nothing is logged, and the controller is in reset. -/
def execModRstFall (s : State) : Host.Outcome State Fault Refusal :=
  ranbor (
    if !s.pw.modRst then none
    else
      let s := s.modPw fun p => { p.resetCtl with modRst := false }
      some (if s.pw.vaux then s.powerDown [] else s))

/-- MOD_RST_RISE (R17, R21): the straps are sampled, and the controller leaves reset in STBY. -/
def execModRstRise (pos : BitVec 3) (boot : BitVec 2) (cxla : Bool) (s : State) : Host.Outcome State Fault Refusal :=
  ranbor (
    if s.pw.modRst then none
    else some (s.modPw fun p => { p with modRst := true, strapPos := pos, strapBoot := boot, strapCxl := cxla }))

/-- The image that the controller loads for itself (R19): the recovery image with STRAP_BOOT at 10 or 11, else its firmware in the boot
flash. -/
def Power.ownImage (p : Power) : Image := if p.strapBoot.getLsbD 1 then .recovery else .flash

/-- The image of the module firmware (R16, R85): with STRAP_BOOT at 01 the host's. -/
def Power.moduleImage (p : Power) : Image := if p.strapBoot = 1 then .host else p.ownImage

/-- RANBOR_BOOT (R19, R89): the controller's firmware is loaded and checked; without good firmware the sequence stays there. -/
def execRanborBoot (ok : Bool) (s : State) : Host.Outcome State Fault Refusal :=
  ranbor (if s.pw.seq ≠ .boot then none else some (if ok then s.modPw fun p => { p with seq := .rising, fw := p.ownImage } else s))

/-- RAIL_WITHIN_TOLERANCE (R19): the rail is up; after the last one PGOOD is asserted, the dies are released, and the cold
start begins. -/
def execRailWithinTolerance (s : State) : Host.Outcome State Fault Refusal :=
  ranbor (
    if s.pw.seq ≠ .rising then none
    else
      let s := s.modPw fun p => { p with rails := p.rails + 1 }
      some (if s.pw.rails < 4 then s
        else (s.modPw fun p => { p with pgood := true, released := true, seq := .done }).modSt fun _ => {}))

/-- RAIL_FAULT (R20): rail `sub` (0 VDRAM, 1 VSRAM, 2 VIO, 3 VCORE) fails to reach its tolerance or leaves it. -/
def execRailFault (s : State) : Host.Outcome State Fault Refusal :=
  ranbor (
    let n := s.ctl.here.sub
    if n < s.pw.rails || (s.pw.seq = .rising && n = s.pw.rails && n < 4) then some (s.powerDown [.railFault n s.pw.time]) else none)

/-! ### Power and temperature (R11, R14) -/

/-- THERM_ALERT# is low: CAP is forced by temperature, or by power at 400 MHz (R16). -/
def Power.alert (p : Power) : Bool := p.hot || p.overLim

/-- The module leaves RUN for CAP below 850 MHz, and returns at 850 MHz once no demand is left (R10). -/
def Power.settle (p : Power) : Power :=
  match p.mode with
  | .run => if p.clock < 850 then { p with mode := .cap } else p
  | .cap => if 850 ≤ p.clock then { p with mode := .run } else p
  | _ => p

/-- One step down, never below 400 MHz; a stopped clock stays so. -/
def Power.slower (p : Power) : Power := if p.clock = 0 then p else { p with clock := max (p.clock - 50) 400 }
/-- One step up, never above 850 MHz; a stopped clock stays so. -/
def Power.faster (p : Power) : Power := if p.clock = 0 then p else { p with clock := min (p.clock + 50) 850 }

/-- What a power measurement does (R11): above the limit the clock falls a step, or at 400 MHz the alert is raised; after ten readings in
a row below 95 % it rises a step, unless the last temperature reading was 95 degrees or more. That the clock rises again only so after a
thermal cap, and that the alert stays until the clock rises, are choices: DESIGN CHOICE, log entry 50. -/
def Power.measured (p : Power) (watts : Nat) : Power :=
  if p.limit < watts then { p.slower with below := 0, overLim := p.overLim || p.clock = 400 }
  else if 100 * watts < 95 * p.limit then
    if p.below < 9 then { p with below := p.below + 1 }
    else if p.hot then { p with below := 0 }
    else { p.faster with below := 0, overLim := false }
  else { p with below := 0 }

/-- A soft error of memory may have come (R169): none, a corrected one, which the counter of a function counts (R95), or one that cannot be
corrected, in a beat of DRAM or of a scratchpad. When they come and where is free (DESIGN CHOICE, log entry 35). -/
def State.softError (s : State) : State :=
  let (kind, s) := s.choose 4
  match kind with
  | 1 =>
    let (h, s) := s.choose Config.holdings
    s.modFn h fun f => { f with ecc := f.ecc + 1 }
  | 2 =>
    let (b, s) := s.choose (dramSize / 32)
    { s with mm := { s.mm with ecc := Tab.set false s.mm.ecc b true } }
  | 3 =>
    let (b, s) := s.choose (spadKey 8192 0 / 32)
    { s with co := { s.co with ecc := Tab.set false s.co.ecc b true } }
  | _ => s

/-- POWER_MEASUREMENT (R11): every 100 us; the time counts them, and in it memory may have had a soft error. The clock after a thermal cap and
the end of the alert: DESIGN CHOICE, log entry 50. -/
def execPowerMeasurement (watts : Nat) (s : State) : Host.Outcome State Fault Refusal :=
  ranbor (if s.pw.awake then some (s.softError.modPw fun p => { (p.measured watts).settle with time := p.time + 1 }) else none)

/-- TEMPERATURE_MEASUREMENT (R14, R15): the hottest die is `unit`. The dies have sensors to read while a main rail is up. -/
def execTemperatureMeasurement (celsius : Nat) (s : State) : Host.Outcome State Fault Refusal :=
  ranbor (
    if !s.pw.awake || s.pw.rails = 0 then none
    else if 105 ≤ celsius then some (s.powerDown [.thermalTrip s.ctl.here.unit celsius s.pw.time])
    else if 95 ≤ celsius then some (s.modPw fun p => ({ p.slower with hot := true, hotDie := s.ctl.here.unit }).settle)
    else some (s.modPw fun p => { p with hot := false }))

/-! ### Host ports (R18, R36) -/

/-- A port's link and function state are reset (R18). Requests that are outstanding there stay so, and may still be answered: DESIGN CHOICE, log entry
51. -/
def State.resetPort (s : State) (p : Nat) : State :=
  { s with hi := { s.hi with
    cfg := s.hi.cfg.filter fun (k, _) => k / 64 ≠ p
    atc := s.hi.atc.filter fun e => e.1 ≠ p
    upA := if p = 0 then none else s.hi.upA
    upB := if p = 1 then none else s.hi.upB
    vfA := s.hi.vfA && p ≠ 0
    vfB := s.hi.vfB && p ≠ 1 } }

/-- PERST_ASSERT (R18) at port `unit`. -/
def execPerstAssert (s : State) : Host.Outcome State Fault Refusal :=
  match s.ctl.here.unit with
  | 0 => eventPw { s.pw with perstA := false } (if s.pw.perstA then some (s.resetPort 0) else none)
  | 1 => eventPw { s.pw with perstB := false } (if s.pw.perstB then some (s.resetPort 1) else none)
  | _ => event s none

/-- PERST_DEASSERT (R18): the port starts to train. -/
def execPerstDeassert (s : State) : Host.Outcome State Fault Refusal :=
  match s.ctl.here.unit with
  | 0 => eventPw { s.pw with perstA := true } (if s.pw.perstA then none else some s)
  | 1 => eventPw { s.pw with perstB := true } (if s.pw.perstB then none else some s)
  | _ => event s none

/-- A trained width and rate of a host port (R36); rates in tenths of GT/s. -/
def portMode (width rate : Nat) : Bool := [1, 4, 8, 16].contains width && [25, 50, 80, 160, 320, 640].contains rate

/-- HOST_PORT_LINK_UP (R18, R36): a port whose PERST# is high has trained; in a cold start from step 5 on (R85). -/
def execHostPortLinkUp (width rate : Nat) (s : State) : Host.Outcome State Fault Refusal :=
  let ready : Bool := s.pw.seq = .done && !(s.st.state = .running && s.st.cold && decide (s.st.step < 5)) && portMode width rate
  event s (match s.ctl.here.unit with
    | 0 => if ready && s.pw.perstA && s.hi.upA.isNone then some { s with hi := { s.hi with upA := some (width, rate) } } else none
    | 1 => if ready && s.pw.perstB && s.hi.upB.isNone then some { s with hi := { s.hi with upB := some (width, rate) } } else none
    | _ => none)

/-! ### The start (R84-R90) -/

/-- A start ends: the staging buffer is cleared (R90). -/
def State.endStart (s : State) (f : Start → Start) : State := s.modSt fun x => f { x with waiting := false, image := none, staging := [] }

/-- A step fails (R85). -/
def State.failStart (s : State) (code : BitVec 8) : State := s.endStart fun x => { x with state := .failed, fcode := code }

/-- A start of the kind that R86 allows begins at step 1. A cold start retrains the host ports (R87). -/
def State.beginStart (s : State) (cold : Bool) : State :=
  let cold : Bool := cold || s.st.state = .running || s.st.state = .failed || s.pw.coldNext
  let s := s.modSt fun _ => { cold := cold }
  if cold then (s.resetPort 0).resetPort 1 else s

/-- A write of START (R84). -/
def State.putStart (s : State) (v : Nat) : State :=
  match v % 4 with
  | 1 => s.beginStart false
  | 2 => s.beginStart true
  | _ => s

/-- START_WARM (R84). -/
def execStartWarm (s : State) : Host.Outcome State Fault Refusal :=
  event s (if s.pw.seq = .done then some (s.beginStart false) else none)

/-- START_COLD (R86). -/
def execStartCold (s : State) : Host.Outcome State Fault Refusal :=
  event s (if s.pw.seq = .done then some (s.beginStart true) else none)

/-- The start is at a step. -/
def State.atStep (s : State) (n : Nat) : Bool := s.pw.seq = .done && s.st.state = .running && s.st.step = n

/-- Step 6 begins: with STRAP_BOOT at 01 the host's image is waited for, if port A is up (R90). -/
def State.enter6 (s : State) : State :=
  let s := s.modSt fun x => { x with step := 6 }
  if s.pw.strapBoot ≠ 1 then s
  else if s.hi.upA.isNone then s.failStart 0x0A
  else s.modSt fun x => { x with waiting := true }

/-- PLL_LOCK (R85): the core clock runs from here on (R10). -/
def execPllLock (ok : Bool) (s : State) : Host.Outcome State Fault Refusal :=
  if s.atStep 1 && ok then
    eventPw { s.pw with clock := if s.pw.clock = 0 then 850 else s.pw.clock } (some (s.modSt fun x => { x with step := 2 }))
  else event s (if s.atStep 1 then some (s.failStart 0x01) else none)

/-- BRIDGE_TRAINING (R85): a warm start goes on at step 6. -/
def execBridgeTraining (ok : Bool) (s : State) : Host.Outcome State Fault Refusal :=
  event s (
    if !s.atStep 2 then none
    else if !ok then some (s.failStart 0x02)
    else some (if s.st.cold then s.modSt fun x => { x with step := 3 } else s.enter6))

/-- DRAM_TRAINING (R85). -/
def execDramTraining (ok : Bool) (s : State) : Host.Outcome State Fault Refusal :=
  event s (if !s.atStep 3 then none else some (if ok then s.modSt fun x => { x with step := 4 } else s.failStart 0x03))

/-- FULL_SCRUB (R85): every DRAM and SRAM word is zero with good check values. -/
def execFullScrub (ok : Bool) (s : State) : Host.Outcome State Fault Refusal :=
  event s (
    if !s.atStep 4 then none
    else if !ok then some (s.failStart 0x04)
    else
      some ({ s with
        mm := { s.mm with dram := [], poison := [], ecc := [], mat := [], l2 := [], l1 := [], home := [], regs := [], byHost := [] }
        co := { s.co with spad := [], poison := [], ecc := [], tag := [], fe := [], treg := [], ibuf := [] }
        en := { s.en with acc := [], accHdr := [], appHdr := [], bpos := [] } }.modSt fun x => { x with step := 5 }))

/-- PHY_EQUALISATION (R85): the Kryas links that trained come up; one that failed is in FAIL, the rest stay DOWN. -/
def execPhyEqualisation (links : List (Nat × Trained × BitVec 3)) (s : State) : Host.Outcome State Fault Refusal :=
  event s (
    if !s.atStep 5 || links.any fun x => 48 ≤ x.1 then none
    else
      let s := { s with net := { s.net with links := [] } }
      some (links.foldl (fun (s : State) x =>
        match x.2.1 with
        | .failed => s.modLink x.1 fun k => { k with st := .fail }
        | r => s.trained x.1 r x.2.2) s).enter6)

/-- FIRMWARE_VERIFICATION (R89, R90): both signatures verify, and the image's security version is not below the fused
minimum. -/
def execFirmwareVerification (rsa slh : Bool) (version minimum : BitVec 32) (s : State) : Host.Outcome State Fault Refusal :=
  event s (
    if !s.atStep 6 || (s.st.waiting && s.st.image.isNone) then none
    else if !rsa then some (s.failStart 0x06)
    else if !slh then some (s.failStart 0x07)
    else if version < minimum then some (s.failStart 0x08)
    else some (s.modSt fun x => { x with step := 7, fw := some s.pw.moduleImage }))

/-- A write of FWGO (R90). -/
def State.putFwgo (s : State) (v : Nat) : State :=
  let n := v % 2 ^ 26
  if !s.atStep 6 || !s.st.waiting || s.st.image.isSome then s
  else if n = 0 || 2 ^ 25 < n then s.failStart 0x0A
  else s.modSt fun x => { x with image := some n }

/-- FWGO (R90). -/
def execFwgo (value : Word) (s : State) : Host.Outcome State Fault Refusal := event s (some (s.putFwgo value.toNat))

/-- FWGO_TIMEOUT (R90). -/
def execFwgoTimeout (s : State) : Host.Outcome State Fault Refusal :=
  event s (if s.atStep 6 && s.st.waiting && s.st.image.isNone then some (s.failStart 0x0A) else none)

/-- The block of holding 0 after a start (R481). -/
def rootBlock : Tab Word :=
  [(0x10, 0x000000003F7F0000), (0x18, 0xFFFFFFFF0000FFFF), (0x20, 0x00000000FFFFFFFF), (0x48, 0x000010007100FF00), (0x90, 0xFFFFFFFFFFFFFFFF)]

/-- Holding 0 and the cells after step 7 (R87, R481). -/
def State.freshHolds (s : State) : State :=
  { s with
    hd := { tab := Tab.set {} [] 0 { st := .active, words := rootBlock }, cap := s.hd.cap }
    sc := {} }

/-- The words of holding 0's block that R481 leaves to the firmware. -/
def firmwareWords : List Nat := [0x00, 0x28, 0x30, 0x38, 0x40, 0x58, 0x68, 0x70, 0x78, 0x80, 0x88, 0x98]

/-- Beats that are about to be written whole are neither poisoned nor in error (R70). -/
def State.cleanBeats (s : State) (pa n : Nat) : State :=
  let out := fun (c : Nat × Bool) => !(pa ≤ 32 * c.1 && 32 * c.1 < pa + n)
  { s with mm := { s.mm with poison := s.mm.poison.filter out, ecc := s.mm.ecc.filter out } }

/-- Put words at consecutive places of a table that is otherwise 0. -/
def State.putTable (s : State) (pa n : Nat) (ws : List (Nat × Nat)) : State :=
  let s := s.cleanBeats pa n
  let s := { s with mm := { s.mm with dram := s.mm.dram.filter fun c => !(pa ≤ c.1 && c.1 < pa + n) } }
  ws.foldl (fun (s : State) p => s.rawPut 0 0 (pa + 8 * p.1) (BitVec.ofNat 64 p.2)) s

/-- The leaf of a 64 GiB page of holding 0's memory: all rights, KEY 0; a page with a pinned slice names one, and a hashed one the whole
mesh (R88, R199). -/
def rootLeaf (i kind pl slice : Nat) : Nat :=
  i * 2 ^ 54 + (if pl % 2 = 1 then slice % 2048 * 2 ^ 9 else 0) + pl % 2 * 2 ^ 7 + kind % 3 * 2 ^ 5 + 0x1F

/-- The MVA at which step 7 maps holding 0's memory. -/
def rootBase (v : Nat → Nat) : Nat := v 2 % 2048 * 2 ^ 46 + v 3 % 1017 * 2 ^ 36

/-- Step 7 builds holding 0's page table (R88): it maps holding 0's memory, all of DRAM, under KEY 0. The tables stand above the first 64
GiB, whose page is of KIND 00. Where else they stand, the MVA at which the memory begins, and the placement and kind of the other pages are
free: DESIGN CHOICE, log entry 73. -/
def State.rootTable (s : State) (v : Nat → Nat) : State :=
  let root := 2 ^ 22 + v 0 % (2 ^ 25 - 2 ^ 22)
  let many := 2 ^ 26 - 2 ^ 23
  let table := (2 ^ 23 + (2 * root - 2 ^ 23 + 2 + v 1 % (many - 3)) % many) * 8192
  let s := s.putTable (root * 16384) 16384 [(v 2 % 2048, table + 1)]
  let s := s.putTable table 8192 ((List.range 8).map fun i =>
    (v 3 % 1017 + i, rootLeaf i (if i = 0 then 0 else v (4 + i)) (v (12 + i)) (v (20 + i))))
  s.modHold 0 fun x => { x with words := Tab.set 0 x.words 0x40 (BitVec.ofNat 64 (root * 16384)) }

/-- The segment table that step 7 leaves, one line under KEY 0: segment 1 covers bytes of holding 0's memory with the rights of which some are
free, and the others are free without reserved bits (R88, R193). -/
def rootSegments (v : Nat → Nat) : List Byte :=
  let lo := rootBase v + v 29 % 2 ^ 39
  let limit := v 30 % (2 ^ 39 - v 29 % 2 ^ 39)
  leBytes 8 lo ++ leBytes 8 (limit + (12 + v 31 % 4) * 2 ^ 60) ++
  ((List.range 5).flatMap fun i => leBytes 8 (v (32 + 3 * i) % 2 ^ 57) ++ leBytes 8 (v (33 + 3 * i) % 2 ^ 57 + v (34 + 3 * i) % 16 * 2 ^ 60)) ++
  List.replicate 32 0

/-- Where in DRAM the segment table stands. -/
def segmentsAt (v : Nat → Nat) : Nat := 2 ^ 34 + v 28 % 2 ^ 26 * 128

/-- Words of holding 0's block that let its segments, frames and fault queue work: in the first 64 GiB of its memory (R88, R120, R194), and a
stack that fits every slot's carve-out (R122). -/
def rootPools (v : Nat → Nat) : List (Nat × Nat) :=
  [(0x28, rootBase v + v 48 % 2 ^ 25 * 256), (0x30, 1 + v 49 % 2 ^ 25), (0x38, rootBase v + segmentsAt v),
   (0x80, rootBase v + 2 ^ 34 + 2 ^ 33 + v 50 % 2 ^ 27 * 64), (0x88, v 51 % 2 ^ 45 * 2 ^ 12 + v 52 % 257)]

/-- What the firmware leaves in step 7 beside R481: the other words of holding 0's block, the block's place in DRAM, words of
DRAM, whose beats it writes whole, and holding 0's page and segment tables (R88). -/
def State.firmware (s : State) : State :=
  let n := s.ctl.free
  let v := Config.rootMap n
  let s := { s with ctl := { s.ctl with free := n + 1 } }
  let s := (Config.rootImage n).foldl (fun (s : State) p => if p.1 % 8 = 0 && p.1 < dramSize then (s.cleanBeats (p.1 / 32 * 32) 32).rawPut 0 0 p.1 p.2 else s) s
  let s := s.modHold 0 fun x => { x with
    words := (rootPools v).foldl (fun t p => Tab.set 0 t p.1 (BitVec.ofNat 64 p.2))
      (firmwareWords.foldl (fun t o => Tab.set 0 t o (Config.rootWord o)) x.words)
    addr := some (2 ^ 35 + v 53 % 2 ^ 27 * 256) }
  ((s.rootTable v).cleanBeats (segmentsAt v) 128).vaultPut 0 (segmentsAt v / 128) (rootSegments v) []

/-- Of what waits before the links only holding 0's flits stay, and none of them belongs to a thread any more (R87, R110). -/
def State.startFlits (s : State) : State :=
  let s := ((List.range 63).map (· + 1)).foldl (fun (s : State) h => s.dropFlits h) s
  { s with
    net := { s.net with
      links := s.net.links.map fun ((k, l) : Nat × Link) => (k, { l with queue := l.queue.map fun f => { f with note := none } })
      rotas := [], flits := [], epoch := 0, peerReqs := [], flushes := [], lost := [] }
    hi := { s.hi with out := s.hi.out.map fun m => { m with note := none, from_ := none } } }

/-- START_RESET (R85, R87, R88, R481): cores, engines, rotas, tag tables and region state are reset, every holding but 0 is
gone, all key slots are cleared, and slot 0 gets fresh keys. The registers of every function, ROOTRGN and the quarantined indices are reset
too: DESIGN CHOICE, log entry 86. -/
def execStartReset (s : State) : Host.Outcome State Fault Refusal :=
  event s (
    if !s.atStep 7 then none
    else
      let (k, s) := ((s.startFlits.l2Drop fun v => v.hold ≠ 0).l2Flush fun _ => true).freeKey
      let s := { s with
        hi := { s.hi with
          fns := [], rootRgn := 0, pageReqs := [], pageWait := [], arrived := [], stops := [], writes := [], waits := [], bad := [], reads := [], got := []
          reqs := s.hi.reqs.map fun (r : HostReq) => { r with purpose := .dropped } }
        mm := { s.mm with l1 := [], home := [], regs := [], pools := [], portq := [], accs := [], tlb := [], vault := [], byHost := [] }
        co := {}
        en := {}
        ctl := { s.ctl with issue := false } }
      let s := s.freshHolds
      let s := { s with hd := { s.hd with keys := Tab.set none [] 0 (some k) } }.firmware
      some (s.modSt fun x => { x with step := 8 }))

/-- CAPABILITY_TABLE_BUILD (R85, R92): the start is done, and the module runs (R10). -/
def execCapabilityTableBuild (ok : Bool) (s : State) : Host.Outcome State Fault Refusal :=
  if s.atStep 8 && ok then
    let p := s.pw
    eventPw { p with coldNext := false, mode := if p.mode = .stby then (if p.clock < 850 then .cap else .run) else p.mode }
      (some (s.capBuild.endStart fun x => { x with state := .done }))
  else event s (if s.atStep 8 then some (s.failStart 0x09) else none)

end Sys2Proof.Machine
end

