-- ==== Sys2Proof/Machine/Host.lean ====
section
/-! DEFINITION. What the host does to the part: registers in windows A and B (R44-R46, R51-R54, R72, R82, R84, R92), window M
(R47, R90), configuration bits, ATS and PRI (R49, R50), resets of functions (R115, R116), CXL.mem and CXL.cache (R55-R60, R64), and
SPDM (R91). -/

namespace Sys2Proof.Machine

/-! ### Functions (R43) -/

/-- TotalVFs and InitialVFs of the SR-IOV capability of either port. -/
def totalVFs : Nat := 63
/-- The Device IDs of the physical function and of the virtual functions, which differ; their values are not stated (DESIGN CHOICE, log entry
92). -/
def deviceIds : BitVec 16 × BitVec 16 :=
  (Config.deviceId, if Config.vfDeviceId = Config.deviceId then Config.vfDeviceId + 1 else Config.vfDeviceId)
/-- First VF Offset. -/
def firstVfOffset : Nat := 1
/-- VF Stride. -/
def vfStride : Nat := 1

/-- The function that is virtual function `k`, counted from 1; function n of either port is holding n. -/
def vfFunction (k : Nat) : Nat := firstVfOffset + (k - 1) * vfStride

/-- The virtual functions of a port. -/
def virtualFns : List Nat := (List.range totalVFs).map fun k => vfFunction (k + 1)

/-- What the configuration space of either port says of SR-IOV: TotalVFs, InitialVFs, First VF Offset, VF Stride, the physical function's
Device ID and the VF Device ID. -/
def sriov : List Nat := [totalVFs, totalVFs, firstVfOffset, vfStride, deviceIds.1.toNat, deviceIds.2.toNat]

/-! ### Page requests (R50, R52) -/

/-- The region and the OBJ word of a fault that waits for a page (R121). -/
def State.waiterNames (s : State) (fn : Nat) : Waiter → Nat × Nat
  | .frame h m => (((s.frame h m).map (·.rgn)).getD 0, m)
  | .engine tl =>
    let (mx, key) := tlCtx tl
    (match s.headEng mx key with
     | some (x, num) => (x.who.rgn, tl + num % 2 ^ 32 * 2 ^ 32)
     | none => (0, 0))
  | .access k addr => ((((s.portq k).find? fun e => e.addr = addr && e.who.hold = fn).map fun e => e.who.rgn).getD 0, 0)
  | .part i => (((s.sc.parts.find? fun p => p.id = i).map fun p => p.rgn).getD 0, 0)

/-- The context that a timeline word names is stalled on a page. -/
def State.stalledOn (s : State) (tl page : Nat) : Bool :=
  let (mx, key) := tlCtx tl
  match (if mx then (s.mctx key).stall else (s.cctx key).stall) with
  | some a => a / 65536 = page
  | none => false

/-- One who waited for a page that the host has made resident goes on: a frame is requeued, and the access of an engine, of a port or of
the part walks the table again (R50, R295, R486, R487). -/
def State.waiterGoes (s : State) (fn page : Nat) : Waiter → State
  | .frame h m => { s with hi := { s.hi with arrived := s.hi.arrived ++ [(h, m)] } }
  | .engine tl => if s.stalledOn tl page then s.rewalk (tlCtx tl).1 (tlCtx tl).2 else s
  | .access k addr =>
    s.setPortq k ((s.portq k).map fun e => if e.addr = addr then s.walkRepeat fn (fun a => a / 65536 = page) e else e)
  | .part i =>
    match s.sc.parts.find? fun p => p.id = i with
    | some p => s.partTry p
    | none => s

/-- One who waited for a page that will not come stops with PAGE (R50, R140, R295, R487). `write` is the access for which the page was
asked. -/
def State.waiterFails (s : State) (fn page : Nat) (write : Bool) : Waiter → State
  | .frame h m =>
    -- once its frame can be written
    { s with hi := { s.hi with stops := s.hi.stops ++ [(h, m, write)] } }
  | .engine tl =>
    let (mx, key) := tlCtx tl
    if !s.stalledOn tl page then s
    else
      (match s.headEng mx key with
       | some (x, num) => s.engStop x num 0x15 0 (BitVec.ofNat 64 (page * 65536)) write
       | none => s)
  | .access k addr =>
    ((s.portq k).filter fun e => e.addr = addr && e.who.hold = fn).foldl (fun (s : State) e => s.entFail k e 0x15 0 addr) s
  | .part i =>
    (match s.sc.parts.find? fun p => p.id = i with
     | some p => (s.partOver p).dropPart p.hold
     | none => s)

/-- Faults of a function that wait for a request are taken up again: they go out while the host's allocation lasts, or, when PRI
is off, to the supervisor queue (R50). -/
def State.pump (s : State) (fn : Nat) : State :=
  (s.hi.pageWait.filter fun w => w.fn = fn).foldl (fun (s : State) w =>
    let drop := fun (s : State) => { s with hi := { s.hi with pageWait := s.hi.pageWait.erase w } }
    let (rgn, obj) := s.waiterNames fn w.who
    let again := fun (s : State) => s.raisePage fn rgn (w.page * 65536) w.write w.who (BitVec.ofNat 64 obj)
    if s.priOn fn then
      (if (s.cfg (s.priPort fn) fn).priMax ≤ s.outs fn || 512 ≤ freeIndex s.hi.pageReqs fn 512 0 then s else again (drop s))
    else if s.canRequest fn then again (drop s)
    else (drop s).waiterFails fn w.page w.write w.who) s

/-- The request group of function `unit` with the index `pos`. -/
def State.pageReq (s : State) : Option PageReq := s.hi.pageReqs.find? fun r => r.fn = s.ctl.here.unit && r.idx = s.ctl.here.pos

/-- A response ends a request group; one for a quarantined index is only counted (R50, R52). -/
def State.priAnswer (s : State) (f : State → PageReq → State) : Option State :=
  s.pageReq.map fun r =>
    if r.quar then s.modFn r.fn fun x => { x with qdisc := min (x.qdisc + 1) 0xFFFF }
    else (f { s with hi := { s.hi with pageReqs := s.hi.pageReqs.erase r } } r).pump r.fn

/-- PRI_SUCCESS (R50). -/
def execPriSuccess (s : State) : Host.Outcome State Fault Refusal :=
  event s (s.priAnswer fun s r => r.joined.foldl (fun (s : State) w => s.waiterGoes r.fn r.page w) s)

/-- PRI_INVALID_REQUEST (R50). -/
def execPriInvalidRequest (s : State) : Host.Outcome State Fault Refusal :=
  event s (s.priAnswer fun s r => r.joined.foldl (fun (s : State) w => s.waiterFails r.fn r.page r.write w) s)

/-- PRI_RESPONSE_FAILURE (R50): PRI is also disabled for the function. -/
def execPriResponseFailure (s : State) : Host.Outcome State Fault Refusal :=
  event s (s.priAnswer fun s r =>
    (r.joined.foldl (fun (s : State) w => s.waiterFails r.fn r.page r.write w) s).modCfg (s.priPort r.fn) r.fn fun c => { c with priOff := true })

/-- A write of the quarantine clear register (R53): faults that waited for an index go out. -/
def State.putQuarantineClear (s : State) (v : Nat) : State :=
  ({ s with hi := { s.hi with pageReqs := s.hi.pageReqs.filter fun r => !(r.quar && r.fn = v % 64) } }).pump (v % 64)

/-- PAGE_REQUEST_QUARANTINE_CLEAR (R53). -/
def execPageRequestQuarantineClear (value : Word) (s : State) : Host.Outcome State Fault Refusal :=
  event s (some (s.putQuarantineClear value.toNat))

/-! ### ATS (R49) -/

/-- A translation cache entry of a function at a port for one of some pages. -/
def AtcEnt.in_ (e : AtcEnt) (port fn page size : Nat) : Bool := e.port = port && e.fn = fn && page ≤ e.page && e.page < page + size

/-- ATS_INVALIDATE_REQUEST (R49) for function `sub` at port `unit`: pages of 4 KiB from `page` on. It completes once every request
that used a matching entry has its completion or, posted, has left the port. A translation of such a page that is still on its way is
not kept. -/
def execAtsInvalidateRequest (page size : Nat) (s : State) : Host.Outcome State Fault Refusal :=
  let p := s.ctl.here.unit
  let fn := s.ctl.here.sub
  event s (
    if 2 ≤ p || totalVFs < fn then none
    else
      let hit := fun (e : AtcEnt) => e.in_ p fn page size
      let ids := (s.hi.reqs.filter fun r => r.port = p && r.used.any hit).map (·.id)
      some { s with hi := { s.hi with
        atc := s.hi.atc.filter fun e => !hit e
        reqs := s.hi.reqs.map fun (r : HostReq) => match r.purpose with
          | .translate q f g => if q = p && f = fn && page ≤ g && g < page + size then { r with purpose := .dropped } else r
          | _ => r
        atcWait := s.hi.atcWait ++ [(⟨p, fn, page, size, ids⟩ : AtcWait)] } }.atcDone)

/-! ### Resets of functions (R115, R116) -/

/-- The last step of a Function Level Reset: once the crier has carried the resets of the cells, admission opens (R154). -/
def State.flrDone (s : State) (n : Nat) : State := s.modHold n fun v => { v with reset := 0, stopped := s.halted n }

/-- A Function Level Reset of function 0: its indices are quarantined, the frames joined to them are discarded, and whoever else waited for
one asks again (R52). -/
def State.rootReset (s : State) : State :=
  let rs := s.hi.pageReqs.filter fun r => r.fn = 0 && !r.quar
  (rs.foldl (fun (s : State) r => r.joined.foldl (fun (s : State) w =>
    match w with
    | .frame h m =>
      (match s.frame h m with
       | some f => if f.st = .page then (s.freeFrame h m f.rgn).sprigGone f.launch else s
       | none => s)
    | .engine _ => s.waiterGoes 0 r.page w
    | _ => s) s) (s.requarantine 0)).pump 0

/-- FUNCTION_LEVEL_RESET (R115) of function `unit`: indices are quarantined and the threads leave; once they have, work, state and
keys are gone and the chain is as new, and the shares stay; it ends when the crier has carried the resets of the cells. R115 says what a
virtual function loses; of function 0 the indices are quarantined (R52). -/
def execFunctionLevelReset (s : State) : Host.Outcome State Fault Refusal :=
  let n := s.ctl.here.unit
  event s (
    if totalVFs < n then none
    else if n = 0 then some s.rootReset
    else if !s.live n then some ((s.quarantine n).modFn n fun f => { f with chain := {} })
    else
      match (s.hold n).reset with
      | 0 => some (((s.requarantine n).preempt n).modHold n fun v => { v with reset := 1 })
      | 1 =>
        if s.slotsOf n ≠ [] then none
        else
          let s := ((s.wipe n).resetCells (s.hword n 0x90) n).modFn n fun f => { f with chain := {} }
          some (if s.cellsPending (s.hword n 0x90) then s.modHold n fun v => { v with reset := 4 } else s.flrDone n)
      | 4 => if s.cellsPending (s.hword n 0x90) then none else some (s.flrDone n)
      | _ => none)

/-- VF Enable is cleared at a port: the page request indices of every virtual function are quarantined, and its holding, where it exists, is
to go (R52, R116). -/
def State.vfClear (s : State) (port : Nat) : State :=
  let s := { s with hi := { s.hi with vfA := s.hi.vfA && port ≠ 0, vfB := s.hi.vfB && port ≠ 1 } }
  virtualFns.foldl (fun (s : State) h => if s.live h then (s.requarantine h).modHold h fun v => { v with reset := 2 } else s.quarantine h) s

/-- VF Enable of a port. -/
def State.vfOn (s : State) (port : Nat) : Bool := if port = 0 then s.hi.vfA else s.hi.vfB

/-- VF_ENABLE_CLEAR (R116): at `sub` = 0 the host clears the bit of port `unit`; at `sub` = h the effect on holding h goes on: once no
RGNOP is in progress its threads leave, once they have left it is destroyed, and it is gone when the crier has carried the resets of its
cells (R154). -/
def execVfEnableClear (s : State) : Host.Outcome State Fault Refusal :=
  let h := s.ctl.here.sub
  event s (
    if h = 0 then (if s.ctl.here.unit < 2 && s.vfOn s.ctl.here.unit then some (s.vfClear s.ctl.here.unit) else none)
    else if (s.hold h).reset = 2 then
      (if (s.busyWith h).isSome then none
       else some (((s.requarantine h).preempt h).modHold h fun v => { v with reset := 3, busy := none }))
    else if (s.hold h).reset = 3 && s.slotsOf h = [] then some (((s.wipe h).openShares h).modHold h fun v => { v with reset := 5 })
    else if (s.hold h).reset = 5 && !s.cellsPending (s.hword h 0x90) then some (s.unmake h)
    else none)

/-- ATS Enable is cleared: the port holds no translation of the function any more, and keeps none that is on its way (R49). -/
def State.atsOff (s : State) (port fn : Nat) : State :=
  let s := s.modCfg port fn fun c => { c with ats := false }
  { s with hi := { s.hi with
    atc := s.hi.atc.filter fun e => !(e.port = port && e.fn = fn)
    reqs := s.hi.reqs.map fun (r : HostReq) => match r.purpose with
      | .translate q f _ => if q = port && f = fn then { r with purpose := .dropped } else r
      | _ => r } }

/-- CONFIG_SPACE_WRITE of function `sub` at port `unit` (R49, R50, R67, R116). -/
def execConfigSpaceWrite (b : ConfigBit) (value : Bool) (s : State) : Host.Outcome State Fault Refusal :=
  let p := s.ctl.here.unit
  let fn := s.ctl.here.sub
  event s (
    if 2 ≤ p || totalVFs < fn then none
    else
      match b with
      | .atsEnable => some (if value then s.modCfg p fn fun c => { c with ats := true } else s.atsOff p fn)
      | .priEnable => some ((s.modCfg p fn fun c => { c with pri := value, priOff := false }).pump fn)
      | .atomicEnable => some (s.modCfg p fn fun c => { c with atomic := value })
      | .priAllocation n => some ((s.modCfg p fn fun c => { c with priMax := min n 512 }).pump fn)
      | .vfEnable =>
        if value then some { s with hi := { s.hi with vfA := s.hi.vfA || p = 0, vfB := s.hi.vfB || p = 1 } }
        else if s.vfOn p then some (s.vfClear p) else some s)

/-! ### Windows A and B -/

/-- The page request status register (R51). -/
def State.pageStatus (s : State) (fn : Nat) : Nat :=
  (s.fn fn).qdisc * 2 ^ 48 + (s.hi.pageReqs.filter fun r => r.fn = fn && r.quar).length % 1024 * 2 ^ 32 + s.outs fn % 1024 * 2 ^ 22

/-- SSTAT (R84). -/
def State.sstat (s : State) : Nat :=
  s.st.fcode.toNat * 2 ^ 32 + s.st.step % 256 * 2 ^ 24 + (if s.st.cold then 2 else 1) * 2 ^ 16 +
  (match s.st.state with | .running => 1 | .done => 2 | .failed => 3)

/-- The bytes of a function's capability table (R92, R93). -/
def State.capBytes (s : State) (fn : Nat) : List Byte :=
  tlv 1 (leBytes 4 1) ++
  tlv 2 (leBytes 8 Config.serial.toNat ++ leBytes 1 s.pw.strapPos.toNat ++ leBytes 7 0) ++
  ((Tab.get [] s.hd.cap fn).flatMap fun r =>
    tlv r.type (leBytes 4 r.total ++ leBytes 4 r.assigned ++ leBytes 4 r.grain ++ leBytes 4 r.scope)) ++
  leBytes 8 0

/-- A register of window A at an offset that is a multiple of 8; none where none is defined. -/
def State.winA (s : State) (fn off : Nat) : Option Nat :=
  let f := s.fn fn
  if 0x2000 ≤ off && off < 0x4000 then some (leNat (((s.capBytes fn).drop (off - 0x2000)).take 8))
  else if 0x200 ≤ off && off < 0x280 then some (Tab.get 0 f.subset ((off - 0x200) / 8)).toNat
  else if fn = 0 && 0x1000 ≤ off && off < 0x1200 then some (s.fn ((off - 0x1000) / 8)).hif.toNat
  else
    match off with
    | 0x100 => some f.hif.toNat
    | 0x108 => some (s.pageStatus fn)
    | 0x110 => some 0xF
    | 0x118 => some f.chain.facc.toNat
    | 0x120 => some f.sqmode.toNat
    | 0x130 => some f.supq.toNat
    | 0x1200 | 0x1300 | 0x1318 => if fn = 0 then some 0 else none
    | 0x1308 => if fn = 0 then some s.sstat else none
    | 0x1310 => if fn = 0 then some s.hi.rootRgn.toNat else none
    | _ => none

/-- A register of window B at an offset that is a multiple of 8 (R72). -/
def State.winB (s : State) (fn off : Nat) : Option Nat :=
  let c := s.chainAt fn
  match off with
  | 0x00 => some c.ctail
  | 0x08 => some c.chead.toNat
  | 0x10 => some c.cstat
  | 0x18 => some c.tlmir.toNat
  | 0x20 => some c.tlcur
  | _ => none

/-- Bits `hi` to `lo` of a value, in place; the rest reads 0. -/
def field (v : Nat) (hi lo : Nat) : Nat := bits v hi lo * 2 ^ lo

/-- A host-interface control register is written (R46). Translations are tagged by function and PASID (R49), so that none that is held
matches a new PASID; one that is still on its way is not kept. -/
def State.putHif (s : State) (n v : Nat) : State :=
  let s := s.modFn n fun f => { f with hif := BitVec.ofNat 64 (field v 43 20) }
  { s with hi := { s.hi with
    atc := s.hi.atc.filter fun e => e.fn ≠ n
    reqs := s.hi.reqs.map fun (r : HostReq) => match r.purpose with
      | .translate _ f _ => if f = n then { r with purpose := .dropped } else r
      | _ => r } }.pump n

/-- A subset register is written, and is valid again after a RESIZE; a value that R204 does not allow is ignored and counted. -/
def State.putSubset (s : State) (fn i v : Nat) : State :=
  let t := s.modFn fn fun f => { f with subset := Tab.set 0 f.subset i (BitVec.ofNat 64 v), subBad := f.subBad &&& ~~~((1 : BitVec 16) <<< i) }
  if v = 0 || (t.subset fn i).isSome then t else s.mmioError fn

/-- A write of a whole register of window A; a read-only one keeps its value (R44-R46). -/
def State.putA (s : State) (fn off v : Nat) : State :=
  if 0x200 ≤ off && off < 0x280 then s.putSubset fn ((off - 0x200) / 8) v
  else if fn = 0 && 0x1000 ≤ off && off < 0x1200 then s.putHif ((off - 0x1000) / 8) v
  else
    match off with
    | 0x120 => s.modFn fn fun f => { f with sqmode := BitVec.ofNat 64 (v % 2 ^ 16) }
    | 0x130 => (s.modFn fn fun f => { f with supq := BitVec.ofNat 64 (field v 56 6) }).pump fn
    | 0x1200 => if fn = 0 then s.putQuarantineClear v else s
    | 0x1300 => if fn = 0 then s.putStart v else s
    | 0x1310 => if fn = 0 then { s with hi := { s.hi with rootRgn := BitVec.ofNat 64 (field v 56 8 + v % 2) } } else s
    | 0x1318 => if fn = 0 then s.putFwgo v else s
    | _ => s

/-- A write of a whole register of window B (R72-R75). -/
def State.putB (s : State) (fn off v : Nat) : State :=
  match off with
  | 0x00 => s.putCtail fn v
  | 0x08 => s.putChead fn (BitVec.ofNat 64 v)
  | 0x10 => if v % 2 = 1 then s.chainGo fn else s
  | 0x18 => s.modChain fn fun c => { c with tlmir := BitVec.ofNat 64 v }
  | _ => s

/-- The access is naturally aligned, of 4 or 8 bytes (R45). -/
def accessOk (off size : Nat) : Bool := (size = 4 || size = 8) && off % size = 0

/-- The value that a write of `size` bytes at an offset leaves in the 8-byte register around it. -/
def mergeReg (old off size v : Nat) : Nat :=
  if size = 8 then v % 2 ^ 64
  else if off % 8 = 0 then old / 2 ^ 32 * 2 ^ 32 + v % 2 ^ 32
  else v % 2 ^ 32 * 2 ^ 32 + old % 2 ^ 32

/-- A write in a window: dropped or ignored, and counted, where R45 says so. -/
def State.putWin (s : State) (fn off size v : Nat) (reg : Nat → Option Nat) (put : State → Nat → Nat → State) : State :=
  if !accessOk off size then s.mmioError fn
  else
    match reg (off / 8 * 8) with
    | none => s.mmioError fn
    | some old => put s (off / 8 * 8) (mergeReg old off size v)

/-- REGISTER_WRITE (R45): a register of window A or B of a function, or of root: the power limit (R11), a route mask (R33), an
entry of the peer grant table (R34), the status register of a link, with RST (R35). -/
def execRegisterWrite (target : RegTarget) (size : Nat) (value : Word) (s : State) : Host.Outcome State Fault Refusal :=
  let v := value.toNat
  let p := if target = .powerLimit && 4000 ≤ v && v ≤ 10000 then { s.pw with limit := v } else s.pw
  eventPw p (match target with
    | .winA fn off => if totalVFs < fn || 2 ^ 16 ≤ off then none else some (s.putWin fn off size v (s.winA fn) fun s => s.putA fn)
    | .winB fn off => if totalVFs < fn || 2 ^ 12 ≤ off then none else some (s.putWin fn off size v (s.winB fn) fun s => s.putB fn)
    | .powerLimit => some s
    | .routeMask peer =>
      if 8 ≤ peer then none else some { s with net := { s.net with masks := Tab.set 0 s.net.masks peer (BitVec.ofNat 48 v) } }
    | .peerGrant peer hold valid loc base limit r w a =>
      if 8 ≤ peer || 64 ≤ hold || 64 ≤ loc then none
      else some { s with net := { s.net with grants := Tab.set {} s.net.grants (peer * 64 + hold) ⟨valid, loc, base, limit, r, w, a⟩ } }
    | .linkCounters link =>
      if 48 ≤ link then none
      else
        let s := s.modLink link fun k => { k with dropc := bits v 55 40, retc := bits v 39 24, nakc := bits v 23 8 }
        some (if bit v 3 then s.resetLink link else s))

/-- A register of the root window (R4): the status of link `i` (R35), the HDM-DB register (R54), the route mask of peer `i` (R33), the
control register of the rota with key `i` (R40), a word of its active or shadow table (R38), the power limit (R11), value `i` of the SR-IOV
capability (R43). -/
def State.rootReg (s : State) (k i off : Nat) : Option Nat :=
  let table := fun (t : Tab (BitVec 8)) => leNat ((List.range 8).map fun j => Tab.get 0 t (off / 8 * 8 + j))
  let r := s.rota i
  match k with
  | 1 => some (s.link i).status
  | 2 => some s.hi.hdm.toNat
  | 3 => some (Tab.get 0 s.net.masks i).toNat
  | 4 => some ((if r.arm then 2 ^ 32 else 0) + r.tepoch.toNat * 2 ^ 16 + r.cepoch.toNat)
  | 5 => some (table r.active)
  | 6 => some (table r.shadow)
  | 7 => some s.pw.limit
  | 8 => sriov[i]?
  | _ => none

/-- HOST_REGISTER_READ (R45) of function `unit` modulo 64, at port `unit` / 64. With `sub` = k it is root's read of a register of the root
window, numbered `pos` (R4, DESIGN CHOICE, log entry 70). -/
def execHostRegisterRead (winB : Bool) (off size : Nat) (s : State) : Host.Outcome State Fault Refusal :=
  let fn := s.ctl.here.unit % 64
  let p := s.ctl.here.unit / 64
  let k := s.ctl.here.sub
  event s (
    if 2 ≤ p || (if winB then 2 ^ 12 else 2 ^ 16) ≤ off then none
    else if k ≠ 0 && (fn ≠ 0 || (s.rootReg k s.ctl.here.pos off).isNone) then none
    else if !accessOk off size then some ((s.mmioError fn).send (.cplUR p fn))
    else
      match (if k ≠ 0 then s.rootReg k s.ctl.here.pos off else if winB then s.winB fn (off / 8 * 8) else s.winA fn (off / 8 * 8)) with
      | none => some ((s.mmioError fn).send (.cplValue p fn 0))
      | some v => some (s.send (.cplValue p fn (BitVec.ofNat 64 (if size = 8 then v else bits v (off % 8 * 8 + 31) (off % 8 * 8))))))

/-! ### Window M (R47, R90) -/

/-- The largest read and the largest payload of one request (R36). -/
def maxRead : Nat := 4096
/-- See `maxRead`. -/
def maxPayload : Nat := 512

/-- WINDOW_M_ACCESS (R47) of function `sub` at port `unit`: a read of `len` bytes, or a write of the data, which takes the port's next number
(R62). An access that waits, or comes behind a write that waits, is tried again as HOST_WRITE says. -/
def execWindowMAccess (off len : Nat) (data : Option (List Byte)) (s : State) : Host.Outcome State Fault Refusal :=
  let p := s.ctl.here.unit
  let h := s.ctl.here.sub
  let n := (data.map List.length).getD len
  event s (
    if 2 ≤ p || totalVFs < h || n = 0 || (if data.isSome then maxPayload else maxRead) < n || 2 ^ 36 < off + n then none
    else
      let (num, s) := if data.isSome then s.nextNum p else (0, s)
      let r : HostRead := ⟨p, h, off, n, data.map fun d => (num, d)⟩
      let later := fun (s : State) => { s with hi := { s.hi with reads := s.hi.reads ++ [r] } }
      if s.behindWrite s.hi.reads.length p then some (later s)
      else
        match s.windowM r with
        | .ok s => some s
        | .error s => some (later s))

/-! ### The HDM-DB region (R54-R60) -/

/-- HDM_REGION_WRITE (R54): a size or a range that is not allowed leaves EN at 0. -/
def execHdmRegionWrite (value : Word) (s : State) : Host.Outcome State Fault Refusal :=
  let v := value.toNat
  let ok : Bool := decide (1 ≤ bits v 29 18) && decide (bits v 29 18 ≤ 2048) && decide ((bits v 47 30 + bits v 29 18) * 2 ^ 28 ≤ dramSize)
  event s (some { s with hi := { s.hi with hdm := BitVec.ofNat 64 (field v 47 18 + if ok then v % 2 else 0) } })

/-- The key slot under which a line of device memory was written, when one still holds its key. -/
def State.lineKey (s : State) (line : Nat) : Nat := ((List.range 256).find? fun k => (s.keyMat k).isSome && s.keyFits k line).getD 0

/-- Steps 1 and 2 of R57: pool entries of a half are merged and registrations revoked. -/
def State.settleHalf (s : State) (half : Nat) : State :=
  (s.mm.home.filter fun (k, _) => k % wordSpan / 8 = half).foldl (fun (s : State) (p : Nat × HomeSt) =>
    s.settle (p.1 / wordSpan) (p.1 % wordSpan)) s

/-- The home at which a half of the region stands for the host, which names no leaf: the slice that holds its line, else the slice above
its vault, under the key that the line was written with (DEDUCED, log entry 74). -/
def State.hostHome (s : State) (half : Nat) : AtHome :=
  match s.rawHome (half * 8) with
  | some a => a
  | none => ⟨vaultOf (half * 64), none, s.lineKey (half / 2), 0, 0, 0⟩

/-- The host reaches a half over CXL.mem: port A is up in CXL mode, and the half lies in the region. -/
def State.cxlOk (s : State) (half : Nat) : Bool := s.cxlUp && s.inHdm (half * 64)

/-- After a conflicting request has been served, the handshake is acknowledged (R59). -/
def State.conflictServed (s : State) (half : Nat) : State :=
  if s.hi.snoops.any fun b => b.half = half && b.conflict then
    ({ s with hi := { s.hi with snoops := s.hi.snoops.map fun (b : Bisnp) => if b.half = half then { b with conflict := false } else b } }).send
      (.biConflictAck half)
  else s

/-- CXL_MEMRD (R57) of half `unit`. -/
def execCxlMemrd (mv : MetaValue) (s : State) : Host.Outcome State Fault Refusal :=
  let h := s.ctl.here.unit
  event s (
    if !s.cxlOk h then none
    else
      let s := s.settleHalf h
      let a := s.hostHome h
      let s := s.l2In a (h / 2)
      let s := s.send (.memData h (s.memBytes a (h * 64) 64) (s.beatBad a (h * 64) || s.beatBad a (h * 64 + 32)))
      let s := match mv with
        | .any => s.setHalf h 2
        | .shared => s.setHalf h 1
        | _ => s
      some (s.conflictServed h))

/-- Bytes written into a half by the host. -/
def State.putHalf (s : State) (h : Nat) (data : List (Option Byte)) : State := s.putRuns (s.hostHome h) (h * 64) (data.take 64) false

/-- A host write of a half is applied as it arrives, under the next number of port A (R57, R62). -/
def State.hostHalf (s : State) (h : Nat) (data : List (Option Byte)) : State :=
  let (i, s) := ((s.settleHalf h).putHalf h data).nextNum 0
  (runsOf 0 (data.take 64)).foldl (fun (s : State) (r : Nat × List Byte) => s.writtenBy (h * 64 + r.1) r.2.length (some (0, i))) s

/-- CXL_MEMWR (R57) of half `unit`. -/
def execCxlMemwr (mv : MetaValue) (data : List (Option Byte)) (s : State) : Host.Outcome State Fault Refusal :=
  let h := s.ctl.here.unit
  event s (
    if !s.cxlOk h then none
    else
      let s := (s.hostHalf h data).send (.memDone h)
      let s := match mv with
        | .invalid => s.setHalf h 0
        | .shared => s.setHalf h 1
        | _ => s
      some (s.conflictServed h))

/-- BIRSP (R56): the host answers the snoop of half `unit`, with its data when it was dirty. An answer BIRspI to a BISnpData leaves the half
I: DESIGN CHOICE, log entry 56. -/
def execBirsp (shared : Bool) (dirty : Option (List Byte)) (s : State) : Host.Outcome State Fault Refusal :=
  let h := s.ctl.here.unit
  event s ((s.hi.snoops.find? fun b => b.half = h).bind fun b =>
    if b.conflict || (b.inval && shared) then none
    else
      let s := match dirty with
        | some d => s.hostHalf h (d.map some)
        | none => s
      some ({ s with hi := { s.hi with snoops := s.hi.snoops.filter fun x => x.half ≠ h } }.setHalf h (if shared then 1 else 0)))

/-- BICONFLICT (R59) for half `unit`. -/
def execBiconflict (s : State) : Host.Outcome State Fault Refusal :=
  let h := s.ctl.here.unit
  event s (
    if s.hi.snoops.any fun b => b.half = h && !b.conflict then
      some { s with hi := { s.hi with snoops := s.hi.snoops.map fun (b : Bisnp) => if b.half = h then { b with conflict := true } else b } }
    else none)

/-- A pool entry of a core is freed without a merge. -/
def State.poolDrop (s : State) (core word : Nat) : State :=
  (((s.pools core).filter fun e => e.word = word).foldl (fun (s : State) (e : PoolEnt) =>
    let s := match s.homeSt e.home word with
      | .pool cs => s.setHome e.home word (if cs.filter (· ≠ core) = [] then .unreg else .pool (cs.filter (· ≠ core)))
      | _ => s
    s.addFault (dropRec e.hold e.rgn 0x71 (BitVec.ofNat 64 (8 * word)))) s).setPools core ((s.pools core).filter fun e => e.word ≠ word)

/-- One who waited for the answer to a snoop that does not come (R60): a read gets poisoned data, so that its consumer faults INTEG; a
write is dropped with a record in the fault queue of the writing region. The scheduler reads again. A host write has no region; its record goes to region 0 (DESIGN CHOICE, log
entry 55). An engine context stops with INTEG. -/
def State.snoopLost (s : State) (w : HdmWait) : State :=
  match w.who with
  | .ent .. =>
    (match s.reqEnt w.who with
     | some (k, e) => s.entFail k e 0x71 0 e.addr
     | none => s)
  | .write port num pa =>
    let hit := fun (x : HostWrite) => decide (x.port = port) && decide (x.num = num) && (match x.tgt with | .dev a _ => decide (a = pa) | _ => false)
    let s := s.forget w.who
    { s with hi := { s.hi with writes := s.hi.writes.filter fun x => !hit x } }.addFault (dropRec w.hold 0 0x71 0)
  | .eng mx key =>
    (match s.headEng mx key with
     | some (x, num) => s.engStop x num 0x71 0 0
     | none => s)
  | .pool core word => (s.forget w.who).poolDrop core word
  | .agent .. => { s with hi := { s.hi with bad := s.hi.bad ++ [w.who] } }
  | .part i =>
    (match s.sc.parts.find? fun p => p.id = i with
     | some p => (s.partOver p).addFault (dropRec p.hold p.rgn 0x71 (BitVec.ofNat 64 p.mva))
     | none => s)
  | .queue core slot =>
    match s.sc.qreqs.findIdx? fun q => q.core = core && q.slot = slot with
    | some i => (match s.sc.qreqs[i]? with | some q => s.qFail i q 0x71 | none => s)
    | none => s
  | .thread .. => { s with hi := { s.hi with bad := s.hi.bad ++ [w.who] } }
  | .sched .. => s

/-- BISNP_TIMEOUT (R60): the half becomes I, the event is logged, and all who waited for the half are answered. The
record of a dropped host write goes to region 0: DESIGN CHOICE, log entry 55. -/
def execBisnpTimeout (s : State) : Host.Outcome State Fault Refusal :=
  let h := s.ctl.here.unit
  eventPw { s.pw with log := s.pw.log ++ [PowerEvent.bisnpTimeout h s.pw.time] } (
    if !(s.hi.snoops.any fun b => b.half = h) then none
    else
      let ws := s.hi.waits.filter fun w => w.half = h
      let s := { s with hi := { s.hi with
        snoops := s.hi.snoops.filter fun b => b.half ≠ h
        waits := s.hi.waits.filter fun w => w.half ≠ h } }.setHalf h 0
      some (ws.foldl (fun (s : State) w => s.snoopLost w) s))

/-! ### CXL.cache and SPDM -/

/-- HOST_SNOOP (R64, R65) of host line `unit` while port A runs CXL.cache (R16): a modified line is given up to the host, with its poison
(R71). -/
def execHostSnoop (inval : Bool) (s : State) : Host.Outcome State Fault Refusal :=
  let l := s.ctl.here.unit
  let v := s.hline l
  let s := s.send (.snoopResp l (if v.st = 3 then some (v.data, v.bad) else none))
  event s (if !s.cxlUp then none else some (if inval || v.st = 0 then s.setHline l {} else s.setHline l { v with st := 1 }))

/-- The request codes of R91 (SPDM 1.3): GET_VERSION, GET_CAPABILITIES, NEGOTIATE_ALGORITHMS, GET_DIGESTS, GET_CERTIFICATE, CHALLENGE,
GET_MEASUREMENTS, KEY_EXCHANGE. -/
def spdmCodes : List (BitVec 8) := [0x84, 0xE1, 0xE3, 0x81, 0x82, 0x83, 0xE0, 0xE4]

/-- The number of a firmware image among what Config measures. -/
def Image.num : Image → Nat
  | .flash => 0 | .host => 1 | .recovery => 2

/-- The measurement blocks of R91: boot ROM, Ranbor firmware, module firmware, the SHA-384 of the capability table, and the straps and
the start kind last run. -/
def State.measurements (s : State) : List (Nat × List Byte) :=
  [(1, Config.measured 1 0), (2, Config.measured 2 s.pw.fw.num), (3, Config.measured 3 ((s.st.fw.map Image.num).getD 3)),
   (4, sha384 (s.capBytes 0)),
   (5, [BitVec.ofNat 8 s.pw.strapPos.toNat, BitVec.ofNat 8 s.pw.strapBoot.toNat, if s.pw.strapCxl then 1 else 0, if s.st.cold then 2 else 1])]

/-- The response to a request (R91). What the part signs is free; the forms of the answers are DEDUCED, log entry 76. -/
def State.spdmAnswer (s : State) (code : BitVec 8) : Spdm × State :=
  match code with
  | 0x84 => (.version 0x13, s)
  | 0xE1 => (.capabilities spdmCodes, s)
  | 0xE3 => (.algorithms ["SHA-384", "RSASSA-PSS 3072", "ECDSA P-384"], s)
  | 0x81 => (.digest (sha384 Config.certificate), s)
  | 0x82 => (.certificate Config.certificate, s)
  | 0xE0 => (.measurements s.measurements, s)
  | 0x83 | 0xE4 => (.signed (Config.spdmSigned s.ctl.free), { s with ctl := { s.ctl with free := s.ctl.free + 1 } })
  | _ => (.plain, s)

/-- SPDM_REQUEST (R91) at port `unit`: a supported request gets its response, any other the error response. -/
def execSpdmRequest (code : BitVec 8) (s : State) : Host.Outcome State Fault Refusal :=
  event s (if 2 ≤ s.ctl.here.unit then none
    else
      let (body, s) := s.spdmAnswer code
      some (s.send (.spdm s.ctl.here.unit (if spdmCodes.contains code then code &&& 0x7F else 0x7F) body)))

end Sys2Proof.Machine
end

