-- ==== Sys2Proof/Machine/Predicate.lean ====
section
/-! DEFINITION. The predicate instructions (R356-R360). -/

namespace Sys2Proof.Machine

/-- CMP (R356): signed at width w. -/
def execCmp (f : Fields) (s : State) : Host.Outcome State Fault Refusal :=
  issue (.cmp f) s fun f s =>
    let (a, b, s) := s.srcs f (simm f)
    .ok (.step (s.setP f.d.idx.toNat (relation f.fn.toNat (sAt f.md a < sAt f.md b) (sAt f.md a = sAt f.md b))))

/-- CMPU (R356): unsigned at width w. -/
def execCmpu (f : Fields) (s : State) : Host.Outcome State Fault Refusal :=
  issue (.cmpu f) s fun f s =>
    let (a, b, s) := s.srcs f (simm f)
    .ok (.step (s.setP f.d.idx.toNat (relation f.fn.toNat (uAt f.md a < uAt f.md b) (uAt f.md a = uAt f.md b))))

/-- FCMP (R357). -/
def execFcmp (f : Fields) (s : State) : Host.Outcome State Fault Refusal :=
  issue (.fcmp f) s fun f s =>
    let (a, b, s) := s.srcs f (rawImm f)
    let fmt := scalarFmt f.md
    .ok (.step (s.setP f.d.idx.toNat (numCond f.fn.toNat (numOf fmt a) (numOf fmt b))))

/-- The combination of PLOG by FN (R358). -/
def plogR (fn : Nat) (md : BitVec 8) (a b : Bool) : Bool :=
  let x := a != md.getLsbD 0
  let y := b != md.getLsbD 1
  let r := match fn with
    | 0 => x && y
    | 1 => x || y
    | 2 => x != y
    | _ => x && !y
  r != md.getLsbD 2

/-- PLOG (R358). -/
def execPlog (f : Fields) (s : State) : Host.Outcome State Fault Refusal :=
  issue (.plog f) s fun f s =>
    .ok (.step (s.setP f.d.idx.toNat (plogR f.fn.toNat f.md (s.thr.prd f.a.idx.toNat) (s.thr.prd f.b.idx.toNat))))

/-- The predicate word, with p31 as 1 (R159, R359). -/
def Thread.predWord (t : Thread) : BitVec 32 := t.pred ||| 0x80000000

/-- PGET (R359). -/
def execPget (f : Fields) (s : State) : Host.Outcome State Fault Refusal :=
  issue (.pget f) s fun f s => .ok (.step (s.dst f.d (s.thr.predWord.zeroExtend 64)))

/-- PSET (R359). -/
def execPset (f : Fields) (s : State) : Host.Outcome State Fault Refusal :=
  issue (.pset f) s fun f s =>
    let (a, s) := s.src f.a 0
    .ok (.step (s.modThr fun t =>
      { t with pred := (t.pred &&& ~~~f.imm) ||| (a.extractLsb' 0 32 &&& f.imm) ||| 0x80000000 }))

end Sys2Proof.Machine
end

