-- ==== Sys2Proof/Machine/Sfn.lean ====
section
/-! DEFINITION. The special functions (R250, R419), evaluated in fixed point far below the last place of any result, and the
special-function unit (R298, R418-R421). -/

namespace Sys2Proof.Machine

/-! ### Fixed point with 640 fraction bits -/

/-- The fraction bits. -/
def fxBits : Nat := 640
/-- One in fixed point. -/
def fxOne : Nat := 2 ^ fxBits
/-- The fixed-point product. -/
def fxMul (a b : Nat) : Nat := a * b / fxOne

/-- The alternating series of arctan(1/k): `p` is the power, `m` the odd divisor. -/
def atanGo (k : Nat) : Nat → Nat → Nat → Int
  | 0, _, _ => 0
  | n + 1, p, m => (p / m : Nat) - atanGo k n (p / (k * k)) (m + 2)

/-- π. -/
def fxPi : Nat := (16 * atanGo 5 160 (fxOne / 5) 1 - 4 * atanGo 239 60 (fxOne / 239) 1).toNat

/-- The series of artanh(t): `p` is the power t^m, `q` is t². -/
def atanhGo (q : Nat) : Nat → Nat → Nat → Nat
  | 0, _, _ => 0
  | n + 1, p, m => p / m + atanhGo q n (fxMul p q) (m + 2)

/-- artanh of a fixed-point number of at most 1/3. -/
def fxAtanh (t : Nat) : Nat := atanhGo (fxMul t t) 220 t 1

/-- ln 2. -/
def fxLn2 : Nat := 2 * fxAtanh (fxOne / 3)

/-- The series of e^x: `p` is the term of index `n`. -/
def expGo (x : Nat) : Nat → Nat → Nat → Nat
  | 0, _, _ => 0
  | k + 1, p, n => p + expGo x k (fxMul p x / (n + 1)) (n + 1)

/-- e^x for a fixed-point number from 0 to 1. -/
def fxExp (x : Nat) : Nat := expGo x 160 fxOne 0

/-- e^y for y ≥ 0, at most 2,048. -/
def fxExpBig (y : Nat) : Nat := fxExp (y % fxLn2) * 2 ^ (y / fxLn2)

/-- The alternating series of sin y: `p` is the term of odd index `n`, `q` is y². -/
def sinGo (q : Nat) : Nat → Nat → Nat → Int
  | 0, _, _ => 0
  | k + 1, p, n => (p : Int) - sinGo q k (fxMul p q / ((n + 1) * (n + 2))) (n + 2)

/-- sin of a fixed-point number from 0 to π/2. -/
def fxSin (y : Nat) : Nat := (sinGo (fxMul y y) 90 y 1).toNat

/-- The alternating series of erf without its factor: `p` is x^(2n+1)/n!, `q` is x². -/
def erfGo (q : Nat) : Nat → Nat → Nat → Int
  | 0, _, _ => 0
  | k + 1, p, n => (p / (2 * n + 1) : Nat) - erfGo q k (fxMul p q / (n + 1)) (n + 1)

/-- erf of a fixed-point number from 0 to 8. -/
def fxErf (x : Nat) : Nat := 2 * (erfGo (fxMul x x) 520 x 0).toNat * fxOne / isqrt (fxPi * fxOne)

/-- An inexact value in fixed point: a bit below it stands for the rest. -/
def inexact (neg : Bool) (v : Nat) : ExtNum := .fin neg (2 * v + 1) (-(fxBits : Int) - 1)

/-- The value just below 1: every mode rounds it as it rounds 1 less a distance too small for any draw. -/
def below1 (neg : Bool) : ExtNum := .fin neg (2 * fxOne - 1) (-(fxBits : Int) - 1)

/-- m · 2^e in fixed point. -/
def fxOf (m : Nat) (e : Int) : Nat := if -(fxBits : Int) ≤ e then m * 2 ^ (e + fxBits).toNat else m / 2 ^ (-(e + fxBits)).toNat

/-- The number is at least 2^k in magnitude. -/
def atLeast (m : Nat) (e : Int) (k : Int) : Bool := k ≤ (m.log2 : Int) + e

/-! ### The functions on finite numbers -/

/-- 2^x. -/
def exp2Fin (neg : Bool) (m : Nat) (e : Int) : ExtNum :=
  if atLeast m e 11 then .fin false 1 (if neg then -4096 else 4096)
  else
    let x : Int := if neg then -(fxOf m e : Int) else fxOf m e
    let k := x / fxOne
    let f := (x % fxOne).toNat
    if f = 0 then .fin false 1 k else .fin false (2 * fxExp (fxMul f fxLn2) + 1) (k - fxBits - 1)

/-- log2 of a positive number. -/
def log2Fin (m : Nat) (e : Int) : ExtNum :=
  let k : Int := (m.log2 : Int) + e
  let x := m * fxOne / 2 ^ m.log2
  if x = fxOne then ExtNum.ofInt k
  else
    let ln := 2 * fxAtanh ((x - fxOne) * fxOne / (x + fxOne))
    let v : Int := k * fxOne + (ln * fxOne / fxLn2 : Nat)
    inexact (v < 0) (if v < 0 then v.natAbs - 1 else v.natAbs)

/-- sin(πr) for r in half-turns of fixed point: the sign and the value; 0 and 1 are exact. -/
def sinTurn (r : Nat) : Bool × Nat :=
  let r := r % (2 * fxOne)
  let neg := fxOne ≤ r
  let r := r % fxOne
  let r := if fxOne < 2 * r then fxOne - r else r
  (neg, if r = 0 then 0 else if 2 * r = fxOne then fxOne else fxSin (fxMul r fxPi))

/-- A sine as a number. -/
def sinNum (zero : Bool) (flip : Bool) (p : Bool × Nat) : ExtNum :=
  if p.2 = 0 then .zero zero
  else if p.2 = fxOne then .fin (p.1 != flip) 1 0
  else inexact (p.1 != flip) p.2

/-- tanh of a positive number, with a sign. -/
def tanhFin (neg : Bool) (m : Nat) (e : Int) : ExtNum :=
  if atLeast m e 6 then below1 neg
  else
    let x := fxExpBig (2 * fxOf m e)
    inexact neg ((x - fxOne) * fxOne / (x + fxOne))

/-- The logistic function. -/
def sigmoidFin (neg : Bool) (m : Nat) (e : Int) : ExtNum :=
  if atLeast m e 10 then (if neg then .fin false 1 (-4096) else below1 false)
  else if !neg && atLeast m e 7 then below1 false
  else
    let x := fxExpBig (fxOf m e)
    if neg then .fin false (2 * (fxOne * 2 ^ 2048 / (fxOne + x)) + 1) (-2049)
    else inexact false (x * fxOne / (x + fxOne))

/-- 1/√x of a positive number. -/
def rsqrtFin (m : Nat) (e : Int) : ExtNum :=
  let m2 := if e % 2 = 0 then m else 2 * m
  let e2 := if e % 2 = 0 then e else e - 1
  let r := isqrt (2 ^ 800 / m2)
  .fin false (sticky r (r * r * m2 ≠ 2 ^ 800)) (-400 - e2 / 2 - 1)

/-- The exact value, or one that rounds as it does, of function `fn` of R310 (R419). -/
def sfnValue (fn : Nat) (x : ExtNum) : ExtNum :=
  match fn, x with
  | _, .nan => .nan
  | 0, x => ExtNum.div (.fin false 1 0) x
  | 1, .inf n => if n then .nan else .zero false
  | 1, .zero n => .inf n
  | 1, .fin n m e => if n then .nan else rsqrtFin m e
  | 2, x => ExtNum.sqrt x
  | 3, .inf n => if n then .zero false else .inf false
  | 3, .zero _ => .fin false 1 0
  | 3, .fin n m e => exp2Fin n m e
  | 4, .inf n => if n then .nan else .inf false
  | 4, .zero _ => .inf true
  | 4, .fin n m e => if n then .nan else log2Fin m e
  | 5, .inf _ => .nan
  | 5, .zero n => .zero n
  | 5, .fin n m e => sinNum n n (sinTurn (fxOf m e))
  | 6, .inf _ => .nan
  | 6, .zero _ => .fin false 1 0
  | 6, .fin _ m e => sinNum false false (sinTurn (fxOf m e + fxOne / 2))
  | 7, .inf n => .fin n 1 0
  | 7, .zero n => .zero n
  | 7, .fin n m e => tanhFin n m e
  | 8, .inf n => if n then .zero false else .fin false 1 0
  | 8, .zero _ => .fin false 1 (-1)
  | 8, .fin n m e => sigmoidFin n m e
  | _, .inf n => .fin n 1 0
  | _, .zero n => .zero n
  | _, .fin n m e => if atLeast m e 3 then below1 n else inexact n (fxErf (fxOf m e))

/-! ### The unit (R298) -/

/-- The requests of a cluster's unit, oldest first. -/
def State.sfuQ (s : State) (k : Nat) : List SfuReq := Tab.get [] s.en.sfu k
/-- Replace the requests of a cluster's unit. -/
def State.setSfuQ (s : State) (k : Nat) (l : List SfuReq) : State := { s with en := { s.en with sfu := Tab.set [] s.en.sfu k l } }

/-- The word that a request returns (R418). -/
def SfuReq.result (r : SfuReq) : Word := roundWord r.fmt (rmOf r.mode 0) r.sat r.draw (sfnValue r.fn (numOf r.fmt r.x))

/-- SFN (R418): the request joins the cluster's queue, and the slot is not ready until the result returns. -/
def execSfn (f : Fields) (s : State) : Host.Outcome State Fault Refusal :=
  issue (.sfn f) s fun f s => do
    ldFull s
    let k := clusterOf s.core
    if 32 ≤ (s.sfuQ k).length then stay s
    else
      let (x, s) := s.src f.a (rawImm f)
      let rm := s.rm f.md
      let (d, s) := s.draw1 rm
      let (dst, s) := s.dstOf f.d false
      let r : SfuReq := ⟨s.core, s.slotNo, f.fn.toNat, scalarFmt f.md, x, rm.code, mdSat f.md, d, dst, false⟩
      .ok (.step ((s.setSfuQ k (s.sfuQ k ++ [r])).modSlot fun v => { v with ld := v.ld + 1, sfu := true }))

/-- The unit has the results of a slot's VSFN: the instruction goes on to write them. One that has been given up counts no more (R137). -/
def Slot.serveVec (v : Slot) : Slot :=
  if v.leave = .stay && 0 < v.resume.unit then { v with sfu := false, resume := { v.resume with served := true } }
  else { v with ld := v.ld - 1, sfu := false }

/-- SFU_SERVE (R298): a cluster's unit serves its oldest request. -/
def execSfuServe (s : State) : Host.Outcome State Fault Refusal :=
  let k := s.ctl.here.unit
  event s (match s.sfuQ k with
    | [] => none
    | r :: l =>
      let h := ((s.slotAt r.core r.slot).thr.map (·.hold)).getD 0
      if r.vec then some ((s.setSfuQ k l).modSlotAt r.core r.slot Slot.serveVec)
      else
      let s := (s.setSfuQ k l).land r.core r.slot h r.dst ⟨8, false⟩ (some (leBytes 8 r.result.toNat))
      some (s.modSlotAt r.core r.slot fun v => { v with ld := v.ld - 1, sfu := false }))

/-- One element of VSFN (R420): rounded into FP32 or BF16; other formats are rounded to FP32 first. -/
def vsfnElem (fn dst : Nat) (rm : Rm) (sat : Bool) (fpm : BitVec 4) (draw : BitVec 32) (x : ExtNum) : Nat :=
  let v := sfnValue fn x
  if dst = 1 || dst = 2 then encodeNum dst rm sat draw v
  else encElem dst rm sat fpm draw (decodeNum 1 (encodeNum 1 .rne false 0 v))

/-- The elements of a VSFN go to the special-function unit as one request, and the slot is not ready until it is served (R298, R420); they have been there
when the instruction goes on. -/
def sendVec (s : State) (fn : Nat) : M Unit :=
  if s.slot.resume.served then .ok ()
  else
    let k := clusterOf s.core
    let r : SfuReq := ⟨s.core, s.slotNo, fn, 1, 0, 0, false, 0, .none, true⟩
    stay ((s.setSfuQ k (s.sfuQ k ++ [r])).modSlot fun v => { v with ld := v.ld + 1, sfu := true })

/-- A VSFN that has not joined the unit's queue waits for a place in it (R298). -/
def sfuRoom (s : State) : M Unit := if 32 ≤ (s.sfuQ (clusterOf s.core)).length && !s.slot.resume.served then stay s else .ok ()

/-- VSFN (R420). -/
def execVsfn (f : Fields) (s : State) : Host.Outcome State Fault Refusal :=
  issue (.vsfn f) s fun f s0 => do
    let (d, s) ← readShape s0 (s0.g f.d)
    let (a, s) ← readShape s (s.g f.a)
    shapesOk f s0 s [d, a]
    if fmtBad f d || !d.float || !a.float || d.efmt = 13 || a.efmt = 13 then raise s 0x32
    else if a.count ≠ d.count then raise s 0x31
    else
      shapesIn s [d, a]
      if !s.slot.resume.served then ldFull s
      sfuRoom s
      let (cs, s) ← readShapes s [d] [a] false
      sendVec s f.fn.toNat
      let ca := cs.headD []
      let (codes, g) := s.results f d.efmt (fun rm => vsfnElem f.fn.toNat d.efmt rm (mdSat f.md) s.thr.fpm) (ca.map (decodeNum a.efmt))
      let s ← endShapes s d [a] codes
      .ok (.step (s.setRng g))

end Sys2Proof.Machine
end

