-- ==== Sys2Proof/Machine/Dispatch.lean ====
section
/-! DEFINITION. What each step does: one arm for each constructor of Instr, each one call of that step's meaning. -/

namespace Sys2Proof.Machine

/-- The effect of a step at the place that the state names. -/
def exec (i : Instr) (s : State) : Host.Outcome State Fault Refusal :=
  match i with
  | .vauxPresent => Sys2Proof.Machine.execVauxPresent s
  | .vauxAbsent => Sys2Proof.Machine.execVauxAbsent s
  | .pwrEnHigh => Sys2Proof.Machine.execPwrEnHigh s
  | .pwrEnLow => Sys2Proof.Machine.execPwrEnLow s
  | .modRstFall => Sys2Proof.Machine.execModRstFall s
  | .modRstRise pos boot cxla => Sys2Proof.Machine.execModRstRise pos boot cxla s
  | .perstAssert => Sys2Proof.Machine.execPerstAssert s
  | .perstDeassert => Sys2Proof.Machine.execPerstDeassert s
  | .ranborBoot ok => Sys2Proof.Machine.execRanborBoot ok s
  | .railWithinTolerance => Sys2Proof.Machine.execRailWithinTolerance s
  | .railFault => Sys2Proof.Machine.execRailFault s
  | .powerMeasurement watts => Sys2Proof.Machine.execPowerMeasurement watts s
  | .temperatureMeasurement celsius => Sys2Proof.Machine.execTemperatureMeasurement celsius s
  | .startWarm => Sys2Proof.Machine.execStartWarm s
  | .startCold => Sys2Proof.Machine.execStartCold s
  | .pllLock ok => Sys2Proof.Machine.execPllLock ok s
  | .bridgeTraining ok => Sys2Proof.Machine.execBridgeTraining ok s
  | .dramTraining ok => Sys2Proof.Machine.execDramTraining ok s
  | .fullScrub ok => Sys2Proof.Machine.execFullScrub ok s
  | .phyEqualisation links => Sys2Proof.Machine.execPhyEqualisation links s
  | .firmwareVerification rsa slh version minimum => Sys2Proof.Machine.execFirmwareVerification rsa slh version minimum s
  | .fwgo value => Sys2Proof.Machine.execFwgo value s
  | .fwgoTimeout => Sys2Proof.Machine.execFwgoTimeout s
  | .startReset => Sys2Proof.Machine.execStartReset s
  | .capabilityTableBuild ok => Sys2Proof.Machine.execCapabilityTableBuild ok s
  | .registerWrite target size value => Sys2Proof.Machine.execRegisterWrite target size value s
  | .ctailWrite value => Sys2Proof.Machine.execCtailWrite value s
  | .cheadWrite value => Sys2Proof.Machine.execCheadWrite value s
  | .go => Sys2Proof.Machine.execGo s
  | .pageRequestQuarantineClear value => Sys2Proof.Machine.execPageRequestQuarantineClear value s
  | .hdmRegionWrite value => Sys2Proof.Machine.execHdmRegionWrite value s
  | .rst => Sys2Proof.Machine.execRst s
  | .recordFetch => Sys2Proof.Machine.execRecordFetch s
  | .launch => Sys2Proof.Machine.execLaunch s
  | .copyh => Sys2Proof.Machine.execCopyh s
  | .signal => Sys2Proof.Machine.execSignal s
  | .resync => Sys2Proof.Machine.execResync s
  | .feature => Sys2Proof.Machine.execFeature s
  | .recordComplete => Sys2Proof.Machine.execRecordComplete s
  | .mirrorWrite => Sys2Proof.Machine.execMirrorWrite s
  | .functionLevelReset => Sys2Proof.Machine.execFunctionLevelReset s
  | .vfEnableClear => Sys2Proof.Machine.execVfEnableClear s
  | .windowMAccess off len data => Sys2Proof.Machine.execWindowMAccess off len data s
  | .priSuccess => Sys2Proof.Machine.execPriSuccess s
  | .priInvalidRequest => Sys2Proof.Machine.execPriInvalidRequest s
  | .priResponseFailure => Sys2Proof.Machine.execPriResponseFailure s
  | .atsInvalidateRequest page size => Sys2Proof.Machine.execAtsInvalidateRequest page size s
  | .spdmRequest code => Sys2Proof.Machine.execSpdmRequest code s
  | .cxlMemrd mv => Sys2Proof.Machine.execCxlMemrd mv s
  | .cxlMemwr mv data => Sys2Proof.Machine.execCxlMemwr mv data s
  | .birsp shared dirty => Sys2Proof.Machine.execBirsp shared dirty s
  | .biconflict => Sys2Proof.Machine.execBiconflict s
  | .bisnpTimeout => Sys2Proof.Machine.execBisnpTimeout s
  | .hostWrite => Sys2Proof.Machine.execHostWrite s
  | .hostSnoop inval => Sys2Proof.Machine.execHostSnoop inval s
  | .kryasFlitReceive hdr payload crc msgs => Sys2Proof.Machine.execKryasFlitReceive hdr payload crc msgs s
  | .retrain lockLost => Sys2Proof.Machine.execRetrain lockLost s
  | .nonpostedTimeout => Sys2Proof.Machine.execNonpostedTimeout s
  | .peerRequest => Sys2Proof.Machine.execPeerRequest s
  | .peerFlush => Sys2Proof.Machine.execPeerFlush s
  | .rotaSlotStart rota => Sys2Proof.Machine.execRotaSlotStart rota s
  | .rotaMarkerArrival epoch late => Sys2Proof.Machine.execRotaMarkerArrival epoch late s
  | .flitHop => Sys2Proof.Machine.execFlitHop s
  | .tokenWindow => Sys2Proof.Machine.execTokenWindow s
  | .slicePortServe => Sys2Proof.Machine.execSlicePortServe s
  | .postBufferMove => Sys2Proof.Machine.execPostBufferMove s
  | .portQueuePerform => Sys2Proof.Machine.execPortQueuePerform s
  | .l1Eviction => Sys2Proof.Machine.execL1Eviction s
  | .enlist => Sys2Proof.Machine.execEnlist s
  | .poolMerge => Sys2Proof.Machine.execPoolMerge s
  | .issueCycle => Sys2Proof.Machine.execIssueCycle s
  | .slotFill => Sys2Proof.Machine.execSlotFill s
  | .dealTile => Sys2Proof.Machine.execDealTile s
  | .launchComplete => Sys2Proof.Machine.execLaunchComplete s
  | .migrationDeparture => Sys2Proof.Machine.execMigrationDeparture s
  | .stileArrival => Sys2Proof.Machine.execStileArrival s
  | .pagePark => Sys2Proof.Machine.execPagePark s
  | .pageArrival => Sys2Proof.Machine.execPageArrival s
  | .slotSpill => Sys2Proof.Machine.execSlotSpill s
  | .turnEnd => Sys2Proof.Machine.execTurnEnd s
  | .sliceEndBroadcast => Sys2Proof.Machine.execSliceEndBroadcast s
  | .drainAllowanceExpiry => Sys2Proof.Machine.execDrainAllowanceExpiry s
  | .userInterrupt => Sys2Proof.Machine.execUserInterrupt s
  | .remoteBankAnswer => Sys2Proof.Machine.execRemoteBankAnswer s
  | .parkedAccessWake => Sys2Proof.Machine.execParkedAccessWake s
  | .faultQueueRecordAdd => Sys2Proof.Machine.execFaultQueueRecordAdd s
  | .headStore => Sys2Proof.Machine.execHeadStore s
  | .partAccess => Sys2Proof.Machine.execPartAccess s
  | .crierMessage => Sys2Proof.Machine.execCrierMessage s
  | .matrixRecordAccept => Sys2Proof.Machine.execMatrixRecordAccept s
  | .matrixRecordStart => Sys2Proof.Machine.execMatrixRecordStart s
  | .zeroRec => Sys2Proof.Machine.execZeroRec s
  | .ldbRec => Sys2Proof.Machine.execLdbRec s
  | .mmaRec => Sys2Proof.Machine.execMmaRec s
  | .mmasRec => Sys2Proof.Machine.execMmasRec s
  | .drainRec => Sys2Proof.Machine.execDrainRec s
  | .ldaccRec => Sys2Proof.Machine.execLdaccRec s
  | .staccRec => Sys2Proof.Machine.execStaccRec s
  | .waitRec => Sys2Proof.Machine.execWaitRec s
  | .drainWake => Sys2Proof.Machine.execDrainWake s
  | .timelineAdvance => Sys2Proof.Machine.execTimelineAdvance s
  | .copyCommandAccept => Sys2Proof.Machine.execCopyCommandAccept s
  | .copySector => Sys2Proof.Machine.execCopySector s
  | .copyComplete => Sys2Proof.Machine.execCopyComplete s
  | .sfuServe => Sys2Proof.Machine.execSfuServe s
  | .barrierArrivalMessage => Sys2Proof.Machine.execBarrierArrivalMessage s
  | .barrierReleaseMessage => Sys2Proof.Machine.execBarrierReleaseMessage s
  | .queueHomeStep => Sys2Proof.Machine.execQueueHomeStep s
  | .idleLimit => Sys2Proof.Machine.execIdleLimit s
  | .nop f => Sys2Proof.Machine.execNop f s
  | .bra f => Sys2Proof.Machine.execBra f s
  | .brx f => Sys2Proof.Machine.execBrx f s
  | .call f => Sys2Proof.Machine.execCall f s
  | .loop f => Sys2Proof.Machine.execLoop f s
  | .rep f => Sys2Proof.Machine.execRep f s
  | .exit f => Sys2Proof.Machine.execExit f s
  | .kpoint f => Sys2Proof.Machine.execKpoint f s
  | .trap f => Sys2Proof.Machine.execTrap f s
  | .tret f => Sys2Proof.Machine.execTret f s
  | .uien f => Sys2Proof.Machine.execUien f s
  | .add f => Sys2Proof.Machine.execAdd f s
  | .sub f => Sys2Proof.Machine.execSub f s
  | .mul f => Sys2Proof.Machine.execMul f s
  | .mulh f => Sys2Proof.Machine.execMulh f s
  | .mulhu f => Sys2Proof.Machine.execMulhu f s
  | .div f => Sys2Proof.Machine.execDiv f s
  | .divu f => Sys2Proof.Machine.execDivu f s
  | .rem f => Sys2Proof.Machine.execRem f s
  | .remu f => Sys2Proof.Machine.execRemu f s
  | .and f => Sys2Proof.Machine.execAnd f s
  | .or f => Sys2Proof.Machine.execOr f s
  | .xor f => Sys2Proof.Machine.execXor f s
  | .andn f => Sys2Proof.Machine.execAndn f s
  | .shl f => Sys2Proof.Machine.execShl f s
  | .shr f => Sys2Proof.Machine.execShr f s
  | .sar f => Sys2Proof.Machine.execSar f s
  | .rotl f => Sys2Proof.Machine.execRotl f s
  | .clz f => Sys2Proof.Machine.execClz f s
  | .ctz f => Sys2Proof.Machine.execCtz f s
  | .popc f => Sys2Proof.Machine.execPopc f s
  | .brev f => Sys2Proof.Machine.execBrev f s
  | .min f => Sys2Proof.Machine.execMin f s
  | .max f => Sys2Proof.Machine.execMax f s
  | .minu f => Sys2Proof.Machine.execMinu f s
  | .maxu f => Sys2Proof.Machine.execMaxu f s
  | .abs f => Sys2Proof.Machine.execAbs f s
  | .sext f => Sys2Proof.Machine.execSext f s
  | .zext f => Sys2Proof.Machine.execZext f s
  | .bfx f => Sys2Proof.Machine.execBfx f s
  | .bfi f => Sys2Proof.Machine.execBfi f s
  | .mov f => Sys2Proof.Machine.execMov f s
  | .movhi f => Sys2Proof.Machine.execMovhi f s
  | .sel f => Sys2Proof.Machine.execSel f s
  | .addsh f => Sys2Proof.Machine.execAddsh f s
  | .segp f => Sys2Proof.Machine.execSegp f s
  | .mfs f => Sys2Proof.Machine.execMfs f s
  | .mts f => Sys2Proof.Machine.execMts f s
  | .fadd f => Sys2Proof.Machine.execFadd f s
  | .fsub f => Sys2Proof.Machine.execFsub f s
  | .fmul f => Sys2Proof.Machine.execFmul f s
  | .ffma f => Sys2Proof.Machine.execFfma f s
  | .fmin f => Sys2Proof.Machine.execFmin f s
  | .fmax f => Sys2Proof.Machine.execFmax f s
  | .fcvt f => Sys2Proof.Machine.execFcvt f s
  | .cmp f => Sys2Proof.Machine.execCmp f s
  | .cmpu f => Sys2Proof.Machine.execCmpu f s
  | .fcmp f => Sys2Proof.Machine.execFcmp f s
  | .plog f => Sys2Proof.Machine.execPlog f s
  | .pget f => Sys2Proof.Machine.execPget f s
  | .pset f => Sys2Proof.Machine.execPset f s
  | .ld f => Sys2Proof.Machine.execLd f s
  | .st f => Sys2Proof.Machine.execSt f s
  | .ldp f => Sys2Proof.Machine.execLdp f s
  | .stp f => Sys2Proof.Machine.execStp f s
  | .ldacq f => Sys2Proof.Machine.execLdacq f s
  | .strel f => Sys2Proof.Machine.execStrel f s
  | .pref f => Sys2Proof.Machine.execPref f s
  | .tagld f => Sys2Proof.Machine.execTagld f s
  | .tagst f => Sys2Proof.Machine.execTagst f s
  | .tagcas f => Sys2Proof.Machine.execTagcas f s
  | .tblld f => Sys2Proof.Machine.execTblld f s
  | .tswap f => Sys2Proof.Machine.execTswap f s
  | .feget f => Sys2Proof.Machine.execFeget f s
  | .feset f => Sys2Proof.Machine.execFeset f s
  | .feclr f => Sys2Proof.Machine.execFeclr f s
  | .wbk f => Sys2Proof.Machine.execWbk f s
  | .linv f => Sys2Proof.Machine.execLinv f s
  | .atom f => Sys2Proof.Machine.execAtom f s
  | .cas f => Sys2Proof.Machine.execCas f s
  | .cas2 f => Sys2Proof.Machine.execCas2 f s
  | .pool f => Sys2Proof.Machine.execPool f s
  | .poolf f => Sys2Proof.Machine.execPoolf f s
  | .incld f => Sys2Proof.Machine.execIncld f s
  | .incofr f => Sys2Proof.Machine.execIncofr f s
  | .incset f => Sys2Proof.Machine.execIncset f s
  | .fence f => Sys2Proof.Machine.execFence f s
  | .waitc f => Sys2Proof.Machine.execWaitc f s
  | .waittl f => Sys2Proof.Machine.execWaittl f s
  | .tlget f => Sys2Proof.Machine.execTlget f s
  | .tlgetStat f => Sys2Proof.Machine.execTlgetStat f s
  | .barset f => Sys2Proof.Machine.execBarset f s
  | .bararr f => Sys2Proof.Machine.execBararr f s
  | .barwt f => Sys2Proof.Machine.execBarwt f s
  | .boinit f => Sys2Proof.Machine.execBoinit f s
  | .boarr f => Sys2Proof.Machine.execBoarr f s
  | .boexp f => Sys2Proof.Machine.execBoexp f s
  | .bowt f => Sys2Proof.Machine.execBowt f s
  | .qpush f => Sys2Proof.Machine.execQpush f s
  | .qpop f => Sys2Proof.Machine.execQpop f s
  | .mbput f => Sys2Proof.Machine.execMbput f s
  | .mbtake f => Sys2Proof.Machine.execMbtake f s
  | .vadd f => Sys2Proof.Machine.execVadd f s
  | .vsub f => Sys2Proof.Machine.execVsub f s
  | .vmul f => Sys2Proof.Machine.execVmul f s
  | .vfma f => Sys2Proof.Machine.execVfma f s
  | .vmin f => Sys2Proof.Machine.execVmin f s
  | .vmax f => Sys2Proof.Machine.execVmax f s
  | .vabs f => Sys2Proof.Machine.execVabs f s
  | .vand f => Sys2Proof.Machine.execVand f s
  | .vor f => Sys2Proof.Machine.execVor f s
  | .vxor f => Sys2Proof.Machine.execVxor f s
  | .vshl f => Sys2Proof.Machine.execVshl f s
  | .vshr f => Sys2Proof.Machine.execVshr f s
  | .vcvt f => Sys2Proof.Machine.execVcvt f s
  | .vred f => Sys2Proof.Machine.execVred f s
  | .vscan f => Sys2Proof.Machine.execVscan f s
  | .vcmp f => Sys2Proof.Machine.execVcmp f s
  | .vsel f => Sys2Proof.Machine.execVsel f s
  | .vcopy f => Sys2Proof.Machine.execVcopy f s
  | .vfill f => Sys2Proof.Machine.execVfill f s
  | .vgath f => Sys2Proof.Machine.execVgath f s
  | .vscat f => Sys2Proof.Machine.execVscat f s
  | .sfn f => Sys2Proof.Machine.execSfn f s
  | .vsfn f => Sys2Proof.Machine.execVsfn f s
  | .tld f => Sys2Proof.Machine.execTld f s
  | .tst f => Sys2Proof.Machine.execTst f s
  | .thdr f => Sys2Proof.Machine.execThdr f s
  | .thset f => Sys2Proof.Machine.execThset f s
  | .tchk f => Sys2Proof.Machine.execTchk f s
  | .tcvt f => Sys2Proof.Machine.execTcvt f s
  | .tqnt f => Sys2Proof.Machine.execTqnt f s
  | .tenc f => Sys2Proof.Machine.execTenc f s
  | .tadd f => Sys2Proof.Machine.execTadd f s
  | .tmul f => Sys2Proof.Machine.execTmul f s
  | .tfma f => Sys2Proof.Machine.execTfma f s
  | .tmax f => Sys2Proof.Machine.execTmax f s
  | .ttrn f => Sys2Proof.Machine.execTtrn f s
  | .tzero f => Sys2Proof.Machine.execTzero f s
  | .mxa f => Sys2Proof.Machine.execMxa f s
  | .mxb f => Sys2Proof.Machine.execMxb f s
  | .mxown f => Sys2Proof.Machine.execMxown f s
  | .mxspill f => Sys2Proof.Machine.execMxspill f s
  | .mxfill f => Sys2Proof.Machine.execMxfill f s
  | .cpy f => Sys2Proof.Machine.execCpy f s
  | .cpys f => Sys2Proof.Machine.execCpys f s
  | .cpym f => Sys2Proof.Machine.execCpym f s
  | .cpyt f => Sys2Proof.Machine.execCpyt f s
  | .cpyg f => Sys2Proof.Machine.execCpyg f s
  | .cpyx f => Sys2Proof.Machine.execCpyx f s
  | .cpya f => Sys2Proof.Machine.execCpya f s
  | .spawn f => Sys2Proof.Machine.execSpawn f s
  | .spawnb f => Sys2Proof.Machine.execSpawnb f s
  | .bound f => Sys2Proof.Machine.execBound f s
  | .roam f => Sys2Proof.Machine.execRoam f s
  | .migr f => Sys2Proof.Machine.execMigr f s
  | .wake f => Sys2Proof.Machine.execWake f s
  | .dadd f => Sys2Proof.Machine.execDadd f s
  | .dsub f => Sys2Proof.Machine.execDsub f s
  | .dmul f => Sys2Proof.Machine.execDmul f s
  | .dfma f => Sys2Proof.Machine.execDfma f s
  | .ddiv f => Sys2Proof.Machine.execDdiv f s
  | .dsqrt f => Sys2Proof.Machine.execDsqrt f s
  | .dcvt f => Sys2Proof.Machine.execDcvt f s
  | .dcmp f => Sys2Proof.Machine.execDcmp f s
  | .spill f => Sys2Proof.Machine.execSpill f s
  | .resto f => Sys2Proof.Machine.execResto f s
  | .restoFrame f => Sys2Proof.Machine.execRestoFrame f s
  | .rgnopCreate f => Sys2Proof.Machine.execRgnopCreate f s
  | .rgnopResize f => Sys2Proof.Machine.execRgnopResize f s
  | .rgnopFreeze f => Sys2Proof.Machine.execRgnopFreeze f s
  | .rgnopThaw f => Sys2Proof.Machine.execRgnopThaw f s
  | .rgnopDestroy f => Sys2Proof.Machine.execRgnopDestroy f s
  | .rgnopSlice f => Sys2Proof.Machine.execRgnopSlice f s
  | .keyset f => Sys2Proof.Machine.execKeyset f s
  | .keysetClear f => Sys2Proof.Machine.execKeysetClear f s
  | .tlbinv f => Sys2Proof.Machine.execTlbinv f s
  | .rota f => Sys2Proof.Machine.execRota f s
  | .rotaCtl f => Sys2Proof.Machine.execRotaCtl f s
  | .scall f => Sys2Proof.Machine.execScall f s
  | .sret f => Sys2Proof.Machine.execSret f s
  | .idle f => Sys2Proof.Machine.execIdle f s
  | .pgverArm f => Sys2Proof.Machine.execPgverArm f s
  | .pgverRead f => Sys2Proof.Machine.execPgverRead f s
  | .pgverCommit f => Sys2Proof.Machine.execPgverCommit f s
  | .pgverFree f => Sys2Proof.Machine.execPgverFree f s
  | .hostCompletion status data => Sys2Proof.Machine.execHostCompletion status data s
  | .configSpaceWrite bit value => Sys2Proof.Machine.execConfigSpaceWrite bit value s
  | .linkTrainingDone result peer => Sys2Proof.Machine.execLinkTrainingDone result peer s
  | .hostPortLinkUp width rate => Sys2Proof.Machine.execHostPortLinkUp width rate s
  | .hostRegisterRead winB off size => Sys2Proof.Machine.execHostRegisterRead winB off size s

end Sys2Proof.Machine
end

