-- ==== Sys2Proof/Machine/Turns.lean ====
section
/-! DEFINITION. What may happen next when the environment names no step: the steps by which the part's own work goes on (R253),
listed with the places where they can happen. A step that cannot happen in the present state is passed over. -/

namespace Sys2Proof.Machine

/-- Steps at the positions of a list. -/
def eachPos (ev : Instr) (unit sub n : Nat) : List Turn := (List.range n).map fun i => ⟨ev, ⟨unit, sub, i⟩⟩

/-- A step at a core or unit and its slot or part. -/
def turn (ev : Instr) (unit sub pos : Nat) : Turn := ⟨ev, ⟨unit, sub, pos⟩⟩

/-- The next step of the power-on sequence (R19) or of a start (R85), when the part's checks succeed. -/
def State.startTurns (s : State) : List Turn :=
  match s.pw.seq with
  | .idle => []
  | .boot => [turn (.ranborBoot true) 0 0 0]
  | .rising => [turn .railWithinTolerance 0 0 0]
  | .done =>
    if s.st.state ≠ .running then []
    else
      match s.st.step with
      | 1 => [turn (.pllLock true) 0 0 0]
      | 2 => [turn (.bridgeTraining true) 0 0 0]
      | 3 => [turn (.dramTraining true) 0 0 0]
      | 4 => [turn (.fullScrub true) 0 0 0]
      | 5 => [turn (.phyEqualisation []) 0 0 0]
      | 6 => [turn (.firmwareVerification true true 0 0) 0 0 0, turn .fwgoTimeout 0 0 0]
      | 7 => [turn .startReset 0 0 0]
      | _ => [turn (.capabilityTableBuild true) 0 0 0]

/-- Steps of accesses on their way (R253-R257, R313, R101). -/
def State.accessTurns (s : State) : List Turn :=
  (s.mm.accs.map fun (i, _) => turn .remoteBankAnswer 0 0 i) ++
  (s.co.slots.flatMap fun (k, v) => eachPos .postBufferMove (k / 16) (k % 16) v.post.length) ++
  (s.mm.portq.flatMap fun (k, l) => eachPos .portQueuePerform k 0 l.length) ++
  eachPos .hostWrite 0 0 (s.hi.writes.length + s.hi.reads.length) ++
  (s.mm.pools.flatMap fun (k, l) => eachPos .poolMerge k 0 l.length ++ eachPos .enlist k 0 l.length) ++
  eachPos .peerRequest 0 0 s.net.peerReqs.length ++ eachPos .peerFlush 0 0 s.net.peerReqs.length ++
  (s.hd.tokenQ.map fun q => turn .slicePortServe q.slice 0 0)

/-- The windows of the slices at which something waits for a token (R101). -/
def State.tokenTurns (s : State) : List Turn := s.hd.tokenQ.map fun q => turn .tokenWindow q.slice 0 0

/-- Slots of the host ports while messages wait there (R39). -/
def State.portTurns (s : State) : List Turn :=
  ([0, 1].filter fun p => s.portUp p && s.hi.out.any fun m => m.msg.port = p).map fun p => turn (.rotaSlotStart (.host p)) 0 0 0

/-- Steps of the mesh's flits: a flit on its way arrives, and one at a router waits for a slot of its output (R39, R42). -/
def State.meshTurns (s : State) : List Turn :=
  s.net.flits.zipIdx.map fun (f, i) => if f.moving then turn .flitHop 0 0 i else turn (.rotaSlotStart (.mesh f.here f.out)) 0 0 0

/-- Steps of threads that leave, wait or are on their way (R133-R139, R183, R191, R468). -/
def State.slotTurns (s : State) : List Turn :=
  s.co.slots.flatMap fun (k, v) =>
    let c := k / 16
    let n := k % 16
    (match v.leave with
     | .migrate .. => [turn .migrationDeparture c n 0]
     | .page .. => [turn .pagePark c n 0]
     | .spill => [turn .slotSpill c n 0]
     | _ => []) ++
    (if v.park.isSome then [turn .parkedAccessWake c n 0] else []) ++
    (if v.loading.isSome then [turn .slotFill c n 0] else []) ++
    (if v.drainBy.isSome then [turn .drainAllowanceExpiry c n 0] else []) ++
    (if v.idling then [turn .idleLimit c n 0] else [])

/-- Fills of the slots of a core (R126). -/
def fillTurns (core : Nat) : List Turn := (List.range 16).map fun k => turn .slotFill core k 0

/-- Steps of the scheduler (R113, R121-R126, R134, R139, R152, R290, R487). -/
def State.schedTurns (s : State) : List Turn :=
  eachPos .pageArrival 0 0 (s.hi.arrived.length + s.hi.stops.length) ++
  eachPos .stileArrival 0 0 s.sc.flight.length ++
  (s.hd.ended.map fun (h, c) => turn .sliceEndBroadcast c h 0) ++
  (if s.ringed then [turn .turnEnd 0 0 0] else []) ++
  eachPos .partAccess 0 0 s.sc.parts.length ++
  eachPos .faultQueueRecordAdd 0 0 s.sc.faults.length ++
  (match s.sc.crier with
   | [] => []
   | m :: _ => ((m.seen.length :: List.range 2048).find? fun k => k < 2048 && !m.seen.contains k).toList.map fun k => turn .crierMessage k 0 0) ++
  eachPos .queueHomeStep 0 0 s.sc.qreqs.length ++
  eachPos .barrierArrivalMessage 0 0 s.co.barMsg.length ++ eachPos .barrierReleaseMessage 0 0 s.co.barMsg.length ++
  eachPos .drainWake 0 0 s.en.wakes.length ++
  (s.sc.launches.map fun l => turn .dealTile 0 0 l.id) ++
  (s.sc.launches.map fun l => turn .launchComplete 0 0 l.id) ++
  (((s.sc.disp.map fun d => d.core) ++ (s.sc.resume.map fun e => e.unit) ++
    (s.sc.stile ++ s.sc.search).flatMap fun e => (List.range 4).map (coreOf e.unit)).eraseDups.flatMap fillTurns)

/-- Steps of the engines (R269-R298, R439). -/
def State.engineTurns (s : State) : List Turn :=
  (s.en.sfu.map fun (k, _) => turn .sfuServe k 0 0) ++
  (s.en.copy.flatMap fun (k, _) =>
    [turn .copySector (k / 4) (k % 4) 0, turn .copyComplete (k / 4) (k % 4) 0, turn .copyCommandAccept (k / 4) (k % 4) 0,
     turn .timelineAdvance (k / 4) (k % 4) 0]) ++
  (s.en.mx.flatMap fun (k, c) =>
    (([.zeroRec, .ldbRec, .mmaRec, .mmasRec, .drainRec, .ldaccRec, .staccRec, .waitRec] : List Instr).flatMap fun e =>
      eachPos e (k / 4) (k % 4) (c.queue.filter fun r => r.running).length) ++
    [turn .matrixRecordAccept (k / 4) (k % 4) 0, turn .matrixRecordStart (k / 4) (k % 4) 0, turn .timelineAdvance (k / 4) (k % 4) 1])

/-- Steps of the host chains (R75-R80) and of resets that wait for threads to leave (R115, R116). -/
def State.chainTurns (s : State) : List Turn :=
  (s.hi.fns.flatMap fun (n, f) =>
    (f.chain.recs.flatMap fun r =>
      [turn (match r.type with | 1 => .launch | 2 => .copyh | 3 => .signal | 4 => .resync | _ => .feature) n 0 r.num,
       turn .recordComplete n 0 r.num]) ++
    [turn .mirrorWrite n 0 0, turn .recordFetch n 0 0]) ++
  s.hd.tab.flatMap fun (h, v) =>
    match v.reset with
    | 0 => []
    | 1 | 4 => [turn .functionLevelReset h 0 0]
    | _ => [turn .vfEnableClear 0 h 0]

/-- The part's own steps, in the order in which they are tried. -/
def State.turns (s : State) : List Turn :=
  s.startTurns ++ s.accessTurns ++ s.portTurns ++ s.engineTurns ++ s.slotTurns ++ s.schedTurns ++ s.chainTurns ++ s.tokenTurns ++ s.meshTurns

/-- The core that is furthest behind among those that hold a thread; core 0 when none does. -/
def State.nextCore (s : State) : Nat :=
  match ((s.co.slots.filter fun (_, v) => v.thr.isSome).map fun (k, _) => k / 16) with
  | [] => 0
  | c :: l => l.foldl (fun b x => if s.cyc x < s.cyc b then x else b) c

/-- The barrel runs: the rails are up. -/
def State.running (s : State) : Bool := s.pw.seq = .done && 4 ≤ s.pw.rails

/-! ### Placing one instruction -/

/-- A descriptor that lets its holder fetch from MVA 0 on (R193). -/
def fetchDesc : BitVec 128 := BitVec.ofNat 128 (2 ^ 125 + 0xFFFF * 2 ^ 64)

/-- The start is over: holding 0 has the block that step 7 gives it (R481), if no start has created it yet. -/
def State.started (s : State) : State :=
  if s.live 0 then s
  else { s with
    st := { s.st with state := .done, step := 8 }
    pw := { s.pw with mode := .run, clock := 850 }
    hd := { s.hd with tab := Tab.set {} s.hd.tab 0 { st := .active, words := rootBlock } } }

/-- Where the placed instruction is fetched: the thread as it is, when its PC names memory, else at offset 0 of segment 1. -/
def State.fetchHome (s : State) (core slot : Nat) (t : Thread) : Thread × Nat :=
  match s.reach ⟨core, slot, t.hold, t.rgn, t.launch, t.sg, t.stkc, t.sovf⟩ (refOf t.pc 0) 12 4 { x := true } with
  | .ok (.mva m) => (t, m)
  | _ => ({ t with pc := 2 ^ 61, sg := Tab.set 0 t.sg 1 fetchDesc }, 0)

/-- One instruction word is the next that step fetches: a thread (a sprig of root where there was none) stands in the slot whose issue slot is open, and the core's
instruction buffer holds the word at its PC. -/
def State.place (s : State) (w : BitVec 96) : State :=
  let s := s.started
  let p := s.ctl.here
  let (core, slot) := if (s.slotAt p.unit p.sub).thr.isSome then (p.unit, p.sub) else (0, 0)
  let v := s.slotAt core slot
  let (t, m) := s.fetchHome core slot { v.thr.getD { root := true } with rep := none }
  let s := s.setSlotAt core slot { v with thr := some t, leave := .stay, late := [], sfu := false, uipend := 0, carve := none }
  { s with
    co := { s.co with ibuf := Tab.set [] s.co.ibuf core [⟨t.hold, m, w⟩] }
    ctl := { s.ctl with here := ⟨core, slot, 0⟩, issue := true, choices := 0 :: s.ctl.choices } }

end Sys2Proof.Machine
end

