-- ==== Sys2Proof/Machine/Step.lean ====
section
/-! DEFINITION. One step of the part: the instruction of an open issue slot, else the step that the environment names next, else
a step of the part's own work, else a cycle of a core. -/

namespace Sys2Proof.Machine

/-- A step happens at its place. -/
def State.at_ (s : State) (p : Place) : State := { s with ctl := { s.ctl with here := p } }

/-- The first of some steps that can happen and changes something. -/
def State.firstTurn (s : State) (l : List Turn) : Option State :=
  l.findSome? fun t =>
    match exec t.ev (s.at_ t.at_) with
    | .next s' => if s' = s.at_ t.at_ then none else some s'
    | _ => none

/-- What happens when the environment names no step: the part's own work goes on, then a core runs a cycle. With the rails down
nothing happens. -/
def State.idleStep (s : State) : Host.Outcome State Fault Refusal :=
  match s.firstTurn s.turns with
  | some s' => .next s'
  | none => if s.running then exec .issueCycle (s.at_ ⟨s.nextCore, 0, 0⟩) else .next s

/-- One step. -/
def step (s : State) : Host.Outcome State Fault Refusal :=
  if s.ctl.issue then
    match nextIssue { s with ctl := { s.ctl with issue := false } } with
    | .run i s => exec i s
    | .done s => .next s
  else
    match s.ctl.agenda with
    | t :: rest =>
      if t.ev.isWord then .fault .notEnabled
      else exec t.ev { s with ctl := { s.ctl with agenda := rest, here := t.at_ } }
    | [] => s.idleStep

/-- The state with an instruction placed where the next step fetches it. -/
def State.withFetchWord (s : State) (nbits w : Nat) : State := s.place (BitVec.ofNat 96 (w % 2 ^ nbits))

end Sys2Proof.Machine
end

