-- ==== Sys2Proof/Safety.lean ====
section
/-! DEFINITION. The terms in which claims about the part are stated: when an instruction runs in its slot, the state in which
it completes, what a byte of memory reads, and the invariants of the power unit and of the memories. -/

namespace Sys2Proof.Machine

/-! ### When an instruction runs, and how it ends -/

/-- Every queue that an instruction names as an operand is owned by the holding, holds the entries that it pops and has room
for those that it pushes (R186, R326). -/
def queuesFree (s : State) (opc : Nat) (f : Fields) : Bool :=
  (([f.d, f.a, f.b].filter fun o => o.cls = .Q).map fun o => o.idx.toNat).all fun q =>
    s.qOwned s.core s.thr.hold q &&
    !(s.heldElse (useKeys q (qUse opc f q).1 (qUse opc f q).2) || decide (qHead (s.qIn s.core s.thr.hold q) < (qUse opc f q).1) ||
      (decide (0 < (qUse opc f q).2) &&
        decide (qCap q < (s.qOut s.core s.thr.hold q).length + (qUse opc f q).2 - (if q < 4 then (qUse opc f q).1 else 0))))

/-- The instruction runs in the slot of the present step: the slot has a thread, the encoding is valid in its mode (R316), the
guard holds (R306), the mode allows it (R315), its slot and core may run it (R135, R315), the slot is ready (R128), and no other slot holds the
vector unit (R406). -/
def ready (i : Instr) (s : State) : Bool :=
  match encOf i, s.slot.thr with
  | some (opc, f, sh), some t =>
    !illopOf i && (illopdOf (t.s || t.h) i).isNone && (t.prd f.grd.toNat != f.neg) && !privBad i t &&
    !(isCopy opc && decide (s.slotNo ≠ s.hmovs t.hold)) && !(needsFp64 opc f && decide (coreNo s.core ≠ 0)) &&
    slotReady s.slot t.s opc f sh && !(onUnit opc && s.unitHeld) && (decide (opc = 0) || queuesFree s opc f)
  | _, _ => false

/-- The state after an instruction with effect `s` has completed at a core: its thread goes on at the next instruction, YLD marks
the slot (R307), and a cycle of the core ends (R127). -/
def State.finish (s : State) (f : Fields) (core : Nat) : State :=
  (s.modSlot fun v => { v.done f.yld with thr := v.thr.map Thread.advance }).endCycle core

/-- The same, with the thread going on at a PC of the instruction's own. -/
def State.finishAt (s : State) (f : Fields) (core : Nat) (pc : Word) : State :=
  (s.modSlot fun v => { v.done f.yld with thr := v.thr.map fun t => { t with pc := pc } }).endCycle core

/-- The instruction answers a next state: its effect is `e`, and the thread goes on after it. The power unit stays as it was
(R10). -/
def Completes (i : Instr) (f : Fields) (s e : State) : Prop := exec i s = .next { e.finish f s.core with pw := s.pw }

/-- The instruction answers a next state: its effect is `e`, and the thread goes on at `pc`. -/
def Jumps (i : Instr) (f : Fields) (s e : State) (pc : Word) : Prop :=
  exec i s = .next { e.finishAt f s.core pc with pw := s.pw }

/-- The instruction answers a next state in which a cause has been taken in state `e` (R140, R165). -/
def Takes (i : Instr) (s : State) (c : Cause) (e : State) : Prop := exec i s = .next { (e.take c).endCycle s.core with pw := s.pw }

/-- An event answers the next state `e`, with the power unit as it was (R10). -/
def Happens (i : Instr) (s e : State) : Prop := exec i s = .next { e with pw := s.pw }

/-! ### What memory reads -/

/-- A byte of device memory where it stands: in the registrant's copy of its word (R209), else in the slice that holds its line, else
in its vault (R206); pool entries that wait to be merged are not in it. -/
def State.memByte (s : State) (pa : Nat) : Byte :=
  match s.mm.home.find? fun (k, _) => k % wordSpan = pa / 8 with
  | some (_, .reg c) => (s.l1 c (pa / 8)).elim 0 fun l => (leBytes 8 l.val.toNat).getD (pa % 8) 0
  | _ =>
    match s.mm.l2.find? fun (k, _) => k % lineSpan = pa / 128 with
    | some (_, some v) => v.data.getD (pa % 128) 0
    | _ => Tab.get 0 s.mm.dram pa

/-- A byte of a core's banks by its physical offset (R173). -/
def State.bankByte (s : State) (core phys : Nat) : Byte := Tab.get 0 s.co.spad (spadKey core phys)

/-- Every byte of device memory and of every core's banks reads as before. -/
def SameMemory (s t : State) : Prop := (∀ pa, t.memByte pa = s.memByte pa) ∧ ∀ core phys, t.bankByte core phys = s.bankByte core phys

/-- The special registers of a thread, the registers that an exception saves into and the segment descriptors (R161): all of its
state but PC, REPC and its repeat, predicates, G and h registers, %rng and whether it roams. -/
def SameSpecials (a b : Thread) : Prop :=
  b.bnd = a.bnd ∧ b.bound = a.bound ∧ b.s = a.s ∧ b.h = a.h ∧ b.fpm = a.fpm ∧ b.uimask = a.uimask ∧ b.utvec = a.utvec ∧
  b.stkc = a.stkc ∧ b.sovf = a.sovf ∧ b.tpc = a.tpc ∧ b.tcause = a.tcause ∧ b.taddr = a.taddr ∧ b.spc = a.spc ∧
  b.scause = a.scause ∧ b.saddr = a.saddr ∧ b.sg = a.sg ∧ b.hold = a.hold ∧ b.rgn = a.rgn ∧ b.frame = a.frame ∧
  b.ctxid = a.ctxid ∧ b.tile = a.tile ∧ b.grid = a.grid ∧ b.root = a.root ∧ b.launch = a.launch

/-! ### Invariants -/

/-- The power unit is in a state that R10, R11, R19 and R20 allow: the clock stopped, or between its floor and its top in steps of
50 MHz, and stopped with the rails not up; the limit in its range, RUN at full clock and CAP below it, the rails up exactly when the
sequence is done, the module off exactly without standby power, and a sequence exactly while VAUX, PWR_EN and MOD_RST# are all there. -/
def PowerOk (p : Power) : Prop :=
  (p.clock = 0 ∨ (400 ≤ p.clock ∧ p.clock ≤ 850 ∧ p.clock % 50 = 0)) ∧ 4000 ≤ p.limit ∧ p.limit ≤ 10000 ∧
  (p.mode = .run → p.clock = 850) ∧ (p.mode = .cap → p.clock < 850) ∧
  (p.seq = .done → p.rails = 4 ∧ p.pgood = true) ∧ (p.seq = .rising → p.rails < 4 ∧ p.pgood = false) ∧
  (p.seq = .boot ∨ p.seq = .idle → p.rails = 0 ∧ p.pgood = false) ∧
  (p.seq ≠ .done → p.clock = 0 ∧ (p.mode = .stby ∨ p.mode = .off)) ∧
  (p.vaux = false ↔ p.mode = .off) ∧ (p.seq = .idle ↔ ¬(p.vaux = true ∧ p.pwrEn = true ∧ p.modRst = true))

/-- The tables that hold the bytes, tags, poison and errors of the memories are in their one canonical form. -/
def State.memWf (s : State) : Bool :=
  Tab.wf 0 s.mm.dram && Tab.wf false s.mm.poison && Tab.wf none s.mm.l2 && Tab.wf 0 s.co.spad && Tab.wf false s.co.poison && Tab.wf 0 s.co.tag &&
  Tab.wf false s.co.fe && Tab.wf 0 s.co.treg && Tab.wf false s.mm.ecc && Tab.wf false s.co.ecc

/-- The instruction is an event by which the Ranbor controller drives the power unit: the signals and rails of R10 and R17 to R21,
the measurements of R11 and R14, and the first and the last step of the start (R85). -/
def powerEvent (i : Instr) : Bool :=
  match i with
  | .vauxPresent | .vauxAbsent | .pwrEnHigh | .pwrEnLow | .modRstFall | .modRstRise .. | .ranborBoot _ | .railWithinTolerance
  | .railFault | .pllLock _ | .powerMeasurement _ | .temperatureMeasurement _ | .capabilityTableBuild _ => true
  | _ => false

end Sys2Proof.Machine
end

