-- ==== Sys2Proof/Laws/Tab.lean ====
section
/-! SUPPORT. The laws of sparse tables: reading after writing, and that every write keeps the canonical form. -/

namespace Sys2Proof

theorem Tab.get_del_same {α : Type} (d : α) (t : Tab α) (k : Nat) : Tab.get d (Tab.del t k) k = d := by
  induction t with
  | nil => rfl
  | cons p t ih =>
    obtain ⟨k', v⟩ := p
    simp only [Tab.del]
    split
    · exact ih
    · simp only [Tab.get, ih]; simp [*]

theorem Tab.get_del_other {α : Type} (d : α) (t : Tab α) {k j : Nat} (h : j ≠ k) : Tab.get d (Tab.del t k) j = Tab.get d t j := by
  induction t with
  | nil => rfl
  | cons p t ih =>
    obtain ⟨k', v⟩ := p
    simp only [Tab.del]
    split
    · next e => subst e; simp only [Tab.get, ih, if_neg (Ne.symm h)]
    · simp only [Tab.get, ih]

theorem Tab.get_put_same {α : Type} (d : α) (t : Tab α) (k : Nat) (v : α) : Tab.get d (Tab.put t k v) k = v := by
  induction t with
  | nil => simp [Tab.put, Tab.get]
  | cons p t ih =>
    obtain ⟨k', v'⟩ := p
    simp only [Tab.put]
    split
    · simp [Tab.get]
    · split
      · simp [Tab.get]
      · simp only [Tab.get, ih]; simp [*]

theorem Tab.get_put_other {α : Type} (d : α) (t : Tab α) {k j : Nat} (v : α) (h : j ≠ k) :
    Tab.get d (Tab.put t k v) j = Tab.get d t j := by
  induction t with
  | nil => simp [Tab.put, Tab.get, Ne.symm h]
  | cons p t ih =>
    obtain ⟨k', v'⟩ := p
    simp only [Tab.put]
    split
    · next e => subst e; simp only [Tab.get, if_neg (Ne.symm h)]
    · split
      · simp only [Tab.get, if_neg (Ne.symm h)]
      · simp only [Tab.get, ih]

/-- Reading a table at the key just written. -/
@[simp] theorem Tab.get_set_same {α : Type} [DecidableEq α] (d : α) (t : Tab α) (k : Nat) (v : α) :
    Tab.get d (Tab.set d t k v) k = v := by
  unfold Tab.set
  split
  · next e => rw [Tab.get_del_same, e]
  · exact Tab.get_put_same d t k v

/-- Reading a table at another key than the one just written. -/
theorem Tab.get_set_other {α : Type} [DecidableEq α] (d : α) (t : Tab α) {k j : Nat} (v : α) (h : j ≠ k) :
    Tab.get d (Tab.set d t k v) j = Tab.get d t j := by
  unfold Tab.set
  split
  · exact Tab.get_del_other d t h
  · exact Tab.get_put_other d t v h

theorem Tab.above_mono {α : Type} {m n : Nat} {t : Tab α} (h : m ≤ n) (ht : Tab.above n t = true) : Tab.above m t = true := by
  induction t with
  | nil => rfl
  | cons p t ih =>
    obtain ⟨k, v⟩ := p
    simp only [Tab.above, Bool.and_eq_true, decide_eq_true_eq] at *
    exact ⟨by omega, ih ht.2⟩

theorem Tab.above_del {α : Type} {n : Nat} {t : Tab α} (k : Nat) (ht : Tab.above n t = true) : Tab.above n (Tab.del t k) = true := by
  induction t with
  | nil => rfl
  | cons p t ih =>
    obtain ⟨k', v⟩ := p
    simp only [Tab.above, Bool.and_eq_true, decide_eq_true_eq, Tab.del] at *
    split
    · exact ih ht.2
    · simp only [Tab.above, Bool.and_eq_true, decide_eq_true_eq]; exact ⟨ht.1, ih ht.2⟩

theorem Tab.above_put {α : Type} {n k : Nat} {t : Tab α} (v : α) (hk : n < k) (ht : Tab.above n t = true) :
    Tab.above n (Tab.put t k v) = true := by
  induction t with
  | nil => simp [Tab.put, Tab.above, hk]
  | cons p t ih =>
    obtain ⟨k', v'⟩ := p
    simp only [Tab.above, Bool.and_eq_true, decide_eq_true_eq, Tab.put] at *
    split
    · simp only [Tab.above, Bool.and_eq_true, decide_eq_true_eq]; exact ⟨hk, ht.2⟩
    · split
      · simp only [Tab.above, Bool.and_eq_true, decide_eq_true_eq]; exact ⟨hk, ht.1, ht.2⟩
      · simp only [Tab.above, Bool.and_eq_true, decide_eq_true_eq]; exact ⟨ht.1, ih ht.2⟩

theorem Tab.wf_del {α : Type} [DecidableEq α] (d : α) {t : Tab α} (k : Nat) (ht : Tab.wf d t = true) : Tab.wf d (Tab.del t k) = true := by
  induction t with
  | nil => rfl
  | cons p t ih =>
    obtain ⟨k', v⟩ := p
    simp only [Tab.wf, Bool.and_eq_true, Tab.del] at *
    split
    · exact ih ht.2
    · simp only [Tab.wf, Bool.and_eq_true]; exact ⟨⟨ht.1.1, Tab.above_del k ht.1.2⟩, ih ht.2⟩

theorem Tab.wf_put {α : Type} [DecidableEq α] (d : α) {t : Tab α} (k : Nat) {v : α} (hv : v ≠ d) (ht : Tab.wf d t = true) :
    Tab.wf d (Tab.put t k v) = true := by
  induction t with
  | nil => simp [Tab.put, Tab.wf, Tab.above, hv]
  | cons p t ih =>
    obtain ⟨k', v'⟩ := p
    simp only [Tab.wf, Bool.and_eq_true, Tab.put] at *
    split
    · next e => subst e; simp only [Tab.wf, Bool.and_eq_true]; exact ⟨⟨by simp [hv], ht.1.2⟩, ht.2⟩
    · split
      · next h =>
        simp only [Tab.wf, Tab.above, Bool.and_eq_true, decide_eq_true_eq]
        exact ⟨⟨by simp [hv], h, Tab.above_mono (Nat.le_of_lt h) ht.1.2⟩, ht⟩
      · simp only [Tab.wf, Bool.and_eq_true]; exact ⟨⟨ht.1.1, Tab.above_put v (by omega) ht.1.2⟩, ih ht.2⟩

/-- Every write keeps the canonical form. -/
theorem Tab.wf_set {α : Type} [DecidableEq α] (d : α) {t : Tab α} (k : Nat) (v : α) (ht : Tab.wf d t = true) :
    Tab.wf d (Tab.set d t k v) = true := by
  unfold Tab.set
  split
  · exact Tab.wf_del d k ht
  · next h => exact Tab.wf_put d k h ht

namespace Machine

/-- Writing bytes keeps the canonical form. -/
theorem Tab_wf_setBytes {t : Tab Byte} (a : Nat) (bs : List Byte) (ht : Tab.wf 0 t = true) : Tab.wf 0 (Tab.setBytes t a bs) = true := by
  induction bs generalizing t a with
  | nil => exact ht
  | cons b bs ih => exact ih _ (Tab.wf_set 0 a b ht)

theorem Tab_get_setBytes_lt {t : Tab Byte} {a j : Nat} (bs : List Byte) (h : j < a) : Tab.get 0 (Tab.setBytes t a bs) j = Tab.get 0 t j := by
  induction bs generalizing t a with
  | nil => rfl
  | cons b bs ih =>
    rw [Tab.setBytes, ih (by omega), Tab.get_set_other 0 t b (by omega)]

/-- Reading a byte after bytes were written at consecutive addresses. -/
theorem Tab_get_setBytes {t : Tab Byte} (a : Nat) (bs : List Byte) (j : Nat) :
    Tab.get 0 (Tab.setBytes t a bs) j = if a ≤ j ∧ j < a + bs.length then bs.getD (j - a) 0 else Tab.get 0 t j := by
  induction bs generalizing t a with
  | nil =>
    have : ¬ (a ≤ j ∧ j < a + ([] : List Byte).length) := by simp
    rw [if_neg this]; rfl
  | cons b bs ih =>
    by_cases h1 : j = a
    · subst h1
      rw [Tab.setBytes, Tab_get_setBytes_lt bs (Nat.lt_succ_self j), Tab.get_set_same]
      simp
    · rw [Tab.setBytes, ih, Tab.get_set_other 0 t b h1]
      by_cases h2 : a ≤ j ∧ j < a + (b :: bs).length
      · have h3 : a + 1 ≤ j ∧ j < a + 1 + bs.length := by simp at h2; omega
        rw [if_pos h2, if_pos h3]
        have : j - a = (j - (a + 1)) + 1 := by omega
        rw [this]; simp
      · have h3 : ¬ (a + 1 ≤ j ∧ j < a + 1 + bs.length) := by simp at h2; omega
        rw [if_neg h2, if_neg h3]

end Machine
end Sys2Proof
end

