-- ==== Sys2Proof/Laws/State.lean ====
section
/-! SUPPORT. One lemma for each field and each update of the state: what an update of one part leaves alone. -/

namespace Sys2Proof.Machine

/-! ### Updates of the state -/

@[simp] theorem State.setSlotAt_pw (s : State) (core slot : Nat) (v : Slot) : (s.setSlotAt core slot v).pw = s.pw := rfl
@[simp] theorem State.setSlotAt_st (s : State) (core slot : Nat) (v : Slot) : (s.setSlotAt core slot v).st = s.st := rfl
@[simp] theorem State.setSlotAt_net (s : State) (core slot : Nat) (v : Slot) : (s.setSlotAt core slot v).net = s.net := rfl
@[simp] theorem State.setSlotAt_hi (s : State) (core slot : Nat) (v : Slot) : (s.setSlotAt core slot v).hi = s.hi := rfl
@[simp] theorem State.setSlotAt_hd (s : State) (core slot : Nat) (v : Slot) : (s.setSlotAt core slot v).hd = s.hd := rfl
@[simp] theorem State.setSlotAt_mm (s : State) (core slot : Nat) (v : Slot) : (s.setSlotAt core slot v).mm = s.mm := rfl
@[simp] theorem State.setSlotAt_sc (s : State) (core slot : Nat) (v : Slot) : (s.setSlotAt core slot v).sc = s.sc := rfl
@[simp] theorem State.setSlotAt_en (s : State) (core slot : Nat) (v : Slot) : (s.setSlotAt core slot v).en = s.en := rfl
@[simp] theorem State.setSlotAt_ctl (s : State) (core slot : Nat) (v : Slot) : (s.setSlotAt core slot v).ctl = s.ctl := rfl

@[simp] theorem State.modSlotAt_pw (s : State) (core slot : Nat) (f : Slot → Slot) : (s.modSlotAt core slot f).pw = s.pw := rfl
@[simp] theorem State.modSlotAt_st (s : State) (core slot : Nat) (f : Slot → Slot) : (s.modSlotAt core slot f).st = s.st := rfl
@[simp] theorem State.modSlotAt_net (s : State) (core slot : Nat) (f : Slot → Slot) : (s.modSlotAt core slot f).net = s.net := rfl
@[simp] theorem State.modSlotAt_hi (s : State) (core slot : Nat) (f : Slot → Slot) : (s.modSlotAt core slot f).hi = s.hi := rfl
@[simp] theorem State.modSlotAt_hd (s : State) (core slot : Nat) (f : Slot → Slot) : (s.modSlotAt core slot f).hd = s.hd := rfl
@[simp] theorem State.modSlotAt_mm (s : State) (core slot : Nat) (f : Slot → Slot) : (s.modSlotAt core slot f).mm = s.mm := rfl
@[simp] theorem State.modSlotAt_sc (s : State) (core slot : Nat) (f : Slot → Slot) : (s.modSlotAt core slot f).sc = s.sc := rfl
@[simp] theorem State.modSlotAt_en (s : State) (core slot : Nat) (f : Slot → Slot) : (s.modSlotAt core slot f).en = s.en := rfl
@[simp] theorem State.modSlotAt_ctl (s : State) (core slot : Nat) (f : Slot → Slot) : (s.modSlotAt core slot f).ctl = s.ctl := rfl

@[simp] theorem State.setSlot_pw (s : State) (v : Slot) : (s.setSlot v).pw = s.pw := rfl
@[simp] theorem State.setSlot_st (s : State) (v : Slot) : (s.setSlot v).st = s.st := rfl
@[simp] theorem State.setSlot_net (s : State) (v : Slot) : (s.setSlot v).net = s.net := rfl
@[simp] theorem State.setSlot_hi (s : State) (v : Slot) : (s.setSlot v).hi = s.hi := rfl
@[simp] theorem State.setSlot_hd (s : State) (v : Slot) : (s.setSlot v).hd = s.hd := rfl
@[simp] theorem State.setSlot_mm (s : State) (v : Slot) : (s.setSlot v).mm = s.mm := rfl
@[simp] theorem State.setSlot_sc (s : State) (v : Slot) : (s.setSlot v).sc = s.sc := rfl
@[simp] theorem State.setSlot_en (s : State) (v : Slot) : (s.setSlot v).en = s.en := rfl
@[simp] theorem State.setSlot_ctl (s : State) (v : Slot) : (s.setSlot v).ctl = s.ctl := rfl

@[simp] theorem State.modSlot_pw (s : State) (f : Slot → Slot) : (s.modSlot f).pw = s.pw := rfl
@[simp] theorem State.modSlot_st (s : State) (f : Slot → Slot) : (s.modSlot f).st = s.st := rfl
@[simp] theorem State.modSlot_net (s : State) (f : Slot → Slot) : (s.modSlot f).net = s.net := rfl
@[simp] theorem State.modSlot_hi (s : State) (f : Slot → Slot) : (s.modSlot f).hi = s.hi := rfl
@[simp] theorem State.modSlot_hd (s : State) (f : Slot → Slot) : (s.modSlot f).hd = s.hd := rfl
@[simp] theorem State.modSlot_mm (s : State) (f : Slot → Slot) : (s.modSlot f).mm = s.mm := rfl
@[simp] theorem State.modSlot_sc (s : State) (f : Slot → Slot) : (s.modSlot f).sc = s.sc := rfl
@[simp] theorem State.modSlot_en (s : State) (f : Slot → Slot) : (s.modSlot f).en = s.en := rfl
@[simp] theorem State.modSlot_ctl (s : State) (f : Slot → Slot) : (s.modSlot f).ctl = s.ctl := rfl

@[simp] theorem State.setThr_pw (s : State) (t : Thread) : (s.setThr t).pw = s.pw := rfl
@[simp] theorem State.setThr_st (s : State) (t : Thread) : (s.setThr t).st = s.st := rfl
@[simp] theorem State.setThr_net (s : State) (t : Thread) : (s.setThr t).net = s.net := rfl
@[simp] theorem State.setThr_hi (s : State) (t : Thread) : (s.setThr t).hi = s.hi := rfl
@[simp] theorem State.setThr_hd (s : State) (t : Thread) : (s.setThr t).hd = s.hd := rfl
@[simp] theorem State.setThr_mm (s : State) (t : Thread) : (s.setThr t).mm = s.mm := rfl
@[simp] theorem State.setThr_sc (s : State) (t : Thread) : (s.setThr t).sc = s.sc := rfl
@[simp] theorem State.setThr_en (s : State) (t : Thread) : (s.setThr t).en = s.en := rfl
@[simp] theorem State.setThr_ctl (s : State) (t : Thread) : (s.setThr t).ctl = s.ctl := rfl

@[simp] theorem State.modThr_pw (s : State) (f : Thread → Thread) : (s.modThr f).pw = s.pw := rfl
@[simp] theorem State.modThr_st (s : State) (f : Thread → Thread) : (s.modThr f).st = s.st := rfl
@[simp] theorem State.modThr_net (s : State) (f : Thread → Thread) : (s.modThr f).net = s.net := rfl
@[simp] theorem State.modThr_hi (s : State) (f : Thread → Thread) : (s.modThr f).hi = s.hi := rfl
@[simp] theorem State.modThr_hd (s : State) (f : Thread → Thread) : (s.modThr f).hd = s.hd := rfl
@[simp] theorem State.modThr_mm (s : State) (f : Thread → Thread) : (s.modThr f).mm = s.mm := rfl
@[simp] theorem State.modThr_sc (s : State) (f : Thread → Thread) : (s.modThr f).sc = s.sc := rfl
@[simp] theorem State.modThr_en (s : State) (f : Thread → Thread) : (s.modThr f).en = s.en := rfl
@[simp] theorem State.modThr_ctl (s : State) (f : Thread → Thread) : (s.modThr f).ctl = s.ctl := rfl

@[simp] theorem State.setG_pw (s : State) (n : Nat) (v : Word) : (s.setG n v).pw = s.pw := rfl
@[simp] theorem State.setG_st (s : State) (n : Nat) (v : Word) : (s.setG n v).st = s.st := rfl
@[simp] theorem State.setG_net (s : State) (n : Nat) (v : Word) : (s.setG n v).net = s.net := rfl
@[simp] theorem State.setG_hi (s : State) (n : Nat) (v : Word) : (s.setG n v).hi = s.hi := rfl
@[simp] theorem State.setG_hd (s : State) (n : Nat) (v : Word) : (s.setG n v).hd = s.hd := rfl
@[simp] theorem State.setG_mm (s : State) (n : Nat) (v : Word) : (s.setG n v).mm = s.mm := rfl
@[simp] theorem State.setG_sc (s : State) (n : Nat) (v : Word) : (s.setG n v).sc = s.sc := rfl
@[simp] theorem State.setG_en (s : State) (n : Nat) (v : Word) : (s.setG n v).en = s.en := rfl
@[simp] theorem State.setG_ctl (s : State) (n : Nat) (v : Word) : (s.setG n v).ctl = s.ctl := rfl

@[simp] theorem State.setG2_pw (s : State) (n : Nat) (v w : Word) : (s.setG2 n v w).pw = s.pw := rfl
@[simp] theorem State.setG2_st (s : State) (n : Nat) (v w : Word) : (s.setG2 n v w).st = s.st := rfl
@[simp] theorem State.setG2_net (s : State) (n : Nat) (v w : Word) : (s.setG2 n v w).net = s.net := rfl
@[simp] theorem State.setG2_hi (s : State) (n : Nat) (v w : Word) : (s.setG2 n v w).hi = s.hi := rfl
@[simp] theorem State.setG2_hd (s : State) (n : Nat) (v w : Word) : (s.setG2 n v w).hd = s.hd := rfl
@[simp] theorem State.setG2_mm (s : State) (n : Nat) (v w : Word) : (s.setG2 n v w).mm = s.mm := rfl
@[simp] theorem State.setG2_sc (s : State) (n : Nat) (v w : Word) : (s.setG2 n v w).sc = s.sc := rfl
@[simp] theorem State.setG2_en (s : State) (n : Nat) (v w : Word) : (s.setG2 n v w).en = s.en := rfl
@[simp] theorem State.setG2_ctl (s : State) (n : Nat) (v w : Word) : (s.setG2 n v w).ctl = s.ctl := rfl

@[simp] theorem State.setP_pw (s : State) (n : Nat) (b : Bool) : (s.setP n b).pw = s.pw := rfl
@[simp] theorem State.setP_st (s : State) (n : Nat) (b : Bool) : (s.setP n b).st = s.st := rfl
@[simp] theorem State.setP_net (s : State) (n : Nat) (b : Bool) : (s.setP n b).net = s.net := rfl
@[simp] theorem State.setP_hi (s : State) (n : Nat) (b : Bool) : (s.setP n b).hi = s.hi := rfl
@[simp] theorem State.setP_hd (s : State) (n : Nat) (b : Bool) : (s.setP n b).hd = s.hd := rfl
@[simp] theorem State.setP_mm (s : State) (n : Nat) (b : Bool) : (s.setP n b).mm = s.mm := rfl
@[simp] theorem State.setP_sc (s : State) (n : Nat) (b : Bool) : (s.setP n b).sc = s.sc := rfl
@[simp] theorem State.setP_en (s : State) (n : Nat) (b : Bool) : (s.setP n b).en = s.en := rfl
@[simp] theorem State.setP_ctl (s : State) (n : Nat) (b : Bool) : (s.setP n b).ctl = s.ctl := rfl

@[simp] theorem State.pin_pw (s : State) : (s.pin).pw = s.pw := rfl
@[simp] theorem State.pin_st (s : State) : (s.pin).st = s.st := rfl
@[simp] theorem State.pin_net (s : State) : (s.pin).net = s.net := rfl
@[simp] theorem State.pin_hi (s : State) : (s.pin).hi = s.hi := rfl
@[simp] theorem State.pin_hd (s : State) : (s.pin).hd = s.hd := rfl
@[simp] theorem State.pin_mm (s : State) : (s.pin).mm = s.mm := rfl
@[simp] theorem State.pin_sc (s : State) : (s.pin).sc = s.sc := rfl
@[simp] theorem State.pin_en (s : State) : (s.pin).en = s.en := rfl
@[simp] theorem State.pin_ctl (s : State) : (s.pin).ctl = s.ctl := rfl

@[simp] theorem State.endCycle_pw (s : State) (core : Nat) : (s.endCycle core).pw = s.pw := rfl
@[simp] theorem State.endCycle_st (s : State) (core : Nat) : (s.endCycle core).st = s.st := rfl
@[simp] theorem State.endCycle_net (s : State) (core : Nat) : (s.endCycle core).net = s.net := rfl
@[simp] theorem State.endCycle_hi (s : State) (core : Nat) : (s.endCycle core).hi = s.hi := rfl
@[simp] theorem State.endCycle_hd (s : State) (core : Nat) : (s.endCycle core).hd = s.hd := rfl
@[simp] theorem State.endCycle_mm (s : State) (core : Nat) : (s.endCycle core).mm = s.mm := rfl
@[simp] theorem State.endCycle_sc (s : State) (core : Nat) : (s.endCycle core).sc = s.sc := rfl
@[simp] theorem State.endCycle_en (s : State) (core : Nat) : (s.endCycle core).en = s.en := rfl
@[simp] theorem State.endCycle_ctl (s : State) (core : Nat) : (s.endCycle core).ctl = s.ctl := rfl

@[simp] theorem State.modHc_pw (s : State) (core hold : Nat) (f : HoldCore → HoldCore) : (s.modHc core hold f).pw = s.pw := rfl
@[simp] theorem State.modHc_st (s : State) (core hold : Nat) (f : HoldCore → HoldCore) : (s.modHc core hold f).st = s.st := rfl
@[simp] theorem State.modHc_net (s : State) (core hold : Nat) (f : HoldCore → HoldCore) : (s.modHc core hold f).net = s.net := rfl
@[simp] theorem State.modHc_hi (s : State) (core hold : Nat) (f : HoldCore → HoldCore) : (s.modHc core hold f).hi = s.hi := rfl
@[simp] theorem State.modHc_hd (s : State) (core hold : Nat) (f : HoldCore → HoldCore) : (s.modHc core hold f).hd = s.hd := rfl
@[simp] theorem State.modHc_mm (s : State) (core hold : Nat) (f : HoldCore → HoldCore) : (s.modHc core hold f).mm = s.mm := rfl
@[simp] theorem State.modHc_sc (s : State) (core hold : Nat) (f : HoldCore → HoldCore) : (s.modHc core hold f).sc = s.sc := rfl
@[simp] theorem State.modHc_en (s : State) (core hold : Nat) (f : HoldCore → HoldCore) : (s.modHc core hold f).en = s.en := rfl
@[simp] theorem State.modHc_ctl (s : State) (core hold : Nat) (f : HoldCore → HoldCore) : (s.modHc core hold f).ctl = s.ctl := rfl

@[simp] theorem State.setHold_pw (s : State) (h : Nat) (v : Hold) : (s.setHold h v).pw = s.pw := rfl
@[simp] theorem State.setHold_st (s : State) (h : Nat) (v : Hold) : (s.setHold h v).st = s.st := rfl
@[simp] theorem State.setHold_net (s : State) (h : Nat) (v : Hold) : (s.setHold h v).net = s.net := rfl
@[simp] theorem State.setHold_hi (s : State) (h : Nat) (v : Hold) : (s.setHold h v).hi = s.hi := rfl
@[simp] theorem State.setHold_mm (s : State) (h : Nat) (v : Hold) : (s.setHold h v).mm = s.mm := rfl
@[simp] theorem State.setHold_co (s : State) (h : Nat) (v : Hold) : (s.setHold h v).co = s.co := rfl
@[simp] theorem State.setHold_sc (s : State) (h : Nat) (v : Hold) : (s.setHold h v).sc = s.sc := rfl
@[simp] theorem State.setHold_en (s : State) (h : Nat) (v : Hold) : (s.setHold h v).en = s.en := rfl
@[simp] theorem State.setHold_ctl (s : State) (h : Nat) (v : Hold) : (s.setHold h v).ctl = s.ctl := rfl

@[simp] theorem State.modHold_pw (s : State) (h : Nat) (f : Hold → Hold) : (s.modHold h f).pw = s.pw := rfl
@[simp] theorem State.modHold_st (s : State) (h : Nat) (f : Hold → Hold) : (s.modHold h f).st = s.st := rfl
@[simp] theorem State.modHold_net (s : State) (h : Nat) (f : Hold → Hold) : (s.modHold h f).net = s.net := rfl
@[simp] theorem State.modHold_hi (s : State) (h : Nat) (f : Hold → Hold) : (s.modHold h f).hi = s.hi := rfl
@[simp] theorem State.modHold_mm (s : State) (h : Nat) (f : Hold → Hold) : (s.modHold h f).mm = s.mm := rfl
@[simp] theorem State.modHold_co (s : State) (h : Nat) (f : Hold → Hold) : (s.modHold h f).co = s.co := rfl
@[simp] theorem State.modHold_sc (s : State) (h : Nat) (f : Hold → Hold) : (s.modHold h f).sc = s.sc := rfl
@[simp] theorem State.modHold_en (s : State) (h : Nat) (f : Hold → Hold) : (s.modHold h f).en = s.en := rfl
@[simp] theorem State.modHold_ctl (s : State) (h : Nat) (f : Hold → Hold) : (s.modHold h f).ctl = s.ctl := rfl

@[simp] theorem State.modFn_pw (s : State) (h : Nat) (f : Fn → Fn) : (s.modFn h f).pw = s.pw := rfl
@[simp] theorem State.modFn_st (s : State) (h : Nat) (f : Fn → Fn) : (s.modFn h f).st = s.st := rfl
@[simp] theorem State.modFn_net (s : State) (h : Nat) (f : Fn → Fn) : (s.modFn h f).net = s.net := rfl
@[simp] theorem State.modFn_hd (s : State) (h : Nat) (f : Fn → Fn) : (s.modFn h f).hd = s.hd := rfl
@[simp] theorem State.modFn_mm (s : State) (h : Nat) (f : Fn → Fn) : (s.modFn h f).mm = s.mm := rfl
@[simp] theorem State.modFn_co (s : State) (h : Nat) (f : Fn → Fn) : (s.modFn h f).co = s.co := rfl
@[simp] theorem State.modFn_sc (s : State) (h : Nat) (f : Fn → Fn) : (s.modFn h f).sc = s.sc := rfl
@[simp] theorem State.modFn_en (s : State) (h : Nat) (f : Fn → Fn) : (s.modFn h f).en = s.en := rfl
@[simp] theorem State.modFn_ctl (s : State) (h : Nat) (f : Fn → Fn) : (s.modFn h f).ctl = s.ctl := rfl

@[simp] theorem State.modCfg_pw (s : State) (port h : Nat) (f : PortFn → PortFn) : (s.modCfg port h f).pw = s.pw := rfl
@[simp] theorem State.modCfg_st (s : State) (port h : Nat) (f : PortFn → PortFn) : (s.modCfg port h f).st = s.st := rfl
@[simp] theorem State.modCfg_net (s : State) (port h : Nat) (f : PortFn → PortFn) : (s.modCfg port h f).net = s.net := rfl
@[simp] theorem State.modCfg_hd (s : State) (port h : Nat) (f : PortFn → PortFn) : (s.modCfg port h f).hd = s.hd := rfl
@[simp] theorem State.modCfg_mm (s : State) (port h : Nat) (f : PortFn → PortFn) : (s.modCfg port h f).mm = s.mm := rfl
@[simp] theorem State.modCfg_co (s : State) (port h : Nat) (f : PortFn → PortFn) : (s.modCfg port h f).co = s.co := rfl
@[simp] theorem State.modCfg_sc (s : State) (port h : Nat) (f : PortFn → PortFn) : (s.modCfg port h f).sc = s.sc := rfl
@[simp] theorem State.modCfg_en (s : State) (port h : Nat) (f : PortFn → PortFn) : (s.modCfg port h f).en = s.en := rfl
@[simp] theorem State.modCfg_ctl (s : State) (port h : Nat) (f : PortFn → PortFn) : (s.modCfg port h f).ctl = s.ctl := rfl

@[simp] theorem State.send_pw (s : State) (m : HostMsg) : (s.send m).pw = s.pw := rfl
@[simp] theorem State.send_st (s : State) (m : HostMsg) : (s.send m).st = s.st := rfl
@[simp] theorem State.send_net (s : State) (m : HostMsg) : (s.send m).net = s.net := rfl
@[simp] theorem State.send_hd (s : State) (m : HostMsg) : (s.send m).hd = s.hd := rfl
@[simp] theorem State.send_mm (s : State) (m : HostMsg) : (s.send m).mm = s.mm := rfl
@[simp] theorem State.send_co (s : State) (m : HostMsg) : (s.send m).co = s.co := rfl
@[simp] theorem State.send_sc (s : State) (m : HostMsg) : (s.send m).sc = s.sc := rfl
@[simp] theorem State.send_en (s : State) (m : HostMsg) : (s.send m).en = s.en := rfl
@[simp] theorem State.send_ctl (s : State) (m : HostMsg) : (s.send m).ctl = s.ctl := rfl

@[simp] theorem State.modLink_pw (s : State) (l : Nat) (f : Link → Link) : (s.modLink l f).pw = s.pw := rfl
@[simp] theorem State.modLink_st (s : State) (l : Nat) (f : Link → Link) : (s.modLink l f).st = s.st := rfl
@[simp] theorem State.modLink_hi (s : State) (l : Nat) (f : Link → Link) : (s.modLink l f).hi = s.hi := rfl
@[simp] theorem State.modLink_hd (s : State) (l : Nat) (f : Link → Link) : (s.modLink l f).hd = s.hd := rfl
@[simp] theorem State.modLink_mm (s : State) (l : Nat) (f : Link → Link) : (s.modLink l f).mm = s.mm := rfl
@[simp] theorem State.modLink_co (s : State) (l : Nat) (f : Link → Link) : (s.modLink l f).co = s.co := rfl
@[simp] theorem State.modLink_sc (s : State) (l : Nat) (f : Link → Link) : (s.modLink l f).sc = s.sc := rfl
@[simp] theorem State.modLink_en (s : State) (l : Nat) (f : Link → Link) : (s.modLink l f).en = s.en := rfl
@[simp] theorem State.modLink_ctl (s : State) (l : Nat) (f : Link → Link) : (s.modLink l f).ctl = s.ctl := rfl

@[simp] theorem State.modCctx_pw (s : State) (k : Nat) (f : CopyCtx → CopyCtx) : (s.modCctx k f).pw = s.pw := rfl
@[simp] theorem State.modCctx_st (s : State) (k : Nat) (f : CopyCtx → CopyCtx) : (s.modCctx k f).st = s.st := rfl
@[simp] theorem State.modCctx_net (s : State) (k : Nat) (f : CopyCtx → CopyCtx) : (s.modCctx k f).net = s.net := rfl
@[simp] theorem State.modCctx_hi (s : State) (k : Nat) (f : CopyCtx → CopyCtx) : (s.modCctx k f).hi = s.hi := rfl
@[simp] theorem State.modCctx_hd (s : State) (k : Nat) (f : CopyCtx → CopyCtx) : (s.modCctx k f).hd = s.hd := rfl
@[simp] theorem State.modCctx_mm (s : State) (k : Nat) (f : CopyCtx → CopyCtx) : (s.modCctx k f).mm = s.mm := rfl
@[simp] theorem State.modCctx_co (s : State) (k : Nat) (f : CopyCtx → CopyCtx) : (s.modCctx k f).co = s.co := rfl
@[simp] theorem State.modCctx_sc (s : State) (k : Nat) (f : CopyCtx → CopyCtx) : (s.modCctx k f).sc = s.sc := rfl
@[simp] theorem State.modCctx_ctl (s : State) (k : Nat) (f : CopyCtx → CopyCtx) : (s.modCctx k f).ctl = s.ctl := rfl

@[simp] theorem State.modMctx_pw (s : State) (k : Nat) (f : MxCtx → MxCtx) : (s.modMctx k f).pw = s.pw := rfl
@[simp] theorem State.modMctx_st (s : State) (k : Nat) (f : MxCtx → MxCtx) : (s.modMctx k f).st = s.st := rfl
@[simp] theorem State.modMctx_net (s : State) (k : Nat) (f : MxCtx → MxCtx) : (s.modMctx k f).net = s.net := rfl
@[simp] theorem State.modMctx_hi (s : State) (k : Nat) (f : MxCtx → MxCtx) : (s.modMctx k f).hi = s.hi := rfl
@[simp] theorem State.modMctx_hd (s : State) (k : Nat) (f : MxCtx → MxCtx) : (s.modMctx k f).hd = s.hd := rfl
@[simp] theorem State.modMctx_mm (s : State) (k : Nat) (f : MxCtx → MxCtx) : (s.modMctx k f).mm = s.mm := rfl
@[simp] theorem State.modMctx_co (s : State) (k : Nat) (f : MxCtx → MxCtx) : (s.modMctx k f).co = s.co := rfl
@[simp] theorem State.modMctx_sc (s : State) (k : Nat) (f : MxCtx → MxCtx) : (s.modMctx k f).sc = s.sc := rfl
@[simp] theorem State.modMctx_ctl (s : State) (k : Nat) (f : MxCtx → MxCtx) : (s.modMctx k f).ctl = s.ctl := rfl

@[simp] theorem State.setCell_pw (s : State) (c : Nat) (v : Cell) : (s.setCell c v).pw = s.pw := rfl
@[simp] theorem State.setCell_st (s : State) (c : Nat) (v : Cell) : (s.setCell c v).st = s.st := rfl
@[simp] theorem State.setCell_net (s : State) (c : Nat) (v : Cell) : (s.setCell c v).net = s.net := rfl
@[simp] theorem State.setCell_hi (s : State) (c : Nat) (v : Cell) : (s.setCell c v).hi = s.hi := rfl
@[simp] theorem State.setCell_hd (s : State) (c : Nat) (v : Cell) : (s.setCell c v).hd = s.hd := rfl
@[simp] theorem State.setCell_mm (s : State) (c : Nat) (v : Cell) : (s.setCell c v).mm = s.mm := rfl
@[simp] theorem State.setCell_co (s : State) (c : Nat) (v : Cell) : (s.setCell c v).co = s.co := rfl
@[simp] theorem State.setCell_en (s : State) (c : Nat) (v : Cell) : (s.setCell c v).en = s.en := rfl
@[simp] theorem State.setCell_ctl (s : State) (c : Nat) (v : Cell) : (s.setCell c v).ctl = s.ctl := rfl

@[simp] theorem State.addFault_pw (s : State) (r : FaultRec) : (s.addFault r).pw = s.pw := rfl
@[simp] theorem State.addFault_st (s : State) (r : FaultRec) : (s.addFault r).st = s.st := rfl
@[simp] theorem State.addFault_net (s : State) (r : FaultRec) : (s.addFault r).net = s.net := rfl
@[simp] theorem State.addFault_hi (s : State) (r : FaultRec) : (s.addFault r).hi = s.hi := rfl
@[simp] theorem State.addFault_hd (s : State) (r : FaultRec) : (s.addFault r).hd = s.hd := rfl
@[simp] theorem State.addFault_mm (s : State) (r : FaultRec) : (s.addFault r).mm = s.mm := rfl
@[simp] theorem State.addFault_co (s : State) (r : FaultRec) : (s.addFault r).co = s.co := rfl
@[simp] theorem State.addFault_en (s : State) (r : FaultRec) : (s.addFault r).en = s.en := rfl
@[simp] theorem State.addFault_ctl (s : State) (r : FaultRec) : (s.addFault r).ctl = s.ctl := rfl

@[simp] theorem State.setL1_pw (s : State) (core w : Nat) (v : Option L1Word) : (s.setL1 core w v).pw = s.pw := rfl
@[simp] theorem State.setL1_st (s : State) (core w : Nat) (v : Option L1Word) : (s.setL1 core w v).st = s.st := rfl
@[simp] theorem State.setL1_net (s : State) (core w : Nat) (v : Option L1Word) : (s.setL1 core w v).net = s.net := rfl
@[simp] theorem State.setL1_hi (s : State) (core w : Nat) (v : Option L1Word) : (s.setL1 core w v).hi = s.hi := rfl
@[simp] theorem State.setL1_hd (s : State) (core w : Nat) (v : Option L1Word) : (s.setL1 core w v).hd = s.hd := rfl
@[simp] theorem State.setL1_co (s : State) (core w : Nat) (v : Option L1Word) : (s.setL1 core w v).co = s.co := rfl
@[simp] theorem State.setL1_sc (s : State) (core w : Nat) (v : Option L1Word) : (s.setL1 core w v).sc = s.sc := rfl
@[simp] theorem State.setL1_en (s : State) (core w : Nat) (v : Option L1Word) : (s.setL1 core w v).en = s.en := rfl
@[simp] theorem State.setL1_ctl (s : State) (core w : Nat) (v : Option L1Word) : (s.setL1 core w v).ctl = s.ctl := rfl

@[simp] theorem State.setHome_pw (s : State) (home w : Nat) (v : HomeSt) : (s.setHome home w v).pw = s.pw := rfl
@[simp] theorem State.setHome_st (s : State) (home w : Nat) (v : HomeSt) : (s.setHome home w v).st = s.st := rfl
@[simp] theorem State.setHome_net (s : State) (home w : Nat) (v : HomeSt) : (s.setHome home w v).net = s.net := rfl
@[simp] theorem State.setHome_hi (s : State) (home w : Nat) (v : HomeSt) : (s.setHome home w v).hi = s.hi := rfl
@[simp] theorem State.setHome_hd (s : State) (home w : Nat) (v : HomeSt) : (s.setHome home w v).hd = s.hd := rfl
@[simp] theorem State.setHome_co (s : State) (home w : Nat) (v : HomeSt) : (s.setHome home w v).co = s.co := rfl
@[simp] theorem State.setHome_sc (s : State) (home w : Nat) (v : HomeSt) : (s.setHome home w v).sc = s.sc := rfl
@[simp] theorem State.setHome_en (s : State) (home w : Nat) (v : HomeSt) : (s.setHome home w v).en = s.en := rfl
@[simp] theorem State.setHome_ctl (s : State) (home w : Nat) (v : HomeSt) : (s.setHome home w v).ctl = s.ctl := rfl

@[simp] theorem State.setPortq_pw (s : State) (k : Nat) (l : List PqEnt) : (s.setPortq k l).pw = s.pw := rfl
@[simp] theorem State.setPortq_st (s : State) (k : Nat) (l : List PqEnt) : (s.setPortq k l).st = s.st := rfl
@[simp] theorem State.setPortq_net (s : State) (k : Nat) (l : List PqEnt) : (s.setPortq k l).net = s.net := rfl
@[simp] theorem State.setPortq_hi (s : State) (k : Nat) (l : List PqEnt) : (s.setPortq k l).hi = s.hi := rfl
@[simp] theorem State.setPortq_hd (s : State) (k : Nat) (l : List PqEnt) : (s.setPortq k l).hd = s.hd := rfl
@[simp] theorem State.setPortq_co (s : State) (k : Nat) (l : List PqEnt) : (s.setPortq k l).co = s.co := rfl
@[simp] theorem State.setPortq_sc (s : State) (k : Nat) (l : List PqEnt) : (s.setPortq k l).sc = s.sc := rfl
@[simp] theorem State.setPortq_en (s : State) (k : Nat) (l : List PqEnt) : (s.setPortq k l).en = s.en := rfl
@[simp] theorem State.setPortq_ctl (s : State) (k : Nat) (l : List PqEnt) : (s.setPortq k l).ctl = s.ctl := rfl

@[simp] theorem State.toPort_pw (s : State) (core : Nat) (e : PqEnt) : (s.toPort core e).pw = s.pw := rfl
@[simp] theorem State.toPort_st (s : State) (core : Nat) (e : PqEnt) : (s.toPort core e).st = s.st := rfl
@[simp] theorem State.toPort_net (s : State) (core : Nat) (e : PqEnt) : (s.toPort core e).net = s.net := rfl
@[simp] theorem State.toPort_hi (s : State) (core : Nat) (e : PqEnt) : (s.toPort core e).hi = s.hi := rfl
@[simp] theorem State.toPort_hd (s : State) (core : Nat) (e : PqEnt) : (s.toPort core e).hd = s.hd := rfl
@[simp] theorem State.toPort_co (s : State) (core : Nat) (e : PqEnt) : (s.toPort core e).co = s.co := rfl
@[simp] theorem State.toPort_sc (s : State) (core : Nat) (e : PqEnt) : (s.toPort core e).sc = s.sc := rfl
@[simp] theorem State.toPort_en (s : State) (core : Nat) (e : PqEnt) : (s.toPort core e).en = s.en := rfl
@[simp] theorem State.toPort_ctl (s : State) (core : Nat) (e : PqEnt) : (s.toPort core e).ctl = s.ctl := rfl

@[simp] theorem State.setTile_pw (s : State) (core t : Nat) (bs : List Byte) : (s.setTile core t bs).pw = s.pw := rfl
@[simp] theorem State.setTile_st (s : State) (core t : Nat) (bs : List Byte) : (s.setTile core t bs).st = s.st := rfl
@[simp] theorem State.setTile_net (s : State) (core t : Nat) (bs : List Byte) : (s.setTile core t bs).net = s.net := rfl
@[simp] theorem State.setTile_hi (s : State) (core t : Nat) (bs : List Byte) : (s.setTile core t bs).hi = s.hi := rfl
@[simp] theorem State.setTile_hd (s : State) (core t : Nat) (bs : List Byte) : (s.setTile core t bs).hd = s.hd := rfl
@[simp] theorem State.setTile_mm (s : State) (core t : Nat) (bs : List Byte) : (s.setTile core t bs).mm = s.mm := rfl
@[simp] theorem State.setTile_sc (s : State) (core t : Nat) (bs : List Byte) : (s.setTile core t bs).sc = s.sc := rfl
@[simp] theorem State.setTile_en (s : State) (core t : Nat) (bs : List Byte) : (s.setTile core t bs).en = s.en := rfl
@[simp] theorem State.setTile_ctl (s : State) (core t : Nat) (bs : List Byte) : (s.setTile core t bs).ctl = s.ctl := rfl

@[simp] theorem State.modPw_st (s : State) (f : Power → Power) : (s.modPw f).st = s.st := rfl
@[simp] theorem State.modPw_net (s : State) (f : Power → Power) : (s.modPw f).net = s.net := rfl
@[simp] theorem State.modPw_hi (s : State) (f : Power → Power) : (s.modPw f).hi = s.hi := rfl
@[simp] theorem State.modPw_hd (s : State) (f : Power → Power) : (s.modPw f).hd = s.hd := rfl
@[simp] theorem State.modPw_mm (s : State) (f : Power → Power) : (s.modPw f).mm = s.mm := rfl
@[simp] theorem State.modPw_co (s : State) (f : Power → Power) : (s.modPw f).co = s.co := rfl
@[simp] theorem State.modPw_sc (s : State) (f : Power → Power) : (s.modPw f).sc = s.sc := rfl
@[simp] theorem State.modPw_en (s : State) (f : Power → Power) : (s.modPw f).en = s.en := rfl
@[simp] theorem State.modPw_ctl (s : State) (f : Power → Power) : (s.modPw f).ctl = s.ctl := rfl

@[simp] theorem State.modSt_pw (s : State) (f : Start → Start) : (s.modSt f).pw = s.pw := rfl
@[simp] theorem State.modSt_net (s : State) (f : Start → Start) : (s.modSt f).net = s.net := rfl
@[simp] theorem State.modSt_hi (s : State) (f : Start → Start) : (s.modSt f).hi = s.hi := rfl
@[simp] theorem State.modSt_hd (s : State) (f : Start → Start) : (s.modSt f).hd = s.hd := rfl
@[simp] theorem State.modSt_mm (s : State) (f : Start → Start) : (s.modSt f).mm = s.mm := rfl
@[simp] theorem State.modSt_co (s : State) (f : Start → Start) : (s.modSt f).co = s.co := rfl
@[simp] theorem State.modSt_sc (s : State) (f : Start → Start) : (s.modSt f).sc = s.sc := rfl
@[simp] theorem State.modSt_en (s : State) (f : Start → Start) : (s.modSt f).en = s.en := rfl
@[simp] theorem State.modSt_ctl (s : State) (f : Start → Start) : (s.modSt f).ctl = s.ctl := rfl

@[simp] theorem State.finish_pw (s : State) (f : Fields) (core : Nat) : (s.finish f core).pw = s.pw := rfl
@[simp] theorem State.finish_st (s : State) (f : Fields) (core : Nat) : (s.finish f core).st = s.st := rfl
@[simp] theorem State.finish_net (s : State) (f : Fields) (core : Nat) : (s.finish f core).net = s.net := rfl
@[simp] theorem State.finish_hi (s : State) (f : Fields) (core : Nat) : (s.finish f core).hi = s.hi := rfl
@[simp] theorem State.finish_hd (s : State) (f : Fields) (core : Nat) : (s.finish f core).hd = s.hd := rfl
@[simp] theorem State.finish_mm (s : State) (f : Fields) (core : Nat) : (s.finish f core).mm = s.mm := rfl
@[simp] theorem State.finish_sc (s : State) (f : Fields) (core : Nat) : (s.finish f core).sc = s.sc := rfl
@[simp] theorem State.finish_en (s : State) (f : Fields) (core : Nat) : (s.finish f core).en = s.en := rfl
@[simp] theorem State.finish_ctl (s : State) (f : Fields) (core : Nat) : (s.finish f core).ctl = s.ctl := rfl

@[simp] theorem State.finishAt_pw (s : State) (f : Fields) (core : Nat) (pc : Word) : (s.finishAt f core pc).pw = s.pw := rfl
@[simp] theorem State.finishAt_st (s : State) (f : Fields) (core : Nat) (pc : Word) : (s.finishAt f core pc).st = s.st := rfl
@[simp] theorem State.finishAt_net (s : State) (f : Fields) (core : Nat) (pc : Word) : (s.finishAt f core pc).net = s.net := rfl
@[simp] theorem State.finishAt_hi (s : State) (f : Fields) (core : Nat) (pc : Word) : (s.finishAt f core pc).hi = s.hi := rfl
@[simp] theorem State.finishAt_hd (s : State) (f : Fields) (core : Nat) (pc : Word) : (s.finishAt f core pc).hd = s.hd := rfl
@[simp] theorem State.finishAt_mm (s : State) (f : Fields) (core : Nat) (pc : Word) : (s.finishAt f core pc).mm = s.mm := rfl
@[simp] theorem State.finishAt_sc (s : State) (f : Fields) (core : Nat) (pc : Word) : (s.finishAt f core pc).sc = s.sc := rfl
@[simp] theorem State.finishAt_en (s : State) (f : Fields) (core : Nat) (pc : Word) : (s.finishAt f core pc).en = s.en := rfl
@[simp] theorem State.finishAt_ctl (s : State) (f : Fields) (core : Nat) (pc : Word) : (s.finishAt f core pc).ctl = s.ctl := rfl

/-! ### Updates of a thread -/

@[simp] theorem Thread.userTrap_pred (t : Thread) (tpc tcause taddr : Word) : (t.userTrap tpc tcause taddr).pred = t.pred := rfl
@[simp] theorem Thread.userTrap_g (t : Thread) (tpc tcause taddr : Word) : (t.userTrap tpc tcause taddr).g = t.g := rfl
@[simp] theorem Thread.userTrap_xmig (t : Thread) (tpc tcause taddr : Word) : (t.userTrap tpc tcause taddr).xmig = t.xmig := rfl
@[simp] theorem Thread.userTrap_bnd (t : Thread) (tpc tcause taddr : Word) : (t.userTrap tpc tcause taddr).bnd = t.bnd := rfl
@[simp] theorem Thread.userTrap_bound (t : Thread) (tpc tcause taddr : Word) : (t.userTrap tpc tcause taddr).bound = t.bound := rfl
@[simp] theorem Thread.userTrap_s (t : Thread) (tpc tcause taddr : Word) : (t.userTrap tpc tcause taddr).s = t.s := rfl
@[simp] theorem Thread.userTrap_repc (t : Thread) (tpc tcause taddr : Word) : (t.userTrap tpc tcause taddr).repc = t.repc := rfl
@[simp] theorem Thread.userTrap_rng (t : Thread) (tpc tcause taddr : Word) : (t.userTrap tpc tcause taddr).rng = t.rng := rfl
@[simp] theorem Thread.userTrap_fpm (t : Thread) (tpc tcause taddr : Word) : (t.userTrap tpc tcause taddr).fpm = t.fpm := rfl
@[simp] theorem Thread.userTrap_uimask (t : Thread) (tpc tcause taddr : Word) : (t.userTrap tpc tcause taddr).uimask = t.uimask := rfl
@[simp] theorem Thread.userTrap_utvec (t : Thread) (tpc tcause taddr : Word) : (t.userTrap tpc tcause taddr).utvec = t.utvec := rfl
@[simp] theorem Thread.userTrap_stkc (t : Thread) (tpc tcause taddr : Word) : (t.userTrap tpc tcause taddr).stkc = t.stkc := rfl
@[simp] theorem Thread.userTrap_sovf (t : Thread) (tpc tcause taddr : Word) : (t.userTrap tpc tcause taddr).sovf = t.sovf := rfl
@[simp] theorem Thread.userTrap_spc (t : Thread) (tpc tcause taddr : Word) : (t.userTrap tpc tcause taddr).spc = t.spc := rfl
@[simp] theorem Thread.userTrap_scause (t : Thread) (tpc tcause taddr : Word) : (t.userTrap tpc tcause taddr).scause = t.scause := rfl
@[simp] theorem Thread.userTrap_saddr (t : Thread) (tpc tcause taddr : Word) : (t.userTrap tpc tcause taddr).saddr = t.saddr := rfl
@[simp] theorem Thread.userTrap_hs (t : Thread) (tpc tcause taddr : Word) : (t.userTrap tpc tcause taddr).hs = t.hs := rfl
@[simp] theorem Thread.userTrap_sg (t : Thread) (tpc tcause taddr : Word) : (t.userTrap tpc tcause taddr).sg = t.sg := rfl
@[simp] theorem Thread.userTrap_hold (t : Thread) (tpc tcause taddr : Word) : (t.userTrap tpc tcause taddr).hold = t.hold := rfl
@[simp] theorem Thread.userTrap_rgn (t : Thread) (tpc tcause taddr : Word) : (t.userTrap tpc tcause taddr).rgn = t.rgn := rfl
@[simp] theorem Thread.userTrap_frame (t : Thread) (tpc tcause taddr : Word) : (t.userTrap tpc tcause taddr).frame = t.frame := rfl
@[simp] theorem Thread.userTrap_ctxid (t : Thread) (tpc tcause taddr : Word) : (t.userTrap tpc tcause taddr).ctxid = t.ctxid := rfl
@[simp] theorem Thread.userTrap_tile (t : Thread) (tpc tcause taddr : Word) : (t.userTrap tpc tcause taddr).tile = t.tile := rfl
@[simp] theorem Thread.userTrap_grid (t : Thread) (tpc tcause taddr : Word) : (t.userTrap tpc tcause taddr).grid = t.grid := rfl
@[simp] theorem Thread.userTrap_root (t : Thread) (tpc tcause taddr : Word) : (t.userTrap tpc tcause taddr).root = t.root := rfl
@[simp] theorem Thread.userTrap_launch (t : Thread) (tpc tcause taddr : Word) : (t.userTrap tpc tcause taddr).launch = t.launch := rfl

@[simp] theorem Thread.superFault_pred (t : Thread) (vec spc scause saddr : Word) : (t.superFault vec spc scause saddr).pred = t.pred := rfl
@[simp] theorem Thread.superFault_g (t : Thread) (vec spc scause saddr : Word) : (t.superFault vec spc scause saddr).g = t.g := rfl
@[simp] theorem Thread.superFault_xmig (t : Thread) (vec spc scause saddr : Word) : (t.superFault vec spc scause saddr).xmig = t.xmig := rfl
@[simp] theorem Thread.superFault_bnd (t : Thread) (vec spc scause saddr : Word) : (t.superFault vec spc scause saddr).bnd = t.bnd := rfl
@[simp] theorem Thread.superFault_bound (t : Thread) (vec spc scause saddr : Word) : (t.superFault vec spc scause saddr).bound = t.bound := rfl
@[simp] theorem Thread.superFault_h (t : Thread) (vec spc scause saddr : Word) : (t.superFault vec spc scause saddr).h = t.h := rfl
@[simp] theorem Thread.superFault_repc (t : Thread) (vec spc scause saddr : Word) : (t.superFault vec spc scause saddr).repc = t.repc := rfl
@[simp] theorem Thread.superFault_rng (t : Thread) (vec spc scause saddr : Word) : (t.superFault vec spc scause saddr).rng = t.rng := rfl
@[simp] theorem Thread.superFault_fpm (t : Thread) (vec spc scause saddr : Word) : (t.superFault vec spc scause saddr).fpm = t.fpm := rfl
@[simp] theorem Thread.superFault_uimask (t : Thread) (vec spc scause saddr : Word) : (t.superFault vec spc scause saddr).uimask = t.uimask := rfl
@[simp] theorem Thread.superFault_utvec (t : Thread) (vec spc scause saddr : Word) : (t.superFault vec spc scause saddr).utvec = t.utvec := rfl
@[simp] theorem Thread.superFault_stkc (t : Thread) (vec spc scause saddr : Word) : (t.superFault vec spc scause saddr).stkc = t.stkc := rfl
@[simp] theorem Thread.superFault_sovf (t : Thread) (vec spc scause saddr : Word) : (t.superFault vec spc scause saddr).sovf = t.sovf := rfl
@[simp] theorem Thread.superFault_tpc (t : Thread) (vec spc scause saddr : Word) : (t.superFault vec spc scause saddr).tpc = t.tpc := rfl
@[simp] theorem Thread.superFault_tcause (t : Thread) (vec spc scause saddr : Word) : (t.superFault vec spc scause saddr).tcause = t.tcause := rfl
@[simp] theorem Thread.superFault_taddr (t : Thread) (vec spc scause saddr : Word) : (t.superFault vec spc scause saddr).taddr = t.taddr := rfl
@[simp] theorem Thread.superFault_hu (t : Thread) (vec spc scause saddr : Word) : (t.superFault vec spc scause saddr).hu = t.hu := rfl
@[simp] theorem Thread.superFault_sg (t : Thread) (vec spc scause saddr : Word) : (t.superFault vec spc scause saddr).sg = t.sg := rfl
@[simp] theorem Thread.superFault_hold (t : Thread) (vec spc scause saddr : Word) : (t.superFault vec spc scause saddr).hold = t.hold := rfl
@[simp] theorem Thread.superFault_rgn (t : Thread) (vec spc scause saddr : Word) : (t.superFault vec spc scause saddr).rgn = t.rgn := rfl
@[simp] theorem Thread.superFault_frame (t : Thread) (vec spc scause saddr : Word) : (t.superFault vec spc scause saddr).frame = t.frame := rfl
@[simp] theorem Thread.superFault_ctxid (t : Thread) (vec spc scause saddr : Word) : (t.superFault vec spc scause saddr).ctxid = t.ctxid := rfl
@[simp] theorem Thread.superFault_tile (t : Thread) (vec spc scause saddr : Word) : (t.superFault vec spc scause saddr).tile = t.tile := rfl
@[simp] theorem Thread.superFault_grid (t : Thread) (vec spc scause saddr : Word) : (t.superFault vec spc scause saddr).grid = t.grid := rfl
@[simp] theorem Thread.superFault_root (t : Thread) (vec spc scause saddr : Word) : (t.superFault vec spc scause saddr).root = t.root := rfl
@[simp] theorem Thread.superFault_launch (t : Thread) (vec spc scause saddr : Word) : (t.superFault vec spc scause saddr).launch = t.launch := rfl

@[simp] theorem Thread.tret_pc (t : Thread) : (t.tret).pc = t.pc := rfl
@[simp] theorem Thread.tret_pred (t : Thread) : (t.tret).pred = t.pred := rfl
@[simp] theorem Thread.tret_g (t : Thread) : (t.tret).g = t.g := rfl
@[simp] theorem Thread.tret_roam (t : Thread) : (t.tret).roam = t.roam := rfl
@[simp] theorem Thread.tret_xmig (t : Thread) : (t.tret).xmig = t.xmig := rfl
@[simp] theorem Thread.tret_bnd (t : Thread) : (t.tret).bnd = t.bnd := rfl
@[simp] theorem Thread.tret_bound (t : Thread) : (t.tret).bound = t.bound := rfl
@[simp] theorem Thread.tret_s (t : Thread) : (t.tret).s = t.s := rfl
@[simp] theorem Thread.tret_repc (t : Thread) : (t.tret).repc = t.repc := rfl
@[simp] theorem Thread.tret_rep (t : Thread) : (t.tret).rep = t.rep := rfl
@[simp] theorem Thread.tret_rng (t : Thread) : (t.tret).rng = t.rng := rfl
@[simp] theorem Thread.tret_fpm (t : Thread) : (t.tret).fpm = t.fpm := rfl
@[simp] theorem Thread.tret_uimask (t : Thread) : (t.tret).uimask = t.uimask := rfl
@[simp] theorem Thread.tret_utvec (t : Thread) : (t.tret).utvec = t.utvec := rfl
@[simp] theorem Thread.tret_stkc (t : Thread) : (t.tret).stkc = t.stkc := rfl
@[simp] theorem Thread.tret_sovf (t : Thread) : (t.tret).sovf = t.sovf := rfl
@[simp] theorem Thread.tret_tpc (t : Thread) : (t.tret).tpc = t.tpc := rfl
@[simp] theorem Thread.tret_tcause (t : Thread) : (t.tret).tcause = t.tcause := rfl
@[simp] theorem Thread.tret_taddr (t : Thread) : (t.tret).taddr = t.taddr := rfl
@[simp] theorem Thread.tret_spc (t : Thread) : (t.tret).spc = t.spc := rfl
@[simp] theorem Thread.tret_scause (t : Thread) : (t.tret).scause = t.scause := rfl
@[simp] theorem Thread.tret_saddr (t : Thread) : (t.tret).saddr = t.saddr := rfl
@[simp] theorem Thread.tret_hu (t : Thread) : (t.tret).hu = t.hu := rfl
@[simp] theorem Thread.tret_hs (t : Thread) : (t.tret).hs = t.hs := rfl
@[simp] theorem Thread.tret_sg (t : Thread) : (t.tret).sg = t.sg := rfl
@[simp] theorem Thread.tret_hold (t : Thread) : (t.tret).hold = t.hold := rfl
@[simp] theorem Thread.tret_rgn (t : Thread) : (t.tret).rgn = t.rgn := rfl
@[simp] theorem Thread.tret_frame (t : Thread) : (t.tret).frame = t.frame := rfl
@[simp] theorem Thread.tret_ctxid (t : Thread) : (t.tret).ctxid = t.ctxid := rfl
@[simp] theorem Thread.tret_tile (t : Thread) : (t.tret).tile = t.tile := rfl
@[simp] theorem Thread.tret_grid (t : Thread) : (t.tret).grid = t.grid := rfl
@[simp] theorem Thread.tret_root (t : Thread) : (t.tret).root = t.root := rfl
@[simp] theorem Thread.tret_launch (t : Thread) : (t.tret).launch = t.launch := rfl

@[simp] theorem Thread.sret_pc (t : Thread) : (t.sret).pc = t.pc := rfl
@[simp] theorem Thread.sret_pred (t : Thread) : (t.sret).pred = t.pred := rfl
@[simp] theorem Thread.sret_g (t : Thread) : (t.sret).g = t.g := rfl
@[simp] theorem Thread.sret_roam (t : Thread) : (t.sret).roam = t.roam := rfl
@[simp] theorem Thread.sret_xmig (t : Thread) : (t.sret).xmig = t.xmig := rfl
@[simp] theorem Thread.sret_bnd (t : Thread) : (t.sret).bnd = t.bnd := rfl
@[simp] theorem Thread.sret_bound (t : Thread) : (t.sret).bound = t.bound := rfl
@[simp] theorem Thread.sret_h (t : Thread) : (t.sret).h = t.h := rfl
@[simp] theorem Thread.sret_repc (t : Thread) : (t.sret).repc = t.repc := rfl
@[simp] theorem Thread.sret_rep (t : Thread) : (t.sret).rep = t.rep := rfl
@[simp] theorem Thread.sret_rng (t : Thread) : (t.sret).rng = t.rng := rfl
@[simp] theorem Thread.sret_fpm (t : Thread) : (t.sret).fpm = t.fpm := rfl
@[simp] theorem Thread.sret_uimask (t : Thread) : (t.sret).uimask = t.uimask := rfl
@[simp] theorem Thread.sret_utvec (t : Thread) : (t.sret).utvec = t.utvec := rfl
@[simp] theorem Thread.sret_stkc (t : Thread) : (t.sret).stkc = t.stkc := rfl
@[simp] theorem Thread.sret_sovf (t : Thread) : (t.sret).sovf = t.sovf := rfl
@[simp] theorem Thread.sret_tpc (t : Thread) : (t.sret).tpc = t.tpc := rfl
@[simp] theorem Thread.sret_tcause (t : Thread) : (t.sret).tcause = t.tcause := rfl
@[simp] theorem Thread.sret_taddr (t : Thread) : (t.sret).taddr = t.taddr := rfl
@[simp] theorem Thread.sret_spc (t : Thread) : (t.sret).spc = t.spc := rfl
@[simp] theorem Thread.sret_scause (t : Thread) : (t.sret).scause = t.scause := rfl
@[simp] theorem Thread.sret_saddr (t : Thread) : (t.sret).saddr = t.saddr := rfl
@[simp] theorem Thread.sret_hu (t : Thread) : (t.sret).hu = t.hu := rfl
@[simp] theorem Thread.sret_hs (t : Thread) : (t.sret).hs = t.hs := rfl
@[simp] theorem Thread.sret_sg (t : Thread) : (t.sret).sg = t.sg := rfl
@[simp] theorem Thread.sret_hold (t : Thread) : (t.sret).hold = t.hold := rfl
@[simp] theorem Thread.sret_rgn (t : Thread) : (t.sret).rgn = t.rgn := rfl
@[simp] theorem Thread.sret_frame (t : Thread) : (t.sret).frame = t.frame := rfl
@[simp] theorem Thread.sret_ctxid (t : Thread) : (t.sret).ctxid = t.ctxid := rfl
@[simp] theorem Thread.sret_tile (t : Thread) : (t.sret).tile = t.tile := rfl
@[simp] theorem Thread.sret_grid (t : Thread) : (t.sret).grid = t.grid := rfl
@[simp] theorem Thread.sret_root (t : Thread) : (t.sret).root = t.root := rfl
@[simp] theorem Thread.sret_launch (t : Thread) : (t.sret).launch = t.launch := rfl

end Sys2Proof.Machine
end

