-- ==== Sys2Proof/Laws/Issue.lean ====
section
/-! SUPPORT. What issuing an instruction can do, said once: it runs (ready), is skipped by its guard, or stops at one of the
common checks (R171, R306, R316). -/

namespace Sys2Proof.Machine

/-! ### Queues -/

theorem queuesReady_of_free {s : State} {opc : Nat} {f : Fields} (h : queuesFree s opc f = true) : queuesReady s opc f = .ok () := by
  unfold queuesFree at h
  unfold queuesReady
  rw [List.all_eq_true] at h
  simp only
  rw [if_neg, if_neg]
  · rw [List.any_eq_true]
    rintro ⟨q, hq, hb⟩
    have := h q hq
    simp only [Bool.and_eq_true, Bool.not_eq_true', Bool.or_eq_false_iff, Bool.and_eq_false_iff, decide_eq_false_iff_not] at this
    simp only [Bool.or_eq_true, Bool.and_eq_true, decide_eq_true_eq] at hb
    rcases hb with (hb | hb) | hb
    · exact absurd hb (by simp [this.2.1.1])
    · exact this.2.1.2 hb
    · exact this.2.2.elim (fun x => x hb.1) fun x => x hb.2
  · rw [List.any_eq_true]
    rintro ⟨q, hq, hb⟩
    have := h q hq
    simp_all

/-! ### The common checks -/

/-- A ready instruction passes every common check. -/
theorem front_ready {i : Instr} {opc : Nat} {f : Fields} {sh : EncRule} {s : State} {t : Thread}
    (he : encOf i = some (opc, f, sh)) (ht : s.slot.thr = some t) (h : ready i s = true) : front i opc f sh s t = .ok true := by
  unfold ready at h
  rw [he, ht] at h
  simp only [Bool.and_eq_true, Bool.not_eq_true', bne_iff_ne, ne_eq, Bool.or_eq_true, decide_eq_true_eq] at h
  obtain ⟨⟨⟨⟨⟨⟨⟨⟨h1, h2⟩, h3⟩, h4⟩, h5⟩, h6⟩, h7⟩, hu⟩, h8⟩ := h
  have h2' : illopdOf (t.s || t.h) i = none := by simpa using h2
  unfold front
  simp only [h1, h2', h4, h5, h6, h7, hu, if_neg h3]
  by_cases h0 : opc = 0
  · simp [h0]
  · have := queuesReady_of_free (h8.resolve_left h0)
    simp [h0, this]

/-- A ready instruction with a thread: its body runs, and its end concludes the issue. -/
theorem issue_ready {i : Instr} {opc : Nat} {f : Fields} {sh : EncRule} {s : State} {body : Fields → State → M Fin}
    (he : encOf i = some (opc, f, sh)) (h : ready i s = true) :
    issue i s body = .next { conclude f.yld s.core (body f s) with pw := s.pw } := by
  cases ht : s.slot.thr with
  | none => unfold ready at h; rw [he, ht] at h; simp at h
  | some t =>
    unfold issue
    rw [he, ht]
    simp only [front_ready he ht h]

/-- The thread of a ready instruction's slot. -/
theorem ready_thread {i : Instr} {s : State} (h : ready i s = true) : s.slot.thr = some s.thr := by
  unfold ready at h
  unfold State.thr
  cases ht : s.slot.thr with
  | none => rw [ht] at h; simp at h
  | some t => rfl

/-- A completed step of the body completes the instruction. -/
theorem conclude_step (y : Bool) (c : Nat) (e : State) :
    conclude y c (.ok (.step e)) = (e.modSlot fun v => { v.done y with thr := v.thr.map Thread.advance }).endCycle c := rfl

theorem conclude_goto (y : Bool) (c : Nat) (e : State) (pc : Word) :
    conclude y c (.ok (.goto e pc)) =
      (e.modSlot fun v => { v.done y with thr := v.thr.map fun t => { t with pc := pc } }).endCycle c := rfl

theorem conclude_raise (y : Bool) (c : Nat) (x : Cause) (e : State) :
    conclude y c (.error (.raise x e)) = (e.take x).endCycle c := rfl

/-- The form in which completion statements are proved: a ready instruction whose body ends in a step completes. -/
theorem completes_of_body {i : Instr} {opc : Nat} {f : Fields} {sh : EncRule} {s e : State} {body : Fields → State → M Fin}
    (hx : exec i s = issue i s body) (he : encOf i = some (opc, f, sh)) (h : ready i s = true) (hb : body f s = .ok (.step e)) :
    Completes i f s e := by
  unfold Completes
  rw [hx, issue_ready he h, hb]
  rfl

/-- The same for a body that goes on at a PC of its own. -/
theorem jumps_of_body {i : Instr} {opc : Nat} {f : Fields} {sh : EncRule} {s e : State} {pc : Word} {body : Fields → State → M Fin}
    (hx : exec i s = issue i s body) (he : encOf i = some (opc, f, sh)) (h : ready i s = true) (hb : body f s = .ok (.goto e pc)) :
    Jumps i f s e pc := by
  unfold Jumps
  rw [hx, issue_ready he h, hb]
  rfl

/-- The same for a body that raises a cause. -/
theorem takes_of_body {i : Instr} {opc : Nat} {f : Fields} {sh : EncRule} {s e : State} {c : Cause} {body : Fields → State → M Fin}
    (hx : exec i s = issue i s body) (he : encOf i = some (opc, f, sh)) (h : ready i s = true) (hb : body f s = .error (.raise c e)) :
    Takes i s c e := by
  unfold Takes
  rw [hx, issue_ready he h, hb]
  rfl

/-- Everything that issuing an instruction can do: stop for want of a thread or a word, or conclude one of its ends with the power
unit as it was (R10). -/
theorem issue_cases (i : Instr) (s : State) (body : Fields → State → M Fin) :
    (issue i s body = .fault .notEnabled) ∨ (issue i s body = .fault .noThread) ∨
    ∃ t : State, issue i s body = .next { t with pw := s.pw } := by
  unfold issue
  split
  · exact .inl rfl
  · exact .inr (.inl rfl)
  · exact .inr (.inr ⟨_, rfl⟩)

/-- Everything that an event can do. -/
theorem event_cases (s : State) (r : Option State) :
    (r = none ∧ event s r = .fault .notEnabled) ∨ ∃ t : State, r = some t ∧ event s r = .next { t with pw := s.pw } := by
  cases r with
  | none => exact .inl ⟨rfl, rfl⟩
  | some t => exact .inr ⟨t, rfl, rfl⟩

/-- The form in which completion statements of events are proved. -/
theorem happens_of {i : Instr} {s e : State} {r : Option State} (hx : exec i s = event s r) (hr : r = some e) : Happens i s e := by
  subst hr
  unfold Happens
  rw [hx]
  rfl

/-- An event of the dies leaves the power unit (R10). -/
theorem event_pw {s t : State} {r : Option State} (h : event s r = .next t) : t.pw = s.pw := by
  rcases event_cases s r with h1 | ⟨u, _, h1⟩
  · rw [h1.2] at h; cases h
  · rw [h1] at h; cases h; rfl

/-- An event of the controller leaves the power unit that it names. -/
theorem eventPw_pw {p : Power} {t : State} {r : Option State} (h : eventPw p r = .next t) : t.pw = p := by
  unfold eventPw at h
  cases r <;> cases h
  rfl

end Sys2Proof.Machine
end

