-- ==== Sys2Proof/Laws/Access.lean ====
section
/-! SUPPORT. When the waits and checks that accesses share let an instruction go on. -/

namespace Sys2Proof.Machine

theorem checkPlot_ok {s : State} {w : Word} (h : plotBad w = false) : checkPlot s w = .ok () := by simp [checkPlot, h]

theorem release_ok {s : State} {w : Word} (h : s.released s.core s.slotNo w = true) : release s w = .ok s := by simp [release, h]

theorem ldFull_ok {s : State} (h : s.slot.ld < 63) : ldFull s = .ok () := by
  unfold ldFull
  rw [if_neg (by omega)]

theorem stFull_ok {s : State} (h : s.slot.issued - s.slot.drained < 63) : stFull s = .ok () := by
  unfold stFull
  rw [if_neg (by omega)]

theorem acqReady_ok {s : State} (h : s.slot.rels = 0) : acqReady s = .ok () := by simp [acqReady, h]

theorem acqPast_ok {s : State} {unord : Bool} (h : s.slot.acq = [] ∨ unord = true) : acqPast s unord = .ok () := by
  rcases h with h | h <;> simp [acqPast, h]

theorem busyPast_ok {s : State} (h : (s.co.slots.all fun x => x.2.busyAt.isNone) = true) (ws : List Nat) : busyPast s ws = .ok () := by
  unfold busyPast
  simp only [List.all_eq_true] at h
  rw [if_neg]
  simp only [List.any_eq_true, not_exists, not_and]
  intro x hx
  have hb := h x hx
  cases hv : x.2.busyAt <;> simp_all

/-! ### Marks of the slot -/

@[simp] theorem State.openAcq_mm (s : State) (a : Option Word) (i : Nat) : (s.openAcq a i).mm = s.mm := by unfold State.openAcq; split <;> rfl
@[simp] theorem State.openAcq_ctl (s : State) (a : Option Word) (i : Nat) : (s.openAcq a i).ctl = s.ctl := by unfold State.openAcq; split <;> rfl
@[simp] theorem State.openAcq_spad (s : State) (a : Option Word) (i : Nat) : (s.openAcq a i).co.spad = s.co.spad := by
  unfold State.openAcq; split <;> rfl

@[simp] theorem State.yieldIf_mm (s : State) (y : Bool) : (s.yieldIf y).mm = s.mm := by unfold State.yieldIf; split <;> rfl
@[simp] theorem State.yieldIf_ctl (s : State) (y : Bool) : (s.yieldIf y).ctl = s.ctl := by unfold State.yieldIf; split <;> rfl
@[simp] theorem State.yieldIf_spad (s : State) (y : Bool) : (s.yieldIf y).co.spad = s.co.spad := by unfold State.yieldIf; split <;> rfl
theorem State.yieldIf_false (s : State) : s.yieldIf false = s := rfl

end Sys2Proof.Machine
end

