-- ==== Sys2Proof/Laws/Memory.lean ====
section
/-! SUPPORT. Every operation that writes a memory (device memory, the banks with their tags, full/empty bits and poison, the tile registers)
keeps the one canonical form of its table. -/

namespace Sys2Proof

theorem Tab.above_filter {α : Type} {n : Nat} {t : Tab α} (p : Nat × α → Bool) (ht : Tab.above n t = true) :
    Tab.above n (t.filter p) = true := by
  induction t with
  | nil => rfl
  | cons q t ih =>
    obtain ⟨k, v⟩ := q
    simp only [Tab.above, Bool.and_eq_true, decide_eq_true_eq] at ht
    rw [List.filter_cons]
    split
    · simp only [Tab.above, Bool.and_eq_true, decide_eq_true_eq]; exact ⟨ht.1, ih ht.2⟩
    · exact ih ht.2

/-- Dropping entries keeps the canonical form. -/
theorem Tab.wf_filter {α : Type} [DecidableEq α] (d : α) {t : Tab α} (p : Nat × α → Bool) (ht : Tab.wf d t = true) :
    Tab.wf d (t.filter p) = true := by
  induction t with
  | nil => rfl
  | cons q t ih =>
    obtain ⟨k, v⟩ := q
    simp only [Tab.wf, Bool.and_eq_true] at ht
    rw [List.filter_cons]
    split
    · simp only [Tab.wf, Bool.and_eq_true]; exact ⟨⟨ht.1.1, Tab.above_filter p ht.1.2⟩, ih ht.2⟩
    · exact ih ht.2

namespace Machine

theorem memory_wf_reset : Memory.wf State.reset.mm.dram = true := rfl

/-- The tables that hold device memory, in its vaults and in its slices, are canonical. -/
def MmWf (m : Mem) : Prop := Memory.wf m.dram = true ∧ Tab.wf false m.poison = true ∧ Tab.wf none m.l2 = true

theorem bump_mm (s : State) (pa : Nat) : (s.bump pa).mm = s.mm := by
  unfold State.bump
  generalize List.range Config.holdings = l
  induction l generalizing s with
  | nil => rfl
  | cons a l ih => rw [List.foldl_cons, ih]; split <;> rfl

@[simp] theorem choose_mm (s : State) (n : Nat) : (s.choose n).2.mm = s.mm := by unfold State.choose; split <;> rfl

theorem foldl_set_poison_wf (l : List Nat) (t : Tab Bool) (f : Nat → Nat) (b : Nat → Bool) (h : Tab.wf false t = true) :
    Tab.wf false (l.foldl (fun t i => Tab.set false t (f i) (b i)) t) = true := by
  induction l generalizing t with
  | nil => exact h
  | cons a l ih => rw [List.foldl_cons]; exact ih _ (Tab.wf_set false _ _ h)

/-- A line that goes to its vault keeps device memory canonical. -/
theorem vaultPut_wf (s : State) (key line : Nat) (data : List Byte) (bad : List Bool) (h : MmWf s.mm) :
    MmWf (s.vaultPut key line data bad).mm :=
  ⟨Tab_wf_setBytes _ _ h.1, foldl_set_poison_wf _ _ _ _ h.2.1, h.2.2⟩

theorem burst_wf (s : State) (v hold : Nat) (h : MmWf s.mm) : MmWf (s.burst v hold).mm := h

theorem setL2_wf (s : State) (home line : Nat) (v : Option L2Line) (h : MmWf s.mm) : MmWf (s.setL2 home line v).mm :=
  ⟨h.1, h.2.1, Tab.wf_set none _ _ h.2.2⟩

/-- A slice that gives up a line keeps device memory canonical. -/
theorem l2Evict_wf (s : State) (home line : Nat) (h : MmWf s.mm) : MmWf (s.l2Evict home line).mm := by
  unfold State.l2Evict
  split
  · exact h
  · dsimp only
    split
    · exact vaultPut_wf _ _ _ _ _ (burst_wf _ _ _ (setL2_wf _ _ _ _ h))
    · exact setL2_wf _ _ _ _ h

theorem l2Room_wf (s : State) (home : Nat) (h : MmWf s.mm) : MmWf (s.l2Room home).mm := by
  have hc : ∀ n, MmWf (s.choose n).2.mm := fun n => by rw [choose_mm]; exact h
  unfold State.l2Room
  dsimp only
  split
  · exact h
  · split
    · split
      · exact hc _
      · exact l2Evict_wf _ _ _ (hc _)
    · exact l2Evict_wf _ _ _ (hc _)

/-- A line that comes into a slice keeps device memory canonical. -/
theorem l2In_wf (s : State) (a : AtHome) (line : Nat) (h : MmWf s.mm) : MmWf (s.l2In a line).mm := by
  have fill : ∀ s : State, MmWf s.mm → MmWf (State.l2In.fill a line s).mm := fun s h =>
    setL2_wf _ _ _ _ (burst_wf _ _ _ (l2Room_wf _ _ h))
  unfold State.l2In
  split
  · split
    · exact h
    · exact fill _ (l2Evict_wf _ _ _ h)
  · exact fill _ h

theorem modL2_wf (s : State) (a : AtHome) (line : Nat) (f : L2Line → L2Line) (h : MmWf s.mm) : MmWf (s.modL2 a line f).mm := by
  unfold State.modL2
  dsimp only
  split
  · exact setL2_wf _ _ _ _ (l2In_wf _ _ _ h)
  · exact l2In_wf _ _ _ h

theorem setPoison_wf (s : State) (a : AtHome) (pa : Nat) (b : Bool) (h : MmWf s.mm) : MmWf (s.setPoison a pa b).mm :=
  modL2_wf _ _ _ _ h

theorem eccClear_wf (s : State) (pa : Nat) (full : Bool) (h : MmWf s.mm) : MmWf (s.eccClear pa full).mm := by
  unfold State.eccClear
  split <;> exact h

/-- A write at a home keeps device memory canonical. -/
theorem memPut_wf (s : State) (a : AtHome) (pa : Nat) (data : List Byte) (h : MmWf s.mm) : MmWf (s.memPut a pa data).mm := by
  have h1 := l2In_wf s a (pa / 128) h
  dsimp only [State.memPut]
  split
  · exact setPoison_wf _ _ _ _ h1
  · refine modL2_wf _ _ _ _ (eccClear_wf _ _ _ ?_)
    show MmWf { ((s.l2In a (pa / 128)).bump pa).mm with byHost := _ }
    rw [bump_mm]
    exact h1

/-- A line stands in the slice of an access. -/
theorem l2_setL2_same (s : State) (home line : Nat) (v : Option L2Line) : (s.setL2 home line v).l2 home line = v :=
  Tab.get_set_same _ _ _ _

theorem foldl_set_wf (l : List Nat) (t : Tab Byte) (f : Nat → Nat) (b : Nat → Byte) (h : Tab.wf 0 t = true) :
    Tab.wf 0 (l.foldl (fun t i => Tab.set 0 t (f i) (b i)) t) = true := by
  induction l generalizing t with
  | nil => exact h
  | cons a l ih => rw [List.foldl_cons]; exact ih _ (Tab.wf_set 0 _ _ h)

/-- A write of the banks keeps them canonical. -/
theorem winPut_wf (s : State) (core hold off : Nat) (data : List Byte) (h : Memory.wf s.co.spad = true) :
    Memory.wf (s.winPut core hold off data).co.spad = true := foldl_set_wf _ _ _ _ h

theorem winPoison_wf (s : State) (core hold off : Nat) (b : Bool) (h : Tab.wf false s.co.poison = true) :
    Tab.wf false (s.winPoison core hold off b).co.poison = true := Tab.wf_set false _ _ h

theorem modSlotAt_co (s : State) (core slot : Nat) (f : Slot → Slot) :
    (s.modSlotAt core slot f).co.tag = s.co.tag ∧ (s.modSlotAt core slot f).co.fe = s.co.fe := ⟨rfl, rfl⟩

theorem wakeIf_co (s : State) (core : Nat) (p : Slot → Park → Bool) : (s.wakeIf core p).co.tag = s.co.tag ∧ (s.wakeIf core p).co.fe = s.co.fe := by
  unfold State.wakeIf State.upto
  generalize List.range 16 = l
  induction l generalizing s with
  | nil => exact ⟨rfl, rfl⟩
  | cons a l ih =>
    rw [List.foldl_cons]
    refine ⟨(ih _).1.trans ?_, (ih _).2.trans ?_⟩ <;> (split <;> first | rfl | (split <;> rfl))

/-- A change of a tag keeps the tags canonical. -/
theorem setTag_wf (s : State) (core hold w : Nat) (t : BitVec 4) (h : Tab.wf 0 s.co.tag = true) : Tab.wf 0 (s.setTag core hold w t).co.tag = true := by
  unfold State.setTag
  rw [(wakeIf_co _ _ _).1]
  exact Tab.wf_set 0 _ _ h

/-- A change of a full/empty bit keeps them canonical. -/
theorem setFe_wf (s : State) (core hold off : Nat) (b : Bool) (h : Tab.wf false s.co.fe = true) :
    Tab.wf false (s.setFe core hold off b).co.fe = true := by
  unfold State.setFe
  dsimp only
  split
  · rw [(wakeIf_co _ _ _).2]; exact Tab.wf_set false _ _ h
  · exact Tab.wf_set false _ _ h

/-- A write of a tile register keeps them canonical. -/
theorem setTile_wf (s : State) (core t : Nat) (bs : List Byte) (h : Tab.wf 0 s.co.treg = true) : Tab.wf 0 (s.setTile core t bs).co.treg = true :=
  Tab_wf_setBytes _ _ h

/-- Zeroing shares keeps every memory of the cores canonical. -/
theorem zeroShares_wf (s : State) (at_ : Nat → Bool) (x : Shares) (h : s.memWf = true) : (s.zeroShares at_ x).memWf = true := by
  simp only [State.memWf, Bool.and_eq_true] at h ⊢
  obtain ⟨⟨⟨⟨⟨⟨⟨⟨⟨h1, h2⟩, h0⟩, h3⟩, h4⟩, h5⟩, h6⟩, h7⟩, h8⟩, h9⟩ := h
  exact ⟨⟨⟨⟨⟨⟨⟨⟨⟨h1, h2⟩, h0⟩, Tab.wf_filter 0 _ h3⟩, Tab.wf_filter false _ h4⟩, Tab.wf_filter 0 _ h5⟩, Tab.wf_filter false _ h6⟩,
    Tab.wf_filter 0 _ h7⟩, h8⟩, Tab.wf_filter false _ h9⟩

end Machine
end Sys2Proof
end

