-- ==== Sys2Proof/Laws/Exec.lean ====
section
/-! SUPPORT. What executing an instruction word is: the issue of that instruction with the body of its entry; and the ends of an
issue that the common checks give before the entry (R171, R306, R316). -/

namespace Sys2Proof.Machine

/-- A constructor with an instruction word is executed by issuing it. -/
theorem exec_word (i : Instr) (s : State) (h : (encOf i).isSome = true) : ∃ body, exec i s = issue i s body := by
  cases i with
  | vauxPresent => cases h
  | vauxAbsent => cases h
  | pwrEnHigh => cases h
  | pwrEnLow => cases h
  | modRstFall => cases h
  | modRstRise _ _ _ => cases h
  | perstAssert => cases h
  | perstDeassert => cases h
  | ranborBoot _ => cases h
  | railWithinTolerance => cases h
  | railFault => cases h
  | powerMeasurement _ => cases h
  | temperatureMeasurement _ => cases h
  | startWarm => cases h
  | startCold => cases h
  | pllLock _ => cases h
  | bridgeTraining _ => cases h
  | dramTraining _ => cases h
  | fullScrub _ => cases h
  | phyEqualisation _ => cases h
  | firmwareVerification _ _ _ _ => cases h
  | fwgo _ => cases h
  | fwgoTimeout => cases h
  | startReset => cases h
  | capabilityTableBuild _ => cases h
  | registerWrite _ _ _ => cases h
  | ctailWrite _ => cases h
  | cheadWrite _ => cases h
  | go => cases h
  | pageRequestQuarantineClear _ => cases h
  | hdmRegionWrite _ => cases h
  | rst => cases h
  | recordFetch => cases h
  | launch => cases h
  | copyh => cases h
  | signal => cases h
  | resync => cases h
  | feature => cases h
  | recordComplete => cases h
  | mirrorWrite => cases h
  | functionLevelReset => cases h
  | vfEnableClear => cases h
  | windowMAccess _ _ _ => cases h
  | priSuccess => cases h
  | priInvalidRequest => cases h
  | priResponseFailure => cases h
  | atsInvalidateRequest _ _ => cases h
  | spdmRequest _ => cases h
  | cxlMemrd _ => cases h
  | cxlMemwr _ _ => cases h
  | birsp _ _ => cases h
  | biconflict => cases h
  | bisnpTimeout => cases h
  | hostWrite => cases h
  | hostSnoop _ => cases h
  | kryasFlitReceive _ _ _ _ => cases h
  | retrain _ => cases h
  | nonpostedTimeout => cases h
  | peerRequest => cases h
  | peerFlush => cases h
  | rotaSlotStart _ => cases h
  | rotaMarkerArrival _ _ => cases h
  | flitHop => cases h
  | tokenWindow => cases h
  | slicePortServe => cases h
  | postBufferMove => cases h
  | portQueuePerform => cases h
  | l1Eviction => cases h
  | enlist => cases h
  | poolMerge => cases h
  | issueCycle => cases h
  | slotFill => cases h
  | dealTile => cases h
  | launchComplete => cases h
  | migrationDeparture => cases h
  | stileArrival => cases h
  | pagePark => cases h
  | pageArrival => cases h
  | slotSpill => cases h
  | turnEnd => cases h
  | sliceEndBroadcast => cases h
  | drainAllowanceExpiry => cases h
  | userInterrupt => cases h
  | remoteBankAnswer => cases h
  | parkedAccessWake => cases h
  | faultQueueRecordAdd => cases h
  | headStore => cases h
  | partAccess => cases h
  | crierMessage => cases h
  | matrixRecordAccept => cases h
  | matrixRecordStart => cases h
  | zeroRec => cases h
  | ldbRec => cases h
  | mmaRec => cases h
  | mmasRec => cases h
  | drainRec => cases h
  | ldaccRec => cases h
  | staccRec => cases h
  | waitRec => cases h
  | drainWake => cases h
  | timelineAdvance => cases h
  | copyCommandAccept => cases h
  | copySector => cases h
  | copyComplete => cases h
  | sfuServe => cases h
  | barrierArrivalMessage => cases h
  | barrierReleaseMessage => cases h
  | queueHomeStep => cases h
  | idleLimit => cases h
  | nop f => exact ⟨_, show execNop f s = issue (.nop f) s _ from rfl⟩
  | bra f => exact ⟨_, show execBra f s = issue (.bra f) s _ from rfl⟩
  | brx f => exact ⟨_, show execBrx f s = issue (.brx f) s _ from rfl⟩
  | call f => exact ⟨_, show execCall f s = issue (.call f) s _ from rfl⟩
  | loop f => exact ⟨_, show execLoop f s = issue (.loop f) s _ from rfl⟩
  | rep f => exact ⟨_, show execRep f s = issue (.rep f) s _ from rfl⟩
  | exit f => exact ⟨_, show execExit f s = issue (.exit f) s _ from rfl⟩
  | kpoint f => exact ⟨_, show execKpoint f s = issue (.kpoint f) s _ from rfl⟩
  | trap f => exact ⟨_, show execTrap f s = issue (.trap f) s _ from rfl⟩
  | tret f => exact ⟨_, show execTret f s = issue (.tret f) s _ from rfl⟩
  | uien f => exact ⟨_, show execUien f s = issue (.uien f) s _ from rfl⟩
  | add f => exact ⟨_, by show execAdd f s = issue (.add f) s _; unfold execAdd intOp; rfl⟩
  | sub f => exact ⟨_, by show execSub f s = issue (.sub f) s _; unfold execSub intOp; rfl⟩
  | mul f => exact ⟨_, by show execMul f s = issue (.mul f) s _; unfold execMul intOp; rfl⟩
  | mulh f => exact ⟨_, by show execMulh f s = issue (.mulh f) s _; unfold execMulh intOp; rfl⟩
  | mulhu f => exact ⟨_, by show execMulhu f s = issue (.mulhu f) s _; unfold execMulhu intOp; rfl⟩
  | div f => exact ⟨_, by show execDiv f s = issue (.div f) s _; unfold execDiv intOp; rfl⟩
  | divu f => exact ⟨_, by show execDivu f s = issue (.divu f) s _; unfold execDivu intOp; rfl⟩
  | rem f => exact ⟨_, by show execRem f s = issue (.rem f) s _; unfold execRem intOp; rfl⟩
  | remu f => exact ⟨_, by show execRemu f s = issue (.remu f) s _; unfold execRemu intOp; rfl⟩
  | and f => exact ⟨_, by show execAnd f s = issue (.and f) s _; unfold execAnd intOp; rfl⟩
  | or f => exact ⟨_, by show execOr f s = issue (.or f) s _; unfold execOr intOp; rfl⟩
  | xor f => exact ⟨_, by show execXor f s = issue (.xor f) s _; unfold execXor intOp; rfl⟩
  | andn f => exact ⟨_, by show execAndn f s = issue (.andn f) s _; unfold execAndn intOp; rfl⟩
  | shl f => exact ⟨_, by show execShl f s = issue (.shl f) s _; unfold execShl intOp; rfl⟩
  | shr f => exact ⟨_, by show execShr f s = issue (.shr f) s _; unfold execShr intOp; rfl⟩
  | sar f => exact ⟨_, by show execSar f s = issue (.sar f) s _; unfold execSar intOp; rfl⟩
  | rotl f => exact ⟨_, by show execRotl f s = issue (.rotl f) s _; unfold execRotl intOp; rfl⟩
  | clz f => exact ⟨_, by show execClz f s = issue (.clz f) s _; unfold execClz intOp; rfl⟩
  | ctz f => exact ⟨_, by show execCtz f s = issue (.ctz f) s _; unfold execCtz intOp; rfl⟩
  | popc f => exact ⟨_, by show execPopc f s = issue (.popc f) s _; unfold execPopc intOp; rfl⟩
  | brev f => exact ⟨_, by show execBrev f s = issue (.brev f) s _; unfold execBrev intOp; rfl⟩
  | min f => exact ⟨_, by show execMin f s = issue (.min f) s _; unfold execMin intOp; rfl⟩
  | max f => exact ⟨_, by show execMax f s = issue (.max f) s _; unfold execMax intOp; rfl⟩
  | minu f => exact ⟨_, by show execMinu f s = issue (.minu f) s _; unfold execMinu intOp; rfl⟩
  | maxu f => exact ⟨_, by show execMaxu f s = issue (.maxu f) s _; unfold execMaxu intOp; rfl⟩
  | abs f => exact ⟨_, by show execAbs f s = issue (.abs f) s _; unfold execAbs intOp; rfl⟩
  | sext f => exact ⟨_, by show execSext f s = issue (.sext f) s _; unfold execSext intOp; rfl⟩
  | zext f => exact ⟨_, by show execZext f s = issue (.zext f) s _; unfold execZext intOp; rfl⟩
  | bfx f => exact ⟨_, by show execBfx f s = issue (.bfx f) s _; unfold execBfx intOp; rfl⟩
  | bfi f => exact ⟨_, show execBfi f s = issue (.bfi f) s _ from rfl⟩
  | mov f => exact ⟨_, by show execMov f s = issue (.mov f) s _; unfold execMov intOp; rfl⟩
  | movhi f => exact ⟨_, show execMovhi f s = issue (.movhi f) s _ from rfl⟩
  | sel f => exact ⟨_, show execSel f s = issue (.sel f) s _ from rfl⟩
  | addsh f => exact ⟨_, show execAddsh f s = issue (.addsh f) s _ from rfl⟩
  | segp f => exact ⟨_, by show execSegp f s = issue (.segp f) s _; unfold execSegp intOp; rfl⟩
  | mfs f => exact ⟨_, show execMfs f s = issue (.mfs f) s _ from rfl⟩
  | mts f => exact ⟨_, show execMts f s = issue (.mts f) s _ from rfl⟩
  | fadd f => exact ⟨_, by show execFadd f s = issue (.fadd f) s _; unfold execFadd floatOp; rfl⟩
  | fsub f => exact ⟨_, by show execFsub f s = issue (.fsub f) s _; unfold execFsub floatOp; rfl⟩
  | fmul f => exact ⟨_, by show execFmul f s = issue (.fmul f) s _; unfold execFmul floatOp; rfl⟩
  | ffma f => exact ⟨_, show execFfma f s = issue (.ffma f) s _ from rfl⟩
  | fmin f => exact ⟨_, by show execFmin f s = issue (.fmin f) s _; unfold execFmin pickOp; rfl⟩
  | fmax f => exact ⟨_, by show execFmax f s = issue (.fmax f) s _; unfold execFmax pickOp; rfl⟩
  | fcvt f => exact ⟨_, show execFcvt f s = issue (.fcvt f) s _ from rfl⟩
  | cmp f => exact ⟨_, show execCmp f s = issue (.cmp f) s _ from rfl⟩
  | cmpu f => exact ⟨_, show execCmpu f s = issue (.cmpu f) s _ from rfl⟩
  | fcmp f => exact ⟨_, show execFcmp f s = issue (.fcmp f) s _ from rfl⟩
  | plog f => exact ⟨_, show execPlog f s = issue (.plog f) s _ from rfl⟩
  | pget f => exact ⟨_, show execPget f s = issue (.pget f) s _ from rfl⟩
  | pset f => exact ⟨_, show execPset f s = issue (.pset f) s _ from rfl⟩
  | ld f => exact ⟨_, show execLd f s = issue (.ld f) s _ from rfl⟩
  | st f => exact ⟨_, show execSt f s = issue (.st f) s _ from rfl⟩
  | ldp f => exact ⟨_, show execLdp f s = issue (.ldp f) s _ from rfl⟩
  | stp f => exact ⟨_, show execStp f s = issue (.stp f) s _ from rfl⟩
  | ldacq f => exact ⟨_, show execLdacq f s = issue (.ldacq f) s _ from rfl⟩
  | strel f => exact ⟨_, show execStrel f s = issue (.strel f) s _ from rfl⟩
  | pref f => exact ⟨_, show execPref f s = issue (.pref f) s _ from rfl⟩
  | tagld f => exact ⟨_, show execTagld f s = issue (.tagld f) s _ from rfl⟩
  | tagst f => exact ⟨_, show execTagst f s = issue (.tagst f) s _ from rfl⟩
  | tagcas f => exact ⟨_, show execTagcas f s = issue (.tagcas f) s _ from rfl⟩
  | tblld f => exact ⟨_, show execTblld f s = issue (.tblld f) s _ from rfl⟩
  | tswap f => exact ⟨_, show execTswap f s = issue (.tswap f) s _ from rfl⟩
  | feget f => exact ⟨_, show execFeget f s = issue (.feget f) s _ from rfl⟩
  | feset f => exact ⟨_, show execFeset f s = issue (.feset f) s _ from rfl⟩
  | feclr f => exact ⟨_, show execFeclr f s = issue (.feclr f) s _ from rfl⟩
  | wbk f => exact ⟨_, show execWbk f s = issue (.wbk f) s _ from rfl⟩
  | linv f => exact ⟨_, show execLinv f s = issue (.linv f) s _ from rfl⟩
  | atom f => exact ⟨_, show execAtom f s = issue (.atom f) s _ from rfl⟩
  | cas f => exact ⟨_, show execCas f s = issue (.cas f) s _ from rfl⟩
  | cas2 f => exact ⟨_, show execCas2 f s = issue (.cas2 f) s _ from rfl⟩
  | pool f => exact ⟨_, show execPool f s = issue (.pool f) s _ from rfl⟩
  | poolf f => exact ⟨_, show execPoolf f s = issue (.poolf f) s _ from rfl⟩
  | incld f => exact ⟨_, show execIncld f s = issue (.incld f) s _ from rfl⟩
  | incofr f => exact ⟨_, show execIncofr f s = issue (.incofr f) s _ from rfl⟩
  | incset f => exact ⟨_, show execIncset f s = issue (.incset f) s _ from rfl⟩
  | fence f => exact ⟨_, show execFence f s = issue (.fence f) s _ from rfl⟩
  | waitc f => exact ⟨_, show execWaitc f s = issue (.waitc f) s _ from rfl⟩
  | waittl f => exact ⟨_, show execWaittl f s = issue (.waittl f) s _ from rfl⟩
  | tlget f => exact ⟨_, show execTlget f s = issue (.tlget f) s _ from rfl⟩
  | tlgetStat f => exact ⟨_, show execTlgetStat f s = issue (.tlgetStat f) s _ from rfl⟩
  | barset f => exact ⟨_, show execBarset f s = issue (.barset f) s _ from rfl⟩
  | bararr f => exact ⟨_, show execBararr f s = issue (.bararr f) s _ from rfl⟩
  | barwt f => exact ⟨_, show execBarwt f s = issue (.barwt f) s _ from rfl⟩
  | boinit f => exact ⟨_, show execBoinit f s = issue (.boinit f) s _ from rfl⟩
  | boarr f => exact ⟨_, show execBoarr f s = issue (.boarr f) s _ from rfl⟩
  | boexp f => exact ⟨_, show execBoexp f s = issue (.boexp f) s _ from rfl⟩
  | bowt f => exact ⟨_, show execBowt f s = issue (.bowt f) s _ from rfl⟩
  | qpush f => exact ⟨_, show execQpush f s = issue (.qpush f) s _ from rfl⟩
  | qpop f => exact ⟨_, show execQpop f s = issue (.qpop f) s _ from rfl⟩
  | mbput f => exact ⟨_, show execMbput f s = issue (.mbput f) s _ from rfl⟩
  | mbtake f => exact ⟨_, show execMbtake f s = issue (.mbtake f) s _ from rfl⟩
  | vadd f => exact ⟨_, by show execVadd f s = issue (.vadd f) s _; unfold execVadd vecOp; rfl⟩
  | vsub f => exact ⟨_, by show execVsub f s = issue (.vsub f) s _; unfold execVsub vecOp; rfl⟩
  | vmul f => exact ⟨_, by show execVmul f s = issue (.vmul f) s _; unfold execVmul vecOp; rfl⟩
  | vfma f => exact ⟨_, by show execVfma f s = issue (.vfma f) s _; unfold execVfma vecOp; rfl⟩
  | vmin f => exact ⟨_, by show execVmin f s = issue (.vmin f) s _; unfold execVmin vecOp; rfl⟩
  | vmax f => exact ⟨_, by show execVmax f s = issue (.vmax f) s _; unfold execVmax vecOp; rfl⟩
  | vabs f => exact ⟨_, by show execVabs f s = issue (.vabs f) s _; unfold execVabs vecOp; rfl⟩
  | vand f => exact ⟨_, by show execVand f s = issue (.vand f) s _; unfold execVand vecOp; rfl⟩
  | vor f => exact ⟨_, by show execVor f s = issue (.vor f) s _; unfold execVor vecOp; rfl⟩
  | vxor f => exact ⟨_, by show execVxor f s = issue (.vxor f) s _; unfold execVxor vecOp; rfl⟩
  | vshl f => exact ⟨_, by show execVshl f s = issue (.vshl f) s _; unfold execVshl vecOp; rfl⟩
  | vshr f => exact ⟨_, by show execVshr f s = issue (.vshr f) s _; unfold execVshr vecOp; rfl⟩
  | vcvt f => exact ⟨_, show execVcvt f s = issue (.vcvt f) s _ from rfl⟩
  | vred f => exact ⟨_, show execVred f s = issue (.vred f) s _ from rfl⟩
  | vscan f => exact ⟨_, show execVscan f s = issue (.vscan f) s _ from rfl⟩
  | vcmp f => exact ⟨_, show execVcmp f s = issue (.vcmp f) s _ from rfl⟩
  | vsel f => exact ⟨_, show execVsel f s = issue (.vsel f) s _ from rfl⟩
  | vcopy f => exact ⟨_, show execVcopy f s = issue (.vcopy f) s _ from rfl⟩
  | vfill f => exact ⟨_, show execVfill f s = issue (.vfill f) s _ from rfl⟩
  | vgath f => exact ⟨_, show execVgath f s = issue (.vgath f) s _ from rfl⟩
  | vscat f => exact ⟨_, show execVscat f s = issue (.vscat f) s _ from rfl⟩
  | sfn f => exact ⟨_, show execSfn f s = issue (.sfn f) s _ from rfl⟩
  | vsfn f => exact ⟨_, show execVsfn f s = issue (.vsfn f) s _ from rfl⟩
  | tld f => exact ⟨_, show execTld f s = issue (.tld f) s _ from rfl⟩
  | tst f => exact ⟨_, show execTst f s = issue (.tst f) s _ from rfl⟩
  | thdr f => exact ⟨_, show execThdr f s = issue (.thdr f) s _ from rfl⟩
  | thset f => exact ⟨_, show execThset f s = issue (.thset f) s _ from rfl⟩
  | tchk f => exact ⟨_, show execTchk f s = issue (.tchk f) s _ from rfl⟩
  | tcvt f => exact ⟨_, show execTcvt f s = issue (.tcvt f) s _ from rfl⟩
  | tqnt f => exact ⟨_, show execTqnt f s = issue (.tqnt f) s _ from rfl⟩
  | tenc f => exact ⟨_, show execTenc f s = issue (.tenc f) s _ from rfl⟩
  | tadd f => exact ⟨_, by show execTadd f s = issue (.tadd f) s _; unfold execTadd tileOp; rfl⟩
  | tmul f => exact ⟨_, by show execTmul f s = issue (.tmul f) s _; unfold execTmul tileOp; rfl⟩
  | tfma f => exact ⟨_, by show execTfma f s = issue (.tfma f) s _; unfold execTfma tileOp; rfl⟩
  | tmax f => exact ⟨_, by show execTmax f s = issue (.tmax f) s _; unfold execTmax tileOp; rfl⟩
  | ttrn f => exact ⟨_, show execTtrn f s = issue (.ttrn f) s _ from rfl⟩
  | tzero f => exact ⟨_, show execTzero f s = issue (.tzero f) s _ from rfl⟩
  | mxa f => exact ⟨_, show execMxa f s = issue (.mxa f) s _ from rfl⟩
  | mxb f => exact ⟨_, show execMxb f s = issue (.mxb f) s _ from rfl⟩
  | mxown f => exact ⟨_, show execMxown f s = issue (.mxown f) s _ from rfl⟩
  | mxspill f => exact ⟨_, show execMxspill f s = issue (.mxspill f) s _ from rfl⟩
  | mxfill f => exact ⟨_, show execMxfill f s = issue (.mxfill f) s _ from rfl⟩
  | cpy f => exact ⟨_, show execCpy f s = issue (.cpy f) s _ from rfl⟩
  | cpys f => exact ⟨_, show execCpys f s = issue (.cpys f) s _ from rfl⟩
  | cpym f => exact ⟨_, show execCpym f s = issue (.cpym f) s _ from rfl⟩
  | cpyt f => exact ⟨_, show execCpyt f s = issue (.cpyt f) s _ from rfl⟩
  | cpyg f => exact ⟨_, show execCpyg f s = issue (.cpyg f) s _ from rfl⟩
  | cpyx f => exact ⟨_, show execCpyx f s = issue (.cpyx f) s _ from rfl⟩
  | cpya f => exact ⟨_, show execCpya f s = issue (.cpya f) s _ from rfl⟩
  | spawn f => exact ⟨_, show execSpawn f s = issue (.spawn f) s _ from rfl⟩
  | spawnb f => exact ⟨_, show execSpawnb f s = issue (.spawnb f) s _ from rfl⟩
  | bound f => exact ⟨_, show execBound f s = issue (.bound f) s _ from rfl⟩
  | roam f => exact ⟨_, show execRoam f s = issue (.roam f) s _ from rfl⟩
  | migr f => exact ⟨_, show execMigr f s = issue (.migr f) s _ from rfl⟩
  | wake f => exact ⟨_, show execWake f s = issue (.wake f) s _ from rfl⟩
  | dadd f => exact ⟨_, by show execDadd f s = issue (.dadd f) s _; unfold execDadd fp64Op; rfl⟩
  | dsub f => exact ⟨_, by show execDsub f s = issue (.dsub f) s _; unfold execDsub fp64Op; rfl⟩
  | dmul f => exact ⟨_, by show execDmul f s = issue (.dmul f) s _; unfold execDmul fp64Op; rfl⟩
  | dfma f => exact ⟨_, by show execDfma f s = issue (.dfma f) s _; unfold execDfma fp64Op; rfl⟩
  | ddiv f => exact ⟨_, by show execDdiv f s = issue (.ddiv f) s _; unfold execDdiv fp64Op; rfl⟩
  | dsqrt f => exact ⟨_, by show execDsqrt f s = issue (.dsqrt f) s _; unfold execDsqrt fp64Op; rfl⟩
  | dcvt f => exact ⟨_, show execDcvt f s = issue (.dcvt f) s _ from rfl⟩
  | dcmp f => exact ⟨_, show execDcmp f s = issue (.dcmp f) s _ from rfl⟩
  | spill f => exact ⟨_, show execSpill f s = issue (.spill f) s _ from rfl⟩
  | resto f => exact ⟨_, show execResto f s = issue (.resto f) s _ from rfl⟩
  | restoFrame f => exact ⟨_, show execRestoFrame f s = issue (.restoFrame f) s _ from rfl⟩
  | rgnopCreate f => exact ⟨_, show execRgnopCreate f s = issue (.rgnopCreate f) s _ from rfl⟩
  | rgnopResize f => exact ⟨_, show execRgnopResize f s = issue (.rgnopResize f) s _ from rfl⟩
  | rgnopFreeze f => exact ⟨_, show execRgnopFreeze f s = issue (.rgnopFreeze f) s _ from rfl⟩
  | rgnopThaw f => exact ⟨_, show execRgnopThaw f s = issue (.rgnopThaw f) s _ from rfl⟩
  | rgnopDestroy f => exact ⟨_, show execRgnopDestroy f s = issue (.rgnopDestroy f) s _ from rfl⟩
  | rgnopSlice f => exact ⟨_, show execRgnopSlice f s = issue (.rgnopSlice f) s _ from rfl⟩
  | keyset f => exact ⟨_, show execKeyset f s = issue (.keyset f) s _ from rfl⟩
  | keysetClear f => exact ⟨_, show execKeysetClear f s = issue (.keysetClear f) s _ from rfl⟩
  | tlbinv f => exact ⟨_, show execTlbinv f s = issue (.tlbinv f) s _ from rfl⟩
  | rota f => exact ⟨_, show execRota f s = issue (.rota f) s _ from rfl⟩
  | rotaCtl f => exact ⟨_, show execRotaCtl f s = issue (.rotaCtl f) s _ from rfl⟩
  | scall f => exact ⟨_, show execScall f s = issue (.scall f) s _ from rfl⟩
  | sret f => exact ⟨_, show execSret f s = issue (.sret f) s _ from rfl⟩
  | idle f => exact ⟨_, show execIdle f s = issue (.idle f) s _ from rfl⟩
  | pgverArm f => exact ⟨_, show execPgverArm f s = issue (.pgverArm f) s _ from rfl⟩
  | pgverRead f => exact ⟨_, show execPgverRead f s = issue (.pgverRead f) s _ from rfl⟩
  | pgverCommit f => exact ⟨_, show execPgverCommit f s = issue (.pgverCommit f) s _ from rfl⟩
  | pgverFree f => exact ⟨_, show execPgverFree f s = issue (.pgverFree f) s _ from rfl⟩
  | hostCompletion _ _ => cases h
  | configSpaceWrite _ _ => cases h
  | linkTrainingDone _ _ => cases h
  | hostPortLinkUp _ _ => cases h
  | hostRegisterRead _ _ _ => cases h

/-- A false guard: the thread goes on after the instruction, whose entry is not reached. -/
theorem issue_skip {i : Instr} {opc : Nat} {f : Fields} {sh : EncRule} {s : State} {t : Thread} {body : Fields → State → M Fin}
    (he : encOf i = some (opc, f, sh)) (ht : s.slot.thr = some t) (hf : front i opc f sh s t = .ok false) :
    issue i s body = .next
      { (s.modSlot fun v => { v.done false with thr := v.thr.map Thread.advance }).endCycle s.core with pw := s.pw } := by
  unfold issue
  rw [he, ht]
  simp only [hf]
  rfl

/-- A common check that stops the instruction decides its end. -/
theorem issue_stop {i : Instr} {opc : Nat} {f : Fields} {sh : EncRule} {s : State} {t : Thread} {e : Stop} {body : Fields → State → M Fin}
    (he : encOf i = some (opc, f, sh)) (ht : s.slot.thr = some t) (hf : front i opc f sh s t = .error e) :
    issue i s body = .next { conclude false s.core (.error e) with pw := s.pw } := by
  unfold issue
  rw [he, ht]
  simp only [hf]

/-- The form in which the common causes are proved. -/
theorem takes_of_front {i : Instr} {opc : Nat} {f : Fields} {sh : EncRule} {s s' : State} {t : Thread} {c : Cause}
    (he : encOf i = some (opc, f, sh)) (ht : s.slot.thr = some t) (hf : front i opc f sh s t = .error (.raise c s')) :
    Takes i s c s' := by
  obtain ⟨body, hb⟩ := exec_word i s (by rw [he]; rfl)
  unfold Takes
  rw [hb, issue_stop he ht hf]
  rfl

/-- Everything that executing a word can do keeps the power unit (R10). -/
theorem exec_word_pw {i : Instr} {s t : State} (h : (encOf i).isSome = true) (hx : exec i s = .next t) : t.pw = s.pw := by
  obtain ⟨body, hb⟩ := exec_word i s h
  rw [hb] at hx
  rcases issue_cases i s body with h1 | h1 | ⟨u, h1⟩ <;> rw [h1] at hx
  · cases hx
  · cases hx
  · cases hx; rfl

end Sys2Proof.Machine
end

