-- ==== Sys2Proof/Laws/Take.lean ====
section
/-! SUPPORT. What taking an exception does, said once: a user trap, an entry into S mode or a stop (R140, R165, R168), and what
each leaves alone. -/

namespace Sys2Proof.Machine

theorem State.slotAt_setSlotAt (s : State) (c k : Nat) (v : Slot) : (s.setSlotAt c k v).slotAt c k = v := by
  simp [State.setSlotAt, State.slotAt, Tab.get_set_same]

@[simp] theorem State.unwait_mm (s : State) (r : Option Req) : (s.unwait r).mm = s.mm := by unfold State.unwait; split <;> rfl
@[simp] theorem State.unwait_co (s : State) (r : Option Req) : (s.unwait r).co = s.co := by unfold State.unwait; split <;> rfl
@[simp] theorem State.unwait_ctl (s : State) (r : Option Req) : (s.unwait r).ctl = s.ctl := by unfold State.unwait; split <;> rfl

@[simp] theorem State.dropQ_mm (s : State) (c k : Nat) : (s.dropQ c k).mm = s.mm := by
  unfold State.dropQ; split <;> first | rfl | exact s.unwait_mm _
@[simp] theorem State.dropQ_co (s : State) (c k : Nat) : (s.dropQ c k).co = s.co := by
  unfold State.dropQ; split <;> first | rfl | exact s.unwait_co _
@[simp] theorem State.dropQ_ctl (s : State) (c k : Nat) : (s.dropQ c k).ctl = s.ctl := by
  unfold State.dropQ; split <;> first | rfl | exact s.unwait_ctl _

@[simp] theorem State.dropGot_mm (s : State) (r : Req) : (s.dropGot r).mm = s.mm := by unfold State.dropGot; dsimp only; split <;> rfl
@[simp] theorem State.dropGot_co (s : State) (r : Req) : (s.dropGot r).co = s.co := by unfold State.dropGot; dsimp only; split <;> rfl
@[simp] theorem State.dropGot_ctl (s : State) (r : Req) : (s.dropGot r).ctl = s.ctl := by unfold State.dropGot; dsimp only; split <;> rfl

@[simp] theorem State.dropIssue_mm (s : State) (c k : Nat) : (s.dropIssue c k).mm = s.mm := by
  unfold State.dropIssue; dsimp only; split <;> simp
@[simp] theorem State.dropIssue_co (s : State) (c k : Nat) : (s.dropIssue c k).co = s.co := by
  unfold State.dropIssue; dsimp only; split <;> simp
@[simp] theorem State.dropIssue_ctl (s : State) (c k : Nat) : (s.dropIssue c k).ctl = s.ctl := by
  unfold State.dropIssue; dsimp only; split <;> simp

@[simp] theorem State.settleAt_mm (s : State) (c k : Nat) (t : Thread) (x : Cause) : (s.settleAt c k t x).mm = s.mm := by
  unfold State.settleAt
  split <;> simp [State.modFn, State.modSlotAt, State.setSlotAt]
@[simp] theorem State.settleAt_ctl (s : State) (c k : Nat) (t : Thread) (x : Cause) : (s.settleAt c k t x).ctl = s.ctl := by
  unfold State.settleAt
  split <;> simp [State.modFn, State.modSlotAt, State.setSlotAt]
@[simp] theorem State.settleAt_spad (s : State) (c k : Nat) (t : Thread) (x : Cause) : (s.settleAt c k t x).co.spad = s.co.spad := by
  unfold State.settleAt
  split <;> simp [State.modFn, State.modSlotAt, State.setSlotAt]

/-- The slot after the settling keeps its thread. -/
theorem State.settleAt_slot (s : State) (c k : Nat) (t : Thread) (x : Cause) : (s.settleAt c k t x).slotAt c k = (s.slotAt c k).fresh := by
  have h : (((s.dropQ c k).dropIssue c k).modSlotAt c k Slot.fresh).slotAt c k = (s.slotAt c k).fresh := by
    unfold State.modSlotAt
    rw [State.slotAt_setSlotAt]
    simp [State.slotAt]
  unfold State.settleAt
  split
  · rw [← h]; rfl
  · exact h

/-- Taking a cause in the slot of the present step: a user trap, a stop, or an entry into S mode. -/
theorem State.take_eq {s : State} {t : Thread} (c : Cause) (ht : s.slot.thr = some t) :
    s.take c =
      if c.code = 0x15 then (s.settleAt s.core s.slotNo t c).stopThread s.core s.slotNo c
      else if t.trapsUser c then (s.settleAt s.core s.slotNo t c).modSlotAt s.core s.slotNo fun v =>
        { v with thr := some (t.userTrap (t.trapPc c) (tcauseOf c false) c.addr) }
      else if s.hword t.hold 0x78 = 0 || t.s then (s.settleAt s.core s.slotNo t c).stopThread s.core s.slotNo c
      else (s.settleAt s.core s.slotNo t c).modSlotAt s.core s.slotNo fun v =>
        { v with thr := some (t.superFault (BitVec.ofNat 64 (s.hword t.hold 0x78)) t.pc (scauseOf c) c.addr) } := by
  unfold State.take State.takeAt
  rw [show s.slotAt s.core s.slotNo = s.slot from rfl, ht]

/-- The thread after a slot was given one. -/
theorem State.thr_modSlotAt (s : State) (u : Thread) {c k : Nat} (hc : s.core = c) (hk : s.slotNo = k) :
    (s.modSlotAt c k fun v => { v with thr := some u }).thr = u := by
  subst hc hk
  show (((s.setSlotAt s.core s.slotNo _).slotAt s.core s.slotNo).thr).getD {} = u
  rw [State.slotAt_setSlotAt]
  rfl

theorem State.take_user {s : State} {t : Thread} {c : Cause} (ht : s.slot.thr = some t) (hp : c.code ≠ 0x15) (h : t.trapsUser c = true) :
    (s.take c).thr = t.userTrap (t.trapPc c) (tcauseOf c false) c.addr := by
  rw [State.take_eq c ht, if_neg hp, if_pos h]
  exact State.thr_modSlotAt _ _ (by simp [State.core]) (by simp [State.slotNo])

theorem State.take_super {s : State} {t : Thread} {c : Cause} (ht : s.slot.thr = some t) (hp : c.code ≠ 0x15) (h : t.trapsUser c = false) (hs : t.s = false)
    (hv : s.hword t.hold 0x78 ≠ 0) :
    (s.take c).thr = t.superFault (BitVec.ofNat 64 (s.hword t.hold 0x78)) t.pc (scauseOf c) c.addr := by
  rw [State.take_eq c ht, if_neg hp, if_neg (by simp [h]), if_neg (by simp [hv, hs])]
  exact State.thr_modSlotAt _ _ (by simp [State.core]) (by simp [State.slotNo])

theorem State.take_stop {s : State} {t : Thread} {c : Cause} (ht : s.slot.thr = some t) (h : t.trapsUser c = false)
    (hs : t.s = true ∨ s.hword t.hold 0x78 = 0) :
    s.take c = (s.settleAt s.core s.slotNo t c).stopThread s.core s.slotNo c := by
  rw [State.take_eq c ht]
  split
  · rfl
  · rw [if_neg (by simp [h]), if_pos (by rcases hs with hs | hs <;> simp [hs])]

/-- PAGE stops the thread (R169). -/
theorem State.take_page {s : State} {t : Thread} {c : Cause} (ht : s.slot.thr = some t) (hp : c.code = 0x15) :
    s.take c = (s.settleAt s.core s.slotNo t c).stopThread s.core s.slotNo c := by
  rw [State.take_eq c ht, if_pos hp]

/-- Memory reads the same when its parts are the same. -/
theorem sameMemory_of {s t : State} (hm : t.mm = s.mm) (hb : t.co.spad = s.co.spad) : SameMemory s t := by
  constructor
  · intro pa; simp only [State.memByte, State.l1, hm]
  · intro core phys; simp only [State.bankByte, hb]

/-- A cause that is delivered changes no memory. -/
theorem State.take_memory {s : State} {t : Thread} {c : Cause} (ht : s.slot.thr = some t) (hp : c.code ≠ 0x15)
    (h : t.trapsUser c = true ∨ (t.s = false ∧ s.hword t.hold 0x78 ≠ 0)) : SameMemory s (s.take c) := by
  rw [State.take_eq c ht, if_neg hp]
  split
  · exact sameMemory_of (by simp [State.modSlotAt, State.setSlotAt]) (by simp [State.modSlotAt, State.setSlotAt])
  · next h1 =>
    obtain ⟨h2, h3⟩ := h.resolve_left h1
    rw [if_neg (by simp [h2, h3])]
    exact sameMemory_of (by simp [State.modSlotAt, State.setSlotAt]) (by simp [State.modSlotAt, State.setSlotAt])

end Sys2Proof.Machine
end

