-- ==== Sys2Proof/Certificates/Slice0/Obligations.lean ====
section
/-! DEFINITION. The statements for the provers: what each instruction and each event does, what it leaves alone, and the rules
that hold of the whole part. -/

open Sys2Proof Sys2Proof.Machine

/-! ### Tables of instructions of one shape -/

namespace Sys2Proof.Claims

/-- An instruction of a family, by its fields. -/
abbrev Form := Fields → Instr

/-- The integer instructions that read A and B and write one word, with their formulas (R340 to R346). -/
def intTable : List (Form × (BitVec 8 → Word → Word → Word)) := [
  (.add, fun md a b => intResult md (iAt md a + iAt md b)),
  (.sub, fun md a b => intResult md (iAt md a - iAt md b)),
  (.mul, fun md a b => intResult md (iAt md a * iAt md b)),
  (.mulh, fun md a b => intResult md (sAt md a * sAt md b / (2 ^ szBits (mdSz md) : Nat))),
  (.mulhu, fun md a b => intResult md (uAt md a * uAt md b / 2 ^ szBits (mdSz md) : Nat)),
  (.div, fun md a b => intResult md (if sAt md b = 0 then -1 else (sAt md a).tdiv (sAt md b))),
  (.divu, fun md a b => intResult md (if uAt md b = 0 then -1 else (uAt md a / uAt md b : Nat))),
  (.rem, fun md a b => intResult md (if sAt md b = 0 then sAt md a else (sAt md a).tmod (sAt md b))),
  (.remu, fun md a b => intResult md (if uAt md b = 0 then uAt md a else uAt md a % uAt md b : Nat)),
  (.and, fun md a b => intResult md (uAt md a &&& uAt md b : Nat)),
  (.or, fun md a b => intResult md (uAt md a ||| uAt md b : Nat)),
  (.xor, fun md a b => intResult md (uAt md a ^^^ uAt md b : Nat)),
  (.andn, fun md a b => intResult md ((a &&& ~~~b).toNat : Nat)),
  (.shl, fun md a b => intResult md (uAt md a * 2 ^ (uAt md b % szBits (mdSz md)) : Nat)),
  (.shr, fun md a b => intResult md (uAt md a / 2 ^ (uAt md b % szBits (mdSz md)) : Nat)),
  (.sar, fun md a b => intResult md (sAt md a / (2 ^ (uAt md b % szBits (mdSz md)) : Nat))),
  (.rotl, fun md a b => intResult md (uAt md a * 2 ^ (uAt md b % szBits (mdSz md)) +
    uAt md a / 2 ^ (szBits (mdSz md) - uAt md b % szBits (mdSz md)) : Nat)),
  (.clz, fun md a _ => intResult md (clzNat (uAt md a) (szBits (mdSz md)) : Nat)),
  (.ctz, fun md a _ => intResult md (ctzNat (uAt md a) (szBits (mdSz md)) : Nat)),
  (.popc, fun md a _ => intResult md (popc (uAt md a) (szBits (mdSz md)) : Nat)),
  (.brev, fun md a _ => intResult md (brevNat (uAt md a) (szBits (mdSz md)) : Nat)),
  (.min, fun md a b => intResult md (if sAt md a ≤ sAt md b then sAt md a else sAt md b)),
  (.max, fun md a b => intResult md (if sAt md a ≤ sAt md b then sAt md b else sAt md a)),
  (.minu, fun md a b => intResult md (min (uAt md a) (uAt md b) : Nat)),
  (.maxu, fun md a b => intResult md (max (uAt md a) (uAt md b) : Nat)),
  (.abs, fun md a _ => intResult md ((sAt md a).natAbs : Nat)),
  (.sext, fun _ a b => extend true (if b.toNat % 64 = 0 then 64 else b.toNat % 64) (a.toNat : Nat)),
  (.zext, fun _ a b => extend false (if b.toNat % 64 = 0 then 64 else b.toNat % 64) (a.toNat : Nat)),
  (.bfx, fun md a b => extend (mdSgn md) (fieldWd b) (a.toNat / 2 ^ fieldPos b : Nat)),
  (.mov, fun md a _ => extend (mdSgn md) (szBits (mdSz md)) (a.toNat : Nat)),
  (.segp, fun _ a b => BitVec.ofNat 64 (b.toNat % 8 * 2 ^ 61 + a.toNat % 2 ^ 61))]

/-- FADD, FSUB and FMUL: the exact value that is rounded once (R351). -/
def floatTable : List (Form × (Rm → ExtNum → ExtNum → ExtNum)) := [
  (.fadd, fun rm a b => ExtNum.add rm a b), (.fsub, fun rm a b => ExtNum.add rm a b.negate), (.fmul, fun _ a b => ExtNum.mul a b)]

/-- The FP64 instructions of two or three numbers (R456). -/
def fp64Table : List (Form × (Rm → ExtNum → ExtNum → ExtNum → ExtNum)) := [
  (.dadd, fun rm a b _ => ExtNum.add rm a b), (.dsub, fun rm a b _ => ExtNum.add rm a b.negate), (.dmul, fun _ a b _ => ExtNum.mul a b),
  (.dfma, fun rm a b d => ExtNum.fma rm a b d), (.ddiv, fun _ a b _ => ExtNum.div a b), (.dsqrt, fun _ a _ _ => ExtNum.sqrt a)]

end Sys2Proof.Claims

open Sys2Proof.Claims

/-! ### Scalar instructions: results -/

/-- R339 to R346: each integer instruction of the table reads A and B, an immediate sign-extended (R303), and writes its formula's
value to its destination. -/
def Sys2Proof.Claims.IntegerResult : Prop := ∀ p ∈ intTable, ∀ f s, ready (p.1 f) s →
  let r := s.srcs f (f.imm.signExtend 64)
  Completes (p.1 f) f s (r.2.2.dst f.d (p.2 f.md r.1 r.2.1))

/-- R343 to R348: BFI, MOVHI, SEL, ADDSH and the moves from and to special registers. -/
def Sys2Proof.Claims.FieldAndSpecialResult : Prop :=
  (∀ f s, ready (.bfi f) s →
    let r := s.srcs f (f.imm.signExtend 64)
    let m : Word := BitVec.ofNat 64 ((2 ^ fieldWd r.2.1 - 1) * 2 ^ fieldPos r.2.1)
    Completes (.bfi f) f s (r.2.2.dst f.d ((s.g f.d &&& ~~~m) ||| ((r.1 <<< fieldPos r.2.1) &&& m)))) ∧
  (∀ f s, ready (.movhi f) s → Completes (.movhi f) f s (s.dst f.d (f.imm ++ (s.g f.d).extractLsb' 0 32))) ∧
  (∀ f s, ready (.sel f) s →
    let r := s.srcs f (f.imm.signExtend 64)
    let c := s.thr.prd (bits f.imm.toNat 4 0) != f.imm.getLsbD 5
    Completes (.sel f) f s (r.2.2.dst f.d (extend (mdSgn f.md) (szBits (mdSz f.md)) ((if c then r.1 else r.2.1).toNat : Nat)))) ∧
  (∀ f s, ready (.addsh f) s →
    let r := s.srcs f (f.imm.signExtend 64)
    Completes (.addsh f) f s (r.2.2.dst f.d
      (BitVec.ofNat 64 (bits r.1.toNat 63 61 * 2 ^ 61 + (r.1.toNat + r.2.1.toNat * 2 ^ bits f.imm.toNat 2 0) % 2 ^ 61)))) ∧
  (∀ f s, ready (.mfs f) s → Completes (.mfs f) f s (s.dst f.d (s.special f.a.idx.toNat (f.md.getLsbD 0)))) ∧
  (∀ f s, ready (.mts f) s →
    let r := s.src f.a (f.imm.signExtend 64)
    Completes (.mts f) f s (r.2.setSpecial f.d.idx.toNat (f.md.getLsbD 0) r.1))

/-- The statements IntegerResult and FieldAndSpecialResult together. -/
def Obligations.IntegerAndMoveResult : Prop := IntegerResult ∧ FieldAndSpecialResult

/-- R350 to R354: the scalar floating instructions compute exactly and round once, with one step of %rng under RSTO (R227). -/
def Sys2Proof.Claims.FloatResult : Prop :=
  (∀ p ∈ floatTable, ∀ f s, ready (p.1 f) s →
    let r := s.srcs f (f.imm.zeroExtend 64)
    let w := scalarFmt f.md
    let rm := r.2.2.rm f.md
    let d := r.2.2.draw1 rm
    Completes (p.1 f) f s (d.2.dst f.d (roundWord w rm (mdSat f.md) d.1 (p.2 rm (numOf w r.1) (numOf w r.2.1))))) ∧
  (∀ f s, ready (.ffma f) s →
    let r := s.srcs f (f.imm.zeroExtend 64)
    let w := scalarFmt f.md
    let rm := r.2.2.rm f.md
    let d := r.2.2.draw1 rm
    Completes (.ffma f) f s (d.2.dst f.d
      (roundWord w rm (mdSat f.md) d.1 (ExtNum.fma rm (numOf w r.1) (numOf w r.2.1) (numOf w (s.g f.d)))))) ∧
  (∀ p ∈ ([(.fmin, false), (.fmax, true)] : List (Form × Bool)), ∀ f s, ready (p.1 f) s →
    let r := s.srcs f (f.imm.zeroExtend 64)
    let w := scalarFmt f.md
    Completes (p.1 f) f s (r.2.2.dst f.d (roundWord w .rne false 0 (ExtNum.pick p.2 (numOf w r.1) (numOf w r.2.1)))))

/-- R354 and R458: FCVT and DCVT convert between the instruction's format and the type in IMM, in the direction of IMM bit 4. -/
def Sys2Proof.Claims.ConversionResult : Prop :=
  ∀ p ∈ ([(.fcvt, scalarFmt), (.dcvt, fun _ => 13)] : List (Form × (BitVec 8 → Nat))), ∀ f s, ready (p.1 f) s →
    let r := s.src f.a (f.imm.zeroExtend 64)
    let other := bits f.imm.toNat 3 0
    let ty := if f.imm.getLsbD 4 then other else p.2 f.md
    let x := if f.imm.getLsbD 4 then numOf (p.2 f.md) r.1 else cvtRead other r.1
    let rm := r.2.rm f.md
    let d := if 4 ≤ ty && ty ≤ 7 then (0, r.2) else r.2.draw1 rm
    Completes (p.1 f) f s (d.2.dst f.d (cvtWrite ty rm (mdSat f.md) d.1 x))

/-- R456: the FP64 instructions compute exactly and round once; an immediate B is an FP32 number. -/
def Sys2Proof.Claims.DoubleResult : Prop := ∀ p ∈ fp64Table, ∀ f s, ready (p.1 f) s →
  let r := s.srcs f (f.imm.zeroExtend 64)
  let b := if f.b.cls = .I then decodeNum 1 r.2.1.toNat else numOf 13 r.2.1
  let rm := r.2.2.rm f.md
  let d := r.2.2.draw1 rm
  Completes (p.1 f) f s (d.2.dst f.d (roundWord 13 rm (mdSat f.md) d.1 (p.2 rm (numOf 13 r.1) b (numOf 13 (s.g f.d)))))

/-- The statements FloatResult, ConversionResult and DoubleResult together. -/
def Obligations.FloatingResult : Prop := FloatResult ∧ ConversionResult ∧ DoubleResult

/-- R356 to R359 and R459: the comparisons write their condition to pD, PLOG combines two predicates, PGET reads all of them and
PSET writes those of its mask. -/
def Obligations.PredicateResult : Prop :=
  (∀ f s, ready (.cmp f) s →
    let r := s.srcs f (f.imm.signExtend 64)
    Completes (.cmp f) f s (r.2.2.setP f.d.idx.toNat
      (relation f.fn.toNat (sAt f.md r.1 < sAt f.md r.2.1) (sAt f.md r.1 = sAt f.md r.2.1)))) ∧
  (∀ f s, ready (.cmpu f) s →
    let r := s.srcs f (f.imm.signExtend 64)
    Completes (.cmpu f) f s (r.2.2.setP f.d.idx.toNat
      (relation f.fn.toNat (uAt f.md r.1 < uAt f.md r.2.1) (uAt f.md r.1 = uAt f.md r.2.1)))) ∧
  (∀ f s, ready (.fcmp f) s →
    let r := s.srcs f (f.imm.zeroExtend 64)
    Completes (.fcmp f) f s (r.2.2.setP f.d.idx.toNat
      (numCond f.fn.toNat (numOf (scalarFmt f.md) r.1) (numOf (scalarFmt f.md) r.2.1)))) ∧
  (∀ f s, ready (.dcmp f) s →
    let r := s.srcs f (f.imm.zeroExtend 64)
    Completes (.dcmp f) f s (r.2.2.setP f.d.idx.toNat (numCond (bits f.imm.toNat 2 0) (numOf 13 r.1) (numOf 13 r.2.1)))) ∧
  (∀ f s, ready (.plog f) s →
    let x := s.thr.prd f.a.idx.toNat != f.md.getLsbD 0
    let y := s.thr.prd f.b.idx.toNat != f.md.getLsbD 1
    let v := if f.fn = 0 then x && y else if f.fn = 1 then x || y else if f.fn = 2 then x != y else x && !y
    Completes (.plog f) f s (s.setP f.d.idx.toNat (v != f.md.getLsbD 2))) ∧
  (∀ f s, ready (.pget f) s → Completes (.pget f) f s (s.dst f.d ((s.thr.pred ||| 0x80000000#32).zeroExtend 64))) ∧
  (∀ f s, ready (.pset f) s →
    let r := s.src f.a 0
    Completes (.pset f) f s (r.2.modThr fun t =>
      { t with pred := (t.pred &&& ~~~f.imm) ||| (r.1.extractLsb' 0 32 &&& f.imm) ||| 0x80000000 }))

/-! ### Control -/

/-- R311 and R312: REP first faults REPBAD for a REPC above n. It then fetches the next word, faults REPBAD for one that may not
repeat, and else starts a repeat of n iterations or resumes one that an interruption left at REPC. -/
def Sys2Proof.Claims.RepeatStart : Prop := ∀ f s, ready (.rep f) s →
  let n := bits f.imm.toNat 5 0 + 1
  let m := f.imm.extractLsb' 6 3
  if n < s.thr.repc then Takes (.rep f) s { code := 0x06 } s
  else
    ∀ w s1, fetchAt s (s.thr.pc + 12) = .ok (w, s1) →
      if repBad w m then Takes (.rep f) s { code := 0x06 } s1
      else
        Jumps (.rep f) f s (s1.modThr fun t =>
          { t with repc := if t.repc = 0 then n else t.repc, rep := some ⟨n, bits f.imm.toNat 11 9, m⟩ }) s.thr.pc

/-- R333, R130 and R487: EXIT, once its release at the region's plot holds, its loads and matrix appends have returned and its frame and
its region's block can be reached, frees the slot and the frame and counts the thread as retired. -/
def Sys2Proof.Claims.ExitRetires : Prop := ∀ f s s1, ready (.exit f) s →
  s.released s.core s.slotNo (s.regionPlot s.thr) = true → s.exitSettled s.core s.slotNo (s.regionPlot s.thr) = true → s.slot.ld = 0 → s.slot.tl = 0 →
  s.exitReady s.thr.hold s.thr.rgn s.thr.frame = (true, s1) →
  exec (.exit f) s = .next { (s1.retireThread s.thr).endCycle s.core with pw := s.pw }

/-- The statements RepeatStart and ExitRetires together. -/
def Obligations.RepeatAndExit : Prop := RepeatStart ∧ ExitRetires


/-! ### Plain data in the window -/

namespace Sys2Proof.Claims

/-- A byte of the local window of the issuing thread. -/
def winByte (s : State) (a : Nat) : Byte := (s.winBytes s.core s.thr.hold a 1).headD 0

/-- Every word of the window answers RETURN to every kind of access (R176), its line is full where its region asks for that (R185), no beat
is poisoned (R71), the slot begins the instruction with no acquire open (R183, R264), and neither another slot's vector instruction nor an
engine comes between its units (R406). -/
structure PlainBank (s : State) : Prop where
  entries : ∀ kind w, s.entryAt s.core s.thr.hold kind w = 0
  full    : ∀ w, s.feOn s.core s.thr.hold w = true → s.feAt s.core s.thr.hold (8 * w) = true
  good    : ∀ off, s.winBad s.core s.thr.hold off = false
  fresh   : s.slot.resume = { served := s.slot.resume.served } ∧ s.slot.unit = 0 ∧ s.slot.acq = []
  alone   : s.ctl.choices = [] ∧ ∀ v ∈ s.co.slots, v.1 / 16 = s.core → v.1 % 16 ≠ s.slotNo → v.2.busy = []

/-- `n` bytes at a pointer into segment 0 whose offset is a multiple of `al` lie in the window (R172). -/
def InSeg0 (s : State) (r : Ref) (n al : Nat) : Prop :=
  r.seg = 0 ∧ 0 ≤ r.off ∧ r.off % (al : Nat) = 0 ∧ r.off + n ≤ (s.winSize s.thr.hold : Nat)

/-- The window holds the bytes `d` from offset `off`, and its other bytes as before. -/
def Stored (s e : State) (off : Nat) (d : List Byte) : Prop :=
  ∀ a < s.winSize s.thr.hold, winByte e a = if off ≤ a ∧ a < off + d.length then d.getD (a - off) 0 else winByte s a

end Sys2Proof.Claims

/-! ### Loads, stores and lines -/

namespace Sys2Proof.Claims

/-- A load: its size, extension, pointer and the plot at which it acquires (R367). -/
structure LoadForm where
  instr : Form
  two : Bool
  n   : Fields → Nat
  ext : Fields → Ext
  ref : State → Fields → Ref
  acq : State → Fields → Option Word

/-- LD, LDP and LDACQ. -/
def loadTable : List LoadForm := [
  ⟨.ld, false, fun f => szBytes (mdSz f.md), fun f => ⟨szBytes (mdSz f.md), mdSgn f.md⟩, State.refM, fun _ _ => none⟩,
  ⟨.ldp, true, fun _ => 16, fun _ => ⟨8, false⟩, State.refM, fun _ _ => none⟩,
  ⟨.ldacq, false, fun f => szBytes (mdSz f.md), fun f => ⟨szBytes (mdSz f.md), mdSgn f.md⟩, State.refP, fun s f => some (s.g f.b)⟩]

/-- A store: its size, pointer and the plot at which it releases (R367). -/
structure StoreForm where
  instr : Form
  two : Bool
  n   : Fields → Nat
  ref : State → Fields → Ref
  rel : State → Fields → Option Word

/-- ST, STP and STREL. -/
def storeTable : List StoreForm := [
  ⟨.st, false, fun f => szBytes (mdSz f.md), State.refM, fun _ _ => none⟩,
  ⟨.stp, true, fun _ => 16, State.refM, fun _ _ => none⟩,
  ⟨.strel, false, fun f => szBytes (mdSz f.md), State.refP, fun s f => some (s.g f.b)⟩]

/-- An acquire at the plot may complete: the plot word is good, and the thread has no release outstanding (R264). -/
def AcqOk (s : State) : Option Word → Prop
  | none => True
  | some w => plotBad w = false ∧ s.slot.rels = 0

/-- A release at the plot may go on: the plot word is good, and the earlier accesses are performed as it demands (R265). -/
def RelOk (s : State) : Option Word → Prop
  | none => True
  | some w => plotBad w = false ∧ s.released s.core s.slotNo w = true

/-- The effect of an acquire on the issuing core (R264). -/
def acquired (s : State) : Option Word → State
  | none => s
  | some _ => s.acquire s.core

end Sys2Proof.Claims

/-- R367, R178 and R264: a load whose bytes lie in the issuing core's own bank writes them, extended, to its destination at once,
retags the words as their entries say, and acquires. -/
def Sys2Proof.Claims.LoadFromOwnBank : Prop := ∀ p ∈ loadTable, ∀ f s off acts r k s1, ready (p.instr f) s →
  locate1 s kLD (p.n f) (p.n f) { r := true } (p.ref s f) = .ok (.here off acts, r, k, s1) →
  s1.unitBad s1.core s1.thr.hold acts = false → AcqOk s (p.acq s f) → AcqOk s1 (p.acq s f) →
  Completes (p.instr f) f s ((acquired (s1.retag s1.core s1.thr.hold acts) (p.acq s f)).dstNow f.d p.two (p.ext f)
    (s1.unitRead s1.core s1.thr.hold off (p.n f) acts))

/-- R256, R258 and R313: a load from another core's bank or from global memory goes to the memory port, counts in LD, and makes its
destination pending; one whose bytes the core already has completes at once. -/
def Sys2Proof.Claims.LoadFromElsewhere : Prop := ∀ p ∈ loadTable, ∀ f s hit r k s1, ready (p.instr f) s →
  locate1 s kLD (p.n f) (p.n f) { r := true } (p.ref s f) = .ok (hit, r, k, s1) →
  AcqOk s (p.acq s f) → AcqOk s1 (p.acq s f) → s1.slot.ld < 63 →
  (∀ core off, hit = .far core off → s1.behindStore (.bank core s1.thr.hold off) (p.n f) = false →
    let d := s1.dstOf f.d p.two
    let a := d.2.newAcc 1 (p.n f) d.1 (p.ext f) (p.acq s f)
    let s2 := a.2.openAcq (p.acq s f) a.1
    Completes (p.instr f) f s (s2.sendParts a.1 PqOp.rd false [(.bank core s2.thr.hold off, 0, p.n f)] r.word k)) ∧
  (∀ parts, hit = .glob parts → (parts.any fun (t, m) => s1.pooled t m) = false →
    (∀ bs src s2, s1.quickAll (cutParts 8 parts 0) = (some (bs, src), s2) →
      (∀ w, p.acq s f = some w → s2.acqOpen w src = false) →
      Completes (p.instr f) f s ((acquired s2 (p.acq s f)).dstNow f.d p.two (p.ext f) bs)) ∧
    (∀ s2, s1.quickAll (cutParts 8 parts 0) = (none, s2) → (parts.any fun (t, m) => s2.behindStore t m) = false →
      let d := s2.dstOf f.d p.two
      let a := d.2.newAcc (cutParts 8 parts 0).length (p.n f) d.1 (p.ext f) (p.acq s f) (unordered parts)
      let s3 := a.2.openAcq (p.acq s f) a.1
      Completes (p.instr f) f s (s3.sendParts a.1 PqOp.rd false (cutParts 8 parts 0) r.word k)))

/-- The statements LoadFromOwnBank and LoadFromElsewhere together. -/
def Obligations.LoadsComplete : Prop := LoadFromOwnBank ∧ LoadFromElsewhere

/-- R367 and R265: a store to the issuing core's own bank writes its bytes at once, after a release's earlier accesses. -/
def Sys2Proof.Claims.StoreToOwnBank : Prop := ∀ p ∈ storeTable, ∀ f s off acts r k s1, ready (p.instr f) s →
  locate1 s kST (p.n f) (p.n f) { w := true } (p.ref s f) = .ok (.here off acts, r, k, s1) →
  RelOk s (p.rel s f) → RelOk s1 (p.rel s f) →
  let d := s1.storeSrc f.d p.two (p.n f)
  Completes (p.instr f) f s
    ((d.2.unitWrite d.2.core d.2.thr.hold off d.1 acts d.2.thr.rgn r.word).retag d.2.core d.2.thr.hold acts)

/-- R255 and R265: a store elsewhere takes the next store number and goes to the slot's post buffer, in word pieces. -/
def Sys2Proof.Claims.StoreToElsewhere : Prop := ∀ p ∈ storeTable, ∀ f s hit r k s1, ready (p.instr f) s →
  locate1 s kST (p.n f) (p.n f) { w := true } (p.ref s f) = .ok (hit, r, k, s1) →
  RelOk s (p.rel s f) → RelOk s1 (p.rel s f) → s1.slot.issued - s1.slot.drained < 63 →
  (∀ core off, hit = .far core off →
    let d := s1.storeSrc f.d p.two (p.n f)
    let a := d.2.newStore 1 (some core)
    let s2 := if (p.rel s f).isSome then a.2.modSlot fun v => { v with rels := v.rels + 1 } else a.2
    Completes (p.instr f) f s (s2.toPost
      [{ s2.entry none (some a.1) (.wr d.1) 0 (.bank core s2.thr.hold off) r.word k with rel := (p.rel s f).isSome }])) ∧
  (∀ parts, hit = .glob parts → (parts.any fun (t, m) => s1.pooled t m) = false →
    let d := s1.storeSrc f.d p.two (p.n f)
    let ps := cutParts 8 parts 0
    let a := d.2.newStore ps.length none
    let s2 := a.2.modSlot fun v => { v with
      strong := v.strong + (ps.filter fun (t, _, _) => t.kind = 1).length
      rels := v.rels + (if (p.rel s f).isSome then ps.length else 0) }
    Completes (p.instr f) f s (s2.toPost (ps.map fun (t, off, m) =>
      { s2.entry none (some a.1) (.wr ((d.1.drop off).take m)) off t r.word k with rel := (p.rel s f).isSome })))

/-- The statements StoreToOwnBank and StoreToElsewhere together. -/
def Obligations.StoresComplete : Prop := StoreToOwnBank ∧ StoreToElsewhere

/-- R132, R369 and R370: PREF faults for nothing at its address; a roaming thread goes to the line's home, and without a line to fetch PREF only goes on, while its
choice to fetch, with a token and the host's state of the line, makes the line's words valid in L1. WBK is one store for its line, and LINV
drops the line's unregistered words from the core's L1; both have no effect where R370 names none. -/
def Obligations.LineOperations : Prop :=
  (∀ f s s1, ready (.pref f) s → s.quietLine (s.refM f) = (none, s1) → Completes (.pref f) f s s1) ∧
  (∀ f s line leaf s1, ready (.pref f) s → s.quietLine (s.refM f) = (some (line, leaf), s1) →
    (s1.thr.pinned = false → leaf.home ≠ clusterOf s1.core →
      exec (.pref f) s = .next { conclude f.yld s.core (leftM (s1.migrateTo leaf.home false)) with pw := s.pw }) ∧
    (s1.thr.pinned = true ∨ leaf.home = clusterOf s1.core →
      (leaf.kind = 1 → Completes (.pref f) f s s1) ∧
      (∀ s2, leaf.kind ≠ 1 → s1.choose 2 = (0, s2) → Completes (.pref f) f s s2) ∧
      (∀ s2, leaf.kind ≠ 1 → s1.choose 2 = (1, s2) →
        let a := atHome leaf s2.thr.hold s2.thr.rgn (s2.refM f).word
        let gate := (s2.hdmGate none (line * 128) 128 false s2.thr.hold s2.thr.rgn).1
        (∀ s3, s2.token leaf.home s2.thr.hold = some s3 → gate = true →
          Completes (.pref f) f s ((lineWords line).foldl (fun (s : State) w =>
            let v := s.homeWord a w
            if (v.2.l1 s2.core w).isNone && v.2.l1Count s2.core < 8192 && !v.2.wordBad a w then
              v.2.setL1 s2.core w (some (v.2.copyOf w v.1))
            else v.2) (s3.l2In a line))) ∧
        (s2.token leaf.home s2.thr.hold = none ∨ gate = false → Completes (.pref f) f s s2)))) ∧
  (∀ f s s1, ready (.wbk f) s → lineCheck s (s.refM f) = .ok (none, s1) → Completes (.wbk f) f s s1) ∧
  (∀ f s line leaf s1, ready (.wbk f) s → lineCheck s (s.refM f) = .ok (some (line, leaf), s1) →
    s1.slot.issued - s1.slot.drained < 63 →
    let a := s1.newStore 1 none
    Completes (.wbk f) f s (a.2.toPost [a.2.entry none (some a.1) .wbk 0 (.dev (line * 128) leaf) (a.2.refM f).word 0])) ∧
  (∀ f s s1, ready (.linv f) s → lineCheck s (s.refM f) = .ok (none, s1) → Completes (.linv f) f s s1) ∧
  (∀ f s line leaf s1, ready (.linv f) s → lineCheck s (s.refM f) = .ok (some (line, leaf), s1) →
    Completes (.linv f) f s ((lineWords line).foldl (fun (s : State) w =>
      if ((s.l1 s.core w).map (·.reg)) = some none then s.setL1 s.core w none else s) s1))

/-! ### Tags, full/empty bits and tables -/

namespace Sys2Proof.Claims

/-- A tag or full/empty instruction: its pointer, bytes, rights, and the operation that its operands give (R372, R375). -/
structure PadForm where
  instr : Form
  ref  : State → Fields → Ref
  n    : Nat
  need : Need
  op   : State → Fields → PqOp × State

/-- TAGLD, TAGST, TAGCAS, FEGET, FESET and FECLR. -/
def padTable : List PadForm := [
  ⟨.tagld, State.refM, 8, { r := true }, fun s _ => (.tagld, s)⟩,
  ⟨.tagst, State.refM, 8, { w := true }, fun s f => (.tagst ((s.src f.d 0).1.extractLsb' 0 4), (s.src f.d 0).2)⟩,
  ⟨.tagcas, State.refV, 8, { r := true, w := true }, fun s f =>
    (.tagcas ((s.src f.b 0).2.g f.d |>.extractLsb' 0 4) ((s.src f.b 0).1.extractLsb' 0 4), (s.src f.b 0).2)⟩,
  ⟨.feget, State.refM, 1, { r := true }, fun s _ => (.feget, s)⟩,
  ⟨.feset, State.refM, 1, { w := true }, fun s _ => (.feset, s)⟩,
  ⟨.feclr, State.refM, 1, { w := true }, fun s _ => (.feclr, s)⟩]

end Sys2Proof.Claims

/-- R371, R372 and R375: a tag or full/empty instruction on the issuing core's own bank acts at once and pins the thread; on another
core's bank it goes to the memory port and counts in LD until it is acknowledged. -/
def Sys2Proof.Claims.TagAndFullEmpty : Prop := ∀ p ∈ padTable, ∀ f s core off, ready (p.instr f) s →
  padSpot s (p.ref s f) p.n p.n p.need = .ok (core, off) →
  (core = s.core → busyPast s (winWords off p.n) = .ok () →
    let o := p.op s f
    let a := o.2.pin.padNow o.2.pin.core o.2.pin.thr.hold off o.1
    Completes (p.instr f) f s (if p.need.r then a.2.dst f.d a.1 else a.2)) ∧
  (core ≠ s.core → (s.thr.pinned = true ∨ clusterOf core = clusterOf s.core) → s.slot.ld < 63 →
    s.behindStore (.bank core s.thr.hold off) p.n = false →
    let o := p.op s f
    let d := if p.need.r then o.2.dstOf f.d false else (.none, o.2)
    let a := d.2.newAcc 1 8 d.1 ⟨8, false⟩ none false p.need.w
    Completes (p.instr f) f s (a.2.sendParts a.1 (fun _ => o.1) false [(.bank core a.2.thr.hold off, 0, p.n)] (p.ref s f).word 0))

/-- R373 and R374: TBLLD reads its image in 128-byte units, from a window of plain data at once, and loads it into the table's inactive
bank; TSWAP makes that bank the active one and wakes the accesses that the table parked; both pin the thread. -/
def Sys2Proof.Claims.ActionTables : Prop :=
  (∀ f s, ready (.tblld f) s → PlainBank s → InSeg0 s (refOf (s.g f.a) 0) 256 16 →
    let t := bits f.imm.toNat 1 0
    ∃ e, Completes (.tblld f) f s e ∧ (∀ a < s.winSize s.thr.hold, winByte e a = winByte s a) ∧
      e.hcAt s.core s.thr.hold =
        (s.loadTable s.core s.thr.hold t (s.winBytes s.core s.thr.hold (refOf (s.g f.a) 0).off.toNat 256)).hcAt s.core s.thr.hold) ∧
  (∀ f s s0 d1 s1 d2 s2, ready (.tblld f) s →
    let r := refOf (s.g f.a) 0
    wholeOk s r 256 16 { r := true } = .ok s0 →
    let n := 128 - s.addrOf r % 128
    unitRd kVR { r := true } s0 r n 16 = .ok (d1, s1) → unitRd kVR { r := true } s1 (r.add n) 128 16 = .ok (d2, s2) →
    (n = 128 → Completes (.tblld f) f s (s2.pin.loadTable s2.pin.core s2.pin.thr.hold (bits f.imm.toNat 1 0) (d1 ++ d2))) ∧
    (∀ d3 s3, n ≠ 128 → unitRd kVR { r := true } s2 (r.add (n + 128)) (128 - n) 16 = .ok (d3, s3) →
      Completes (.tblld f) f s (s3.pin.loadTable s3.pin.core s3.pin.thr.hold (bits f.imm.toNat 1 0) (d1 ++ d2 ++ d3)))) ∧
  (∀ f s, ready (.tswap f) s →
    let t := bits f.imm.toNat 1 0
    let h := s.thr.hold
    let s1 := s.pin.modHc s.pin.core h fun c => { c with bank1 := Tab.set false c.bank1 t (!(Tab.get false c.bank1 t)) }
    Completes (.tswap f) f s (s1.wakeTable s1.core h t))

/-- The statements TagAndFullEmpty and ActionTables together. -/
def Obligations.TagsAndTables : Prop := TagAndFullEmpty ∧ ActionTables

/-! ### Atomics, pools and incumbent cells -/

namespace Sys2Proof.Claims

/-- An atomic that returns a value or none: its bytes, extension, whether it names register pairs, its destination and pointer, the
plots of its acquire and release, the operation that its operands give, and the places at which it is one (R377 to R380). -/
structure AtomicForm where
  instr : Form
  two   : Bool
  n     : Fields → Nat
  ext   : Fields → Ext
  dst   : Fields → Operand
  ref   : State → Fields → Ref
  acq   : State → Fields → Option Word
  rel   : State → Fields → Option Word
  op    : State → Fields → PqOp × State
  fits  : State → Hit → Bool

/-- The plot of an acquire of ORD in form V (R361). -/
def acqOf (s : State) (f : Fields) : Option Word := if mdOrd f.md % 2 = 1 then some (s.thr.gpr (plotIdx f.imm)) else none
/-- The plot of a release of ORD in form V (R361). -/
def relOf (s : State) (f : Fields) : Option Word := if 2 ≤ mdOrd f.md then some (s.thr.gpr (plotIdx f.imm)) else none

/-- The word is combined in the core's pool (R380). -/
def pools (s : State) : Hit → Bool
  | .glob [(.dev pa leaf, _)] => s.poolable (.dev pa leaf)
  | _ => false

/-- ATOM, CAS, CAS2, and POOL where it does not combine. -/
def atomicTable : List AtomicForm := [
  ⟨.atom, false, fun f => szBytes (mdSz f.md), fun f => ⟨szBytes (mdSz f.md), mdSgn f.md⟩, Fields.d, State.refV, acqOf, relOf,
    fun s f => (.atom f.fn.toNat (szBytes (mdSz f.md)) (s.src f.b 0).1, (s.src f.b 0).2), fun _ _ => true⟩,
  ⟨.cas, false, fun f => szBytes (mdSz f.md), fun f => ⟨szBytes (mdSz f.md), mdSgn f.md⟩, Fields.d, State.refV, acqOf, relOf,
    fun s f => (.cas (szBytes (mdSz f.md)) (s.g f.d) (s.src f.b 0).1, (s.src f.b 0).2), fun _ _ => true⟩,
  ⟨.cas2, true, fun _ => 16, fun _ => ⟨8, false⟩, Fields.d, State.refV, acqOf, relOf,
    fun s f => (.cas2 (s.g f.d) (s.g1 f.d) (s.g f.b) (s.g1 f.b), s), fun _ _ => true⟩,
  ⟨.pool, false, fun f => szBytes (mdSz f.md), fun f => ⟨szBytes (mdSz f.md), false⟩, fun _ => ⟨.Z, 0⟩, State.refM,
    fun _ _ => none, fun _ _ => none,
    fun s f => (.atom f.fn.toNat (szBytes (mdSz f.md)) (s.src f.d 0).1, (s.src f.d 0).2), fun s h => !pools s h⟩]

end Sys2Proof.Claims

/-- R376 to R380: an atomic at the issuing core's own bank is one step there; elsewhere it goes to the memory port as one request for
each page, counts in LD, and returns the old value. -/
def Sys2Proof.Claims.AtomicCompletes : Prop := ∀ p ∈ atomicTable, ∀ f s hit r k s1, ready (p.instr f) s →
  locate1 s kAT (p.n f) (p.n f) { r := true, w := true, a := true, soft := (p.op s f).1.compares } (p.ref s f) = .ok (hit, r, k, s1) →
  p.fits s1 hit = true →
  AcqOk s (p.acq s f) → AcqOk s1 (p.acq s f) → RelOk s (p.rel s f) → RelOk s1 (p.rel s f) →
  let o := p.op s1 f
  let going := fun (free : Bool) (d : Dst × State) =>
    let a := d.2.newAcc 1 (p.n f) d.1 (p.ext f) (p.acq s f) free true
    (a.1, (a.2.openAcq (p.acq s f) a.1).modSlot fun v => { v with rels := v.rels + (if (p.rel s f).isSome then 1 else 0) })
  (∀ off acts, hit = .here off acts → s1.unitBad s1.core s1.thr.hold acts = false →
    let a := o.2.atomHere off (p.n f) acts o.1 r.word
    Completes (p.instr f) f s ((acquired a.2 (p.acq s f)).dstNow (p.dst f) p.two (p.ext f) a.1)) ∧
  (∀ core off, hit = .far core off → s1.slot.ld < 63 → s1.behindStore (.bank core s1.thr.hold off) (p.n f) = false →
    let a := going false (o.2.dstOf (p.dst f) p.two)
    Completes (p.instr f) f s
      (a.2.sendParts a.1 (fun _ => o.1) (p.rel s f).isSome [(.bank core a.2.thr.hold off, 0, p.n f)] r.word k)) ∧
  (∀ parts, hit = .glob parts → (parts.any fun (t, _) => s1.nsBad s1.thr.hold t o.1) = false → s1.slot.ld < 63 → clearWay s1 parts = .ok () →
    let a := going (unordered parts) (o.2.dstOf (p.dst f) p.two)
    Completes (p.instr f) f s
      (a.2.sendParts a.1 (fun _ => o.1) (p.rel s f).isSome (parts.map fun (t, m) => (t, 0, m)) r.word k))

/-- R212, R213 and R380: POOL on a poolable word combines with the core's entry of the same address, operation and width, or makes a new
entry while fewer than 32 are held. -/
def Sys2Proof.Claims.PoolCombines : Prop := ∀ f s pa leaf m r k s1, ready (.pool f) s →
  let n := szBytes (mdSz f.md)
  locate1 s kAT n n { r := true, w := true, a := true } (s.refM f) = .ok (.glob [(.dev pa leaf, m)], r, k, s1) →
  s1.poolable (.dev pa leaf) = true → s1.behindStore (.dev pa leaf) n = false → s1.storeAhead (.dev pa leaf) n = false →
  let v := s1.src f.d 0
  (∀ e, ((s1.pools s1.core).find? fun e => e.word = pa / 8) = some e → e.off = pa % 8 → e.op = f.fn.toNat → e.size = n →
    Completes (.pool f) f s (v.2.setPools v.2.core (e.join v.2.slotNo v.1 :: (s1.pools s1.core).filter (· ≠ e)))) ∧
  (((s1.pools s1.core).find? fun e => e.word = pa / 8) = none → (s1.pools s1.core).length < 32 →
    Completes (.pool f) f s (v.2.setPools v.2.core
      (⟨pa / 8, pa % 8, f.fn.toNat, n, BitVec.ofNat 64 (v.1.toNat % 2 ^ (8 * n)), BitVec.twoPow 16 v.2.slotNo, leaf.home, v.2.thr.hold,
        v.2.thr.rgn, leaf.key, false, false, false⟩ :: s1.pools s1.core)))

/-- R381: POOLF is an FADD that returns nothing: at the own bank at once, elsewhere as a store. -/
def Sys2Proof.Claims.PoolfCompletes : Prop := ∀ f s hit r k s1, ready (.poolf f) s →
  let n := szBytes (mdSz f.md)
  locate1 s kAT n n { r := true, w := true, a := true } (s.refM f) = .ok (hit, r, k, s1) →
  let v := s1.src f.d 0
  (∀ off acts, hit = .here off acts → s1.unitBad s1.core s1.thr.hold acts = false →
    Completes (.poolf f) f s (v.2.atomHere off n acts (.atom 9 n v.1) r.word).2) ∧
  (∀ core off, hit = .far core off → s1.slot.issued - s1.slot.drained < 63 →
    let a := v.2.newStore 1 (some core)
    Completes (.poolf f) f s
      (a.2.toPost [a.2.entry none (some a.1) (.atom 9 n v.1) 0 (.bank core a.2.thr.hold off) r.word k])) ∧
  (∀ parts, hit = .glob parts → (parts.any fun (t, _) => s1.nsBad s1.thr.hold t (.atom 9 n 0)) = false →
    s1.slot.issued - s1.slot.drained < 63 → (parts.any fun (t, m) => s1.pooled t m) = false →
    let a := v.2.newStore parts.length none
    let s2 := a.2.modSlot fun x => { x with strong := x.strong + (parts.filter fun (t, _) => t.kind = 1).length }
    Completes (.poolf f) f s (s2.toPost (parts.map fun (t, _) => s2.entry none (some a.1) (.atom 9 n v.1) 0 t r.word k)))

/-- The statements AtomicCompletes, PoolCombines and PoolfCompletes together. -/
def Obligations.AtomicsAndPools : Prop := AtomicCompletes ∧ PoolCombines ∧ PoolfCompletes

/-- R150, R151, R154 and R382 to R385: INCLD reads a cell of the holding and acquires; INCOFR releases, offers its value and returns the
old one; INCSET resets the cell once and completes when every cluster knows. -/
def Obligations.IncumbentInstructions : Prop := ∀ c,
  (∀ f s, ready (.incld f) s → c = bits f.imm.toNat 5 0 → bit (s.hword s.thr.hold 0x90) c = true → s.slot.rels = 0 → s.slot.ld < 63 →
    let s1 := (s.acquire s.core).setG2 f.d.idx.toNat (s.cell c).val (s.cell c).pay
    Completes (.incld f) f s (if f.a.cls = .P then s1.setP f.a.idx.toNat (s.cell c).set else s1)) ∧
  (∀ f s, ready (.incofr f) s → c = bits f.imm.toNat 5 0 → bit (s.hword s.thr.hold 0x90) c = true → s.slot.ld < 63 →
    s.released s.core s.slotNo 0x8000000000000000 = true →
    let r := s.srcs f 0
    Completes (.incofr f) f s ((r.2.2.offer c (clusterOf r.2.2.core) r.1 r.2.1).dst f.d (r.2.2.cell c).val)) ∧
  (∀ f s, ready (.incset f) s → c = bits f.imm.toNat 5 0 → bit (s.hword s.thr.hold 0x90) c = true →
    (s.slot.sent = false → exec (.incset f) s = .next
      { conclude f.yld s.core (.error (.stay ((s.resetCell c (f.imm.getLsbD 8)).modSlot fun v => { v with sent := true }))) with
        pw := s.pw }) ∧
    (s.slot.sent = true → s.resetPending c = false → Completes (.incset f) f s s))

/-! ### Fences, timelines and barriers -/

/-- R267, R387 and R388: a fence goes on when the thread's earlier accesses are performed as its order demands, and an acquiring one
empties the core's unregistered L1 words and its instruction buffer; WAITC goes on when the counters of its mask are 0. -/
def Sys2Proof.Claims.FenceAndCounters : Prop := ∀ f s,
  (ready (.fence f) s → plotBad (s.g f.a) = false →
    (mdOrd f.md = 1 → s.slot.rels = 0 → s.slot.ld = 0 →
      Completes (.fence f) f s (s.acquire s.core)) ∧
    (mdOrd f.md = 2 → s.fenced s.core s.slotNo (s.g f.a) = true → Completes (.fence f) f s s) ∧
    (mdOrd f.md = 0 → s.fenced s.core s.slotNo (s.g f.a) = true → s.slot.rels = 0 →
      Completes (.fence f) f s (s.acquire s.core))) ∧
  (ready (.waitc f) s → (f.imm.getLsbD 0 = true → s.slot.ld = 0) → (f.imm.getLsbD 1 = true → s.slot.issued - s.slot.drained = 0) →
    (f.imm.getLsbD 2 = true → s.slot.cp = 0) → (f.imm.getLsbD 3 = true → s.slot.tl = 0) → Completes (.waitc f) f s s)

/-- R277 to R279, R389 and R390: WAITTL acquires and goes on when its timeline has reached the value, or goes on without an acquire when
the timeline has stopped at or before it; TLGET and TLGET.stat read a timeline. -/
def Sys2Proof.Claims.TimelineInstructions : Prop := ∀ f s t, s.timeline s.thr.hold (bits (s.g f.a).toNat 31 0) = .ok t →
  (ready (.waittl f) s → plotBad (s.g f.d) = false →
    let v := s.src f.b 0
    ((v.1.toNat ≤ t.count) → s.slot.rels = 0 →
      let e := v.2.acquire s.core
      Completes (.waittl f) f s (if f.imm.getLsbD 5 then e.setP (bits f.imm.toNat 4 0) true else e)) ∧
    (t.count < v.1.toNat → t.err = true → t.ecmd ≤ v.1.toNat →
      Completes (.waittl f) f s (if f.imm.getLsbD 5 then v.2.setP (bits f.imm.toNat 4 0) false else v.2))) ∧
  (ready (.tlget f) s → Completes (.tlget f) f s (s.dst f.d (BitVec.ofNat 64 t.count))) ∧
  (ready (.tlgetStat f) s → Completes (.tlgetStat f) f s (s.dst f.d (BitVec.ofNat 64
    ((if t.err then 2 ^ 63 else 0) + (if t.susp then 2 ^ 62 else 0) + t.cause % 256 * 2 ^ 48 + t.ecmd % 2 ^ 48))))

/-- The statements FenceAndCounters and TimelineInstructions together. -/
def Obligations.FencesAndTimelines : Prop := FenceAndCounters ∧ TimelineInstructions

/-- R394 to R396: BARSET sets a barrier register that no thread has arrived at, BARARR arrives and reads the generation, which a
register with an empty mask only reads, and BARWT acquires once its phase is over; each pins the thread. -/
def Sys2Proof.Claims.PlotBarriers : Prop := ∀ f s,
  let n := bits f.imm.toNat 2 0
  let h := s.thr.hold
  let b := s.bar s.core h n
  (ready (.barset f) s →
    let w := s.g f.a
    let m := (s.g f.b).extractLsb' 0 16
    plotBad w = false → plotKind w = 0 ∨ plotKind w = 1 →
    (plotKind w = 0 → (plotOf w.toNat).inside (s.hplot h) = true ∧ (plotOf w.toNat).covers s.core = true) →
    m &&& ~~~(BitVec.ofNat 16 (s.hslots h)) = 0 → b.arrived = 0 →
    Completes (.barset f) f s (s.pin.setBar s.core h n { plot := w, mask := m, gen := b.gen })) ∧
  (ready (.bararr f) s →
    (b.mask = 0 → Completes (.bararr f) f s (s.pin.dst f.d (b.gen.zeroExtend 64))) ∧
    (b.mask.getLsbD s.slotNo = true → b.arrived.getLsbD s.slotNo = false → s.released s.core s.slotNo b.plot = true →
      Completes (.bararr f) f s
        (((s.pin.setBar s.core h n { b with arrived := b.arrived ||| BitVec.twoPow 16 s.slotNo }).dst f.d (b.gen.zeroExtend 64)).barProgress
          s.core h n))) ∧
  (ready (.barwt f) s →
    (if f.a.cls = .Z then b.arrived.getLsbD s.slotNo = false else b.gen ≠ (s.g f.a).extractLsb' 0 4) → s.slot.rels = 0 →
    Completes (.barwt f) f s (s.pin.acquire s.core))

/-- R395: an arrival message counts a core's east or south neighbours in, and a release message ends the phase, where the register of
the receiving core agrees. -/
def Sys2Proof.Claims.BarrierMessages : Prop := ∀ s m, s.co.barMsg[s.ctl.here.pos]? = some m →
  let b := s.bar m.core m.hold m.reg
  b.mask ≠ 0 → b.plot = m.plot → b.mask = m.mask →
  let s1 := { s with co := { s.co with barMsg := s.co.barMsg.eraseIdx s.ctl.here.pos } }
  (m.release = false → Happens .barrierArrivalMessage s
    ((s1.setBar m.core m.hold m.reg (if m.south then { b with upSouth := true } else { b with up := true })).barProgress
      m.core m.hold m.reg)) ∧
  (m.release = true → Happens .barrierReleaseMessage s (s1.barRelease m.core m.hold m.reg))

/-- The statements PlotBarriers and BarrierMessages together. -/
def Obligations.BarriersOfPlots : Prop := PlotBarriers ∧ BarrierMessages

/-- R296, R297 and R397: BOINIT writes a barrier object; BOARR and BOEXP update ARR and INB and then make the phase test, BOARR reading
the generation before it; BOWT acquires once its phase is over. -/
def Sys2Proof.Claims.BarrierObjects : Prop := ∀ f s off,
  (ready (.boinit f) s → objOff s (s.refM f) = .ok off →
    let v := s.pin.src f.d 0
    Completes (.boinit f) f s (v.2.putObj v.2.core v.2.thr.hold off
      ⟨v.1.extractLsb' 16 4, v.1.extractLsb' 0 16, 0, v.1.extractLsb' 32 32, 0, v.1.extractLsb' 0 16, 0⟩ v.2.thr.rgn (s.refM f).word)) ∧
  (ready (.boarr f) s → plotBad (s.g f.b) = false → objOff s (s.refP f) = .ok off → s.winBad s.core s.thr.hold off = false →
    s.released s.core s.slotNo (s.g f.b) = true →
    let o := s.barObj s.core s.thr.hold off
    Completes (.boarr f) f s
      ((s.pin.putObj s.core s.thr.hold off { o with arr := o.arr - (if o.arr = 0 then 0 else 1) }.test s.thr.rgn (s.refP f).word).dst f.d
        (o.gen.zeroExtend 64))) ∧
  (ready (.boexp f) s → objOff s (s.refM f) = .ok off → s.winBad s.core s.thr.hold off = false →
    let v := s.pin.src f.d 0
    let o := v.2.barObj v.2.core v.2.thr.hold off
    Completes (.boexp f) f s
      (v.2.putObj v.2.core v.2.thr.hold off { o with inb := o.inb + v.1.extractLsb' 0 32 }.test v.2.thr.rgn (s.refM f).word)) ∧
  (ready (.bowt f) s → plotBad (s.g f.b) = false → objOff s (s.refP f) = .ok off → s.winBad s.core s.thr.hold off = false →
    let o := s.barObj s.core s.thr.hold off
    o.gen ≠ (s.g f.d).extractLsb' 0 4 ∨ o.arr = 0 ∧ o.inb = 0 ∧ o.outb = 0 → s.slot.rels = 0 →
    Completes (.bowt f) f s (s.pin.acquire s.core))

/-- R297: the phase test of a barrier object. -/
def Sys2Proof.Claims.PhaseTest : Prop := ∀ o : BarObj,
  (o.arr = 0 ∧ o.inb = 0 ∧ o.outb = 0 → o.test = { o with gen := o.gen + 1, arr := o.arrinit }) ∧
  (¬(o.arr = 0 ∧ o.inb = 0 ∧ o.outb = 0) → o.test = o) ∧ BarObj.ofBytes o.bytes = o

/-- The statements BarrierObjects and PhaseTest together. -/
def Obligations.BarriersInMemory : Prop := BarrierObjects ∧ PhaseTest

/-! ### Memory queues and mailboxes -/

namespace Sys2Proof.Claims

/-- QPUSH and QPOP. -/
def queueTable : List (Form × Bool) := [(.qpush, true), (.qpop, false)]

end Sys2Proof.Claims

/-- R271, R391, R398 and R399: QPUSH and QPOP send a request to the header's home, and wait; the home writes an entry with its producer and
stamp and passes the push, or takes an entry and passes the pop, whose value lands and acquires once the producer's stores have drained. -/
def Sys2Proof.Claims.MemoryQueues : Prop :=
  (∀ p ∈ queueTable, ∀ f s a pa leaf m s1, ready (p.1 f) s → s.slot.sent = false → s.slot.ld < 63 → p.2 = true ∨ s.slot.rels = 0 →
    reachM s s.who (s.refM f) 64 64 { r := true, w := true, a := true } = .ok (.mva a) →
    transParts s s.thr.hold (clusterOf s.core) a 64 { r := true, w := true, a := true } (s.refM f).word = .ok ([(.dev pa leaf, m)], s1) →
    s1.slot.acq = [] ∨ leaf.kind = 2 → roams s1 [(.dev pa leaf, m)] = none →
    let v := if p.2 && f.d.cls = .G then s1.g f.d else 0
    let d : Dst := if f.d.cls = .Q then .queue f.d.idx.toNat [] else .reg (s1.thr.dstNo f.d.idx.toNat)
    let n := s1.newId
    let q : QReq := ⟨n.2.core, n.2.slotNo, n.2.thr.hold, a, .dev pa leaf, p.2, v, n.2.slot.issued, none, d, n.1, f.yld⟩
    exec (p.1 f) s = .next { conclude f.yld s.core (.error (.stay
      ({ n.2 with sc := { n.2.sc with qreqs := n.2.sc.qreqs ++ [q] } }.modSlot fun x => { x with sent := true }))) with pw := s.pw }) ∧
  (∀ s q pa leaf h ea el hb s1 s2 s3 s4 s5 g, s.sc.qreqs[s.ctl.here.pos]? = some q → q.taken = none → q.hdrAt = .dev pa leaf →
    q.dst = .reg g →
    let who : Req := .queue q.core q.slot
    let rgn := ((s.slotAt q.core q.slot).thr.map (·.rgn)).getD 0
    let at_ := atHome leaf q.hold rgn (BitVec.ofNat 64 q.hdr)
    (s.keyMat leaf.key).isSome = true → s.hdmGate (some who) pa 64 true q.hold rgn = (true, s1) → s1.homeBytes at_ pa 64 = (hb, false, s2) →
    qHdrOf hb = some h → s2.walksOpen ⟨who, q.hold, rgn⟩ h.pages = (true, s3) → s3.ringBad q.hold h = false →
    let k := if q.push then h.tail else h.head
    let mva := h.rbase + 32 * (k.toNat % (h.capm1 + 1))
    s3.translate ⟨who, q.hold, rgn⟩ (clusterOf q.core) mva { r := true, w := true } = (.ok (.dev ea el), s4) →
    s4.hdmGate (some who) ea 32 q.push q.hold rgn = (true, s5) →
    let ent := atHome el q.hold rgn (BitVec.ofNat 64 mva)
    (q.push = true → (h.tail - h.head).toNat ≤ h.capm1 →
      let src := coreX q.core + coreY q.core * 2 ^ 8 + q.slot * 2 ^ 16
      let s6 := s5.homeStore ent none ea (leBytes 8 q.value.toNat ++ leBytes 8 q.stamp ++ leBytes 8 src ++ leBytes 8 0)
      let s7 := s6.homeStore at_ none (pa + 24) (leBytes 8 (h.tail + 1).toNat)
      Happens .queueHomeStep s ((s7.setQReq s.ctl.here.pos none).passed q.core q.slot q.yld)) ∧
    (∀ e s6, q.push = false → h.tail ≠ h.head → s5.homeBytes ent ea 32 = (e, false, s6) →
      let s7 := s6.homeStore at_ none (pa + 16) (leBytes 8 (h.head + 1).toNat)
      let src := leNat ((e.drop 16).take 8)
      let prod := slotKey (coreAt (bits src 6 0) (bits src 13 8)) (bits src 19 16)
      let q1 := { q with taken := some (wordLe e, leNat ((e.drop 8).take 8), prod) }
      Happens .queueHomeStep s (((s7.setQReq s.ctl.here.pos (some q1)).passed q.core q.slot q.yld).modSlotAt q.core q.slot fun v =>
        { v with ld := v.ld + 1, acq := v.acq ++ [q.id], pendG := v.pendG ++ [idxNo g] }))) ∧
  (∀ s q v stamp prod, s.sc.qreqs[s.ctl.here.pos]? = some q → q.taken = some (v, stamp, prod) →
    stamp ≤ (Tab.get {} s.co.slots prod).drained → s.killing q.core q.slot = false →
    let e := (s.setQReq s.ctl.here.pos none).land q.core q.slot q.hold q.dst ⟨8, false⟩ (some (leBytes 8 v.toNat))
    Happens .queueHomeStep s ((e.acquire q.core).modSlotAt q.core q.slot fun x =>
      { x with ld := x.ld - 1, acq := x.acq.filter (· ≠ q.id) }))

/-- R188 and R400: MBPUT at an empty mailbox, in its turn and with every earlier access performed at module scope, fills it from eight
registers and raises MAIL; MBTAKE at a full one, in its turn, empties it into eight registers and acquires. -/
def Sys2Proof.Claims.Mailboxes : Prop := ∀ f s,
  let n := bits f.imm.toNat 2 0
  let h := s.thr.hold
  (ready (.mbput f) s → Tab.get false (s.hcAt s.core h).mbFull n = false → s.mboxTurn (2 * n) = true →
    s.released s.core s.slotNo 0x8000000000000000 = true →
    Completes (.mbput f) f s ((s.pin.modHc s.core h fun c => { c with
      mb := Tab.setBytes c.mb (64 * n) ((List.range 8).flatMap fun k => leBytes 8 (s.thr.gpr (f.a.idx.toNat + k)).toNat)
      mbFull := Tab.set false c.mbFull n true }).raiseMail s.core h)) ∧
  (ready (.mbtake f) s → Tab.get false (s.hcAt s.core h).mbFull n = true → s.mboxTurn (2 * n + 1) = true → s.slot.rels = 0 →
    Completes (.mbtake f) f s
      (((List.range 8).foldl (fun (t : State) k =>
        t.setG (f.d.idx.toNat + k) (wordLe ((Tab.bytes (s.hcAt s.core h).mb (64 * n) 64).drop (8 * k))))
        (s.pin.modHc s.core h fun c => { c with mbFull := Tab.set false c.mbFull n false })).acquire s.core))

/-- The statements MemoryQueues and Mailboxes together. -/
def Obligations.QueuesAndMailboxes : Prop := MemoryQueues ∧ Mailboxes

/-! ### Vectors and special functions -/

namespace Sys2Proof.Claims

/-- An elementwise instruction: whether it reads D, whether it is for integers only, and its value for one element under the rounding
mode and at the element's width (R408, R409). -/
structure VecForm where
  instr   : Form
  old     : Bool
  intOnly : Bool
  value   : Rm → Nat → ExtNum → ExtNum → ExtNum → ExtNum

/-- The elementwise vector instructions. -/
def vecTable : List VecForm := [
  ⟨.vadd, false, false, fun rm _ x y _ => ExtNum.add rm x y⟩,
  ⟨.vsub, false, false, fun rm _ x y _ => ExtNum.add rm x y.negate⟩,
  ⟨.vmul, false, false, fun _ _ x y _ => ExtNum.mul x y⟩,
  ⟨.vfma, true, false, fun rm _ x y z => ExtNum.fma rm x y z⟩,
  ⟨.vmin, false, false, fun _ _ x y _ => ExtNum.pick false x y⟩,
  ⟨.vmax, false, false, fun _ _ x y _ => ExtNum.pick true x y⟩,
  ⟨.vabs, false, false, fun _ _ x _ _ => x.absolute⟩,
  ⟨.vand, false, true, fun _ w x y _ => ExtNum.ofInt (intCode w x.int &&& intCode w y.int : Nat)⟩,
  ⟨.vor, false, true, fun _ w x y _ => ExtNum.ofInt (intCode w x.int ||| intCode w y.int : Nat)⟩,
  ⟨.vxor, false, true, fun _ w x y _ => ExtNum.ofInt (intCode w x.int ^^^ intCode w y.int : Nat)⟩,
  ⟨.vshl, false, true, fun _ w x y _ => ExtNum.ofInt (x.int * (2 ^ (y.int % w).toNat : Nat))⟩,
  ⟨.vshr, false, true, fun _ w x y _ => ExtNum.ofInt (x.int / (2 ^ (y.int % w).toNat : Nat))⟩]

/-- The shapes of D and A stand in memory and pass the checks of R403, R405 and R417; `s2` is the state after their reads. -/
structure TwoShapes (f : Fields) (s : State) (d a : Shape) (s2 : State) : Prop where
  readD  : ∃ s1, readShape s (s.g f.d) = .ok (d, s1) ∧ readShape s1 (s1.g f.a) = .ok (a, s2)
  checks : shapesOk f s s2 [d, a] = .ok ()
  within : shapesIn s2 [d, a] = .ok ()
  format : mdFmt f.md = 0 ∨ mdFmt f.md = d.efmt

/-- The same for the shapes of D, A and, where B is a shape, B. -/
structure ThreeShapes (f : Fields) (s : State) (d a : Shape) (b : Option Shape) (s3 : State) : Prop where
  reads  : ∃ s1 s2, readShape s (s.g f.d) = .ok (d, s1) ∧ readShape s1 (s1.g f.a) = .ok (a, s2) ∧ readB s2 f = .ok (b, s3)
  checks : shapesOk f s s3 (d :: a :: b.toList) = .ok ()
  within : shapesIn s3 (d :: a :: b.toList) = .ok ()
  format : mdFmt f.md = 0 ∨ mdFmt f.md = d.efmt
  counts : a.count = d.count ∧ ∀ h ∈ b, h.count = d.count

/-- The source shapes of an elementwise instruction: A, B where it is a shape, and D where its old elements are read. -/
def vecSources (p : VecForm) (d a : Shape) (b : Option Shape) : List Shape := a :: b.toList ++ (if p.old then [d] else [])

/-- The codes and the generator that an elementwise instruction gives for the codes of its sources (R404, R408, R409). -/
def vecCodes (p : VecForm) (f : Fields) (s : State) (d a : Shape) (b : Option Shape) (cs : List (List Nat)) : List Nat × BitVec 32 :=
  let rm := s.rm f.md
  let yb := elemsB f b d.float d.count (cs.getD 1 [])
  let cd := if p.old then cs.getLastD [] else List.replicate d.count 0
  let xs := (((cs.headD []).map (decodeNum a.efmt)).zip (yb.zip (cd.map (decodeNum d.efmt)))).map fun (x, y, z) => p.value rm d.w x y z
  drawAll (rm = .rsto && isFloat d.efmt) (encElem d.efmt rm (mdSat f.md) s.thr.fpm) s.thr.rng xs

/-- The pointer names a record of 32 aligned bytes in segment 0 that describes the shape `h`; `h` needs no extension that the core lacks;
a queue is owned, and elements lie aligned in the window (R242, R243, R403, R417). -/
structure ShapeAt (s : State) (p : Word) (h : Shape) : Prop where
  place  : p.toNat % 32 = 0 ∧ p.toNat + 32 ≤ s.winSize s.thr.hold
  record : Shape.ofBytes p (s.winBytes s.core s.thr.hold p.toNat 32) = some h
  ext    : h.efmt = 13 → coreNo s.core = 0
  owned  : h.q = true → s.qOwned s.core s.thr.hold h.base = true
  within : h.q = false → h.count ≠ 0 → 0 ≤ h.span.1 ∧ h.span.2 < s.winSize s.thr.hold ∧ 8 * h.base % h.w = 0

/-- What an instruction leaves that wrote the codes into shape D after it took its sources: the bits of D's elements stand in the window,
all other bits of it are as before, the queues have lost and gained their entries, and the generator has moved (R243, R244, R227). -/
def VecDone (s e : State) (d : Shape) (srcs : List Shape) (codes : List Nat) (g : BitVec 32) : Prop :=
  (∀ a < s.winSize s.thr.hold,
    winByte e a = if d.q then winByte s a else mergeByte (winByte s a) (Tab.get (0, 0) (d.bitsOf codes) a)) ∧
  (∀ n, let x := if d.q then (s.popShapes srcs).pushShape d codes else s.popShapes srcs
    e.qIn s.core s.thr.hold n = x.qIn s.core s.thr.hold n ∧ e.qOut s.core s.thr.hold n = x.qOut s.core s.thr.hold n) ∧
  e.thr.rng = g

/-- The shape of B in the window, where B is one. -/
def ShapeB (s : State) (f : Fields) (b : Option Shape) : Prop :=
  if f.b.cls = .G then ∃ h, b = some h ∧ ShapeAt s (s.g f.b) h else b = none

end Sys2Proof.Claims

/-- R404, R408 and R409: an elementwise instruction whose elements are at hand writes the code of its value for each element of D, with one
step of %rng for each rounding under RSTO. -/
def Sys2Proof.Claims.ElementwiseResult : Prop := ∀ p ∈ vecTable, ∀ f s d a b s3 cs s4 s5, ready (p.instr f) s →
  ThreeShapes f s d a b s3 → (p.old = true → d.q = false) → a.float = d.float → (∀ h ∈ b, h.float = d.float) →
  (p.intOnly = true → d.float = false) →
  readShapes s3 [d] (vecSources p d a b) = .ok (cs, s4) →
  let r := vecCodes p f s4 d a b cs
  endShapes s4 d (vecSources p d a b) r.1 = .ok s5 → Completes (p.instr f) f s (s5.modThr fun t => { t with rng := r.2 })

/-- R406, R408 and R417: an elementwise instruction whose shapes stand in a window of plain data, with the entries and free places that its
queues need, completes: it writes the code of its value for each element of D, and leaves every other bit of the window alone. -/
def Sys2Proof.Claims.ElementwiseInWindow : Prop := ∀ p ∈ vecTable, ∀ f s d a b, ready (p.instr f) s → PlainBank s →
  ShapeAt s (s.g f.d) d → ShapeAt s (s.g f.a) a → ShapeB s f b → (p.old = true → d.q = false) →
  (mdFmt f.md = 0 ∨ mdFmt f.md = d.efmt) → a.float = d.float → (∀ h ∈ b, h.float = d.float) → (p.intOnly = true → d.float = false) →
  a.count = d.count → (∀ h ∈ b, h.count = d.count) → s.shapesGo [d] (vecSources p d a b) = true →
  let r := vecCodes p f s d a b (s.codesOf (winByte s) [] (vecSources p d a b))
  ∃ e, Completes (p.instr f) f s e ∧ VecDone s e d (vecSources p d a b) r.1 r.2

/-- The statements ElementwiseResult and ElementwiseInWindow together. -/
def Obligations.VectorElementwise : Prop := ElementwiseResult ∧ ElementwiseInWindow

namespace Sys2Proof.Claims

/-- An instruction with one source shape (R410 to R412, R415, R420): whether it holds the vector unit, what it asks of A and D, and the codes
and the generator that it gives for the codes of A. VSFN is one that the special-function unit has served. -/
structure UnaryForm where
  instr : Form
  vu    : Bool := true
  fits  : State → Shape → Shape → Prop
  codes : Fields → State → Shape → Shape → List Nat → List Nat × BitVec 32

/-- Results rounded one by one into D's format, with one step of %rng for each under RSTO (R226, R227). -/
def drawn (f : Fields) (s : State) (d : Shape) (enc : Rm → BitVec 32 → ExtNum → Nat) (xs : List ExtNum) : List Nat × BitVec 32 :=
  drawAll (s.rm f.md = .rsto && isFloat d.efmt) (enc (s.rm f.md)) s.thr.rng xs

/-- VCVT, VRED, VSCAN, VCOPY and VSFN. -/
def unaryTable : List UnaryForm := [
  ⟨.vcvt, true, fun _ d a => a.count = d.count,
    fun f s d a ca => drawn f s d (fun rm => cvtElem a.efmt d.efmt rm (mdSat f.md) s.thr.fpm) (ca.map (decodeNum a.efmt))⟩,
  ⟨.vred, true, fun _ d a => a.float = d.float ∧ d.count = 1,
    fun f s d a ca => drawn f s d
      (fun rm r x => if a.count = 0 ∧ f.fn.toNat ≠ 0 then redEmpty f.fn.toNat d.efmt else encElem d.efmt rm (mdSat f.md) s.thr.fpm r x)
      [redValue f.fn.toNat a.efmt (ca.map (decodeNum a.efmt))]⟩,
  ⟨.vscan, true, fun _ d a => a.float = d.float ∧ a.count = d.count,
    fun f s d a ca => scanAll (s.rm f.md = .rsto && d.float) d.efmt (s.rm f.md) (mdSat f.md) s.thr.fpm s.thr.rng (.zero false)
      (ca.map (decodeNum a.efmt))⟩,
  ⟨.vcopy, true, fun _ d a => a.efmt = d.efmt ∧ a.count = d.count, fun _ s _ _ ca => (ca, s.thr.rng)⟩,
  ⟨.vsfn, false, fun s d a => a.float = true ∧ d.float = true ∧ a.efmt ≠ 13 ∧ d.efmt ≠ 13 ∧ a.count = d.count ∧ s.slot.resume.served = true,
    fun f s d a ca => drawn f s d (fun rm => vsfnElem f.fn.toNat d.efmt rm (mdSat f.md) s.thr.fpm) (ca.map (decodeNum a.efmt))⟩]

end Sys2Proof.Claims

/-- R410 to R412, R415 and R420: VCVT converts each element, VRED reduces them to one, VSCAN writes their running sums, VCOPY copies
their codes, and VSFN applies a special function to each. -/
def Sys2Proof.Claims.VectorUnary : Prop := ∀ p ∈ unaryTable, ∀ f s d a s2 cs s4 s5, ready (p.instr f) s → TwoShapes f s d a s2 →
  p.fits s2 d a → readShapes s2 [d] [a] p.vu = .ok (cs, s4) →
  let r := p.codes f s4 d a (cs.headD [])
  endShapes s4 d [a] r.1 = .ok s5 → Completes (p.instr f) f s (s5.modThr fun t => { t with rng := r.2 })

/-- R406, R410 to R412, R415, R417 and R420: the same instructions complete on shapes in a window of plain data. -/
def Sys2Proof.Claims.UnaryInWindow : Prop := ∀ p ∈ unaryTable, ∀ f s d a, ready (p.instr f) s → PlainBank s →
  ShapeAt s (s.g f.d) d → ShapeAt s (s.g f.a) a → (mdFmt f.md = 0 ∨ mdFmt f.md = d.efmt) → p.fits s d a → s.shapesGo [d] [a] = true →
  let r := p.codes f s d a ((s.codesOf (winByte s) [] [a]).headD [])
  ∃ e, Completes (p.instr f) f s e ∧ VecDone s e d [a] r.1 r.2

namespace Sys2Proof.Claims

/-- The codes of VCMP: 1 where its condition holds, 0 elsewhere (R413). -/
def cmpCodes (f : Fields) (d a : Shape) (b : Option Shape) (cs : List (List Nat)) : List Nat :=
  (((cs.headD []).map (decodeNum a.efmt)).zip (elemsB f b a.float d.count (cs.getD 1 []))).map
    fun (x, y) => if numCond f.fn.toNat x y then 1 else 0

/-- The codes of VSEL: A where the mask's element is not 0, B elsewhere (R414). -/
def selCodes (cs : List (List Nat)) : List Nat :=
  ((cs.getD 2 []).zip ((cs.getD 0 []).zip (cs.getD 1 []))).map fun (m, x, y) => if m ≠ 0 then x else y

/-- The codes and the generator of VFILL: one value for every element (R415). -/
def fillCodes (f : Fields) (s : State) (d : Shape) : List Nat × BitVec 32 :=
  if f.a.cls = .G then (List.replicate d.count ((s.g f.a).toNat % 2 ^ d.w), s.thr.rng)
  else
    let r := drawn f s d (fun rm => encElem d.efmt rm (mdSat f.md) s.thr.fpm) [scalarImm d.float f]
    (List.replicate d.count (r.1.headD 0), r.2)

end Sys2Proof.Claims

/-- R413 to R415: VCMP writes 1 where its condition holds and 0 elsewhere, VSEL takes A where the mask's element is not 0 and B
elsewhere, and VFILL writes one value to every element. -/
def Sys2Proof.Claims.VectorSelect : Prop := ∀ f s,
  (∀ d a b s3 cs s4 s5, ready (.vcmp f) s → ThreeShapes f s d a b s3 → d.float = false → (∀ h ∈ b, h.float = a.float) →
    readShapes s3 [d] (a :: b.toList) = .ok (cs, s4) → endShapes s4 d (a :: b.toList) (cmpCodes f d a b cs) = .ok s5 →
    Completes (.vcmp f) f s s5) ∧
  (∀ d a b c s1 s2 s3 s4 cs s5 s6, ready (.vsel f) s → readShape s (s.g f.d) = .ok (d, s1) →
    readShape s1 (s1.g f.a) = .ok (a, s2) → readShape s2 (s2.g f.b) = .ok (b, s3) →
    readShape s3 (s3.thr.gpr (bits f.imm.toNat 4 0)) = .ok (c, s4) → shapesOk f s s4 [d, a, b, c] = .ok () →
    (mdFmt f.md = 0 ∨ mdFmt f.md = d.efmt) → c.float = false → a.efmt = d.efmt → b.efmt = d.efmt →
    a.count = d.count → b.count = d.count → c.count = d.count → shapesIn s4 [d, a, b, c] = .ok () →
    readShapes s4 [d] [a, b, c] = .ok (cs, s5) → endShapes s5 d [a, b, c] (selCodes cs) = .ok s6 → Completes (.vsel f) f s s6) ∧
  (∀ d s1 cs s2 s3, ready (.vfill f) s → readShape s (s.g f.d) = .ok (d, s1) → shapesOk f s s1 [d] = .ok () →
    (mdFmt f.md = 0 ∨ mdFmt f.md = d.efmt) → shapesIn s1 [d] = .ok () → readShapes s1 [d] [] = .ok (cs, s2) →
    let r := fillCodes f s2 d
    endShapes s2 d [] r.1 = .ok s3 → Completes (.vfill f) f s (s3.modThr fun t => { t with rng := r.2 }))

/-- R406, R413 to R415 and R417: VCMP, VSEL and VFILL complete on shapes in a window of plain data. -/
def Sys2Proof.Claims.SelectInWindow : Prop := ∀ f s d, PlainBank s → ShapeAt s (s.g f.d) d → (mdFmt f.md = 0 ∨ mdFmt f.md = d.efmt) →
  (∀ a b, ready (.vcmp f) s → ShapeAt s (s.g f.a) a → ShapeB s f b → d.float = false → (∀ h ∈ b, h.float = a.float) →
    a.count = d.count → (∀ h ∈ b, h.count = d.count) → s.shapesGo [d] (a :: b.toList) = true →
    ∃ e, Completes (.vcmp f) f s e ∧
      VecDone s e d (a :: b.toList) (cmpCodes f d a b (s.codesOf (winByte s) [] (a :: b.toList))) s.thr.rng) ∧
  (∀ a b c, ready (.vsel f) s → ShapeAt s (s.g f.a) a → ShapeAt s (s.g f.b) b → ShapeAt s (s.thr.gpr (bits f.imm.toNat 4 0)) c →
    c.float = false → a.efmt = d.efmt → b.efmt = d.efmt → a.count = d.count → b.count = d.count → c.count = d.count →
    s.shapesGo [d] [a, b, c] = true →
    ∃ e, Completes (.vsel f) f s e ∧ VecDone s e d [a, b, c] (selCodes (s.codesOf (winByte s) [] [a, b, c])) s.thr.rng) ∧
  (ready (.vfill f) s → s.shapesGo [d] [] = true →
    ∃ e, Completes (.vfill f) f s e ∧ VecDone s e d [] (fillCodes f s d).1 (fillCodes f s d).2)

/-- The statements VectorUnary, UnaryInWindow, VectorSelect and SelectInWindow together. -/
def Obligations.VectorUnaryAndSelect : Prop := VectorUnary ∧ UnaryInWindow ∧ VectorSelect ∧ SelectInWindow

/-- R416: VGATH reads the elements at its pointer plus its indices into D, and VSCAT writes those of A there. -/
def Sys2Proof.Claims.GatherScatterResult : Prop := ∀ f s b s2 cb,
  (∀ d s1 s3 s4 cs s5 s6, ready (.vgath f) s → readShape s (s.g f.d) = .ok (d, s1) → readShape s1 (s1.g f.b) = .ok (b, s2) →
    shapesOk f s s2 [d, b] = .ok () → 8 ≤ d.w → indexFmt b = true → b.count = d.count → shapesIn s2 [d, b] = .ok () →
    readShapes s2 [d] [b] = .ok (cb, s3) →
    let refs := elemRefs (s3.g f.a) d.w ((cb.headD []).map fun c => (decodeNum b.efmt c).int)
    checkRefs (d.w / 8) { r := true } s3 refs = .ok s4 → gather (d.w / 8) s4 refs = .ok (cs, s5) → endShapes s5 d [b] cs = .ok s6 →
    Completes (.vgath f) f s s6) ∧
  (∀ a s1 s3 s4 s5, ready (.vscat f) s → readShape s (s.g f.a) = .ok (a, s1) → readShape s1 (s1.g f.b) = .ok (b, s2) →
    shapesOk f s s2 [a, b] = .ok () → 8 ≤ a.w → indexFmt b = true → b.count = a.count → shapesIn s2 [a, b] = .ok () →
    readShapes s2 [] [a, b] = .ok (cb, s3) →
    let refs := elemRefs (s3.g f.d) a.w ((cb.getD 1 []).map fun c => (decodeNum b.efmt c).int)
    checkRefs (a.w / 8) { w := true } s3 refs = .ok s4 → scatter (a.w / 8) s4 (refs.zip (cb.headD [])) = .ok s5 →
    Completes (.vscat f) f s (s5.popShapes [a, b]))

namespace Sys2Proof.Claims

/-- The elements lie in the window, each at a multiple of its size (R416). -/
def InWindow (s : State) (n : Nat) (refs : List Ref) : Prop := ∀ r ∈ refs, InSeg0 s r n n

/-- The bytes after elements of `n` bytes are written in ascending order: a later one wins (R416). -/
def laid (n : Nat) (l : List (Ref × Nat)) (bytes : Nat → Byte) : Nat → Byte :=
  l.foldl (fun g p a => if p.1.off.toNat ≤ a ∧ a < p.1.off.toNat + n then (leBytes n p.2).getD (a - p.1.off.toNat) 0 else g a) bytes

end Sys2Proof.Claims

/-- R416: VGATH and VSCAT complete where the shapes and all elements lie in a window of plain data. -/
def Sys2Proof.Claims.GatherScatterInWindow : Prop := ∀ f s b, PlainBank s → ShapeAt s (s.g f.b) b → indexFmt b = true →
  (∀ d, ready (.vgath f) s → ShapeAt s (s.g f.d) d → 8 ≤ d.w → b.count = d.count → s.shapesGo [d] [b] = true →
    let refs := elemRefs (s.g f.a) d.w (((s.codesOf (winByte s) [] [b]).headD []).map fun c => (decodeNum b.efmt c).int)
    InWindow s (d.w / 8) refs →
    ∃ e, Completes (.vgath f) f s e ∧
      VecDone s e d [b] (refs.map fun r => leNat (s.winBytes s.core s.thr.hold r.off.toNat (d.w / 8))) s.thr.rng) ∧
  (∀ a, ready (.vscat f) s → ShapeAt s (s.g f.a) a → 8 ≤ a.w → b.count = a.count → s.shapesGo [] [a, b] = true →
    let cs := s.codesOf (winByte s) [] [a, b]
    let refs := elemRefs (s.g f.d) a.w ((cs.getD 1 []).map fun c => (decodeNum b.efmt c).int)
    InWindow s (a.w / 8) refs →
    ∃ e, Completes (.vscat f) f s e ∧
      (∀ x < s.winSize s.thr.hold, winByte e x = laid (a.w / 8) (refs.zip (cs.headD [])) (winByte s) x) ∧
      ∀ n, e.qIn s.core s.thr.hold n = (s.popShapes [a, b]).qIn s.core s.thr.hold n)

/-- The statements GatherScatterResult and GatherScatterInWindow together. -/
def Obligations.GatherAndScatter : Prop := GatherScatterResult ∧ GatherScatterInWindow

/-- R298, R418 and R420: SFN queues its request at the cluster's unit, and so does VSFN once, with its shapes in a window of plain data; the unit
serves its requests in order, and lands each result of SFN or lets the VSFN go on. -/
def Obligations.SpecialFunction : Prop :=
  (∀ f s, ready (.sfn f) s → s.slot.ld < 63 → (s.sfuQ (clusterOf s.core)).length < 32 →
    let v := s.src f.a (f.imm.zeroExtend 64)
    let rm := v.2.rm f.md
    let r := v.2.draw1 rm
    let d := r.2.dstOf f.d false
    let q : SfuReq := ⟨d.2.core, d.2.slotNo, f.fn.toNat, scalarFmt f.md, v.1, rm.code, mdSat f.md, r.1, d.1, false⟩
    let k := clusterOf s.core
    Completes (.sfn f) f s ((d.2.setSfuQ k (d.2.sfuQ k ++ [q])).modSlot fun v => { v with ld := v.ld + 1, sfu := true })) ∧
  (∀ f s d a, ready (.vsfn f) s → PlainBank s → s.slot.resume.served = false → ShapeAt s (s.g f.d) d → ShapeAt s (s.g f.a) a →
    (mdFmt f.md = 0 ∨ mdFmt f.md = d.efmt) → a.float = true → d.float = true → a.efmt ≠ 13 → d.efmt ≠ 13 → a.count = d.count →
    s.shapesGo [d] [a] = true → s.slot.ld < 63 → (s.sfuQ (clusterOf s.core)).length < 32 →
    ∃ e, exec (.vsfn f) s = .next e ∧
      e.sfuQ (clusterOf s.core) = s.sfuQ (clusterOf s.core) ++ [⟨s.core, s.slotNo, f.fn.toNat, 1, 0, 0, false, 0, .none, true⟩] ∧
      (e.slotAt s.core s.slotNo).ld = s.slot.ld + 1 ∧ (∀ x < s.winSize s.thr.hold, winByte e x = winByte s x)) ∧
  (∀ s q l, s.sfuQ s.ctl.here.unit = q :: l → q.vec = true →
    Happens .sfuServe s ((s.setSfuQ s.ctl.here.unit l).modSlotAt q.core q.slot Slot.serveVec)) ∧
  (∀ s q l, s.sfuQ s.ctl.here.unit = q :: l → q.vec = false →
    let h := ((s.slotAt q.core q.slot).thr.map (·.hold)).getD 0
    Happens .sfuServe s (((s.setSfuQ s.ctl.here.unit l).land q.core q.slot h q.dst ⟨8, false⟩ (some (leBytes 8 q.result.toNat))).modSlotAt
      q.core q.slot fun v => { v with ld := v.ld - 1, sfu := false }))

/-! ### Tiles -/

/-- R422 and R424 to R427: TLD reads a tile of the own bank into a tile register whose rest becomes 0, and sends for any other with the register
pending; TST stores one, THDR and THSET move a header to and
from a register pair, TCHK tells the first header fault, and TZERO makes a tile of zeros from a header. -/
def Sys2Proof.Claims.TileRegisterResult : Prop := ∀ f s s1,
  (ready (.tld f) s → tilesOk s [] [f.d.idx.toNat] = .ok s1 → tileAlign s1 (s.refM f) = .ok () →
    (∀ d off s2, s1.reach s1.who (s.refM f) 1 1 {} = .ok (.win s1.core off) →
      readTile (s1.holdOn [tileHold f.d.idx.toNat]) (s.refM f) = .ok (d, s2) →
      Completes (.tld f) f s (s2.setTile s2.core f.d.idx.toNat d)) ∧
    (∀ s2, (∀ off, s1.reach s1.who (s.refM f) 1 1 {} ≠ .ok (.win s1.core off)) → farTile s1 f.d.idx.toNat (s.refM f) = .ok s2 →
      Completes (.tld f) f s s2)) ∧
  (∀ s2, ready (.tst f) s → tilesOk s [] [f.d.idx.toNat] = .ok s1 → tileAlign s1 (s1.refM f) = .ok () →
    bulkStore (s1.holdOn [tileHold f.d.idx.toNat]) (s1.refM f) ((s1.tile f.d).take (hdrOf (s1.tile f.d)).len) 16 = .ok s2 → Completes (.tst f) f s s2) ∧
  (ready (.thdr f) s → tilesOk s [] [f.a.idx.toNat] = .ok s1 →
    Completes (.thdr f) f s (s1.setG2 f.d.idx.toNat (wordLe (s1.tile f.a)) (wordLe ((s1.tile f.a).drop 8)))) ∧
  (ready (.thset f) s → tilesOk s [] [f.d.idx.toNat] = .ok s1 →
    Completes (.thset f) f s (s1.setTile s1.core f.d.idx.toNat (s1.pairHdr f.a ++ (s1.tile f.d).drop 16))) ∧
  (ready (.tchk f) s → tilesOk s [] [f.a.idx.toNat] = .ok s1 →
    Completes (.tchk f) f s (s1.dst f.d
      (if !chkOk (s1.tile f.a) then 0x30 else if !(hdrOf (s1.tile f.a)).wellFormed then 0x33 else 0))) ∧
  (ready (.tzero f) s → tilesOk s (if f.a.cls = .G then [] else [f.d.idx.toNat]) [f.d.idx.toNat] = .ok s1 →
    let h := if f.a.cls = .G then s1.pairHdr f.a else (s1.tile f.d).take 16
    chkOk h = true → (hdrOf h).wellFormed = true → (hdrOf h).enc = 0 → Completes (.tzero f) f s (s1.setTile s1.core f.d.idx.toNat h))

/-- R422, R424 and R434: TLD and TST of a tile register of the holding that no other slot's instruction works on and no bytes are on their way to complete in a window of
plain data: TLD takes the length from the header that it reads, and TST from that of the register. -/
def Sys2Proof.Claims.TilesInWindow : Prop := ∀ f s, PlainBank s → bit (s.htregs s.thr.hold) f.d.idx.toNat = true →
  s.heldElse [tileHold f.d.idx.toNat] = false → s.tilePending f.d.idx.toNat = false →
  let r := s.refM f
  (ready (.tld f) s →
    let n := (hdrOf (s.winBytes s.core s.thr.hold r.off.toNat 16)).len
    InSeg0 s r n 16 → ∃ e, Completes (.tld f) f s e ∧ (∀ a < s.winSize s.thr.hold, winByte e a = winByte s a) ∧
      e.tileAt s.core f.d.idx.toNat = s.winBytes s.core s.thr.hold r.off.toNat n ++ List.replicate (4112 - n) 0) ∧
  (ready (.tst f) s →
    let n := (hdrOf (s.tile f.d)).len
    InSeg0 s r n 16 → ∃ e, Completes (.tst f) f s e ∧ Stored s e r.off.toNat ((s.tile f.d).take n))

/-- The statements TileRegisterResult and TilesInWindow together. -/
def Obligations.TileRegisters : Prop := TileRegisterResult ∧ TilesInWindow

namespace Sys2Proof.Claims

/-- A tile instruction's source and destination are the holding's, and the source's header is good (R240, R422). -/
structure TileIn (f : Fields) (s s1 : State) : Prop where
  owned : tilesOk s [f.a.idx.toNat] [f.d.idx.toNat] = .ok s1
  good  : stages12 s1 [(s1.tile f.a, 0)] = .ok ()

/-- The tile arithmetic instructions: whether there is a third operand, and the value of one element (R431). -/
def tileTable : List (Form × Bool × (Rm → ExtNum → ExtNum → ExtNum → ExtNum)) := [
  (.tadd, false, fun rm x y _ => ExtNum.add rm x y), (.tmul, false, fun _ x y _ => ExtNum.mul x y),
  (.tfma, true, fun rm x y z => ExtNum.fma rm x y z), (.tmax, false, fun _ x y _ => ExtNum.pick true x y)]

end Sys2Proof.Claims

/-- R428 and R432: TCVT converts a tile's elements to the format of FMT, and TTRN transposes a tile, or only relabels it. -/
def Sys2Proof.Claims.TileConversion : Prop := ∀ f s s1, TileIn f s s1 →
  let t := s1.tile f.a
  let a := hdrOf t
  (∀ xs, ready (.tcvt f) s → a.kind ≠ 2 → tileNums a t = some xs →
    let fmt := mdFmt f.md
    let rm := s1.rm f.md
    let r := drawAll (rm = .rsto && isFloat fmt) (cvtElem a.efmt fmt rm (mdSat f.md) s1.thr.fpm) s1.thr.rng xs
    Completes (.tcvt f) f s ((s1.setTile s1.core f.d.idx.toNat (tileOf (a.like (accKind (a.kind = 1) fmt) fmt) r.1 [])).modThr fun t =>
      { t with rng := r.2 })) ∧
  (ready (.ttrn f) s → a.enc = 0 →
    (f.imm.getLsbD 0 = true → a.kind = 0 →
      let h := { a with n := a.c, c := a.n, row0 := a.col0, col0 := a.row0, slay := flipSlay a.slay, cmaj := !a.cmaj }
      Completes (.ttrn f) f s (s1.setTile s1.core f.d.idx.toNat (h.pack ++ (t.take a.len).drop 16))) ∧
    (f.imm.getLsbD 0 = false → a.slay ≠ 2 →
      let h := { a with n := a.c, c := a.n, row0 := a.col0, col0 := a.row0, slay := flipSlay a.slay }
      let cs := ((tileCodes a t).getD []).map fun c => c.getD 0
      let tr := (List.range (a.n * a.c)).map fun k => cs.getD (k % h.c * a.c + k / h.c) 0
      Completes (.ttrn f) f s (s1.setTile s1.core f.d.idx.toNat (tileOf h (dataOrder h 0 tr) (scaleArea a t)))))

/-- R237, R241, R429 and R430: TQNT gives each block of a floating tile a scale of its largest values and rounds the scaled elements; TENC
codes and decodes an EXPC tile, and leaves a tile that would not fit as it is. -/
def Sys2Proof.Claims.TileQuantisation : Prop := ∀ f s s1, TileIn f s s1 →
  let t := s1.tile f.a
  let a := hdrOf t
  let i := f.imm.toNat
  (∀ xs, ready (.tqnt f) s → isFloat a.efmt = true → a.kind ≠ 2 → tileNums a t = some xs →
    let h := { a.like 0 (mdFmt f.md) with slay := bits i 3 0, sfmt := bits i 7 4, cmaj := bit i 10 }
    let all := List.range (h.n * h.c)
    let blocks := (List.range h.entries).map fun q =>
      (all.filter fun k => h.scaleIdx (k / h.c) (k % h.c) = q).map fun k => xs.getD k .nan
    let sc := blocks.map (blockScale (mdFmt f.md) (32 - bits i 9 8))
    let zs := blocks.map allZero
    let rm := s1.rm f.md
    let r := drawPairs (rm = .rsto) (quantElem (mdFmt f.md) rm) s1.thr.rng
      (all.map fun k =>
        let q := h.scaleIdx (k / h.c) (k % h.c)
        (sc.getD q none, if zs.getD q false then .zero false else xs.getD k .nan))
    Completes (.tqnt f) f s ((s1.setTile s1.core f.d.idx.toNat
      (tileOf h (dataOrder h 0 r.1) (sc.flatMap fun e => leBytes (scaleSize h.sfmt) (scaleCode h.sfmt e)))).modThr fun t =>
        { t with rng := r.2 })) ∧
  (ready (.tenc f) s →
    let report := fun (e : State) (ok : Bool) => if bit i 5 then e.setP (bits i 4 0) ok else e
    (∀ cs, bit i 6 = true → a.enc = 2 → tileCodes a t = some cs →
      Completes (.tenc f) f s
        (report (s1.setTile s1.core f.d.idx.toNat (tileOf { a with enc := 0 } (cs.map fun c => c.getD 0) (scaleArea a t))) true)) ∧
    (bit i 6 = false → a.efmt = 4 → a.enc = 0 → a.cmaj = false →
      let st := expcEncode (((tileCodes a t).getD []).map fun c => c.getD 0)
      let k := (st.length + 15) / 16
      Completes (.tenc f) f s
        (if k ≤ 64 ∧ 16 * k + a.scaleBytes ≤ 4096 then
          report (s1.setTile s1.core f.d.idx.toNat
            (({ a with enc := 2, dlen := k } : Hdr).pack ++ (st ++ List.replicate 16 0).take (16 * k) ++ scaleArea a t)) true
        else report (s1.setTile s1.core f.d.idx.toNat (t.take a.len)) false)))

/-- The statements TileConversion and TileQuantisation together. -/
def Obligations.TileConversionAndQuantisation : Prop := TileConversion ∧ TileQuantisation

/-- R239, R240 and R431: a tile operation on good headers of one size that combine writes the exact values, rounded once to the
result's format, under a header that it infers from those of its operands. -/
def Obligations.TileArithmetic : Prop := ∀ p ∈ tileTable, ∀ f s s1 f1 f2 xa xb xc, ready (p.1 f) s →
  let third := fun (x : List Nat) => if p.2.1 then x else []
  tilesOk s ([f.a.idx.toNat, f.b.idx.toNat] ++ third [bits f.imm.toNat 3 0]) [f.d.idx.toNat] = .ok s1 →
  let ta := s1.tile f.a
  let tb := s1.tile f.b
  let tc := if p.2.1 then s1.tileAt s1.core (bits f.imm.toNat 3 0) else ta
  stages12 s1 ([(ta, 0), (tb, 0)] ++ (if p.2.1 then [(tc, 0)] else [])) = .ok () →
  let a := hdrOf ta
  let b := hdrOf tb
  let c := hdrOf tc
  inferFmt a b = some f1 → (if p.2.1 then inferFmt (inferHdr a b f1) c else some f1) = some f2 →
  b.n = a.n → b.c = a.c → c.n = a.n → c.c = a.c →
  tileNums a ta = some xa → tileNums b tb = some xb → tileNums c tc = some xc →
  let fmt := if mdFmt f.md = 0 then f2 else mdFmt f.md
  let acc := a.kind = 1 || b.kind = 1 || (p.2.1 && c.kind = 1)
  let h := { (if p.2.1 then inferHdr (inferHdr a b f1) c f2 else inferHdr a b f1) with kind := accKind acc fmt, efmt := fmt }
  let rm := s1.rm f.md
  let r := drawAll (rm = .rsto && isFloat fmt) (arithElem fmt rm (mdSat f.md) s1.thr.fpm) s1.thr.rng (zip3 (p.2.2 rm) xa xb xc)
  Completes (p.1 f) f s ((s1.setTile s1.core f.d.idx.toNat (tileOf h r.1 [])).modThr fun t => { t with rng := r.2 })

/-! ### Matrix records and accumulator partitions -/

namespace Sys2Proof.Claims

/-- The checks of R280 and R281 on a record `bs` for context `c` of the issuing core's cluster, in state `s`. -/
structure AppendOk (s : State) (bs : List Byte) (tw c : Nat) (short : Bool) : Prop where
  word     : bits tw 31 30 = 1 ∧ bits tw 29 26 = 0 ∧ bits tw 12 8 = 0 ∧ bits tw 7 2 = 0 ∧ bits tw 1 0 = c
  place    : bits tw 25 19 < 64 ∧ bits tw 18 13 < 32 ∧ bits tw 18 13 * 64 + bits tw 25 19 = clusterOf s.core
  context  : bit (s.hmctx s.thr.hold) c = true ∧ s.hmctx s.thr.hold ≠ 0
  parts    : s.haparts s.thr.hold ≠ 0
  position : namesPos bs = true → bit (s.haparts s.thr.hold) (bits (recTiles bs) 9 4 / 16) = true
  owner    : namesTile bs = true → s.partHeld (clusterOf s.core) (s.ctxPart s.thr.hold c) = false ∧
    (s.ownerAt (clusterOf s.core) (s.ctxPart s.thr.hold c)).none = false ∧
    (s.ownerAt (clusterOf s.core) (s.ctxPart s.thr.hold c)).id = s.thr.ctxid
  fields   : recBad bs short = false
  timeline : recFlag bs 0 = true → ∃ t, s.timeline s.thr.hold (recW bs 8 4) = .ok t
  clear    : ((List.range 4).any fun q => (s.mctx (clusterOf s.core * 4 + q)).wait.any fun r =>
    (takesApp bs && r.part = s.ctxPart s.thr.hold c && recC r.bytes = recC bs && writesTile r.bytes) ||
    (isMma bs && recType r.bytes = 1 && recPos r.bytes = recPos bs)) = false
  room     : s.slot.tl < 63

/-- The record of `bs` as it waits for its context, and the state in which it does (R280, R284): `s0` is the state of the checks, and
`s` that after the headers have been found. -/
def appended (f : Fields) (bs : List Byte) (c : Nat) (fd : Found) (s0 s : State) : State :=
  let rm := rmOf (bits (recW bs 1 1) 4 2) s.thr.fpm
  let seed := s.thr.rng
  let rsto := decide (recType bs = 4) && decide (rm = .rsto)
  let s := if rsto then s.modThr fun t => { t with rng := rngNext t.rng } else s
  let d := s.pin.dstOf f.d false
  let n := d.2.newId
  let t := n.2.thr
  let r : MxRec :=
    { num := 0, bytes := if rsto then bs.take 0x3C ++ leBytes 4 seed.toNat else bs, hdrA := fd.a, hdrB := fd.b, hdrC := fd.c,
      ldb := fd.ldb, mode := rm.code, nsat := t.fpm.getLsbD 3, seed := seed, order := n.1, core := n.2.core, slot := n.2.slotNo,
      hold := s0.thr.hold, rgn := t.rgn, launch := t.launch, ctxid := t.ctxid,
      part := if namesTile bs then s0.ctxPart s0.thr.hold c else 4, dst := d.1, drainTo := n.2.slot.issued, sg := t.sg, stkc := t.stkc,
      sovf := t.sovf, running := false, begun := 0, pos := 0, buf := [] }
  (n.2.modMctx (clusterOf s0.core * 4 + c) fun x => { x with wait := x.wait ++ [r] }).modSlot fun v => { v with tl := v.tl + 1 }

end Sys2Proof.Claims

/-- R280, R281 and R440: MXA and MXB append a record that passes its checks to its context, count it in TL and pin the thread. -/
def Sys2Proof.Claims.MatrixAppend : Prop := ∀ f s c fd s1,
  (∀ bs s0, ready (.mxa f) s → unitRd kLD { r := true } s (refOf (s.g f.b) 0) 64 64 = .ok (bs, s0) →
    AppendOk s0 bs (bits (s0.g f.a).toNat 31 0) c false →
    findHdrs s0 bs (clusterOf s0.core) (16 * s0.ctxPart s0.thr.hold c + recC bs) = .ok (fd, s1) → placesOk s1 bs fd = .ok () →
    Completes (.mxa f) f s (appended f bs c fd s0 s1)) ∧
  (ready (.mxb f) s →
    let bs := mxbRec f.fn.toNat f.imm.toNat (if f.b.cls = .Z then 0 else s.g f.b) (if f.b.cls = .Z then 0 else s.g1 f.b)
    AppendOk s bs (bits (s.g f.a).toNat 31 0) c true →
    findHdrs s bs (clusterOf s.core) (16 * s.ctxPart s.thr.hold c + recC bs) = .ok (fd, s1) → placesOk s1 bs fd = .ok () →
    Completes (.mxb f) f s (appended f bs c fd s s1))

/-- R441: MXOWN gives a partition of the holding an owner and forgets its headers, MXSPILL stores an accumulator tile and returns its
header, and MXFILL loads one with a header. -/
def Sys2Proof.Claims.AccumulatorPartitions : Prop := ∀ f s,
  let k := clusterOf s.core
  (∀ p, p = bits (s.g f.a).toNat 1 0 → ready (.mxown f) s → bit (s.haparts s.thr.hold) p = true → s.partPending k p = false →
    s.partHeld k p = false →
    Completes (.mxown f) f s ((List.range 16).foldl (fun (t : State) i => t.setApp k (16 * p + i) none)
      (s.setOwner k p { used := 0, none := (s.g f.b).getLsbD 32, id := (s.g f.b).extractLsb' 0 32 }))) ∧
  (∀ p i u s1, p = bits (s.g f.b).toNat 1 0 → i = bits (s.g f.b).toNat 7 4 → ready (.mxspill f) s →
    bit (s.haparts s.thr.hold) p = true → s.partPending k p = false →
    reachM s s.who (refOf (s.g f.a) 0) 4096 4096 { w := true } = .ok u →
    bulkStore (s.holdPart k p true) (refOf (s.g f.a) 0) (s.accBytes k (16 * p + i)) 4096 = .ok s1 →
    let h := (s.accHdr k (16 * p + i)).getD 0
    Completes (.mxspill f) f s ((s1.holdPart k p false).setG2 f.d.idx.toNat (h.extractLsb' 0 64) (h.extractLsb' 64 64))) ∧
  (∀ p i u d s0 s1 hdr, p = bits (s.g f.b).toNat 1 0 → i = bits (s.g f.b).toNat 7 4 → ready (.mxfill f) s →
    bit (s.haparts s.thr.hold) p = true → s.partPending k p = false →
    hdr = (if s.g f.d = 0 ∧ s.g1 f.d = 0 then none
      else some (hdrBits (sealHdr (leBytes 8 (s.g f.d).toNat ++ leBytes 8 (s.g1 f.d).toNat)))) →
    (∀ h ∈ hdr, fillHdrOk (hdrOfBits h) = true) →
    reachM s s.who (refOf (s.g f.a) 0) 4096 4096 { r := true } = .ok u →
    wholeOk s (refOf (s.g f.a) 0) 4096 4096 { r := true } = .ok s0 →
    readUnits (refOf (s.g f.a) 0) (lineCuts 40 (s0.addrOf (refOf (s.g f.a) 0)) 0 4096) (s0.holdPart k p true) = .ok (d, s1) →
    let e := ((s1.setAccEls k (16 * p + i) (words32 d)).setAccHdr k (16 * p + i) hdr).setApp k (16 * p + i) hdr
    let o := s1.ownerAt k p
    Completes (.mxfill f) f s ((e.setOwner k p { o with used := o.used ||| BitVec.twoPow 16 i }).holdPart k p false))

/-- R441: MXSPILL and MXFILL of a partition of the holding that no pending record names complete in a window of plain data. -/
def Sys2Proof.Claims.AccumulatorsInWindow : Prop := ∀ f s, PlainBank s →
  let k := clusterOf s.core
  let p := bits (s.g f.b).toNat 1 0
  let t := 16 * p + bits (s.g f.b).toNat 7 4
  let r := refOf (s.g f.a) 0
  bit (s.haparts s.thr.hold) p = true → s.partPending k p = false → InSeg0 s r 4096 4096 →
  (ready (.mxspill f) s →
    let h := (s.accHdr k t).getD 0
    ∃ e, Completes (.mxspill f) f s (e.setG2 f.d.idx.toNat (h.extractLsb' 0 64) (h.extractLsb' 64 64)) ∧
      Stored s e r.off.toNat (s.accBytes k t)) ∧
  (∀ hdr, ready (.mxfill f) s →
    hdr = (if s.g f.d = 0 ∧ s.g1 f.d = 0 then none
      else some (hdrBits (sealHdr (leBytes 8 (s.g f.d).toNat ++ leBytes 8 (s.g1 f.d).toNat)))) →
    (∀ h ∈ hdr, fillHdrOk (hdrOfBits h) = true) →
    ∃ e, Completes (.mxfill f) f s e ∧ e.accBytes k t = s.winBytes s.core s.thr.hold r.off.toNat 4096 ∧ e.accHdr k t = hdr ∧
      e.ownerAt k p = { s.ownerAt k p with used := (s.ownerAt k p).used ||| BitVec.twoPow 16 (bits (s.g f.b).toNat 7 4) })

/-- The statements MatrixAppend, AccumulatorPartitions and AccumulatorsInWindow together. -/
def Obligations.MatrixAndAccumulators : Prop := MatrixAppend ∧ AccumulatorPartitions ∧ AccumulatorsInWindow

/-! ### Copies -/

namespace Sys2Proof.Claims

/-- The command of a copy instruction as it waits for its context, and the state in which it does (R443). -/
def copied (f : Fields) (kind : CopyKind) (dst src : Word) (len : Nat) (body : List Byte) (s : State) : State :=
  let s := s.pin
  let t := s.thr
  let c : CopyCmd :=
    { num := 0, kind := kind, dst := dst, src := src, len := len, body := body, irq := f.imm.getLsbD 2, ib := f.imm.getLsbD 3,
      ob := f.imm.getLsbD 4, boff := cpyBoff f, hold := t.hold, rgn := t.rgn, ctxid := t.ctxid, slot := s.slotNo, launch := t.launch,
      sg := t.sg, stkc := t.stkc, sovf := t.sovf, drainTo := s.slot.issued }
  (s.modCctx (s.core * 4 + cpyCtx f) fun x => { x with wait := x.wait ++ [c] }).modSlot fun v => { v with cp := v.cp + 1 }

/-- The checks common to the copy instructions (R443). -/
structure CopyOk (f : Fields) (s : State) : Prop where
  context : bit (s.hcctx s.thr.hold) (cpyCtx f) = true
  objects : boffOk s f = .ok ()
  room    : s.slot.cp < 63

end Sys2Proof.Claims

/-- R292, R443 to R445: CPY, CPYS and CPYM queue a copy of the bytes that they name, with their ranges checked. -/
def Sys2Proof.Claims.CopyLinear : Prop := ∀ f s, CopyOk f s →
  let src := refOf (s.g f.a) 0
  let dst := refOf (s.g f.d) 0
  let n := (s.g f.b).toNat
  (ready (.cpy f) s → n < 2 ^ 32 → rangeM s src n { r := true } = .ok () → rangeM s dst n { w := true } = .ok () →
    Completes (.cpy f) f s (copied f .lin (s.g f.d) (s.g f.a) n [] s)) ∧
  (∀ h s1, ready (.cpys f) s → readShape s (s.g f.b) = .ok (h, s1) → 8 ≤ h.w → CopyOk f s1 →
    let dir := f.imm.getLsbD 20
    let m := h.count * (h.w / 8)
    m < 2 ^ 32 →
    (if dir then rangeM s1 (refOf (s1.g f.a) 0) m { r := true } = .ok () ∧ shapeRange s1 h (refOf (s1.g f.d) 0) { w := true } = .ok ()
     else shapeRange s1 h (refOf (s1.g f.a) 0) { r := true } = .ok () ∧ rangeM s1 (refOf (s1.g f.d) 0) m { w := true } = .ok ()) →
    Completes (.cpys f) f s
      (copied f (.shaped dir) (s1.g f.d) (s1.g f.a) m (s1.slot.resume.data.getD s.slot.unit []) s1)) ∧
  (ready (.cpym f) s → rangeM s src n { r := true } = .ok () → dst.seg = 0 →
    (∀ q < 4, (f.imm.extractLsb' 20 4).getLsbD q = true →
      (s.hplot s.thr.hold).covers (coreOf (clusterOf s.core) q) = true ∧ dst.off.toNat + n ≤ s.winSize s.thr.hold) →
    Completes (.cpym f) f s (copied f (.multi (f.imm.extractLsb' 20 4)) (s.g f.d) (s.g f.a) n [] s))

/-- R246, R294 and R446 to R449: CPYT, CPYG, CPYX and CPYA queue a tile of a tensor, a gather of rows, a scatter and a reduction. -/
def Sys2Proof.Claims.CopyIndexed : Prop := ∀ f s, CopyOk f s →
  (∀ bs s1 t, ready (.cpyt f) s →
    let id := bits (s.g f.a).toNat 11 0
    id ≠ 0 → tableEntry s (s.hword s.thr.hold 0x98 + 128 * id) = .ok (bs, s1) → Tensor.ofBytes bs = some t →
    let o := originOf (s1.g f.b)
    o.1 < t.exts.getD 1 0 → o.2.1 < t.exts.getD 0 0 → o.2.2.1 < t.exts.getD 2 0 → o.2.2.2 < t.exts.getD 3 0 → CopyOk f s1 →
    bits (s1.g f.d).toNat 3 0 = 0 → rangeM s1 (refOf (s1.g f.d) 0) (t.tile o id).len { w := true } = .ok () →
    Completes (.cpyt f) f s (copied f .tensor (s1.g f.d) (s1.g f.b) (t.tile o id).len (bs ++ leBytes 2 id) s1)) ∧
  (∀ bs s1, ready (.cpyg f) s → bits (s.g f.a).toNat 63 61 = 0 →
    unitRd kLD { r := true } s (refOf (s.g f.a) 0) 64 64 = .ok (bs, s1) → CopyOk f s1 →
    let fmt := recW bs 0x20 8
    fmt ≤ 63 → 8 ≤ fmtWidth fmt → recW bs 0x38 8 = 0 → recW bs 0 8 % 4 = 0 → recW bs 0x28 8 % 8 = 0 →
    recW bs 0x30 8 % (fmtWidth fmt / 8) = 0 →
    (recW bs 0x18 4 ≤ recW bs 0x1C 4 → rangeM s1 (refOf (BitVec.ofNat 64 (recW bs 0 8)) (4 * (recW bs 0x18 4 : Int)))
      (4 * (recW bs 0x1C 4 - recW bs 0x18 4 + 2)) { r := true } = .ok ()) →
    Completes (.cpyg f) f s (copied f .gather (BitVec.ofNat 64 (recW bs 0x28 8)) (BitVec.ofNat 64 (recW bs 0 8)) 0 bs s1)) ∧
  (∀ h bs s1, indexShape s (s.g f.b) = .ok (h, bs, s1) → CopyOk f s1 → shapesIn s1 [h] = .ok () →
    let n := szBytes (mdSz f.md)
    rangeM s1 (refOf (s1.g f.a) 0) (h.count * n) { r := true } = .ok () →
    (ready (.cpyx f) s → Completes (.cpyx f) f s (copied f (.scatter n) (s1.g f.d) (s1.g f.a) (h.count * n) bs s1)) ∧
    (ready (.cpya f) s → Completes (.cpya f) f s (copied f (.reduce f.fn.toNat n) (s1.g f.d) (s1.g f.a) (h.count * n) bs s1)))

/-- The statements CopyLinear and CopyIndexed together. -/
def Obligations.CopiesQueued : Prop := CopyLinear ∧ CopyIndexed

/-! ### Launches and threads -/

/-- R122, R145, R451, R452 and R455: SPAWN, SPAWNB and WAKE, whose region could be looked up and at whose plot the release holds, answer
the code of their check and, on 0, start a launch, push a bounded sprig or queue a sprig at the named core. -/
def Sys2Proof.Claims.LaunchInstructions : Prop := ∀ f s look s1, s.slot.ld < 63 →
  let h := s.thr.hold
  let freed := fun (t : State) (rgn : Nat) => t.released t.core t.slotNo (BitVec.ofNat 64 (t.eff t.thr.hold rgn 0x10)) = true
  let marked := fun (t : State) (h rgn : Nat) => match look with | Look.ok _ => t.markFrz h rgn | _ => t
  (ready (.spawn f) s →
    let rgn := (s.g f.a).toNat
    (rgn % 256 ≠ 0 ∨ 2 ^ 57 ≤ rgn → Completes (.spawn f) f s (s.dst f.d 3)) ∧
    (rgn % 256 = 0 → rgn < 2 ^ 57 → lookRegion s rgn = .ok (look, s1) → freed s1 rgn →
      let s2 := s1.markFrz h rgn
      let c := s2.launchCheck h rgn look 0
      (c.1 = 0 → Completes (.spawn f) f s
        ((s2.launchStart h rgn c.2 (if f.b.cls = .Z then 0 else (s.g f.b).toNat) 0 false none).dst f.d 0)) ∧
      (c.1 ≠ 0 → Completes (.spawn f) f s (s2.dst f.d (BitVec.ofNat 64 c.1))))) ∧
  (∀ bs s0, ready (.spawnb f) s → unitRd kLD { r := true } s (refOf (s.g f.a) 0) 64 64 = .ok (bs, s0) →
    let h := s0.thr.hold
    let rgn := recordRgn bs s0.thr.rgn
    lookRegion s0 rgn = .ok (look, s1) → freed s1 rgn →
    let s2 := marked s1 h rgn
    let c := s2.spawnbCode h rgn bs look
    (∀ m s3, c = 0 → newFrame s2 h rgn = .ok (m, s3) → Completes (.spawnb f) f s ((s3.spawnBounded h rgn s3.core m bs).dst f.d 0)) ∧
    (c ≠ 0 → Completes (.spawnb f) f s (s2.dst f.d (BitVec.ofNat 64 c)))) ∧
  (ready (.wake f) s →
    let rgn := (s.g f.a).toNat
    let core := coreAt (bits (s.g f.b).toNat 6 0) (bits (s.g f.b).toNat 13 8)
    lookRegion s rgn = .ok (look, s1) → freed s1 rgn →
    let s2 := marked s1 h rgn
    let c := s2.wakeCode h rgn core look
    (∀ m s3, c = 0 → newFrame s2 h rgn = .ok (m, s3) → Completes (.wake f) f s ((s3.wakeSprig h rgn core m (s.g1 f.b)).dst f.d 0)) ∧
    (c ≠ 0 → Completes (.wake f) f s (s2.dst f.d (BitVec.ofNat 64 c))))

/-- R453, R454, R461, R462 and R468: BOUND sets the bound of a thread and of its frame, ends a doomed thread, and else goes on, and so does
KPOINT; ROAM and MIGR let a thread roam; SPILL goes on once the named slot is empty; RESTO restarts an engine context or requeues a
frame; IDLE ends at an interrupt, at its limit or when it is woken. -/
def Sys2Proof.Claims.ThreadInstructions : Prop := ∀ f s,
  (∀ s0 s9, ready (.bound f) s → killReady s true = .ok s0 →
    let v := s0.src f.a 0
    v.2.frameReady v.2.thr.hold v.2.thr.rgn v.2.thr.frame = (true, s9) →
    let s1 := s9.modThr fun t => { t with bound := v.1, bnd := true }
    let s2 := s1.partWord s1.thr.hold s1.thr.rgn (s1.thr.frame + 0xE8) v.1.toNat
    s2.thr.s = true ∨ s2.thr.h = true ∨
      s2.doomed s2.thr.hold s2.thr.rgn s2.thr.bnd s2.thr.bound (clusterOf s2.core) = false →
    Completes (.bound f) f s s2) ∧
  (∀ s0, ready (.kpoint f) s → killReady s s.thr.bnd = .ok s0 →
    let dies := s0.doomed s0.thr.hold s0.thr.rgn s0.thr.bnd s0.thr.bound (clusterOf s0.core)
    (s0.thr.s = true ∨ s0.thr.h = true ∨ dies = false → Completes (.kpoint f) f s s0) ∧
    (s0.thr.s = false → s0.thr.h = false → dies = true → exec (.kpoint f) s = .next
      { conclude f.yld s.core (.ok (.gone ((s0.modSlot fun v => { v.fresh with leave := .kill, late := [], yld := false }).reap
        s0.core s0.slotNo))) with pw := s.pw })) ∧
  (ready (.roam f) s → Completes (.roam f) f s ((s.dst f.d (if s.thr.roamBit then 1 else 0)).modThr fun t =>
    { t with roam := f.imm.getLsbD 0 && t.stkc = 0 && !t.root })) ∧
  (ready (.migr f) s →
    let c := coreAt (bits (s.g f.a).toNat 6 0) (bits (s.g f.a).toNat 13 8)
    (s.hplot s.thr.hold).covers c = true → s.thr.stkc = 0 → s.thr.s = false → s.thr.h = false →
    let s1 := s.modThr fun t => { t with roam := true }
    (s.thr.root = true → Completes (.migr f) f s s) ∧
    (s.thr.root = false → Completes (.migr f) f s
      (if clusterOf c = clusterOf s1.core then s1 else s1.migrateTo (clusterOf c) false))) ∧
  (ready (.spill f) s →
    let n := if f.a.cls = .I then bits f.imm.toNat 3 0 else bits (s.g f.a).toNat 3 0
    let v := s.slotAt s.core n
    (s.slot.sent = true → v.leave = .stay → Completes (.spill f) f s s) ∧
    (s.slot.sent = false → s.ownerNow s.core n = some s.thr.hold → n ≠ s.slotNo → v.thr = none → Completes (.spill f) f s s)) ∧
  (∀ t w, w = bits (s.g f.a).toNat 31 0 → ready (.resto f) s → s.timeline s.thr.hold w = .ok t → bits w 31 30 ≠ 2 →
    let x := tlCtx w
    Completes (.resto f) f s (s.restart x.1 x.2 fun t c => t.copyBytes (c.eng x.2) c)) ∧
  (ready (.restoFrame f) s → (s.g f.a).toNat % 256 = 0 → s.inPool s.thr.hold (s.g f.a).toNat = true →
    Completes (.restoFrame f) f s (s.requeue s.thr.hold (s.g f.a).toNat)) ∧
  (ready (.idle f) s →
    (s.slot.uipend ≠ 0 ∨ (s.slot.sent = true ∧ (s.slot.idling = false ∨ ∃ c, s.slot.idleBy = some c ∧ c ≤ s.cyc s.core))) →
    Completes (.idle f) f s s)

/-- The statements LaunchInstructions and ThreadInstructions together. -/
def Obligations.LaunchesAndThreads : Prop := LaunchInstructions ∧ ThreadInstructions

/-! ### Holdings, keys, rotas and page moves -/

namespace Sys2Proof.Claims

/-- The parameter block that an RGNOP names. -/
def blk (s : State) (f : Fields) : Nat := (s.g f.a).toNat
/-- The holding that an RGNOP names. -/
def hld (s : State) (f : Fields) : Nat := bits (s.g f.b).toNat 5 0

end Sys2Proof.Claims

/-- R56, R106 to R114, R463 and R487: an RGNOP on a holding with no other operation and no reset, with its checks passed, the memory that it
reads and writes at hand and nothing to wait for, makes, changes, stops, restarts or unmakes the holding and answers 0. -/
def Obligations.RegionOperations : Prop := ∀ f s s1,
  let h := hld s f
  let pa := blk s f
  let answer := fun (t : State) => (t.modHold h fun v => { v with busy := none }).dst f.d 0
  s.released s.core s.slotNo 0x8000000000000000 = true → s.busyWith h = none → (s.hold h).reset = 0 → pa % 256 = 0 →
  (ready (.rgnopCreate f) s → h ≠ 0 → s.live h = false → pa + 256 ≤ dramSize → blockOpen s pa = .ok s1 →
    let given := s1.blockAt pa
    blockOk given false = true → s1.conflict h given false = false →
    (s1.createDo h pa given .active).cellsPending (wordIn given 0x90) = false →
    Completes (.rgnopCreate f) f s (answer (s1.createDo h pa given .active))) ∧
  (ready (.rgnopSlice f) s → h ≠ 0 → s.live h = false → pa + 256 ≤ dramSize → blockOpen s pa = .ok s1 →
    let given := s1.blockAt pa
    blockOk given true = true → placeDiffers given (s1.hold 0).words = false → 4096 ≤ bits (s1.hword 0 0x50) 31 0 →
    s1.conflict h given true = false → (s1.createDo h pa given .sliced).cellsPending (wordIn given 0x90) = false →
    Completes (.rgnopSlice f) f s (answer (s1.createDo h pa given .sliced))) ∧
  (∀ s2 s3, ready (.rgnopResize f) s → (s.hold h).st = .active ∨ (s.hold h).st = .frozen → pa + 256 ≤ dramSize → blockOpen s pa = .ok s1 →
    let given := s1.blockAt pa
    let w := keepWords (s.hold h).words given
    s1.resizeCode h given w = 0 → s1.resizeSpills h w = [] →
    (h = 0 → s1.ringed = true → placeDiffers (s1.hold 0).words w = false) →
    (h ≠ 0 → s1.inRing h = true → placeDiffers w (s1.hold 0).words = false) →
    blockOpen s1 pa = .ok s2 → frzOpen s2 h = .ok s3 →
    (s3.resizeDo h pa w).cellsPending (minus (s3.hword h 0x90) (wordIn w 0x90)) = false →
    Completes (.rgnopResize f) f s (answer (s3.resizeDo h pa w))) ∧
  (∀ s2, ready (.rgnopFreeze f) s → (s.hold h).st = .active ∨ (s.hold h).st = .sliced → frzOpen s h = .ok s1 →
    (if s1.ringed then s1.turnReady else (true, s1)) = (true, s2) →
    let mine : Bool := s2.ringed && s2.inRing h && decide (s2.hd.turn = h)
    let s3 := ((s2.modHold h fun v => { v with st := .frozen, prev := v.st }).beginEnd h).writeFrz h
    let s4 := if mine then s3.startTurn else s3
    s4.slotsOf h = [] → s4.enginesIdle h = true → Completes (.rgnopFreeze f) f s (s4.dst f.d 0)) ∧
  (ready (.rgnopThaw f) s → s.frozen h = true → frzOpen s h = .ok s1 →
    let s2 := s1.modHold h fun v => { v with st := v.prev, prev := .free }
    let s3 := if s2.ringed && s2.inRing h && s2.frozen s2.hd.turn then s2.startTurn else s2
    Completes (.rgnopThaw f) f s (((if s3.halted h then s3 else s3.endStop h).writeFrz h).dst f.d 0)) ∧
  (ready (.rgnopDestroy f) s → h ≠ 0 → s.live h = true →
    let s2 := (s.requarantine h).preempt h
    let s3 := (s2.wipe h).openShares h
    s2.slotsOf h = [] → s3.cellsPending (s2.hword h 0x90) = false → Completes (.rgnopDestroy f) f s (answer (s3.unmake h)))

/-- R36, R38, R464 to R466: KEYSET loads or clears a data key after the lines under the old one are written back, TLBINV drops translations, and ROTA writes a shadow table, a switch epoch or
the module epoch. -/
def Sys2Proof.Claims.KeysAndRotas : Prop := ∀ f s,
  let free := s.released s.core s.slotNo 0x8000000000000000 = true
  (∀ s1, ready (.keyset f) s → free → (s.g f.a).toNat % 64 = 0 → (s.g f.a).toNat + 64 ≤ dramSize →
    rootOpen s (s.g f.a).toNat 64 = .ok s1 →
    let k := bits (s.g f.b).toNat 7 0
    let t := s1.l2Flush fun l => l.key = k
    Completes (.keyset f) f s { t with hd := { t.hd with
      keys := Tab.set none t.hd.keys k (some (BitVec.ofNat 512 (leNat (s1.rootBytes (s.g f.a).toNat 64)))) } }) ∧
  (ready (.keysetClear f) s → free → Completes (.keysetClear f) f s (s.clearKey (bits (s.g f.b).toNat 7 0))) ∧
  (ready (.tlbinv f) s → (bits f.imm.toNat 13 8 ≠ 0 → s.thr.root = true) →
    let h := if s.thr.root then bits f.imm.toNat 13 8 else s.thr.hold
    let all := f.imm.getLsbD 0
    let mva := (s.g f.a).toNat
    let s1 := (s.tlbDrop fun t => t.hold = h && (all || (bits t.entry.toNat 4 1 ≠ 0 && t.tag = tlbTag t.level mva))).reissueQ h
    s1.accessOpen h = false → Completes (.tlbinv f) f s (s1.walkAgain h fun a => all || s1.onePage h a mva)) ∧
  (∀ r s1, ready (.rota f) s → free → rotaOf (s.g f.a).toNat = some r → r ≠ .master →
    (s.g f.b).toNat % 64 = 0 → (s.g f.b).toNat + 64 ≤ dramSize → rootOpen s (s.g f.b).toNat 64 = .ok s1 →
    let t := (s1.rootBytes (s.g f.b).toNat 64).map (· &&& 0xBF)
    (∀ e ∈ t, ∀ h, entryOwner e = some h → s1.live h = true) →
    Completes (.rota f) f s
      (if (s1.rota (rotaKey r)).arm then s1 else s1.modRota (rotaKey r) fun v => { v with shadow := Tab.setBytes [] 0 t })) ∧
  (ready (.rotaCtl f) s → free →
    (rotaOf (s.g f.a).toNat = some .master → Completes (.rotaCtl f) f s
      { s with net := { s.net with epoch := BitVec.ofNat 16 (s.g f.b).toNat } }) ∧
    (∀ r, rotaOf (s.g f.a).toNat = some r → r ≠ .master → Completes (.rotaCtl f) f s
      (s.modRota (rotaKey r) fun x =>
        { x with arm := bit (s.g f.b).toNat 32, tepoch := BitVec.ofNat 16 (bits (s.g f.b).toNat 31 16) })))

/-- R219 to R221 and R469: PGVER arms a page whose leaf it may move, reads a move's version, commits the move of a page that nothing has
written since, and frees a slot of its holding. -/
def Sys2Proof.Claims.PageMoves : Prop := ∀ f s,
  let h := s.thr.hold
  (∀ at_ e s1, ready (.pgverArm f) s → (s.g f.a).toNat % 65536 = 0 → (s.g f.a).toNat < 2 ^ 57 → bits (s.g f.a).toNat 56 52 ≠ 0x1F →
    s.walkNow s.asker (s.g f.a).toNat 4 3 (s.hword h 0x40) = (.ok (0, at_, e), s1) →
    let frame := bits e.toNat 63 34
    s1.leafOk h 0 (s.g f.a).toNat {} e = true → bits e.toNat 29 28 = 0 → s1.inHdm (frame * 65536) = false →
    s1.armed (frame * 65536) = false →
    (s1.freeMove h = none → Completes (.pgverArm f) f s (s1.dst f.d 1)) ∧
    (∀ i, s1.freeMove h = some i → Completes (.pgverArm f) f s
      (((s1.settleFrame frame).setMove h i (some ⟨(s.g f.a).toNat / 65536, at_, e, frame, 0⟩)).dst f.d
        (BitVec.ofNat 64 (i * 256))))) ∧
  (ready (.pgverRead f) s → Completes (.pgverRead f) f s
    (s.dst f.d (BitVec.ofNat 64 (((s.move h (bits (s.gz f.b).toNat 2 0)).map (·.version)).getD 0)))) ∧
  (ready (.pgverCommit f) s →
    let n := bits (s.g f.a).toNat 2 0
    let frame := bits (s.gz f.b).toNat 29 0
    frame * 65536 < dramSize → s.inHdm (frame * 65536) = false →
    (s.move h n = none → Completes (.pgverCommit f) f s (s.dst f.d 2)) ∧
    (∀ m s0, s.move h n = some m → s.hdmGate (some s.asker.who) m.leafAt 8 true h s.thr.rgn = (true, s0) →
      let s1 := s0.setMove h n none
      (m.version = bits (s.g f.a).toNat 63 32 → s0.rawWord m.leafAt = m.leaf → s0.inHdm (m.frame * 65536) = false →
        Completes (.pgverCommit f) f s
          ((((s1.rawPut h s1.thr.rgn m.leafAt (BitVec.ofNat 64 (bits m.leaf.toNat 33 0 + frame * 2 ^ 34))).tlbDrop fun t => t.pa = m.leafAt).moveHeld
            m.frame frame h).dst f.d 0)) ∧
      (m.version ≠ bits (s.g f.a).toNat 63 32 ∨ s0.rawWord m.leafAt ≠ m.leaf ∨ s0.inHdm (m.frame * 65536) = true →
        Completes (.pgverCommit f) f s (s1.dst f.d 2)))) ∧
  (ready (.pgverFree f) s → Completes (.pgverFree f) f s ((s.setMove h (bits (s.gz f.b).toNat 2 0) none).dst f.d 0))

/-- The statements KeysAndRotas and PageMoves together. -/
def Obligations.KeysRotasAndPages : Prop := KeysAndRotas ∧ PageMoves

/-! ### Power, signals and the start -/

namespace Sys2Proof.Claims

/-- The state in which the power unit alone has changed. -/
def withPw (s : State) (p : Power) : State := { s with pw := p }

/-- The power-on sequence starts in STBY when VAUX, PWR_EN and MOD_RST# are all there (R10, R19). -/
def sequenced (p : Power) : Power :=
  if p.vaux = true ∧ p.pwrEn = true ∧ p.modRst = true ∧ p.mode = .stby ∧ p.seq = .idle then { p with seq := .boot } else p

/-- The power state that goes with the clock (R10, R11): RUN at 850 MHz and CAP below it, once the module runs. -/
def modeAt (p : Power) (clock : Nat) : PState :=
  if p.mode = .run ∨ p.mode = .cap then (if clock < 850 then .cap else .run) else p.mode

/-- The fields of the power unit that a reset of the dies sets: no rails, no clock, and the next start cold (R10, R20). -/
def Dark (p : Power) : Prop :=
  p.rails = 0 ∧ p.pgood = false ∧ p.seq = .idle ∧ p.clock = 0 ∧ p.coldNext = true ∧ p.hot = false ∧ p.overLim = false

end Sys2Proof.Claims

/-- R10, R17, R20 and R21: VAUX brings the module from OFF to STBY and takes it back; PWR_EN and MOD_RST# start the power-on sequence and
take the power-down path, which a falling PWR_EN logs and a falling MOD_RST# does not; a rising MOD_RST# samples the straps, and while
it is low the controller is in reset, with the default power limit of R11; the path leaves nothing of the dies' registers. -/
def Sys2Proof.Claims.PowerSignals : Prop := ∀ s : State,
  (s.pw.vaux = false → exec .vauxPresent s = .next (withPw s (sequenced { s.pw with vaux := true, mode := .stby }))) ∧
  (s.pw.vaux = true → exec .vauxAbsent s = .next (withPw s.dark { s.dark.pw with limit := 10000, vaux := false, mode := .off })) ∧
  (s.pw.pwrEn = false → exec .pwrEnHigh s = .next (withPw s (sequenced { s.pw with pwrEn := true }))) ∧
  (s.pw.pwrEn = true → exec .pwrEnLow s = .next (
    if s.pw.seq = .idle ∨ s.pw.modRst = false then withPw s { s.pw with pwrEn := false }
    else withPw s.dark { s.dark.pw with pwrEn := false, mode := .stby, log := s.pw.log ++ [.pwrEnLow s.pw.time] })) ∧
  (s.pw.modRst = true → exec .modRstFall s = .next (
    if s.pw.vaux then withPw s.dark { s.dark.pw with limit := 10000, modRst := false, mode := .stby }
    else withPw s { s.pw with limit := 10000, modRst := false })) ∧
  (∀ pos boot cxla, s.pw.modRst = false → exec (.modRstRise pos boot cxla) s = .next
    (withPw s (sequenced { s.pw with modRst := true, strapPos := pos, strapBoot := boot, strapCxl := cxla }))) ∧
  Dark s.dark.pw ∧ s.dark.mm = {} ∧ s.dark.co = {} ∧ s.dark.sc = {} ∧ s.dark.hd = {} ∧ s.dark.net = {} ∧ s.dark.hi = {} ∧ s.dark.en = {} ∧
  s.dark.st = {} ∧ s.dark.pw.log = s.pw.log ∧ s.dark.pw.time = s.pw.time

/-- R18 to R20 and R36: good controller firmware, with STRAP_BOOT at 10 or 11 the recovery image, lets the rails rise one after the
other; with the last the module releases the dies, and the cold start begins; a rail that fails takes the power-down path and is
logged, and the sequence begins again while PWR_EN and MOD_RST# are high; PERST# resets its port, and a port whose PERST# is high may
train. -/
def Sys2Proof.Claims.RailsAndPorts : Prop := ∀ s : State,
  (∀ ok, s.pw.seq = .boot → exec (.ranborBoot ok) s = .next
    (if ok then withPw s { s.pw with seq := .rising, fw := if 2 ≤ s.pw.strapBoot.toNat then .recovery else .flash } else s)) ∧
  (s.pw.seq = .rising → s.pw.rails < 3 → exec .railWithinTolerance s = .next (withPw s { s.pw with rails := s.pw.rails + 1 })) ∧
  (s.pw.seq = .rising → s.pw.rails = 3 → exec .railWithinTolerance s = .next
    { s with pw := { s.pw with rails := 4, pgood := true, released := true, seq := .done }, st := {} }) ∧
  (s.ctl.here.sub < s.pw.rails ∨ (s.pw.seq = .rising ∧ s.ctl.here.sub = s.pw.rails ∧ s.ctl.here.sub < 4) →
    exec .railFault s = .next
      (withPw s.dark (sequenced { s.dark.pw with mode := .stby, log := s.pw.log ++ [.railFault s.ctl.here.sub s.pw.time] }))) ∧
  (s.ctl.here.unit = 0 → s.pw.perstA = true → exec .perstAssert s = .next (withPw (s.resetPort 0) { s.pw with perstA := false })) ∧
  (s.ctl.here.unit = 1 → s.pw.perstB = true → exec .perstAssert s = .next (withPw (s.resetPort 1) { s.pw with perstB := false })) ∧
  (s.ctl.here.unit = 0 → s.pw.perstA = false → exec .perstDeassert s = .next (withPw s { s.pw with perstA := true })) ∧
  (s.ctl.here.unit = 1 → s.pw.perstB = false → exec .perstDeassert s = .next (withPw s { s.pw with perstB := true })) ∧
  (∀ w r, s.pw.seq = .done → (s.st.state ≠ .running ∨ s.st.cold = false ∨ 5 ≤ s.st.step) → portMode w r = true →
    (s.ctl.here.unit = 0 → s.pw.perstA = true → s.hi.upA = none →
      Happens (.hostPortLinkUp w r) s { s with hi := { s.hi with upA := some (w, r) } }) ∧
    (s.ctl.here.unit = 1 → s.pw.perstB = true → s.hi.upB = none →
      Happens (.hostPortLinkUp w r) s { s with hi := { s.hi with upB := some (w, r) } }))

/-- The statements PowerSignals and RailsAndPorts together. -/
def Obligations.SignalsRailsAndPorts : Prop := PowerSignals ∧ RailsAndPorts

/-- R10, R11, R14 to R16: while the controller runs, a measurement above the limit lowers a running clock by 50 MHz, never below 400 MHz, where
it raises the alert; ten in a row below 95% of the limit raise it again, and so on the way to and from 850 MHz the module changes
between RUN and CAP; at 95 degrees the clock falls, a reading below ends that cause of the alert and no other, and at 105 degrees the
module shuts down, with whatever rails are up. (That the clock rises again after a thermal cap only so, not while the last reading was
95 degrees or more, and that the alert for power stands until it rises, are the model's choices: log entry 50; and so is that the soft
errors of memory come at power measurements, `State.softError`: log entry 35.) -/
def Obligations.PowerAndTemperature : Prop := ∀ s : State, PowerOk s.pw → s.pw.vaux = true → s.pw.modRst = true →
  let down := if s.pw.clock = 0 then 0 else max (s.pw.clock - 50) 400
  let up := if s.pw.clock = 0 then 0 else min (s.pw.clock + 50) 850
  (∀ w,
    let t := s.pw.time + 1
    (s.pw.limit < w → s.pw.clock = 400 → exec (.powerMeasurement w) s = .next
      (withPw s.softError { s.pw with time := t, overLim := true, below := 0 })) ∧
    (s.pw.limit < w → s.pw.clock ≠ 400 → exec (.powerMeasurement w) s = .next
      (withPw s.softError { s.pw with time := t, clock := down, below := 0, mode := modeAt s.pw down })) ∧
    (95 * s.pw.limit ≤ 100 * w → w ≤ s.pw.limit → exec (.powerMeasurement w) s = .next (withPw s.softError { s.pw with time := t, below := 0 })) ∧
    (100 * w < 95 * s.pw.limit → s.pw.below < 9 → exec (.powerMeasurement w) s = .next
      (withPw s.softError { s.pw with time := t, below := s.pw.below + 1 })) ∧
    (100 * w < 95 * s.pw.limit → 9 ≤ s.pw.below → s.pw.hot = true → exec (.powerMeasurement w) s = .next
      (withPw s.softError { s.pw with time := t, below := 0 })) ∧
    (100 * w < 95 * s.pw.limit → 9 ≤ s.pw.below → s.pw.hot = false → exec (.powerMeasurement w) s = .next
      (withPw s.softError { s.pw with time := t, clock := up, below := 0, overLim := false, mode := modeAt s.pw up }))) ∧
  (∀ c, 0 < s.pw.rails →
    (105 ≤ c → exec (.temperatureMeasurement c) s = .next
      (withPw s.dark (sequenced { s.dark.pw with mode := .stby, log := s.pw.log ++ [.thermalTrip s.ctl.here.unit c s.pw.time] }))) ∧
    (95 ≤ c → c < 105 → exec (.temperatureMeasurement c) s = .next
      (withPw s { s.pw with clock := down, hot := true, hotDie := s.ctl.here.unit, mode := modeAt s.pw down })) ∧
    (c < 95 → exec (.temperatureMeasurement c) s = .next (withPw s { s.pw with hot := false }))) ∧
  (s.pw.alert = true ↔ s.pw.hot = true ∨ s.pw.overLim = true)

/-- R84 to R90 and R92: once the power-on sequence is done, START_WARM and START_COLD begin a start at step 1, which is cold where R86
says so; each step that succeeds leads to the next, a warm start going from step 2 to step 6, and each that fails stops the start with
its code; with the PLL's lock the core clock runs, and the last step builds the capability tables and lets the module run. Each holds for
every state that the start's own state allows. -/
def Sys2Proof.Claims.StartSteps : Prop := ∀ s : State,
  let step := fun (n : Nat) => { s with st := { s.st with step := n } }
  (s.pw.seq = .done →
    (∃ t, exec .startWarm s = .next t ∧ t.pw = s.pw ∧ t.mm = s.mm ∧
      t.st = { cold := decide (s.st.state ≠ .done) || s.pw.coldNext } ∧ (t.st.cold = true → t.hi.upA = none ∧ t.hi.upB = none)) ∧
    (∃ t, exec .startCold s = .next t ∧ t.pw = s.pw ∧ t.mm = s.mm ∧ t.st = { cold := true } ∧ t.hi.upA = none ∧ t.hi.upB = none)) ∧
  (∀ i c, (i, c) ∈ ([(.pllLock false, 1, 0x01), (.bridgeTraining false, 2, 0x02), (.dramTraining false, 3, 0x03),
      (.fullScrub false, 4, 0x04), (.capabilityTableBuild false, 8, 0x09)] : List (Instr × Nat × BitVec 8)) → s.atStep c.1 = true →
    exec i s = .next { s with st := { s.st with state := .failed, fcode := c.2, waiting := false, image := none, staging := [] } }) ∧
  (s.pw.seq = .done → s.st.state = .running →
    (s.st.step = 1 → exec (.pllLock true) s = .next
      { step 2 with pw := { s.pw with clock := if s.pw.clock = 0 then 850 else s.pw.clock } }) ∧
    (s.st.step = 2 → exec (.bridgeTraining true) s = .next { (if s.st.cold then step 3 else s.enter6) with pw := s.pw }) ∧
    (s.st.step = 3 → exec (.dramTraining true) s = .next (step 4)) ∧
    (s.st.step = 4 → exec (.fullScrub true) s = .next { step 5 with
      mm := { s.mm with dram := [], poison := [], ecc := [], mat := [], l2 := [], l1 := [], home := [], regs := [], byHost := [] }
      co := { s.co with spad := [], poison := [], ecc := [], tag := [], fe := [], treg := [], ibuf := [] }
      en := { s.en with acc := [], accHdr := [], appHdr := [], bpos := [] } })) ∧
  (∀ links, s.atStep 5 = true → (links.any fun x : Nat × Trained × BitVec 3 => 48 ≤ x.1) = false →
    Happens (.phyEqualisation links) s
      (links.foldl (fun (s : State) x => match x.2.1 with
        | .failed => s.modLink x.1 fun k => { k with st := .fail }
        | r => s.trained x.1 r x.2.2) { s with net := { s.net with links := [] } }).enter6) ∧
  (s.enter6.st = (if s.pw.strapBoot ≠ 1 then { s.st with step := 6 }
    else if s.hi.upA.isNone then
      { s.st with step := 6, state := .failed, fcode := 0x0A, waiting := false, image := none, staging := [] }
    else { s.st with step := 6, waiting := true })) ∧
  (∀ rsa slh v m, s.atStep 6 = true → s.st.waiting = false ∨ s.st.image.isSome = true →
    Happens (.firmwareVerification rsa slh v m) s
      (if !rsa then s.failStart 0x06 else if !slh then s.failStart 0x07 else if v < m then s.failStart 0x08
       else { s with st := { s.st with
        step := 7
        fw := some (if s.pw.strapBoot = 1 then .host else if 2 ≤ s.pw.strapBoot.toNat then .recovery else .flash) } })) ∧
  (∀ v, Happens (.fwgo v) s (s.putFwgo v.toNat)) ∧
  (s.atStep 6 = true → s.st.waiting = true → s.st.image = none → Happens .fwgoTimeout s (s.failStart 0x0A)) ∧
  (s.atStep 8 = true → exec (.capabilityTableBuild true) s = .next
    { (s.capBuild.endStart fun x => { x with state := .done }) with
      pw := { s.pw with
        coldNext := false
        mode := if s.pw.mode = .stby then (if s.pw.clock < 850 then .cap else .run) else s.pw.mode } })

/-- R85, R87, R88 and R481: step 7 leaves holding 0 alone alive with the block of R481 beside what the firmware writes, every core, engine,
rota, chain and request as new, no line in a slice, and one key, in slot 0. -/
def Sys2Proof.Claims.StartReset : Prop := ∀ s : State, s.atStep 7 = true → ∃ t, exec .startReset s = .next t ∧ t.pw = s.pw ∧
  t.st = { s.st with step := 8 } ∧ t.co = {} ∧ t.en = {} ∧ t.hi.fns = [] ∧ t.net.rotas = [] ∧ t.net.epoch = 0 ∧
  t.mm.l1 = [] ∧ t.mm.l2 = [] ∧ t.mm.home = [] ∧ t.mm.pools = [] ∧ t.mm.portq = [] ∧ t.mm.tlb = [] ∧ t.sc = {} ∧ t.hi.writes = [] ∧
  (t.hold 0).st = .active ∧ (∀ h, h ≠ 0 → (t.hold h).st = .free) ∧ t.hd.keys.map (·.1) = [0] ∧
  t.hword 0 0x10 = 0x3F7F0000 ∧ t.hword 0 0x18 = 0xFFFFFFFF0000FFFF ∧ t.hword 0 0x20 = 0xFFFFFFFF ∧
  t.hword 0 0x48 = 0x000010007100FF00 ∧ t.hword 0 0x90 = 0xFFFFFFFFFFFFFFFF

/-- The statements StartSteps and StartReset together. -/
def Obligations.StartOfTheModule : Prop := StartSteps ∧ StartReset

/-! ### The host's side -/

namespace Sys2Proof.Claims

/-- The state of ATS invalidation after a request of a function at a port for pages from `page` on (R49): matching translations are
gone, those that are on their way are not kept, and the request waits for the requests that used one. -/
def invalidated (s : State) (p fn page size : Nat) : State :=
  { s with hi := { s.hi with
    atc := s.hi.atc.filter fun e => !e.in_ p fn page size
    reqs := s.hi.reqs.map fun (r : HostReq) => match r.purpose with
      | .translate q f g => if q = p && f = fn && page ≤ g && g < page + size then { r with purpose := .dropped } else r
      | _ => r
    atcWait := s.hi.atcWait ++ [(⟨p, fn, page, size,
      (s.hi.reqs.filter fun (r : HostReq) => r.port = p && r.used.any fun (e : AtcEnt) => e.in_ p fn page size).map fun (r : HostReq) => r.id⟩ : AtcWait)] } }.atcDone

end Sys2Proof.Claims

/-- R4, R11, R33 to R35, R44 to R46, R49, R50, R53, R54, R67 and R116: aligned register writes and reads act on the register that they name, and
others only count an MMIO error; configuration bits, the HDM-DB region and the quarantine register take what is written; root reads
what R4 lets it read. -/
def Sys2Proof.Claims.HostRegisters : Prop := ∀ s : State,
  (∀ fn off size v, fn < 64 → off < 2 ^ 16 →
    (accessOk off size = true → ∀ old, s.winA fn (off / 8 * 8) = some old →
      Happens (.registerWrite (.winA fn off) size v) s (s.putA fn (off / 8 * 8) (mergeReg old off size v.toNat))) ∧
    (accessOk off size = false ∨ s.winA fn (off / 8 * 8) = none →
      Happens (.registerWrite (.winA fn off) size v) s (s.mmioError fn))) ∧
  (∀ fn off size v, fn < 64 → off < 2 ^ 12 →
    (accessOk off size = true → ∀ old, s.winB fn (off / 8 * 8) = some old →
      Happens (.registerWrite (.winB fn off) size v) s (s.putB fn (off / 8 * 8) (mergeReg old off size v.toNat))) ∧
    (accessOk off size = false ∨ s.winB fn (off / 8 * 8) = none →
      Happens (.registerWrite (.winB fn off) size v) s (s.mmioError fn))) ∧
  (∀ size v, exec (.registerWrite .powerLimit size v) s = .next
    (withPw s (if 4000 ≤ v.toNat ∧ v.toNat ≤ 10000 then { s.pw with limit := v.toNat } else s.pw))) ∧
  (∀ peer size v, peer < 8 → Happens (.registerWrite (.routeMask peer) size v) s
    { s with net := { s.net with masks := Tab.set 0 s.net.masks peer (BitVec.ofNat 48 v.toNat) } }) ∧
  (∀ peer hold valid loc base limit r w a size v, peer < 8 → hold < 64 → loc < 64 →
    Happens (.registerWrite (.peerGrant peer hold valid loc base limit r w a) size v) s
      { s with net := { s.net with grants := Tab.set {} s.net.grants (peer * 64 + hold) ⟨valid, loc, base, limit, r, w, a⟩ } }) ∧
  (∀ link size v, link < 48 →
    let t := s.modLink link fun k => { k with dropc := bits v.toNat 55 40, retc := bits v.toNat 39 24, nakc := bits v.toNat 23 8 }
    Happens (.registerWrite (.linkCounters link) size v) s (if bit v.toNat 3 then t.resetLink link else t)) ∧
  (∀ off size,
    let p := s.ctl.here.unit / 64
    let fn := s.ctl.here.unit % 64
    let part := fun (x : Nat) => BitVec.ofNat 64 (if size = 8 then x else bits x (off % 8 * 8 + 31) (off % 8 * 8))
    p < 2 →
    (off < 2 ^ 16 → accessOk off size = true → s.ctl.here.sub = 0 →
      (∀ x, s.winA fn (off / 8 * 8) = some x → Happens (.hostRegisterRead false off size) s (s.send (.cplValue p fn (part x)))) ∧
      (s.winA fn (off / 8 * 8) = none → Happens (.hostRegisterRead false off size) s ((s.mmioError fn).send (.cplValue p fn 0)))) ∧
    (off < 2 ^ 12 → accessOk off size = true → s.ctl.here.sub = 0 →
      (∀ x, s.winB fn (off / 8 * 8) = some x → Happens (.hostRegisterRead true off size) s (s.send (.cplValue p fn (part x)))) ∧
      (s.winB fn (off / 8 * 8) = none → Happens (.hostRegisterRead true off size) s ((s.mmioError fn).send (.cplValue p fn 0)))) ∧
    (off < 2 ^ 12 → accessOk off size = true → fn = 0 → s.ctl.here.sub ≠ 0 → ∀ x, s.rootReg s.ctl.here.sub s.ctl.here.pos off = some x →
      ∀ b, Happens (.hostRegisterRead b off size) s (s.send (.cplValue p fn (part x)))) ∧
    (off < 2 ^ 12 → accessOk off size = false → s.ctl.here.sub = 0 → ∀ b, Happens (.hostRegisterRead b off size) s
      ((s.mmioError fn).send (.cplUR p fn)))) ∧
  (∀ i off, s.rootReg 1 i off = some (s.link i).status ∧ s.rootReg 2 i off = some s.hi.hdm.toNat ∧
    s.rootReg 3 i off = some (Tab.get 0 s.net.masks i).toNat ∧ s.rootReg 7 i off = some s.pw.limit) ∧
  (∀ x, s.ctl.here.unit < 2 → s.ctl.here.sub < 64 →
    let p := s.ctl.here.unit
    let fn := s.ctl.here.sub
    Happens (.configSpaceWrite .atsEnable true) s (s.modCfg p fn fun c => { c with ats := true }) ∧
    Happens (.configSpaceWrite .atsEnable false) s
      (let t := s.modCfg p fn fun c => { c with ats := false }
       { t with hi := { t.hi with
         atc := s.hi.atc.filter fun e => !(e.port = p && e.fn = fn)
         reqs := s.hi.reqs.map fun (r : HostReq) => match r.purpose with
           | .translate q f _ => if q = p && f = fn then { r with purpose := .dropped } else r
           | _ => r } }) ∧
    Happens (.configSpaceWrite .priEnable x) s ((s.modCfg p fn fun c => { c with pri := x, priOff := false }).pump fn) ∧
    Happens (.configSpaceWrite .atomicEnable x) s (s.modCfg p fn fun c => { c with atomic := x }) ∧
    (∀ n, Happens (.configSpaceWrite (.priAllocation n) x) s ((s.modCfg p fn fun c => { c with priMax := min n 512 }).pump fn)) ∧
    (s.vfOn p = true → Happens (.configSpaceWrite .vfEnable false) s (s.vfClear p))) ∧
  (∀ v : Word, Happens (.hdmRegionWrite v) s { s with hi := { s.hi with
    hdm := BitVec.ofNat 64 (bits v.toNat 47 18 * 2 ^ 18 +
      if 1 ≤ bits v.toNat 29 18 ∧ bits v.toNat 29 18 ≤ 2048 ∧ (bits v.toNat 47 30 + bits v.toNat 29 18) * 2 ^ 28 ≤ dramSize
      then v.toNat % 2 else 0) } }) ∧
  (∀ v : Word, Happens (.pageRequestQuarantineClear v) s
    ({ s with hi := { s.hi with pageReqs := s.hi.pageReqs.filter fun r => !(r.quar && r.fn = v.toNat % 64) } }.pump (v.toNat % 64)))

/-- R36, R47 and R91: how a window M access `r` is served: on the staging buffer of START.fwgo where that is open, else at the MVA that
segment 1 gives it, as an agent's write or read, whose bytes leave in completions of at most 512 bytes that together are those bytes;
one outside the segment, or denied, counts an MMIO error if it writes and is answered with an abort if it reads; and one that must wait
says what waiting changed. -/
def Sys2Proof.Claims.WindowM (s : State) : Prop :=
  (∀ l : List (List Byte × Bool), (∀ x ∈ l, x.1.length ≤ 512) →
    (completions l).flatMap (·.1) = l.flatMap (·.1) ∧ (completions l).any (·.2) = l.any (·.2) ∧ ∀ x ∈ completions l, x.1.length ≤ 512) ∧
  (∀ r : HostRead, r.put = none → s.cplRoom r.port r.fn r.len = false → s.windowM r = .error s) ∧
  (∀ r : HostRead, r.put.isSome = true ∨ s.cplRoom r.port r.fn r.len = true →
    let answer := fun (t : State) (l : List (List Byte × Bool)) =>
      (completions l).foldl (fun (t : State) x => t.send (.cplData r.port r.fn x.1 x.2)) t
    let denied := fun (t : State) => if r.put.isSome then t.mmioError r.fn else t.send (.cplCA r.port r.fn)
    (s.staged r.port r.fn = true →
      (∀ num d, r.put = some (num, d) → r.off + d.length ≤ 2 ^ 25 →
        s.windowM r = .ok (s.modSt fun x => { x with staging := Tab.setBytes x.staging r.off d })) ∧
      (r.put = none → r.off + r.len ≤ 2 ^ 25 → s.windowM r = .ok (answer s ((cut64 (r.len + 1) r.off 0 r.len).map fun p =>
        (((Tab.bytes s.st.staging r.off r.len).drop p.2.1).take p.2.2, false))))) ∧
    (s.staged r.port r.fn = false →
      (∀ t, s.windowMva r.port r.fn r.off r.len = (.error .waits, t) → s.windowM r = .error t) ∧
      (∀ e t, e ≠ .waits → s.windowMva r.port r.fn r.off r.len = (.error e, t) → s.windowM r = .ok (denied t)) ∧
      (∀ a t, s.windowMva r.port r.fn r.off r.len = (.ok a, t) →
        (∀ num d u, r.put = some (num, d) →
          (t.agentWrite r.port num r.fn a d false = (.done, u) → s.windowM r = .ok u) ∧
          (t.agentWrite r.port num r.fn a d false = (.denied, u) → s.windowM r = .ok (denied u)) ∧
          (t.agentWrite r.port num r.fn a d false = (.waits, u) → s.windowM r = .error u)) ∧
        (∀ u, r.put = none →
          (∀ l, t.agentPieces r.port r.fn a r.len = (.ok l, u) → s.windowM r = .ok (answer u l)) ∧
          (t.agentPieces r.port r.fn a r.len = (.error .waits, u) → s.windowM r = .error u) ∧
          (∀ e, e ≠ .waits → t.agentPieces r.port r.fn a r.len = (.error e, u) → s.windowM r = .ok (denied u))))))

/-- R36, R47, R49, R50, R52, R67, R90, R91, R115 and R116: a window M access is served at once, or waits behind its port's writes and for
what it needs; a page response lets the group's waiters go on or fail; an invalidation drops
translations; a function-level reset and a cleared VF Enable unmake a holding's work once its threads have left; a completion answers
its request; SPDM answers. -/
def Sys2Proof.Claims.FunctionEvents : Prop := ∀ s : State,
  let p := s.ctl.here.unit
  let h := s.ctl.here.sub
  (∀ off len (data : Option (List Byte)),
    let n := (data.map List.length).getD len
    p < 2 → h < 64 → 0 < n → n ≤ (if data.isSome then 512 else 4096) → off + n ≤ 2 ^ 36 →
    let t := if data.isSome then (s.nextNum p).2 else s
    let r : HostRead := ⟨p, h, off, n, data.map fun d => ((s.nextNum p).1, d)⟩
    let later := fun (u : State) => { u with hi := { u.hi with reads := u.hi.reads ++ [r] } }
    (s.behindWrite s.hi.reads.length p = true → Happens (.windowMAccess off len data) s (later t)) ∧
    (s.behindWrite s.hi.reads.length p = false →
      (∀ u, t.windowM r = .ok u → Happens (.windowMAccess off len data) s u) ∧
      (∀ u, t.windowM r = .error u → Happens (.windowMAccess off len data) s (later u)))) ∧
  WindowM s ∧
  (∀ r, s.pageReq = some r → r.quar = false →
    let s1 := { s with hi := { s.hi with pageReqs := s.hi.pageReqs.erase r } }
    Happens .priSuccess s ((r.joined.foldl (fun (t : State) w => t.waiterGoes r.fn r.page w) s1).pump r.fn) ∧
    Happens .priInvalidRequest s ((r.joined.foldl (fun (t : State) w => t.waiterFails r.fn r.page r.write w) s1).pump r.fn) ∧
    (let t := r.joined.foldl (fun (t : State) w => t.waiterFails r.fn r.page r.write w) s1
     Happens .priResponseFailure s ((t.modCfg (s1.priPort r.fn) r.fn fun c => { c with priOff := true }).pump r.fn))) ∧
  (∀ r, s.pageReq = some r → r.quar = true → ∀ i ∈ [Instr.priSuccess, .priInvalidRequest, .priResponseFailure],
    Happens i s (s.modFn r.fn fun x => { x with qdisc := min (x.qdisc + 1) 0xFFFF })) ∧
  (∀ page size, p < 2 → h < 64 → Happens (.atsInvalidateRequest page size) s (invalidated s p h page size)) ∧
  (p ≠ 0 → p < 64 → s.live p = true →
    ((s.hold p).reset = 0 → Happens .functionLevelReset s (((s.requarantine p).preempt p).modHold p fun v => { v with reset := 1 })) ∧
    ((s.hold p).reset = 1 → s.slotsOf p = [] →
      let t := ((s.wipe p).resetCells (s.hword p 0x90) p).modFn p fun f => { f with chain := {} }
      Happens .functionLevelReset s (if t.cellsPending (t.hword p 0x90) then t.modHold p fun v => { v with reset := 4 }
        else t.modHold p fun v => { v with reset := 0, stopped := t.halted p })) ∧
    ((s.hold p).reset = 4 → s.cellsPending (s.hword p 0x90) = false →
      Happens .functionLevelReset s (s.modHold p fun v => { v with reset := 0, stopped := s.halted p }))) ∧
  (p ≠ 0 → p < 64 → s.live p = false →
    Happens .functionLevelReset s ((s.quarantine p).modFn p fun f => { f with chain := {} })) ∧
  (p = 0 → Happens .functionLevelReset s s.rootReset) ∧
  (h = 0 → p < 2 → s.vfOn p = true → Happens .vfEnableClear s (s.vfClear p)) ∧
  (h ≠ 0 → (s.hold h).reset = 2 → s.busyWith h = none →
    Happens .vfEnableClear s (((s.requarantine h).preempt h).modHold h fun v => { v with reset := 3, busy := none })) ∧
  (h ≠ 0 → (s.hold h).reset = 3 → s.slotsOf h = [] →
    Happens .vfEnableClear s (((s.wipe h).openShares h).modHold h fun v => { v with reset := 5 })) ∧
  (h ≠ 0 → (s.hold h).reset = 5 → s.cellsPending (s.hword h 0x90) = false → Happens .vfEnableClear s (s.unmake h)) ∧
  (∀ r st d, s.hi.reqs[s.ctl.here.pos]? = some r → r.port < 2 → Happens (.hostCompletion st d) s (s.complete r st d)) ∧
  (∀ c, p < 2 → ∃ b,
    Happens (.spdmRequest c) s ((s.spdmAnswer c).2.send
      (.spdm p (if c ∈ [0x84, 0xE1, 0xE3, 0x81, 0x82, 0x83, 0xE0, 0xE4] then c &&& 0x7F else 0x7F) b)) ∧
    (c = 0xE0 → b = .measurements s.measurements) ∧ (c = 0x82 → b = .certificate Config.certificate))

/-- The statements HostRegisters and FunctionEvents together. -/
def Obligations.RegistersAndFunctions : Prop := HostRegisters ∧ FunctionEvents

/-- R72 to R83: a function's chain registers take what the host writes; a running chain fetches its next record, starts records of each
type in order, and completes them; a SIGNAL of bit 1 of its flags sends its MSI-X, and the mirror follows the timeline by the port of
the chain's writes. -/
def Obligations.HostChain : Prop := ∀ s : State,
  let fn := s.ctl.here.unit
  let c := s.chainAt fn
  (∀ v : Word, Happens (.ctailWrite v) s
    (if v.toNat < c.ctail then s.mmioError fn else s.modChain fn fun c => { c with ctail := v.toNat })) ∧
  (∀ v, Happens (.cheadWrite v) s (if c.run then s.mmioError fn else s.modChain fn fun c => { c with chead := v, prev := none })) ∧
  Happens .go s (if c.run then s else s.modChain fn fun c => { c with run := true, err := 0, erec := 0 }) ∧
  (c.run = true → c.next ≤ c.ctail → c.asked = none → c.featuring = false → (c.recs.filter fun r => !r.done).length < 64 →
    (∀ p d, (c.recs.find? fun r => r.num = c.next) = none → c.prev = some p → c.got = some (some d) → Happens .recordFetch s
      ((s.modChain fn fun c => { c with got := none }).modChain fn fun c =>
        { c with chead := BitVec.ofNat 64 (leNat (d.take 8)), prev := none })) ∧
    ((c.recs.find? fun r => r.num = c.next) = none → c.prev = none →
      (ptrBad c.chead c.facc = true → Happens .recordFetch s (s.chainStop fn c.next c.chead 0x02)) ∧
      (ptrBad c.chead c.facc = false →
        (∀ d, c.got = some (some d) → Happens .recordFetch s ((s.modChain fn fun c => { c with got := none }).takeRecord fn d)) ∧
        (c.got = some none → Happens .recordFetch s
          ((s.modChain fn fun c => { c with got := none }).chainStop fn c.next c.chead 0x03)) ∧
        (let p := s.hostPort fn (ptrAddr c.chead)
         c.got = none → bits c.chead.toNat 1 0 = 0 → s.tagFree p = true → s.portRoom p fn = true →
          let s1 := s.modChain fn fun c => { c with asked := some s.ctl.nextId }
          Happens .recordFetch s (s1.hostGet (s1.hostPort fn (ptrAddr c.chead)) fn (ptrAddr c.chead) 64 (.chain fn))) ∧
        (∀ bs t, c.got = none → bits c.chead.toNat 1 0 = 1 →
          s.agentRead (chainPort fn) fn (ptrAddr c.chead) 64 = (.data bs false, t) → Happens .recordFetch s (t.takeRecord fn bs))))) ∧
  (∀ r, s.startable 5 = some r → r.acted = false → Happens .feature s
    (if c.first then (s.act fn r.num 0 false).modChain fn fun c => { c with facc := BitVec.ofNat 64 (r.word 2 % 16) }
     else s.recStop fn r 0x04)) ∧
  (∀ r x s0, s.startable 1 = some r → r.acted = false → s.chainWrites fn (· < r.num) = false →
    s.sending (fun x => match x with | .chain g k => g = fn && k < r.num | _ => false) = false →
    s.regionGate (schedAsker fn (r.word 2)) (r.word 2) = (true, s0) → s0.live fn = true → s0.lookChain fn 15 (r.word 2) = .ok x →
    let s1 := s0.markFrz fn (r.word 2)
    let k := s1.launchCheck fn (r.word 2) (.ok x) (r.word 4)
    Happens .launch s
      (if k.1 = 0 then
        (s1.launchStart fn (r.word 2) k.2 (r.word 3) (r.word 4) (s1.rootLaunch fn (r.word 2)) (some r.num)).act fn r.num s1.ctl.nextId false
      else s1.recStop fn r 0x05)) ∧
  (∀ r, s.startable 3 = some r → r.acted = false →
    (r.word 2 % 8 ≠ 0 → Happens .signal s (s.recStop fn r 0x06)) ∧
    (∀ t, r.word 2 % 8 = 0 → s.spaceOk fn r.dsp (r.word 2) 8 { w := true } = (.denied, t) → Happens .signal s (t.recStop fn r 0x06)) ∧
    (∀ t u, r.word 2 % 8 = 0 → s.spaceOk fn r.dsp (r.word 2) 8 { w := true } = (.done, t) →
      t.spacePut fn r.num r.dsp (r.word 2) (leBytes 8 (r.word 3)) false false = (.done, u) →
      Happens .signal s (u.act fn r.num 0 false))) ∧
  (∀ r t u, s.startable 2 = some r →
    (r.acted = false → 0 < r.word 4 → r.word 4 ≤ 2 ^ 36 → s.spaceOk fn r.ssp (r.word 2) (r.word 4) { r := true } = (.done, t) →
      t.spaceOk fn r.dsp (r.word 3) (r.word 4) { w := true } = (.done, u) → Happens .copyh s (u.act fn r.num 0 false)) ∧
    (r.acted = false → r.word 4 = 0 ∨ 2 ^ 36 < r.word 4 → Happens .copyh s (s.recStop fn r 0x06)) ∧
    (r.acted = false → 0 < r.word 4 → r.word 4 ≤ 2 ^ 36 → s.spaceOk fn r.ssp (r.word 2) (r.word 4) { r := true } = (.denied, t) →
      Happens .copyh s (t.recStop fn r 0x06)) ∧
    (r.acted = true → r.left < r.word 4 → r.asked = false →
      (∀ d, r.buf = some d → Happens .copyh s (s.copyhGot fn r d.1 d.2)) ∧
      (let a := r.word 2 + r.left
       let p := s.hostPort fn a
       r.buf = none → r.ssp = 0 → s.tagFree p = true → s.portRoom p fn = true →
        let s1 := s.modChainRec fn r.num fun x => { x with asked := true }
        Happens .copyh s (s1.hostGet p fn a r.piece (.copyh fn r.num r.left))) ∧
      (∀ bs bad, r.buf = none → r.ssp ≠ 0 → s.agentRead (chainPort fn) fn (r.word 2 + r.left) r.piece (decide (r.left ≠ 0)) = (.data bs bad, t) →
        Happens .copyh s (t.copyhGot fn r bs bad))) ∧
    (∀ l, r.acted = true → r.left = r.word 4 → r.asked = false →
      let a := r.word 3 + r.word 4 - (r.pieces.map (·.1.length)).sum
      s.spaceOk fn r.dsp a (r.word 3 + r.word 4 - a) { w := true } = (.done, t) →
      t.putPieces fn r.num r.dsp (decide (r.word 3 < a)) r.pieces a = (.done, l, u) →
      Happens .copyh s (u.modChainRec fn r.num fun x => { x with left := r.word 4 + 1, pieces := [] }))) ∧
  (∀ r, s.startable 4 = some r →
    (∀ t, r.acted = false → r.word 2 % 8 = 0 → 8 ≤ r.word 3 →
      let bs := s.summaryBytes fn (r.word 3)
      s.spaceOk fn r.dsp (r.word 2) bs.length { w := true } = (.done, t) →
      Happens .resync s ((t.act fn r.num bs.length false).modChainRec fn r.num fun x =>
        { x with pieces := (cut64 (bs.length + 1) (r.word 2) 0 bs.length).map fun p => ((bs.drop p.2.1).take p.2.2, false) })) ∧
    (r.acted = false → r.word 2 % 8 ≠ 0 ∨ r.word 3 < 8 → Happens .resync s (s.recStop fn r 0x06)) ∧
    (∀ t l u, r.acted = true → r.pieces ≠ [] →
      let a := r.word 2 + r.left - (r.pieces.map (·.1.length)).sum
      s.spaceOk fn r.dsp a (r.word 2 + r.left - a) { w := true } = (.done, t) →
      t.putPieces fn r.num r.dsp (decide (r.word 2 < a)) r.pieces a = (.done, l, u) →
      Happens .resync s (u.modChainRec fn r.num fun x => { x with pieces := [] }))) ∧
  (∀ r, (c.recs.find? fun r => r.num = s.ctl.here.pos) = some r → r.done = false → s.recordOver fn r = true →
    (s.net.flushes.any fun x => x.key = chainFlush fn r.num) = false → s.recPeers fn r.num ≠ [] →
    Happens .recordComplete s (s.askChain fn r.num)) ∧
  (∀ r, (c.recs.find? fun r => r.num = s.ctl.here.pos) = some r → r.done = false → s.recordOver fn r = true →
    (s.net.flushes.any fun x => x.key = chainFlush fn r.num) = false → s.recPeers fn r.num = [] →
    let s1 := if r.type = 3 && r.flags.getLsbD 1 && c.facc.getLsbD 1 then s.send (.msix (s.hostPort fn 0) fn (bits (r.word 4) 15 0)) else s
    let recs := c.recs.map fun (x : Rec) => if x.num = r.num then { x with done := true } else x
    let n := advanceTl recs recs.length c.tlcur
    Happens .recordComplete s (s1.modChain fn fun x => { x with
      recs := recs.filter fun x => n < x.num
      tlcur := n
      mirror := if c.facc.getLsbD 0 && decide (c.tlmir.toNat / 8 ≠ 0) && decide (c.tlcur < n) then some n else x.mirror
      ports := x.ports.filter (n < ·.1) ++ (x.ports.find? (·.1 ≤ n)).toList })) ∧
  (∀ v, c.mirror = some v →
    let s1 := s.modChain fn fun c => { c with mirror := none }
    let a := c.tlmir.toNat / 8 * 8
    (a = 0 → Happens .mirrorWrite s s1) ∧
    (a ≠ 0 → ∀ k p, (c.ports.find? (·.1 ≤ v)) = some (k, p) → s.portRoom p fn = true →
      Happens .mirrorWrite s (s1.hostPut p fn a (leBytes 8 v) false)) ∧
    (a ≠ 0 → (c.ports.find? (·.1 ≤ v)) = none → s.portRoom (s.hostPort fn a) fn = true →
      Happens .mirrorWrite s (s1.hostPut (s.hostPort fn a) fn a (leBytes 8 v) false)))

/-- R55 to R62, R64, R71 and R102: a CXL.mem read or write of a half settles it first and answers; a snoop's response, conflict and timeout
change the half, and the timeout answers all who wait for it; a write from outside is performed where it leads, in order, at a home once
the host allows it and a token is there; a read that waits is tried again; the host takes its line back, with its poison. -/
def Obligations.HostCoherence : Prop := ∀ s : State,
  let h := s.ctl.here.unit
  let n := s.ctl.here.pos
  let half := fun (t : State) (mv : MetaValue) => match mv with
    | .any => t.setHalf h 2
    | .shared => t.setHalf h 1
    | _ => t
  (∀ mv, s.cxlOk h = true →
    let a := (s.settleHalf h).hostHome h
    let t := (s.settleHalf h).l2In a (h / 2)
    Happens (.cxlMemrd mv) s ((half
      (t.send (.memData h (t.memBytes a (h * 64) 64) (t.beatBad a (h * 64) || t.beatBad a (h * 64 + 32)))) mv).conflictServed h)) ∧
  (∀ mv d, s.cxlOk h = true →
    let t := (s.hostHalf h d).send (.memDone h)
    Happens (.cxlMemwr mv d) s
      ((match mv with | .invalid => t.setHalf h 0 | .shared => t.setHalf h 1 | _ => t).conflictServed h)) ∧
  (∀ b shared dirty, (s.hi.snoops.find? fun b => b.half = h) = some b → b.conflict = false → (b.inval = true → shared = false) →
    let t := match dirty with | some d => s.hostHalf h (d.map some) | none => s
    Happens (.birsp shared dirty) s
      ({ t with hi := { t.hi with snoops := t.hi.snoops.filter fun x => x.half ≠ h } }.setHalf h (if shared then 1 else 0))) ∧
  ((s.hi.snoops.any fun b => b.half = h && !b.conflict) = true → Happens .biconflict s
    { s with hi := { s.hi with snoops := s.hi.snoops.map fun (b : Bisnp) => if b.half = h then { b with conflict := true } else b } }) ∧
  ((s.hi.snoops.any fun b => b.half = h) = true → exec .bisnpTimeout s = .next
    (withPw ((s.hi.waits.filter fun w => w.half = h).foldl (fun (t : State) w => t.snoopLost w)
        ({ s with hi := { s.hi with
          snoops := s.hi.snoops.filter fun b => b.half ≠ h
          waits := s.hi.waits.filter fun w => w.half ≠ h } }.setHalf h 0))
      { s.pw with log := s.pw.log ++ [.bisnpTimeout h s.pw.time] })) ∧
  (∀ w, s.hi.writes[n]? = some w → ((s.hi.writes.take n).any fun o => w.behind o) = false →
    let took := fun (t : State) => { t with hi := { t.hi with writes := t.hi.writes.eraseIdx n } }
    let opened := fun (pa : Nat) (leaf : Leaf) =>
      if w.paid || w.port = carveSrc then s.hdmGate (some (.write w.port w.num pa)) pa w.data.length true w.hold 0
      else s.enter (.write w.port w.num pa) leaf.home pa w.data.length true w.hold 0
    (∀ pa leaf s1, w.tgt = .dev pa leaf → opened pa leaf = (true, s1) →
      let t := (took s1).putRuns (atHome leaf w.hold 0 0) pa w.data w.poison
      Happens .hostWrite s (if w.port < 2 then t.writtenBy pa w.data.length (some (w.port, w.num)) else t)) ∧
    (∀ pa leaf s1, w.tgt = .dev pa leaf → opened pa leaf = (false, s1) → s.stirred s1 = true → Happens .hostWrite s s1) ∧
    (∀ core hold off, w.tgt = .bank core hold off → w.port = carveSrc →
      Happens .hostWrite s (((took s).winPut core hold off (w.data.filterMap id)).winPoison core hold off w.poison)) ∧
    (∀ core hold off acts, w.tgt = .bank core hold off → w.port ≠ carveSrc →
      s.unitLook core hold kST (winWords off (w.data.filterMap id).length) = .go acts → w.poison = false →
      Happens .hostWrite s (((took s).unitWrite core hold off (w.data.filterMap id) acts 0 0).retag core hold acts)) ∧
    (∀ core hold off c x, w.tgt = .bank core hold off → w.port ≠ carveSrc →
      s.unitLook core hold kST (winWords off (w.data.filterMap id).length) = .trap c x →
      Happens .hostWrite s ((took s).agentDrop w 0x20)) ∧
    (∀ a leaf, w.tgt = .host a leaf → leaf.tgt = 2 → s.portRoom (s.hostPort w.hold a) w.hold = true →
      let port := s.hostPort w.hold a
      Happens .hostWrite s
        (((took s).hostPut port w.hold a (w.data.filterMap id) w.poison none w.sender).wentOut w (some port) 0)) ∧
    (∀ a leaf, w.tgt = .host a leaf → leaf.tgt = 3 → s.linkRoom (peerOf a) a w.hold = true → Happens .hostWrite s
      (((took s).peerPut w.hold 0 0 a (w.data.filterMap id) w.poison none w.sender).wentOut w none (peerOf a))) ∧
    (∀ a leaf, w.tgt = .host a leaf → leaf.tgt = 1 → (s.hline (a / 64)).serves true = true →
      let t := (took s).hlcPut a (w.data.filterMap id)
      Happens .hostWrite s (if w.poison then t.setHline (a / 64) { t.hline (a / 64) with bad := true } else t))) ∧
  (∀ r t, s.hi.writes.length ≤ n → s.hi.reads[n - s.hi.writes.length]? = some r → s.behindWrite (n - s.hi.writes.length) r.port = false →
    s.windowM r = .ok t → Happens .hostWrite s { t with hi := { t.hi with reads := t.hi.reads.eraseIdx (n - s.hi.writes.length) } }) ∧
  (∀ inval, s.cxlUp = true →
    let v := s.hline h
    let t := s.send (.snoopResp h (if v.st = 3 then some (v.data, v.bad) else none))
    Happens (.hostSnoop inval) s (if inval || v.st = 0 then t.setHline h {} else t.setHline h { v with st := 1 }))

/-! ### Links, peers, rotas and the mesh -/

/-- R26 to R31, R34, R35, R63 and R71: a link that trains comes up, and one that loses lock, is NAKed or is reset trains again; a good flit is
taken in SEQ order, and any other is NAKed; a failover flit is taken in the order of its own link; a peer's granted request acts as the
local holding and one that is not is answered with an error; a flush is answered once the peer's writes are applied; an outstanding
request that no link can answer completes poisoned. -/
def Sys2Proof.Claims.LinksAndPeers : Prop := ∀ s : State,
  let l := s.ctl.here.unit
  let n := s.ctl.here.pos
  (∀ r p, (s.link l).st = .train → Happens (.linkTrainingDone r p) s (s.trained l r p)) ∧
  (∀ b, (s.link l).st.up = true → b = true ∨ 8 ≤ (s.link l).nakRun → Happens (.retrain b) s (s.retrain l)) ∧
  (l < 48 →
    let k := (s.resetLink l).link l
    Happens .rst s (s.resetLink l) ∧ k.st = .train ∧ k.txSeq = 0 ∧ k.rxGood = 0 ∧ k.replay = [] ∧ k.resend = [] ∧ k.pool = [] ∧ k.owned = [] ∧
    k.failRun = 0 ∧ ((s.link l).st.up = false → k.dropc = (s.link l).dropc ∧ k.retc = (s.link l).retc ∧ k.nakc = (s.link l).nakc)) ∧
  (∀ hdr pay crc msgs, (s.link l).st.up = true →
    let nak := fun (t : State) => t.modLink l fun k => { k with nakDue := true }
    let bad := s.modLink l fun k => { k.markIn false with nakDue := true }
    let seq := BitVec.ofNat 12 (bits hdr.toNat 95 84)
    let t := s.modLink l fun k => ((k.ackNak hdr.toNat).credit hdr.toNat).markIn (bit hdr.toNat 70)
    (flitGood hdr pay crc = false → Happens (.kryasFlitReceive hdr pay crc msgs) s bad) ∧
    (flitGood hdr pay crc = true → bits hdr.toNat 60 58 = 0 →
      Happens (.kryasFlitReceive hdr pay crc msgs) s (if seq = (t.link l).rxGood then t else nak t)) ∧
    (flitGood hdr pay crc = true → bits hdr.toNat 60 58 = 1 →
      (seq = (t.link l).rxGood + 1 → Happens (.kryasFlitReceive hdr pay crc msgs) s
        ((t.modLink l fun k => { k with rxGood := seq }).deliver l hdr.toNat msgs)) ∧
      (seq ≠ (t.link l).rxGood + 1 → Happens (.kryasFlitReceive hdr pay crc msgs) s (nak t))) ∧
    (flitGood hdr pay crc = true → bits hdr.toNat 60 58 = 2 →
      let o := bits hdr.toNat 57 52
      let take := fun (u : State) => (msgs.foldl (fun (u : State) m => u.message l m) u).modLink l fun k => k.foCredit o hdr.toNat seq
      (seq = (t.link o).rxGood + 1 → Happens (.kryasFlitReceive hdr pay crc msgs) s
        (take (t.modLink o fun k => { k with rxGood := seq }))) ∧
      (seq ≠ (t.link o).rxGood + 1 → (t.link o).rxFo = some (seq - 1) → Happens (.kryasFlitReceive hdr pay crc msgs) s
        (take (t.modLink o fun k => { k with rxFo := some seq }))))) ∧
  (∀ r, s.hi.reqs[n]? = some r → 2 ≤ r.port → s.upLinks (r.port - 2) = [] → Happens .nonpostedTimeout s
    ({ s with net := { s.net with lost := s.net.lost.erase r.id } }.complete r .poisoned [])) ∧
  (∀ q tag w src off len, s.net.peerReqs[n]? = some q → s.behindPeer n q.peer = false → q.msg = .read tag w src off len →
    (s.grant q.peer src off len { r := true } = none → Happens .peerRequest s ((s.takeReq n).respond q 0 tag .denied)) ∧
    (∀ h a, s.grant q.peer src off len { r := true } = some (h, a) →
      (∀ bs bad u, s.agentRead (2 + q.peer) h a len = (.data bs bad, u) →
        Happens .peerRequest s ((u.takeReq n).respond q h tag (.data bs bad))) ∧
      (∀ u, s.agentRead (2 + q.peer) h a len = (.denied, u) → Happens .peerRequest s ((u.takeReq n).respond q h tag .denied)))) ∧
  (∀ q w src off d chk rgn addr, s.net.peerReqs[n]? = some q → s.behindPeer n q.peer = false → q.msg = .write w src off d chk rgn addr →
    (s.grant q.peer src off d.length { w := true } = none →
      Happens .peerRequest s ((s.takeReq n).queueMsg q.link 0 1 (.denied src rgn addr))) ∧
    (∀ h a, s.grant q.peer src off d.length { w := true } = some (h, a) →
      let t := s.nextNum (2 + q.peer)
      (∀ u, t.2.agentWrite (2 + q.peer) t.1 h a d (checksBad d chk) = (.done, u) → Happens .peerRequest s (u.takeReq n)) ∧
      (∀ u, t.2.agentWrite (2 + q.peer) t.1 h a d (checksBad d chk) = (.denied, u) →
        Happens .peerRequest s ((u.takeReq n).queueMsg q.link h 1 (.denied src rgn addr))))) ∧
  (∀ q tag w src fn off len x y chk, s.net.peerReqs[n]? = some q → s.behindPeer n q.peer = false →
    q.msg = .atomic tag w src fn off len x y chk →
    (s.grant q.peer src off len atomNeed = none → Happens .peerRequest s ((s.takeReq n).respond q 0 tag .denied)) ∧
    (∀ h a, s.grant q.peer src off len atomNeed = some (h, a) → checksBad (operandBeat x y) chk = true →
      Happens .peerRequest s ((s.takeReq n).respond q h tag (.data (List.replicate len 0) true))) ∧
    (∀ h a bs bad u, s.grant q.peer src off len atomNeed = some (h, a) → checksBad (operandBeat x y) chk = false →
      s.agentAtomic (2 + q.peer) h a len (peerOp fn len x y) = (.data bs bad, u) →
      Happens .peerRequest s ((u.takeReq n).respond q h tag (.data bs bad)))) ∧
  (∀ q x, s.net.peerReqs[n]? = some q → q.msg = .flush x → (s.hi.writes.any fun w => w.port = 2 + q.peer) = false →
    s.behindPeer n q.peer = false → s.sending (· = .peer q.peer) = false →
    Happens .peerFlush s ((s.takeReq n).queueMsg q.link 0 1 (.flushDone s.pw.strapPos.toNat)))

/-- R22, R37 to R42: a rota's slot starts, with a switch of tables at the epoch that it was armed for and one cycle more or less in slot 63
where a marker asks for it; a marker within one cycle of its time aligns a router after three in a row, and any other loses the
alignment; a flit that arrives is ready for its next slot, or waits in its buffer, and at its end it leaves the mesh. -/
def Sys2Proof.Claims.RotasAndMesh : Prop := ∀ s : State,
  (∀ rota,
    let key := rotaKey rota
    let r0 := (s.rota key).short
    let r := r0.start (s.epochAt rota)
    let s1 := s.modRota key fun _ => r
    let s2 := if r0.swaps (s.epochAt rota) then s1.capBuild else s1
    let next := fun (t : State) => if 64 ≤ r0.slot then s.modRota key fun x => { x with slot := 0 } else t.modRota key Rota.next
    (∀ core dir, rota = .mesh core dir → meshOutput core dir = true → Happens (.rotaSlotStart rota) s (next (s2.meshSlot core dir r))) ∧
    (∀ l, rota = .kryas l → l < 48 → (s.link l).st.up = true → Happens (.rotaSlotStart rota) s (next (s2.kryasSlot l r))) ∧
    (∀ p, rota = .host p → p < 2 → Happens (.rotaSlotStart rota) s (next (s2.hostSlot p r)))) ∧
  (let i := s.ctl.here.unit
   i ≤ ioDie 1 → i ≠ ioDie 0 →
    (∀ late, Happens (.rotaMarkerArrival none late) s (s.modRouter i fun x => { x with aligned := false, inRow := 0 })) ∧
    (∀ late, -1 ≤ late → late ≤ 1 → Happens (.rotaMarkerArrival (some (s.refEpoch i)) late) s ((s.modRouter i fun x =>
      { x with
        epoch := s.refEpoch i
        inRow := min (x.inRow + 1) 3
        aligned := x.aligned || decide (3 ≤ x.inRow + 1) }).modOutputs i fun _ r => { r with adjust := late })) ∧
    (∀ late, late < -1 ∨ 1 < late → Happens (.rotaMarkerArrival (some (s.refEpoch i)) late) s
      ((s.modRouter i fun _ => { epoch := s.refEpoch i, aligned := false, inRow := 0 }).modOutputs i fun d r =>
        { r with slot := hopDelay i d, adjust := 0 }))) ∧
  (∀ f, s.net.flits[s.ctl.here.pos]? = some f → f.moving = true →
    let n := s.ctl.here.pos
    let out := nextOut f.here f.dst
    let slot := (f.ready + hopDelay f.here out) % 64
    let taken := s.net.flits.any fun g => g.hold = f.hold && g.readyAt f.here out slot && !g.buffered
    (out = 4 ∨ 8192 ≤ f.here → Happens .flitHop s { s with net := { s.net with flits := s.net.flits.eraseIdx n } }) ∧
    (out ≠ 4 → f.here < 8192 →
      let g : MeshFlit := { f with out := out, ready := slot, moving := false, buffered := taken || !s.slotFor f.here out slot f.hold }
      Happens .flitHop s { s with net := { s.net with flits := s.net.flits.set n g } }))

/-- The statements LinksAndPeers and RotasAndMesh together. -/
def Obligations.LinksAndRotas : Prop := LinksAndPeers ∧ RotasAndMesh

/-! ### Memory on its way -/

/-- R101, R152, R183, R209 to R216, R256, R257, R313, R486 and R487: stores move from post buffers to port queues, whose entries are
performed in order for each core and word; a slice port serves a request that has a token; pools enlist and merge, and an L1 gives up
a word; an answered access returns, or goes on behind a tile's header (R424), a woken access looks up again, a part access is made, and the
crier's message reaches a replica, in the sense of its own generation. -/
def Obligations.MemoryEvents : Prop := ∀ s : State,
  let u := s.ctl.here.unit
  let n := s.ctl.here.pos
  (∀ e, s.slot.post[n]? = some e → blocked (s.slot.post.take n) e = false →
    let t := (s.modSlot fun v => { v with post := s.slot.post.eraseIdx n }).toPort s.core e
    let moved := fun (k : Nat) => (s.slot.post.eraseIdx n).all fun (x : PqEnt) => x.store ≠ some k
    Happens .postBufferMove s (match e.store with | some k => if e.kind = 2 && moved k then t.unorder t.core t.slotNo k else t | none => t)) ∧
  (∀ e t, (s.portq u)[n]? = some e → blocked (((s.portq u).take n).filter fun o => o.who.core = e.who.core) e = false →
    s.performEnt u e = some t → Happens .portQueuePerform s t) ∧
  (u < 2048 → Happens .tokenWindow s (s.tokenWindow u)) ∧
  (∀ h rest q t, s.waiting u = h :: rest → (s.hd.tokenQ.find? fun q => q.slice = u && q.hold = h) = some q → s.token u h = some t →
    let x := { t with hd := { t.hd with tokenQ := t.hd.tokenQ.erase q, grants := t.hd.grants ++ [q], served := Tab.set 0 t.hd.served u h } }
    (∀ k e y, x.reqEnt q.who = some (k, e) → x.performEnt k e = some y → Happens .slicePortServe s y) ∧
    (x.reqEnt q.who = none → Happens .slicePortServe s x)) ∧
  (∀ e t, (s.pools u)[n]? = some e → e.enlisted = false → e.refused = false → s.poolEnter u e = (true, t) →
    let upd := fun (x : State) (y : PoolEnt) => x.setPools u ((x.pools u).map fun z => if z = e then y else z)
    (t.armed (8 * e.word) = true → Happens .enlist s (upd t { e with due := true, refused := true })) ∧
    (t.armed (8 * e.word) = false → ∀ p, t.homeSt e.home e.word = .pool p → Happens .enlist s
      (if 8 ≤ p.length then upd t { e with due := true, refused := true }
       else upd (t.setHome e.home e.word (.pool (p ++ [u]))) { e with enlisted := true })) ∧
    (t.armed (8 * e.word) = false → t.homeSt e.home e.word = .unreg → Happens .enlist s
      (upd (t.setHome e.home e.word (.pool [u])) { e with enlisted := true })) ∧
    (t.armed (8 * e.word) = false → ∀ c, t.homeSt e.home e.word = .reg c → Happens .enlist s
      (upd (((t.l1Evict c e.word).setHome e.home e.word .unreg).setHome e.home e.word (.pool [u])) { e with enlisted := true }))) ∧
  (∀ e t, (s.pools u)[n]? = some e → e.due = true → e.enlisted = true ∨ e.refused = true → s.mergeBehind u e = false →
    s.poolEnter u e = (true, t) →
    let free := fun (x : State) => x.setPools u ((x.pools u).erase e)
    (∀ p, t.homeSt e.home e.word = .pool p → p.contains u = true → Happens .poolMerge s ((free (t.applyEnt u e)).setHome e.home e.word
      (if p.filter (· ≠ u) = [] then .unreg else .pool (p.filter (· ≠ u))))) ∧
    ((∀ p, t.homeSt e.home e.word = .pool p → p.contains u = false) →
      Happens .poolMerge s ((free (t.settle e.home e.word)).applyEnt u e))) ∧
  (∀ w, s.l1 u n = some w →
    (w.reg = none → Happens .l1Eviction s (s.setL1 u n none)) ∧
    (∀ a, w.reg = some a → (s.setL1 u n none).homeSt a.home n = .reg u → Happens .l1Eviction s
      (((s.setL1 u n none).memPut a (n * 8) (leBytes 8 w.val.toNat)).setHome a.home n .unreg))) ∧
  (∀ a, s.acc n = some a → a.left = 0 → (∀ w, a.acq = some w → s.acqOpen w a.src = false) →
    (a.more = none → Happens .remoteBankAnswer s (s.answer n a)) ∧
    (∀ who ptr num strong, a.more = some (who, ptr, num, strong) →
      ((s.slotAt a.core a.slot).post.any fun e => e.store.any (· ≤ num)) = false →
      Happens .remoteBankAnswer s (s.tileRest n a who ptr strong))) ∧
  (∀ p, s.slot.park = some p → p.woken = true →
    (s.slot.resume.again = false → Happens .parkedAccessWake s (s.modSlot fun v => { v with park := none, stalled := none })) ∧
    (s.slot.resume.again = true → Happens .parkedAccessWake s (s.modSlot fun v =>
      { v with
        park := none
        stalled := none
        busy := []
        busyAt := none
        resume := { addr := v.resume.addr, redirs := v.resume.redirs, own := v.resume.own, served := v.resume.served } }))) ∧
  (∀ p, s.sc.parts[n]? = some p → s.resident p.hold p.mva = true ∨ s.canRequest p.hold = false → Happens .partAccess s (s.partTry p)) ∧
  (∀ m, s.sc.crier[n]? = some m → u < 2048 → m.seen.contains u = false →
    let t := s.setReplica u m.cell (improve m.max (s.replica u m.cell) m.gen m.set m.value)
    let left := if m.seen.length = 2047 then t.sc.crier.eraseIdx n
      else (t.sc.crier.take n) ++ ({ m with seen := u :: m.seen } : Cry) :: t.sc.crier.drop (n + 1)
    Happens .crierMessage s { t with sc := { t.sc with crier := left } })

/-! ### Slots, frames and turns -/

/-- R113, R123, R124, R126, R127, R139, R168, R290 and R468: a core's cycle visits a slot and issues or idles; a free slot is filled; a tile is
dealt and a launch ends; an interrupt is delivered; an idling limit and a drain allowance pass; a turn ends; a drain's wake is acted on. -/
def Sys2Proof.Claims.SchedulerEvents : Prop := ∀ s : State,
  let n := s.ctl.here.pos
  (let c := s.core
   let s1 := s.upto 16 fun s k => (s.reap c k).haltOn c k
   let v := s1.cyc c % 16
   let s2 := if (s1.slotAt c v).yld then s1.modSlotAt c v fun x => { x with yld := false } else s1
   Happens .issueCycle s (match s2.pickSlot c v with
     | some k => { s2 with ctl := { s2.ctl with here := ⟨c, k, 0⟩, issue := true } }
     | none => s2.endCycle c)) ∧
  (∀ t i, s.slot.loading = some (t, i) → Happens .slotFill s (s.carveIn s.core s.slotNo t i)) ∧
  (∀ h src m, s.slot.loading = none → s.slot.thr = none → s.ownerNow s.core s.slotNo = some h → s.openSlot s.core s.slotNo h = true →
    s.source s.core s.slotNo h = some (src, m) → Happens .slotFill s (s.fill s.core s.slotNo h src m)) ∧
  (∀ t b, s.slot.thr = some t → s.slot.leave = .stay → s.slot.late = [] → s.slot.atBoundary = true → s.slot.eligible t = some b →
    Happens .userInterrupt s (s.interrupt t b)) ∧
  (∀ c, s.slot.idling = true → s.slot.idleBy = some c → c ≤ s.cyc s.core →
    Happens .idleLimit s (s.modSlot fun v => { v with idling := false, idleBy := none })) ∧
  (∀ l m s1 s2 s3, (s.sc.launches.find? fun l => l.id = n) = some l → (s.hold l.hold).stopped = false → l.next < gridTiles l.dims.toNat →
    s.chainReady (schedAsker l.hold l.rgn) l.rgn = (true, s1) → s1.takeFrame l.hold l.rgn = (some m, s2) →
    s2.exitReady l.hold l.rgn m = (true, s3) →
    let tile := gridTile l.dims.toNat l.next
    let t := (s3.sprig l m l.entry [l.arg] none tile).enqueue l (dealCore l.plot.toNat l.dims.toNat tile) m
    Happens .dealTile s ({ t with sc := { t.sc with launches := t.sc.launches.map fun (x : Launch) =>
      if x.id = l.id then { x with next := x.next + 1 } else x } }.setNext l.hold l.rgn false (l.next + 1))) ∧
  (∀ l s1, (s.sc.launches.find? fun l => l.id = n) = some l → gridTiles l.dims.toNat ≤ l.next → l.alive = 0 →
    s.commandsOpen l.id = false → s.storesOpen l.id = false → s.frameReady l.hold l.rgn l.rgn = (true, s1) →
    let t := s1.setAct l.hold l.rgn false
    Happens .launchComplete s { t with sc := { t.sc with launches := t.sc.launches.filter fun x => x.id ≠ l.id } }) ∧
  (∀ w s1, s.en.wakes[n]? = some w → s.regionGate (schedAsker w.hold w.rgn) w.rgn = (true, s1) →
    (w.arrived = false → Happens .drainWake s (s1.wakeJudged n w)) ∧
    (∀ m s2 s3, w.arrived = true → s1.takeFrame w.hold w.rgn = (some m, s2) → s2.exitReady w.hold w.rgn m = (true, s3) →
      Happens .drainWake s ({ s3 with en := { s3.en with wakes := s3.en.wakes.eraseIdx n } }.wakeSprig w.hold w.rgn w.core m w.arg))) ∧
  (∀ s1, s.turnReady = (true, s1) → s.ringed = true → bits (s.hword s.hd.turn 0x50) 31 0 ≤ (2 ^ 64 + s.cyc s.turnCore - s.hd.turnAt) % 2 ^ 64 →
    Happens .turnEnd s (s1.beginEnd s.hd.turn).startTurn) ∧
  (let c := s.ctl.here.unit
   let h := s.ctl.here.sub
   s.hd.ended.contains (h, c) = true → Happens .sliceEndBroadcast s
    ({ s with hd := { s.hd with ended := s.hd.ended.filter (· ≠ (h, c)) } }.upto 16 fun s k =>
      match (s.slotAt c k).thr with
      | some t =>
        if t.hold ≠ h || t.root then s
        else if s.effDrain h t.rgn = 0 then s.orderSpill (slotKey c k)
        else s.modSlotAt c k fun v => { v with drainBy := some (s.cyc c + s.effDrain h t.rgn) }
      | none => s)) ∧
  (∀ c t, s.slot.drainBy = some c → c ≤ s.cyc s.core → s.slot.thr = some t →
    Happens .drainAllowanceExpiry s ((s.modSlot fun v => { v with drainBy := none }).orderSpill (slotKey s.core s.slotNo)))

/-- R121, R126, R130, R133, R134, R136 to R138: a thread departs, is parked or is spilled into its frame once its accesses are done; a
migrant is seated; an answered page requeues its frame; fault records reach their queues. -/
def Sys2Proof.Claims.LeavingAndArriving : Prop := ∀ s : State,
  let c := s.core
  let k := s.slotNo
  let n := s.ctl.here.pos
  (∀ t cl x, s.slot.thr = some t → s.slot.leave = .migrate cl x → s.lateFirst c k false = none → s.slot.ld = 0 → s.slot.tl = 0 →
    s.slot.drained = s.slot.issued → s.poolsClear c k = true →
    let v := s.vacate c k
    Happens .migrationDeparture s { v with sc := { v.sc with
      flight := v.sc.flight ++ [{ cluster := cl, thr := { t.leaving with xmig := x }, uip := s.slot.uip }] } }) ∧
  (∀ t addr mva w s1 s2 s3, s.slot.thr = some t → s.slot.leave = .page addr mva w → s.lateFirst c k false = none → s.slot.ld = 0 →
    s.slot.tl = 0 → s.canRequest t.hold = true → s.frameReady t.hold t.rgn t.frame = (true, s1) → s1.carveReady t = (true, s2) →
    s2.carveOut c k t = (true, s3) →
    Happens .pagePark s ((((s3.saveFrame c k t.leaving .page (causeWord 0x15 addr) 0).vacate c k).modFrame t.hold t.frame
      fun f => { f with addr := addr }).raisePage t.hold t.rgn mva w (.frame t.hold t.frame) (BitVec.ofNat 64 t.frame))) ∧
  (∀ t s1 s2 s3, s.slot.thr = some t → s.slot.leave = .spill → s.lateFirst c k true = none → s.canSpill c k = true →
    ((List.range k).any fun j => s.canSpill c j) = false → s.frameReady t.hold t.rgn t.frame = (true, s1) → s1.carveReady t = (true, s2) →
    s2.carveOut c k t = (true, s3) →
    let r := if k = s3.hmovs t.hold then s3.suspend c t.ctxid else (0, s3)
    let u := (((r.2.saveFrame c k t.leaving .spill 0 r.1).vacate c k).linkFrame t.hold t.rgn t.frame)
    Happens .slotSpill s (if t.pinned || u.slotLost t.hold k then
        { u with sc := { u.sc with resume := u.sc.resume ++ [(⟨t.hold, c, 0, t.frame⟩ : Listed)] } }
      else { u with sc := { u.sc with stile := u.sc.stile ++ [(⟨t.hold, clusterOf c, 0, t.frame⟩ : Listed)] } })) ∧
  (∀ p s1 core slot, s.sc.flight[n]? = some p →
    let t := p.thr
    let older := fun (y : State) => y.sc.stile.any fun e => e.hold = t.hold && e.unit = p.cluster &&
      (y.migrantCore p.cluster t.hold t.launch t.xmig = y.migrantCore p.cluster t.hold (y.launchAt t.hold e.mva) (e.sub = 1))
    s.chainReady (schedAsker t.hold t.rgn) t.rgn = (true, s1) → s1.doomed t.hold t.rgn t.bnd t.bound p.cluster = false →
    s1.migrantCore p.cluster t.hold t.launch t.xmig = some core → s1.openIn core t.hold t.launch = some slot → older s1 = false →
    let u := { s1 with sc := { s1.sc with flight := s1.sc.flight.eraseIdx n } }
    Happens .stileArrival s (u.seat core slot (s1.entering t) p.uip)) ∧
  (∀ h m, s.hi.arrived[n]? = some (h, m) → Happens .pageArrival s
    ({ s with hi := { s.hi with arrived := s.hi.arrived.eraseIdx n } }.requeue h m)) ∧
  (∀ h m w, s.hi.arrived.length ≤ n → s.hi.stops[n - s.hi.arrived.length]? = some (h, m, w) → Happens .pageArrival s
    (s.pageStop h m w fun s => { s with hi := { s.hi with stops := s.hi.stops.eraseIdx (n - s.hi.arrived.length) } })) ∧
  (∀ r t, s.sc.faults[n]? = some r → s.behind r n = false → s.addRecord r = (.done, t) → Happens .faultQueueRecordAdd s
    { t with sc := { t.sc with faults := t.sc.faults.erase r } }) ∧
  (let l := s.sc.faults.filter fun r => r.type = 2 && r.hold = s.ctl.here.unit && s.recHdr r = n
   l ≠ [] → Happens .headStore s (s.flushRing l))

/-- The statements SchedulerEvents and LeavingAndArriving together. -/
def Obligations.SchedulerAndMigration : Prop := SchedulerEvents ∧ LeavingAndArriving

/-! ### Engines -/

namespace Sys2Proof.Claims

/-- The records of the matrix engine by type: the event, and the effect of the record (R439). -/
def recordTable : List (Instr × Nat × (Eng → MxRec → State → E State)) := [
  (.zeroRec, 0, runZero), (.ldbRec, 1, runLdb), (.mmaRec, 2, runMma), (.mmasRec, 3, runMma), (.drainRec, 4, runDrain),
  (.ldaccRec, 5, runLdacc), (.staccRec, 6, runStacc), (.waitRec, 7, fun _ _ s => .ok s)]

end Sys2Proof.Claims

/-- R269, R277, R279 to R282, R291 and R439: a context accepts its oldest record or command while its queue has room; one record of a cluster
starts at a time, from the contexts in turn; a started record takes its effect, after those that started before it on its tile, and leaves
the queue; a copy moves one sector after the other and, once its writes have left and peers have them, completes; a timeline advances
over all that has completed. -/
def Obligations.EngineEvents : Prop := ∀ s : State,
  let key := s.ctl.here.unit * 4 + s.ctl.here.sub
  let m := s.mctx key
  let y := s.cctx key
  (∀ t, s.mxAccept s.ctl.here.unit s.ctl.here.sub = some t → Happens .matrixRecordAccept s t) ∧
  (∀ r rest, m.wait = r :: rest → m.queue.length < 64 → (s.mxAccept s.ctl.here.unit s.ctl.here.sub).isSome = true) ∧
  (∀ c i s1, (((List.range 4).map fun i => (Tab.get 0 s.en.served s.ctl.here.unit + i) % 4).find? fun c =>
      s.mxReady s.ctl.here.unit c ≠ []) = some c →
    s.choose (s.mxReady s.ctl.here.unit c).length = (i, s1) →
    let t := { s1 with en := { s1.en with served := Tab.set 0 s1.en.served s.ctl.here.unit ((c + 1) % 4) } }
    Happens .matrixRecordStart s (t.newId.2.modRec (s.ctl.here.unit * 4 + c) ((s.mxReady s.ctl.here.unit c).getD i 0) fun r =>
      { r with running := true, begun := t.newId.1 })) ∧
  (∀ p ∈ recordTable, ∀ r t,
    (m.queue.filter fun r => r.running && decide (recType r.bytes = p.2.1) && m.stall = none && !(m.err && m.ecmd ≤ r.num) &&
      (m.waits = none || m.waits = some r.num))[s.ctl.here.pos]? = some r →
    s.startedBefore s.ctl.here.unit r = false → p.2.2 (r.eng key) r (s.engWaits (r.eng key) none) = .ok t →
    Happens p.1 s ((t.dropEng (r.eng key)).modMctx key fun c => { c with queue := c.queue.filter fun e => e.num ≠ r.num })) ∧
  (∀ c rest, y.wait = c :: rest → (c.kind = .gather && c.ob) = true → ∀ t, s.gatherAccept key c = some t → Happens .copyCommandAccept s t) ∧
  (∀ c rest, y.wait = c :: rest → y.queue.length < 16 → (c.kind = .gather && c.ob) = false →
    let t := (s.modCctx key fun x =>
      { x with wait := rest, last := x.last + 1, queue := x.queue ++ [{ c with num := x.last + 1 }] }).modSlotAt (key / 4) c.slot fun v =>
        { v with cp := v.cp - 1 }
    Happens .copyCommandAccept s
      (if c.ob then t.updObj (key / 4) c.hold c.boff c.rgn (BarObj.outAdd (t.copyBytes (c.eng key) c)) else t)) ∧
  (∀ c rest t, y.queue = c :: rest → y.runs = true →
    y.pos < s.copySectors (c.eng key) c y.walk ∨ (c.kind = .gather ∧ y.walk = []) → c.drainTo ≤ (s.slotAt (key / 4) c.slot).drained →
    runSector (c.eng key) c y.pos s = .ok t →
    Happens .copySector s (t.modCctx key fun y =>
      { y with
        pos := y.pos + 1
        walk := if c.kind = .gather then y.walk else []
        got := []
        unit := 0
        units := []
        paid := 0
        used := 0 })) ∧
  (∀ c rest, y.queue = c :: rest → y.runs = true → s.copySectors (c.eng key) c y.walk ≤ y.pos → (c.kind = .gather → y.walk ≠ []) →
    s.engFlushing false key = false → s.sending (· = .eng false key) = false →
    (y.peers ≠ [] → Happens .copyComplete s (s.askEng false key y.peers)) ∧
    (y.peers = [] →
      let s1 := if y.owed = 0 then s else s.updObj (key / 4) c.hold c.boff c.rgn (BarObj.outSub y.owed)
      let t := s1.modCctx key fun y =>
        { y with queue := rest, pos := 0, walk := [], got := [], unit := 0, units := [], paid := 0, used := 0, owed := 0 }
      Happens .copyComplete s (if c.irq then t.raiseCopy c.hold c.ctxid else t))) ∧
  (s.ctl.here.pos = 1 → s.sending (· = .eng true key) = false → m.count < doneTo m.last (m.queue.map (·.num)) → s.engFlushing true key = false → Happens .timelineAdvance s
    (if m.peers = [] then s.modMctx key fun x => { x with count := doneTo m.last (m.queue.map (·.num)) }
     else s.askEng true key m.peers)) ∧
  (s.ctl.here.pos ≠ 1 → s.sending (· = .eng false key) = false → y.count < doneTo y.last (y.queue.map (·.num)) → s.engFlushing false key = false → Happens .timelineAdvance s
    (if y.peers = [] then s.modCctx key fun x => { x with count := doneTo y.last (y.queue.map (·.num)) }
     else s.askEng false key y.peers))

/-! ### Control, traps and modes: rules stated whole -/

/-- R330, R331 and R332: BRA, BRX, CALL and LOOP go to their targets, formed from the old registers; CALL links to Target(PC, 12) and
LOOP counts down and falls through at 0. A target outside its segment faults SEGLIM with the target's pointer (R327); with a false
guard the instruction only goes on. -/
def Obligations.BranchesAndLoops : Prop :=
  (∀ f s pc, ready (.bra f) s → target s.thr.pc (4 * f.imm.toInt) = some pc → Jumps (.bra f) f s s pc) ∧
  (∀ f s, ready (.bra f) s → target s.thr.pc (4 * f.imm.toInt) = none →
    Takes (.bra f) s ⟨0x10, 0, (refOf s.thr.pc (4 * f.imm.toInt)).word, false, false, false⟩ s) ∧
  (∀ f s pc, ready (.brx f) s → target (s.g f.a) f.imm.toInt = some pc → Jumps (.brx f) f s s pc) ∧
  (∀ f s, ready (.brx f) s → target (s.g f.a) f.imm.toInt = none →
    Takes (.brx f) s ⟨0x10, 0, (refOf (s.g f.a) f.imm.toInt).word, false, false, false⟩ s) ∧
  (∀ f s, ready (.call f) s →
    let base := if f.a.cls = .Z then s.thr.pc else s.g f.a
    let disp := if f.a.cls = .Z then 4 * f.imm.toInt else f.imm.toInt
    (∀ pc link, target base disp = some pc → target s.thr.pc 12 = some link → Jumps (.call f) f s (s.dst f.d link) pc) ∧
    (target base disp = none → Takes (.call f) s ⟨0x10, 0, (refOf base disp).word, false, false, false⟩ s) ∧
    (∀ pc, target base disp = some pc → target s.thr.pc 12 = none →
      Takes (.call f) s ⟨0x10, 0, (refOf s.thr.pc 12).word, false, false, false⟩ s)) ∧
  (∀ f s, ready (.loop f) s → s.g f.d - 1 = 0 → Completes (.loop f) f s (s.dst f.d 0)) ∧
  (∀ f s pc, ready (.loop f) s → s.g f.d - 1 ≠ 0 → target s.thr.pc (4 * f.imm.toInt) = some pc →
    Jumps (.loop f) f s (s.dst f.d (s.g f.d - 1)) pc) ∧
  (∀ f s, ready (.loop f) s → s.g f.d - 1 ≠ 0 → target s.thr.pc (4 * f.imm.toInt) = none →
    Takes (.loop f) s ⟨0x10, 0, (refOf s.thr.pc (4 * f.imm.toInt)).word, false, false, false⟩ s) ∧
  (∀ p ∈ ([.bra, .brx, .call, .loop] : List Form), ∀ f s, s.slot.thr.isSome = true → illopOf (p f) = false →
    illopdOf (s.thr.s || s.thr.h) (p f) = none → s.thr.prd f.grd.toNat = f.neg →
    exec (p f) s = .next { (s.modSlot fun v => { v.done false with thr := v.thr.map Thread.advance }).endCycle s.core with pw := s.pw })

/-- R329, R335 and R336: NOP only goes on; UIEN writes the enable bit and returns the old one; TRET sets PC := %tpc and H := 0 and changes
nothing else, and outside a handler faults PRIV. -/
def Obligations.NopUienAndTret : Prop :=
  (∀ f s, ready (.nop f) s → Completes (.nop f) f s s) ∧
  (∀ f s, ready (.uien f) s → Completes (.uien f) f s
    ((s.modThr fun t => { t with uimask := (t.uimask &&& 0x7F) ||| (if f.imm.getLsbD 0 then 0x80 else 0) }).dst f.d
      (if s.thr.uimask.getLsbD 7 then 1 else 0))) ∧
  (∀ f s, ready (.tret f) s → Jumps (.tret f) f s (s.modThr fun t => { t with h := false }) s.thr.tpc) ∧
  (∀ f s, s.slot.thr.isSome = true → illopOf (.tret f) = false → illopdOf (s.thr.s || s.thr.h) (.tret f) = none →
    s.thr.prd f.grd.toNat ≠ f.neg → s.thr.h = false ∨ s.thr.s = true → Takes (.tret f) s ⟨0x03, 0, 0, false, false, false⟩ s)

/-- R334: TRAP raises the user cause of its code, whose %tpc names the next instruction and whose %taddr is 0; in a handler, in S mode
and without a user vector it is a supervisor fault with the same cause, whose %spc names the TRAP. -/
def Obligations.TrapRaises : Prop := ∀ f s, ready (.trap f) s →
  let code := bits f.imm.toNat 7 0
  let quiet := (s.yieldIf f.yld).settleAt s.core s.slotNo s.thr ⟨code, 0, 0, false, true, false⟩
  let deliver := fun (t : Thread) => exec (.trap f) s = .next
    { (quiet.modSlotAt s.core s.slotNo fun v => { v with thr := some t }).endCycle s.core with pw := s.pw }
  (s.thr.h = false → s.thr.s = false → s.thr.utvec ≠ 0 → deliver
    { s.thr with
      tpc := s.thr.pc + 12
      tcause := BitVec.ofNat 64 code
      taddr := 0
      h := true
      hu := []
      pc := s.thr.utvec
      roam := false
      rep := none }) ∧
  (s.thr.h = true ∨ s.thr.utvec = 0 → s.thr.s = false → s.hword s.thr.hold 0x78 ≠ 0 → deliver
    { s.thr with
      spc := s.thr.pc
      scause := BitVec.ofNat 64 code
      saddr := 0
      s := true
      hs := []
      pc := BitVec.ofNat 64 (s.hword s.thr.hold 0x78)
      roam := false
      rep := none }) ∧
  (s.thr.s = true ∨ ((s.thr.h = true ∨ s.thr.utvec = 0) ∧ s.hword s.thr.hold 0x78 = 0) → exec (.trap f) s = .next
    { (quiet.stopThread s.core s.slotNo ⟨code, 0, 0, false, true, false⟩).endCycle s.core with pw := s.pw })

/-- R467: SCALL enters S mode with its code in %scause and the next instruction in %spc, is unrecoverable in S mode, and is no valid
encoding with a code below 0x80; SRET in S mode sets PC := %spc and S := 0 and leaves all else, both h banks too, and with S = 0 faults
PRIV. -/
def Obligations.SystemCallAndReturn : Prop :=
  (∀ f s, ready (.scall f) s →
    let code := bits f.imm.toNat 7 0
    let cause : Cause := ⟨code, 0, 0, false, false, false⟩
    let y := s.yieldIf f.yld
    let s1 := (y.modThr fun t => { t with pc := t.pc + 12 }).settleAt s.core s.slotNo s.thr cause
    let entered : Thread := { s.thr with
      spc := s.thr.pc + 12
      scause := BitVec.ofNat 64 code
      saddr := 0
      s := true
      hs := []
      pc := BitVec.ofNat 64 (s.hword s.thr.hold 0x78)
      roam := false
      rep := none }
    (s.thr.s = false → s.hword s.thr.hold 0x78 ≠ 0 → exec (.scall f) s = .next
      { (s1.modSlotAt s.core s.slotNo fun v => { v with thr := some entered }).endCycle s.core with pw := s.pw }) ∧
    (s.thr.s = true ∨ s.hword s.thr.hold 0x78 = 0 → exec (.scall f) s = .next
      { ((y.settleAt s.core s.slotNo s.thr cause).stopThread s.core s.slotNo cause).endCycle s.core with pw := s.pw })) ∧
  (∀ f s, s.slot.thr.isSome = true → bits f.imm.toNat 7 0 < 0x80 → Takes (.scall f) s ⟨0x01, 0, 0, false, false, false⟩ s) ∧
  (∀ f s, ready (.sret f) s → s.thr.s = true → Jumps (.sret f) f s (s.modThr fun t => { t with s := false }) s.thr.spc) ∧
  (∀ f s, s.slot.thr.isSome = true → illopOf (.sret f) = false → illopdOf (s.thr.s || s.thr.h) (.sret f) = none →
    s.thr.prd f.grd.toNat ≠ f.neg → s.thr.s = false → s.slot.acq = [] → s.slot.leave = .stay → s.slot.park = none →
    s.slot.sfu = false → s.slot.pendG = [] → s.slot.strong = 0 → Takes (.sret f) s ⟨0x03, 0, 0, false, false, false⟩ s)

/-- R306: an instruction of a valid encoding whose guard is 0 has no effect but that PC advances; an invalid encoding faults ILLOP or
ILLOPD whatever its guard; the guard 0b011111 means always and 0b111111 never. -/
def Obligations.GuardDecides : Prop :=
  (∀ i opc f sh s, encOf i = some (opc, f, sh) → s.slot.thr.isSome = true →
    (illopOf i = true → Takes i s ⟨0x01, 0, 0, false, false, false⟩ s) ∧
    (∀ n, illopOf i = false → illopdOf (s.thr.s || s.thr.h) i = some n → Takes i s ⟨0x02, n, 0, false, false, false⟩ s) ∧
    (illopOf i = false → illopdOf (s.thr.s || s.thr.h) i = none → (s.thr.prd f.grd.toNat != f.neg) = false →
      exec i s = .next
        { (s.modSlot fun v => { v.done false with thr := v.thr.map Thread.advance }).endCycle s.core with pw := s.pw })) ∧
  (∀ t : Thread, t.prd 31 = true) ∧
  ∀ t : Thread, t.rep = none → t.advance = { t with pc := t.pc + 12 }

namespace Sys2Proof.Claims

/-- The instructions that S mode or root may use (R315). -/
def superForms : List Form := [.incset, .mxown, .mxspill, .mxfill, .spill, .resto, .restoFrame, .tlbinv, .sret, .idle, .pgverArm, .pgverRead,
  .pgverCommit, .pgverFree]
/-- The instructions that only root may use (R315). -/
def rootForms : List Form := [.rgnopCreate, .rgnopResize, .rgnopFreeze, .rgnopThaw, .rgnopDestroy, .rgnopSlice, .keyset, .keysetClear, .rota,
  .rotaCtl]
/-- The instructions of the movement slot (R315). -/
def copyForms : List Form := [.cpy, .cpys, .cpym, .cpyt, .cpyg, .cpyx, .cpya]
/-- The FP64 instructions (R315). -/
def fp64Forms : List Form := [.dadd, .dsub, .dmul, .dfma, .ddiv, .dsqrt, .dcvt, .dcmp]

/-- The encoding is valid in the thread's mode and the guard holds, so that the checks of R315 come next (R171). -/
def reached (i : Instr) (f : Fields) (s : State) : Prop :=
  s.slot.thr.isSome = true ∧ illopOf i = false ∧ illopdOf (s.thr.s || s.thr.h) i = none ∧ (s.thr.prd f.grd.toNat != f.neg) = true

end Sys2Proof.Claims

/-- R315: the instructions of S mode fault PRIV in user mode outside root, those of root fault PRIV in every holding's modes, the copies
fault NOTMOV outside the movement slot, and FP64, in its own instructions, in scalar ones at FMT 13 and, once their shape records have been
checked (R417), in vector ones at FMT 13 or with a record of it, outside core 0 faults XABSENT in a pinned thread and migrates a roaming one. -/
def Obligations.PrivilegeAndPlace : Prop :=
  (∀ p ∈ superForms, ∀ f s, reached (p f) f s → s.thr.s = false → s.thr.root = false → Takes (p f) s ⟨0x03, 0, 0, false, false, false⟩ s) ∧
  (∀ f s, reached (.mts f) f s → 31 ≤ f.d.idx.toNat → f.d.idx.toNat ≤ 36 → s.thr.s = false → s.thr.root = false →
    Takes (.mts f) s ⟨0x03, 0, 0, false, false, false⟩ s) ∧
  (∀ p ∈ rootForms, ∀ f s, reached (p f) f s → s.thr.root = false → Takes (p f) s ⟨0x03, 0, 0, false, false, false⟩ s) ∧
  (∀ p ∈ copyForms, ∀ f s, reached (p f) f s → s.slotNo ≠ s.hmovs s.thr.hold → Takes (p f) s ⟨0x04, 0, 0, false, false, false⟩ s) ∧
  (∀ p ∈ fp64Forms, ∀ f s, reached (p f) f s → coreNo s.core ≠ 0 →
    (s.thr.pinned = true → Takes (p f) s ⟨0x05, 0, 0, false, false, false⟩ s) ∧
    (s.thr.pinned = false → exec (p f) s = .next { conclude false s.core (leftM (s.migrateTo (clusterOf s.core) true)) with pw := s.pw })) ∧
  (∀ f (s0 s : State) hs, mdFmt f.md = 13 ∨ (∃ h ∈ hs, h.efmt = 13) → coreNo s.core ≠ 0 → shapesOk f s0 s hs =
    if s0.thr.pinned then raise s 0x05 else leftM (s0.migrateTo (clusterOf s.core) true)) ∧
  (∀ i opc f sh s, encOf i = some (opc, f, sh) → 0xB0 ≤ opc ∧ opc ≤ 0xBD → mdFmt f.md = 13 → reached i f s → coreNo s.core ≠ 0 →
    (s.thr.pinned = true → Takes i s ⟨0x05, 0, 0, false, false, false⟩ s) ∧
    (s.thr.pinned = false → exec i s = .next { conclude false s.core (leftM (s.migrateTo (clusterOf s.core) true)) with pw := s.pw }))

/-- R166: operand indices 24 to 27 of class G name the supervisor bank while S = 1, else the user bank; outside both modes they fault ILLOPD;
supervisor entry zeroes the supervisor bank; SRET leaves both banks as they are. -/
def Obligations.HandlerRegisters : Prop :=
  (∀ (t : Thread) (n : Nat) (v : Word), n < 4 →
    t.gpr (24 + n) = Tab.get 0 (if t.s then t.hs else t.hu) n ∧
    (t.setGpr (24 + n) v) =
      (if t.s then { t with hs := Tab.set 0 t.hs n v } else { t with hu := Tab.set 0 t.hu n v })) ∧
  (∀ i opc f sh (o : Operand), encOf i = some (opc, f, sh) → o = f.d ∨ o = f.a ∨ o = f.b → o.cls = .G → 24 ≤ o.idx.toNat →
    illopdOf false i ≠ none) ∧
  (∀ (s : State) (t : Thread) (c : Cause), s.slot.thr = some t → c.code ≠ 0x15 → t.trapsUser c = false → t.s = false →
    s.hword t.hold 0x78 ≠ 0 → (s.take c).thr.s = true ∧ ∀ n, n < 4 → (s.take c).thr.gpr (24 + n) = 0) ∧
  (∀ f s, ready (.sret f) s → s.thr.s = true → ∃ t, exec (.sret f) s = .next t ∧ t.thr.hs = s.thr.hs ∧ t.thr.hu = s.thr.hu)

/-- R140, R165, R167 to R169: taking a cause. A user cause outside handlers with a vector enters the user handler; any other cause enters
S mode with the PC, cause and address saved; with no supervisor vector, in S mode, and on PAGE (R169), the thread stops. In the first two, memory, the
predicates, REPC and g0 to g23 are kept. -/
def Obligations.ExceptionEntry : Prop := ∀ (s : State) (t : Thread) (c : Cause), s.slot.thr = some t →
  let user : Bool := c.code ≠ 0x15 && (c.trap || c.code = 0x20 || c.code = 0x21) && !t.s && !t.h && t.utvec ≠ 0
  (user = true →
    (s.take c).thr = { t with
      tpc := if c.trap then t.pc + 12 else t.pc
      tcause := tcauseOf c false
      taddr := c.addr
      h := true
      hu := []
      pc := t.utvec
      roam := false
      rep := none }) ∧
  (user = false → c.code ≠ 0x15 → t.s = false → s.hword t.hold 0x78 ≠ 0 →
    (s.take c).thr = { t with
      spc := t.pc
      scause := scauseOf c
      saddr := c.addr
      s := true
      hs := []
      pc := BitVec.ofNat 64 (s.hword t.hold 0x78)
      roam := false
      rep := none }) ∧
  (user = true ∨ (c.code ≠ 0x15 ∧ t.s = false ∧ s.hword t.hold 0x78 ≠ 0) →
    SameMemory s (s.take c) ∧ (s.take c).thr.pred = t.pred ∧ (s.take c).thr.repc = t.repc ∧
      ∀ n, n < 24 → (s.take c).thr.gpr n = t.gpr n) ∧
  (user = false → c.code = 0x15 ∨ t.s = true ∨ s.hword t.hold 0x78 = 0 → ∃ s', s'.thr = t ∧ SameMemory s s' ∧
    s.take c = s'.stopThread s.core s.slotNo c)

/-! ### Arithmetic read against the words of the manual -/

/-- R341: the borderline operands of the integer instructions, at the width w of SZ and before the extension of R339. -/
def Obligations.BorderlineOperands : Prop := ∀ f s,
  let w := szBits (mdSz f.md)
  let r := s.srcs f (f.imm.signExtend 64)
  let gives := fun (p : Form) (v : Int) => Completes (p f) f s (r.2.2.dst f.d (extend (mdSgn f.md) w v))
  let top : Int := (2 ^ (w - 1) : Nat)
  (∀ p ∈ ([.div, .divu] : List Form), ready (p f) s → uAt f.md r.2.1 = 0 → gives p ((2 ^ w : Nat) - 1)) ∧
  (∀ p ∈ ([.rem, .remu] : List Form), ready (p f) s → uAt f.md r.2.1 = 0 → gives p (uAt f.md r.1)) ∧
  (ready (.div f) s → sAt f.md r.1 = -top → sAt f.md r.2.1 = -1 → gives .div (-top)) ∧
  (ready (.rem f) s → sAt f.md r.1 = -top → sAt f.md r.2.1 = -1 → gives .rem 0) ∧
  (ready (.rem f) s → sAt f.md r.1 < 0 → sAt f.md r.2.1 ≠ 0 → ∃ q v : Int, gives .rem v ∧
    sAt f.md r.1 = q * sAt f.md r.2.1 + v ∧ v ≤ 0 ∧ v.natAbs < (sAt f.md r.2.1).natAbs) ∧
  (ready (.rem f) s → sAt f.md r.1 = -7 → sAt f.md r.2.1 = 2 → gives .rem (-1)) ∧
  (ready (.shl f) s → gives .shl (uAt f.md r.1 * 2 ^ (uAt f.md r.2.1 % w) : Nat)) ∧
  (ready (.shr f) s → gives .shr (uAt f.md r.1 / 2 ^ (uAt f.md r.2.1 % w) : Nat)) ∧
  (ready (.sar f) s → gives .sar (sAt f.md r.1 / (2 ^ (uAt f.md r.2.1 % w) : Nat))) ∧
  (ready (.rotl f) s → gives .rotl (uAt f.md r.1 * 2 ^ (uAt f.md r.2.1 % w) + uAt f.md r.1 / 2 ^ (w - uAt f.md r.2.1 % w) : Nat)) ∧
  (∀ p ∈ ([.clz, .ctz] : List Form), ready (p f) s → uAt f.md r.1 = 0 → gives p w) ∧
  (ready (.abs f) s → sAt f.md r.1 = -top →
    gives .abs (if mdSat f.md = false then -top else if mdSgn f.md then top - 1 else top)) ∧
  (∀ p ∈ ([(.add, (· + ·)), (.sub, (· - ·))] : List (Form × (Int → Int → Int))), ready (p.1 f) s →
    mdSat f.md = true → mdSgn f.md = false →
    let v := p.2 (uAt f.md r.1) (uAt f.md r.2.1)
    gives p.1 (if v < 0 then 0 else if (2 ^ w : Nat) ≤ v then (2 ^ w : Nat) - 1 else v)) ∧
  (ready (.sub f) s → mdSat f.md = true → mdSgn f.md = false → uAt f.md r.1 = 3 → uAt f.md r.2.1 = 5 → gives .sub 0) ∧
  (ready (.mul f) s → f.md = 0x0D → uAt f.md r.1 = 65536 → uAt f.md r.2.1 = 65536 → gives .mul 2147483647) ∧
  (ready (.divu f) s → f.md = 0x01 → uAt f.md r.2.1 = 0 → Completes (.divu f) f s (r.2.2.dst f.d 0x00000000FFFFFFFF)) ∧
  (ready (.divu f) s → f.md = 0x05 → uAt f.md r.2.1 = 0 → Completes (.divu f) f s (r.2.2.dst f.d 0xFFFFFFFFFFFFFFFF))

namespace Sys2Proof.Claims

/-- The integer instructions on whole 64-bit words, in the operations of bit vectors. -/
def wordTable : List (Form × (Word → Word → Word)) := [
  (.add, (· + ·)), (.sub, (· - ·)), (.mul, (· * ·)), (.and, (· &&& ·)), (.or, (· ||| ·)), (.xor, (· ^^^ ·)), (.andn, fun a b => a &&& ~~~b),
  (.shl, fun a b => a <<< (b.toNat % 64)), (.shr, fun a b => a >>> (b.toNat % 64)), (.sar, fun a b => a.sshiftRight (b.toNat % 64)),
  (.rotl, fun a b => a.rotateLeft (b.toNat % 64)), (.divu, fun a b => if b = 0 then BitVec.allOnes 64 else a / b),
  (.remu, fun a b => if b = 0 then a else a % b), (.minu, fun a b => if a ≤ b then a else b), (.maxu, fun a b => if a ≤ b then b else a),
  (.min, fun a b => if a.sle b then a else b), (.max, fun a b => if a.sle b then b else a),
  (.mulhu, fun a b => (a.zeroExtend 128 * b.zeroExtend 128).extractLsb' 64 64),
  (.mulh, fun a b => (a.signExtend 128 * b.signExtend 128).extractLsb' 64 64), (.mov, fun a _ => a)]

end Sys2Proof.Claims

/-- R339 and R340 at width 64: with MOD 0 an integer instruction is the operation of 64-bit words that its name says, wrapping. -/
def Obligations.WholeWordArithmetic : Prop := ∀ p ∈ wordTable, ∀ f s, ready (p.1 f) s → f.md = 0 →
  let r := s.srcs f (f.imm.signExtend 64)
  Completes (p.1 f) f s (r.2.2.dst f.d (p.2 r.1 r.2.1))

/-- R227: the generator of stochastic rounding takes distinct states to distinct states, so that %rng, which MTS never sets to 0 (R348), never
becomes 0; a draw advances it by one step of the generator and changes nothing else of the thread. -/
def Obligations.StochasticDraw : Prop :=
  (∀ x y, rngNext x = rngNext y → x = y) ∧ rngNext 0 = 0 ∧
  (∀ f s, ready (.mts f) s → f.d.idx.toNat = 27 → f.md = 0 → ∃ t, exec (.mts f) s = .next t ∧ t.thr.rng ≠ 0) ∧
  (∀ t : Thread, t.draw = (rngNext t.rng, { t with rng := rngNext t.rng })) ∧
  ∀ x : BitVec 32, rngNext x =
    let a := x ^^^ (x <<< 13)
    let b := a ^^^ (a >>> 17)
    b ^^^ (b <<< 5)

/-! ### Frames -/

namespace Sys2Proof.Claims

/-- The scalar instructions whose only destination is D. -/
def registerForms : List Form :=
  [.add, .sub, .mul, .mulh, .mulhu, .div, .divu, .rem, .remu, .and, .or, .xor, .andn, .shl, .shr, .sar, .rotl, .clz, .ctz, .popc, .brev,
   .min, .max, .minu, .maxu, .abs, .sext, .zext, .bfx, .bfi, .mov, .movhi, .sel, .addsh, .segp, .mfs, .nop, .pget] ++
  [.fadd, .fsub, .fmul, .ffma, .fmin, .fmax, .fcvt, .dadd, .dsub, .dmul, .dfma, .ddiv, .dsqrt, .dcvt]
/-- The scalar instructions whose only destination is a predicate, or the predicates of a mask. -/
def predicateForms : List Form := [.cmp, .cmpu, .fcmp, .dcmp, .plog, .pset]

end Sys2Proof.Claims

/-- The frame of the scalar instructions (R326, R338 to R359, R456 to R459). One with destination D leaves every other register, the
predicates, %fpm and every other special, segment and exception register but %rng, and every byte of memory; one with a predicate
destination leaves every register, every predicate outside its destination, the special registers and every byte of memory. No other
slot changes. -/
def Obligations.ScalarFrame : Prop :=
  (∀ p ∈ registerForms, ∀ f s t, ready (p f) s → exec (p f) s = .next t →
    (∀ n, n < 28 → ¬(f.d.cls = .G ∧ f.d.idx.toNat = n) → t.thr.gpr n = s.thr.gpr n) ∧ t.thr.pred = s.thr.pred ∧
    SameSpecials s.thr t.thr ∧ SameMemory s t ∧
    ∀ core slot, slotKey core slot ≠ slotKey s.core s.slotNo → t.slotAt core slot = s.slotAt core slot) ∧
  (∀ p ∈ predicateForms, ∀ f s t, ready (p f) s → exec (p f) s = .next t →
    (∀ n, n < 28 → t.thr.gpr n = s.thr.gpr n) ∧
    (∀ n, n < 32 → (if f.d.cls = .P then n ≠ f.d.idx.toNat else f.imm.getLsbD n = false) → t.thr.prd n = s.thr.prd n) ∧
    SameSpecials s.thr t.thr ∧ t.thr.rng = s.thr.rng ∧ SameMemory s t ∧
    ∀ core slot, slotKey core slot ≠ slotKey s.core s.slotNo → t.slotAt core slot = s.slotAt core slot)

/-- The frame of a store to the issuing core's own bank (R367): every byte of the banks outside the stored ones, which the translation of the
store's own offset names, every byte of device memory, every register and every special register stay. -/
def Obligations.StoreFrame : Prop := ∀ p ∈ storeTable, ∀ f s off acts r k s1 t, ready (p.instr f) s → f.d.cls ≠ .Q →
  locate1 s kST (p.n f) (p.n f) { w := true } (p.ref s f) = .ok (.here off acts, r, k, s1) →
  RelOk s1 (p.rel s f) → exec (p.instr f) s = .next t →
  (∀ core phys, (∀ i, i < p.n f → spadKey core phys ≠ spadKey s.core (s.winPhys s.thr.hold (off + i))) →
    t.bankByte core phys = s.bankByte core phys) ∧
  (∀ pa, t.memByte pa = s.memByte pa) ∧ (∀ n, n < 28 → t.thr.gpr n = s.thr.gpr n) ∧ t.thr.pred = s.thr.pred ∧
  SameSpecials s.thr t.thr

/-- R3, R173 and R367: LD and LDACQ from the issuing core's own bank, where no table entry drops a word, write the little-endian bytes at the
physical offsets of the window, extended as MOD says, to their register; no byte of the banks or of device memory changes. -/
def Obligations.LoadValue : Prop := ∀ p ∈ ([(.ld, State.refM), (.ldacq, State.refP)] : List (Form × (State → Fields → Ref))),
  ∀ f s off acts r k s1, ready (p.1 f) s → f.d.cls = .G →
  let n := szBytes (mdSz f.md)
  locate1 s kLD n n { r := true } (p.2 s f) = .ok (.here off acts, r, k, s1) → (∀ a ∈ acts, actOf a.2 ≠ 5) →
  s1.unitBad s1.core s1.thr.hold acts = false → (p.1 f ≠ .ld f → AcqOk s (some (s.g f.b)) ∧ AcqOk s1 (some (s.g f.b))) →
  ∃ t, exec (p.1 f) s = .next t ∧
    t.thr.gpr f.d.idx.toNat =
      extVal ⟨n, mdSgn f.md⟩ ((List.range n).map fun i => s.bankByte s.core (s.winPhys s.thr.hold (off + i))) ∧
    ∀ core phys, t.bankByte core phys = s.bankByte core phys

/-! ### Incumbents and memory -/

/-- R151 and R152: an offer is taken at the home exactly when the cell is unset or the value is better, and then changes value and payload
only; no offer makes a set cell worse, no other cell changes; the offering cluster's replica of the cell's generation is then no worse
than the home, and a crier message never makes a replica of its generation worse and is ignored by a newer one. -/
def Obligations.IncumbentsImprove : Prop :=
  (∀ (s : State) c k v w,
    let o := s.cell c
    let n := (s.offer c k v w).cell c
    n = (if o.set = false ∨ better o.max v o.value = true then { o with value := v, payload := w, set := true } else o) ∧
    (better o.max n.val v = true ∨ n.val = v) ∧ (o.set = true → n.val = o.val ∨ better o.max n.val o.val = true) ∧
    (∀ d, d ≠ c → (s.offer c k v w).cell d = s.cell d) ∧
    ((s.replica k c).gen = o.gen →
      ((s.offer c k v w).replica k c).gen = o.gen ∧ ((s.offer c k v w).replica k c).set = true ∧
      better o.max n.val ((s.offer c k v w).replica k c).value = false)) ∧
  (∀ max (r : Replica) set v, (r.set = true → (improve max r r.gen set v).set = true ∧
    ((improve max r r.gen set v).value = r.value ∨ better max (improve max r r.gen set v).value r.value = true)) ∧
    (improve max r r.gen set v).gen = r.gen) ∧
  ∀ max (r : Replica) gen set v, newer gen r.gen = false → gen ≠ r.gen → improve max r gen set v = r

namespace Sys2Proof.Claims

/-- A slice does not hold the line under another key than that of the access, and the line has its 128 bytes and four beats (R206). -/
def LineAt (s : State) (a : AtHome) (line : Nat) : Prop :=
  (s.memBytes a (line * 128) 128).length = 128 ∧
  ∀ v, s.l2 a.home line = some v → v.key = a.key ∧ v.data.length = 128 ∧ v.bad.length = 4

end Sys2Proof.Claims

/-- R70 and R206: a write of bytes of one beat at its home changes exactly those bytes of its line and no other beat's check, clears the
poison of a beat that it fills, and is dropped by a beat that fails its check or has an uncorrectable error (R169), which is then poisoned and counted;
every write of device memory keeps the canonical form. -/
def Obligations.BeatWrites : Prop := ∀ (s : State) (a : AtHome) pa data, pa < dramSize → 0 < data.length → pa % 32 + data.length ≤ 32 →
  let t := s.memPut a pa data
  let base := pa / 128 * 128
  let full := pa % 32 = 0 ∧ data.length = 32
  (LineAt s a (pa / 128) →
    (full ∨ s.beatBad a pa = false → ∀ j, j < 128 → (t.memBytes a base 128)[j]? =
      if pa ≤ base + j ∧ base + j < pa + data.length then data[base + j - pa]? else (s.memBytes a base 128)[j]?) ∧
    (full → t.beatBad a pa = false) ∧
    (¬full → s.beatBad a pa = true → t.memBytes a base 128 = s.memBytes a base 128 ∧ t.beatBad a pa = true ∧
      (t.fn a.hold).beatErr = (s.fn a.hold).beatErr + 1 ∧ t.sc.faults = s.sc.faults ++ [dropRec a.hold a.rgn (s.badCode pa 1) a.addr]) ∧
    ∀ i, i < 4 → i ≠ pa % 128 / 32 → t.beatBad a (base + 32 * i) = s.beatBad a (base + 32 * i)) ∧
  (s.memWf = true → t.memWf = true)

/-! ### Encoding -/

/-- R299 to R302 and R314 to R316: every well-formed instruction has one word, from which, and from whose 12 little-endian bytes, the decoder
reads it back with every field. -/
def Obligations.DecodeOfEncode : Prop := ∀ i, i.wellFormed = true → ∃ w, encode i = some w ∧ decode w = .ok i ∧
  ∀ rest, decodeBytes (bytesOfWord w ++ rest) = .ok (i, rest)

/-- R314 and R316: a word that the decoder accepts is the word of the instruction that it gives, which is well-formed, so that no bit of a
word is dropped and no two words are one instruction. -/
def Obligations.EncodeOfDecode : Prop := ∀ w i, decode w = .ok i → i.wellFormed = true ∧ encode i = some w

/-- R299 to R310: words of the manual, read field by field. -/
def Obligations.DecodeWords : Prop :=
  decodeTableWord 96 0x0007C0380E03800000000000 =
    some (.nop ⟨0, false, 31, false, false, 0, ⟨.Z, 0⟩, ⟨.Z, 0⟩, ⟨.Z, 0⟩, 0, 0⟩) ∧
  decodeTableWord 96 0x0507C0380E038000000002C3 =
    some (.rep ⟨0, false, 31, false, false, 0, ⟨.Z, 0⟩, ⟨.Z, 0⟩, ⟨.Z, 0⟩, 0, 0x2C3⟩) ∧
  decodeTableWord 96 0x0407C0002E038000FFFFFFFA =
    some (.loop ⟨0, false, 31, false, false, 0, ⟨.G, 2⟩, ⟨.Z, 0⟩, ⟨.Z, 0⟩, 0, 0xFFFFFFFA⟩) ∧
  decodeTableWord 96 0x6607C0010004030000000007 =
    some (.incofr ⟨0, false, 31, false, false, 0, ⟨.G, 16⟩, ⟨.G, 1⟩, ⟨.G, 3⟩, 0, 7⟩) ∧
  decodeTableWord 96 0xF507C0380024070000000001 =
    some (.rotaCtl ⟨0, false, 31, false, false, 0, ⟨.Z, 0⟩, ⟨.G, 9⟩, ⟨.G, 7⟩, 0, 1⟩) ∧
  decodeTableWord 96 0x000000000000000000000000 =
    some (.nop ⟨0, false, 0, false, false, 0, ⟨.G, 0⟩, ⟨.G, 0⟩, ⟨.G, 0⟩, 0, 0⟩) ∧
  decodeTableWord 96 0xFF07C0380E03800000000000 = none

/-! ### The whole part -/

/-- R10, R11, R19 and R20: in every step the power unit stays in a legal state: one of the power states with the clock, the limit and the
rails that it allows. -/
def Obligations.PowerInvariant : Prop := ∀ s t, PowerOk s.pw → step s = .next t → PowerOk t.pw

/-- R10: "Only the Ranbor controller moves it between states": an instruction, and an event that is not the controller's, leave the power
state, the clock, the rails and the sequence as they are. -/
def Obligations.OnlyTheController : Prop := ∀ i s t, powerEvent i = false → exec i s = .next t →
  t.pw.mode = s.pw.mode ∧ t.pw.clock = s.pw.clock ∧ t.pw.rails = s.pw.rails ∧ t.pw.seq = s.pw.seq ∧ t.pw.pgood = s.pw.pgood

/-- R10, R11, R84, R85: after reset the power unit is in a legal state with the clock stopped and the limit at its default of 10,000 W, a start runs
from step 1, and no memory holds anything. (That reset is the moment at which the rails are up and the cold start begins is the model's
choice, log entry 2.) -/
def Obligations.AfterReset : Prop := PowerOk State.reset.pw ∧ State.reset.pw.clock = 0 ∧ State.reset.pw.limit = 10000 ∧
  State.reset.st.state = .running ∧ State.reset.st.step = 1 ∧ State.reset.memWf = true ∧ State.reset.mm.dram = [] ∧
  State.reset.co.spad = [] ∧ ∀ core slot, (State.reset.slotAt core slot).thr = none

/-- R300, R301, R127: with the issue slot open and nothing before the next instruction (no late cause, no eligible interrupt, no leave), a step
fetches the word at PC, or inside a repeat the word after it with its fields stepped, and runs exactly the instruction that it decodes to;
a word that is none takes ILLOP. The bytes come from the core's bank where PC points there. -/
def Obligations.StepRunsTheWord : Prop := ∀ s t, s.ctl.issue = true → s.slot.thr = some t → s.slot.leave = .stay → s.slot.sfu = false →
  s.slot.late = [] → s.slot.eligible t = none →
  let s0 : State := { s with ctl := { s.ctl with issue := false } }
  (∀ w s1 i, t.rep = none → fetchAt s0 t.pc = .ok (w, s1) → decode w = .ok i → step s = exec i { s1 with pw := s.pw }) ∧
  (∀ w s1 i, t.rep = none → fetchAt s0 t.pc = .ok (w, s1) → decode w = .error (.illopd i) → step s = exec i { s1 with pw := s.pw }) ∧
  (∀ w s1, t.rep = none → fetchAt s0 t.pc = .ok (w, s1) → decode w = .error .illop →
    step s = .next { (s1.take ⟨0x01, 0, 0, false, false, false⟩).endCycle s0.core with pw := s.pw }) ∧
  (∀ w s1 i j r, t.rep = some r → fetchAt s0 (t.pc + 12) = .ok (w, s1) → decode w = .ok i →
    let d := (r.n - t.repc) * r.step
    stepInstr i r.mask d = .ok j → step s = exec j { (s1.modSlot fun v => { v with disp := stepDisp i r.mask d }) with pw := s.pw }) ∧
  (∀ core off, s0.reachX t.pc = .ok (.win core off) → s0.winBadAny core t.hold off 12 = false →
    fetchAt s0 t.pc = .ok (wordOfBytes (s0.winBytes core t.hold off 12), s0))

/-- The frame of the tag and full/empty instructions on the issuing core's own bank (R372: "The word's value is never touched"; R375): no byte of
the banks or of device memory changes, nor any register but D, the predicates or a special register. -/
def Obligations.TagFrame : Prop := ∀ p ∈ padTable, ∀ f s off t, ready (p.instr f) s →
  padSpot s (p.ref s f) p.n p.n p.need = .ok (s.core, off) → exec (p.instr f) s = .next t →
  SameMemory s t ∧ (∀ n, n < 28 → ¬(p.need.r = true ∧ f.d.cls = .G ∧ f.d.idx.toNat = n) → t.thr.gpr n = s.thr.gpr n) ∧
  t.thr.pred = s.thr.pred ∧ SameSpecials s.thr t.thr
end

