-- ==== Sys2Proof/Laws/Parts.lean ====
section
/-! SUPPORT. What an update of one table leaves alone: one lemma for each part of the state and each update. -/

namespace Sys2Proof.Machine

@[simp] theorem State.setAcc_pw (s : State) (i : Nat) (a : Option Acc) : (s.setAcc i a).pw = s.pw := rfl
@[simp] theorem State.setAcc_st (s : State) (i : Nat) (a : Option Acc) : (s.setAcc i a).st = s.st := rfl
@[simp] theorem State.setAcc_net (s : State) (i : Nat) (a : Option Acc) : (s.setAcc i a).net = s.net := rfl
@[simp] theorem State.setAcc_hi (s : State) (i : Nat) (a : Option Acc) : (s.setAcc i a).hi = s.hi := rfl
@[simp] theorem State.setAcc_hd (s : State) (i : Nat) (a : Option Acc) : (s.setAcc i a).hd = s.hd := rfl
@[simp] theorem State.setAcc_co (s : State) (i : Nat) (a : Option Acc) : (s.setAcc i a).co = s.co := rfl
@[simp] theorem State.setAcc_sc (s : State) (i : Nat) (a : Option Acc) : (s.setAcc i a).sc = s.sc := rfl
@[simp] theorem State.setAcc_en (s : State) (i : Nat) (a : Option Acc) : (s.setAcc i a).en = s.en := rfl
@[simp] theorem State.setAcc_ctl (s : State) (i : Nat) (a : Option Acc) : (s.setAcc i a).ctl = s.ctl := rfl

@[simp] theorem State.setReplica_pw (s : State) (k c : Nat) (v : Replica) : (s.setReplica k c v).pw = s.pw := rfl
@[simp] theorem State.setReplica_st (s : State) (k c : Nat) (v : Replica) : (s.setReplica k c v).st = s.st := rfl
@[simp] theorem State.setReplica_net (s : State) (k c : Nat) (v : Replica) : (s.setReplica k c v).net = s.net := rfl
@[simp] theorem State.setReplica_hi (s : State) (k c : Nat) (v : Replica) : (s.setReplica k c v).hi = s.hi := rfl
@[simp] theorem State.setReplica_hd (s : State) (k c : Nat) (v : Replica) : (s.setReplica k c v).hd = s.hd := rfl
@[simp] theorem State.setReplica_mm (s : State) (k c : Nat) (v : Replica) : (s.setReplica k c v).mm = s.mm := rfl
@[simp] theorem State.setReplica_co (s : State) (k c : Nat) (v : Replica) : (s.setReplica k c v).co = s.co := rfl
@[simp] theorem State.setReplica_en (s : State) (k c : Nat) (v : Replica) : (s.setReplica k c v).en = s.en := rfl
@[simp] theorem State.setReplica_ctl (s : State) (k c : Nat) (v : Replica) : (s.setReplica k c v).ctl = s.ctl := rfl

@[simp] theorem State.modChain_pw (s : State) (fn : Nat) (g : Chain → Chain) : (s.modChain fn g).pw = s.pw := rfl
@[simp] theorem State.modChain_st (s : State) (fn : Nat) (g : Chain → Chain) : (s.modChain fn g).st = s.st := rfl
@[simp] theorem State.modChain_net (s : State) (fn : Nat) (g : Chain → Chain) : (s.modChain fn g).net = s.net := rfl
@[simp] theorem State.modChain_hd (s : State) (fn : Nat) (g : Chain → Chain) : (s.modChain fn g).hd = s.hd := rfl
@[simp] theorem State.modChain_mm (s : State) (fn : Nat) (g : Chain → Chain) : (s.modChain fn g).mm = s.mm := rfl
@[simp] theorem State.modChain_co (s : State) (fn : Nat) (g : Chain → Chain) : (s.modChain fn g).co = s.co := rfl
@[simp] theorem State.modChain_sc (s : State) (fn : Nat) (g : Chain → Chain) : (s.modChain fn g).sc = s.sc := rfl
@[simp] theorem State.modChain_en (s : State) (fn : Nat) (g : Chain → Chain) : (s.modChain fn g).en = s.en := rfl
@[simp] theorem State.modChain_ctl (s : State) (fn : Nat) (g : Chain → Chain) : (s.modChain fn g).ctl = s.ctl := rfl

@[simp] theorem State.modChainRec_pw (s : State) (fn num : Nat) (g : Rec → Rec) : (s.modChainRec fn num g).pw = s.pw := rfl
@[simp] theorem State.modChainRec_st (s : State) (fn num : Nat) (g : Rec → Rec) : (s.modChainRec fn num g).st = s.st := rfl
@[simp] theorem State.modChainRec_net (s : State) (fn num : Nat) (g : Rec → Rec) : (s.modChainRec fn num g).net = s.net := rfl
@[simp] theorem State.modChainRec_hd (s : State) (fn num : Nat) (g : Rec → Rec) : (s.modChainRec fn num g).hd = s.hd := rfl
@[simp] theorem State.modChainRec_mm (s : State) (fn num : Nat) (g : Rec → Rec) : (s.modChainRec fn num g).mm = s.mm := rfl
@[simp] theorem State.modChainRec_co (s : State) (fn num : Nat) (g : Rec → Rec) : (s.modChainRec fn num g).co = s.co := rfl
@[simp] theorem State.modChainRec_sc (s : State) (fn num : Nat) (g : Rec → Rec) : (s.modChainRec fn num g).sc = s.sc := rfl
@[simp] theorem State.modChainRec_en (s : State) (fn num : Nat) (g : Rec → Rec) : (s.modChainRec fn num g).en = s.en := rfl
@[simp] theorem State.modChainRec_ctl (s : State) (fn num : Nat) (g : Rec → Rec) : (s.modChainRec fn num g).ctl = s.ctl := rfl

@[simp] theorem State.modRota_pw (s : State) (i : Nat) (f : Rota → Rota) : (s.modRota i f).pw = s.pw := rfl
@[simp] theorem State.modRota_st (s : State) (i : Nat) (f : Rota → Rota) : (s.modRota i f).st = s.st := rfl
@[simp] theorem State.modRota_hi (s : State) (i : Nat) (f : Rota → Rota) : (s.modRota i f).hi = s.hi := rfl
@[simp] theorem State.modRota_hd (s : State) (i : Nat) (f : Rota → Rota) : (s.modRota i f).hd = s.hd := rfl
@[simp] theorem State.modRota_mm (s : State) (i : Nat) (f : Rota → Rota) : (s.modRota i f).mm = s.mm := rfl
@[simp] theorem State.modRota_co (s : State) (i : Nat) (f : Rota → Rota) : (s.modRota i f).co = s.co := rfl
@[simp] theorem State.modRota_sc (s : State) (i : Nat) (f : Rota → Rota) : (s.modRota i f).sc = s.sc := rfl
@[simp] theorem State.modRota_en (s : State) (i : Nat) (f : Rota → Rota) : (s.modRota i f).en = s.en := rfl
@[simp] theorem State.modRota_ctl (s : State) (i : Nat) (f : Rota → Rota) : (s.modRota i f).ctl = s.ctl := rfl

@[simp] theorem State.modRouter_pw (s : State) (i : Nat) (f : Router → Router) : (s.modRouter i f).pw = s.pw := rfl
@[simp] theorem State.modRouter_st (s : State) (i : Nat) (f : Router → Router) : (s.modRouter i f).st = s.st := rfl
@[simp] theorem State.modRouter_hi (s : State) (i : Nat) (f : Router → Router) : (s.modRouter i f).hi = s.hi := rfl
@[simp] theorem State.modRouter_hd (s : State) (i : Nat) (f : Router → Router) : (s.modRouter i f).hd = s.hd := rfl
@[simp] theorem State.modRouter_mm (s : State) (i : Nat) (f : Router → Router) : (s.modRouter i f).mm = s.mm := rfl
@[simp] theorem State.modRouter_co (s : State) (i : Nat) (f : Router → Router) : (s.modRouter i f).co = s.co := rfl
@[simp] theorem State.modRouter_sc (s : State) (i : Nat) (f : Router → Router) : (s.modRouter i f).sc = s.sc := rfl
@[simp] theorem State.modRouter_en (s : State) (i : Nat) (f : Router → Router) : (s.modRouter i f).en = s.en := rfl
@[simp] theorem State.modRouter_ctl (s : State) (i : Nat) (f : Router → Router) : (s.modRouter i f).ctl = s.ctl := rfl

@[simp] theorem State.takeReq_pw (s : State) (n : Nat) : (s.takeReq n).pw = s.pw := rfl
@[simp] theorem State.takeReq_st (s : State) (n : Nat) : (s.takeReq n).st = s.st := rfl
@[simp] theorem State.takeReq_hi (s : State) (n : Nat) : (s.takeReq n).hi = s.hi := rfl
@[simp] theorem State.takeReq_hd (s : State) (n : Nat) : (s.takeReq n).hd = s.hd := rfl
@[simp] theorem State.takeReq_mm (s : State) (n : Nat) : (s.takeReq n).mm = s.mm := rfl
@[simp] theorem State.takeReq_co (s : State) (n : Nat) : (s.takeReq n).co = s.co := rfl
@[simp] theorem State.takeReq_sc (s : State) (n : Nat) : (s.takeReq n).sc = s.sc := rfl
@[simp] theorem State.takeReq_en (s : State) (n : Nat) : (s.takeReq n).en = s.en := rfl
@[simp] theorem State.takeReq_ctl (s : State) (n : Nat) : (s.takeReq n).ctl = s.ctl := rfl

@[simp] theorem State.modBpos_pw (s : State) (k p : Nat) (f : BPos → BPos) : (s.modBpos k p f).pw = s.pw := rfl
@[simp] theorem State.modBpos_st (s : State) (k p : Nat) (f : BPos → BPos) : (s.modBpos k p f).st = s.st := rfl
@[simp] theorem State.modBpos_net (s : State) (k p : Nat) (f : BPos → BPos) : (s.modBpos k p f).net = s.net := rfl
@[simp] theorem State.modBpos_hi (s : State) (k p : Nat) (f : BPos → BPos) : (s.modBpos k p f).hi = s.hi := rfl
@[simp] theorem State.modBpos_hd (s : State) (k p : Nat) (f : BPos → BPos) : (s.modBpos k p f).hd = s.hd := rfl
@[simp] theorem State.modBpos_mm (s : State) (k p : Nat) (f : BPos → BPos) : (s.modBpos k p f).mm = s.mm := rfl
@[simp] theorem State.modBpos_co (s : State) (k p : Nat) (f : BPos → BPos) : (s.modBpos k p f).co = s.co := rfl
@[simp] theorem State.modBpos_sc (s : State) (k p : Nat) (f : BPos → BPos) : (s.modBpos k p f).sc = s.sc := rfl
@[simp] theorem State.modBpos_ctl (s : State) (k p : Nat) (f : BPos → BPos) : (s.modBpos k p f).ctl = s.ctl := rfl

@[simp] theorem State.setAccHdr_pw (s : State) (k t : Nat) (h : Option (BitVec 128)) : (s.setAccHdr k t h).pw = s.pw := rfl
@[simp] theorem State.setAccHdr_st (s : State) (k t : Nat) (h : Option (BitVec 128)) : (s.setAccHdr k t h).st = s.st := rfl
@[simp] theorem State.setAccHdr_net (s : State) (k t : Nat) (h : Option (BitVec 128)) : (s.setAccHdr k t h).net = s.net := rfl
@[simp] theorem State.setAccHdr_hi (s : State) (k t : Nat) (h : Option (BitVec 128)) : (s.setAccHdr k t h).hi = s.hi := rfl
@[simp] theorem State.setAccHdr_hd (s : State) (k t : Nat) (h : Option (BitVec 128)) : (s.setAccHdr k t h).hd = s.hd := rfl
@[simp] theorem State.setAccHdr_mm (s : State) (k t : Nat) (h : Option (BitVec 128)) : (s.setAccHdr k t h).mm = s.mm := rfl
@[simp] theorem State.setAccHdr_co (s : State) (k t : Nat) (h : Option (BitVec 128)) : (s.setAccHdr k t h).co = s.co := rfl
@[simp] theorem State.setAccHdr_sc (s : State) (k t : Nat) (h : Option (BitVec 128)) : (s.setAccHdr k t h).sc = s.sc := rfl
@[simp] theorem State.setAccHdr_ctl (s : State) (k t : Nat) (h : Option (BitVec 128)) : (s.setAccHdr k t h).ctl = s.ctl := rfl

@[simp] theorem State.setOwner_pw (s : State) (k p : Nat) (o : Owner) : (s.setOwner k p o).pw = s.pw := rfl
@[simp] theorem State.setOwner_st (s : State) (k p : Nat) (o : Owner) : (s.setOwner k p o).st = s.st := rfl
@[simp] theorem State.setOwner_net (s : State) (k p : Nat) (o : Owner) : (s.setOwner k p o).net = s.net := rfl
@[simp] theorem State.setOwner_hi (s : State) (k p : Nat) (o : Owner) : (s.setOwner k p o).hi = s.hi := rfl
@[simp] theorem State.setOwner_hd (s : State) (k p : Nat) (o : Owner) : (s.setOwner k p o).hd = s.hd := rfl
@[simp] theorem State.setOwner_mm (s : State) (k p : Nat) (o : Owner) : (s.setOwner k p o).mm = s.mm := rfl
@[simp] theorem State.setOwner_co (s : State) (k p : Nat) (o : Owner) : (s.setOwner k p o).co = s.co := rfl
@[simp] theorem State.setOwner_sc (s : State) (k p : Nat) (o : Owner) : (s.setOwner k p o).sc = s.sc := rfl
@[simp] theorem State.setOwner_ctl (s : State) (k p : Nat) (o : Owner) : (s.setOwner k p o).ctl = s.ctl := rfl

@[simp] theorem State.setL2_pw (s : State) (home line : Nat) (v : Option L2Line) : (s.setL2 home line v).pw = s.pw := rfl
@[simp] theorem State.setL2_st (s : State) (home line : Nat) (v : Option L2Line) : (s.setL2 home line v).st = s.st := rfl
@[simp] theorem State.setL2_net (s : State) (home line : Nat) (v : Option L2Line) : (s.setL2 home line v).net = s.net := rfl
@[simp] theorem State.setL2_hi (s : State) (home line : Nat) (v : Option L2Line) : (s.setL2 home line v).hi = s.hi := rfl
@[simp] theorem State.setL2_hd (s : State) (home line : Nat) (v : Option L2Line) : (s.setL2 home line v).hd = s.hd := rfl
@[simp] theorem State.setL2_co (s : State) (home line : Nat) (v : Option L2Line) : (s.setL2 home line v).co = s.co := rfl
@[simp] theorem State.setL2_sc (s : State) (home line : Nat) (v : Option L2Line) : (s.setL2 home line v).sc = s.sc := rfl
@[simp] theorem State.setL2_en (s : State) (home line : Nat) (v : Option L2Line) : (s.setL2 home line v).en = s.en := rfl
@[simp] theorem State.setL2_ctl (s : State) (home line : Nat) (v : Option L2Line) : (s.setL2 home line v).ctl = s.ctl := rfl

@[simp] theorem State.setPools_pw (s : State) (core : Nat) (l : List PoolEnt) : (s.setPools core l).pw = s.pw := rfl
@[simp] theorem State.setPools_st (s : State) (core : Nat) (l : List PoolEnt) : (s.setPools core l).st = s.st := rfl
@[simp] theorem State.setPools_net (s : State) (core : Nat) (l : List PoolEnt) : (s.setPools core l).net = s.net := rfl
@[simp] theorem State.setPools_hi (s : State) (core : Nat) (l : List PoolEnt) : (s.setPools core l).hi = s.hi := rfl
@[simp] theorem State.setPools_hd (s : State) (core : Nat) (l : List PoolEnt) : (s.setPools core l).hd = s.hd := rfl
@[simp] theorem State.setPools_co (s : State) (core : Nat) (l : List PoolEnt) : (s.setPools core l).co = s.co := rfl
@[simp] theorem State.setPools_sc (s : State) (core : Nat) (l : List PoolEnt) : (s.setPools core l).sc = s.sc := rfl
@[simp] theorem State.setPools_en (s : State) (core : Nat) (l : List PoolEnt) : (s.setPools core l).en = s.en := rfl
@[simp] theorem State.setPools_ctl (s : State) (core : Nat) (l : List PoolEnt) : (s.setPools core l).ctl = s.ctl := rfl

@[simp] theorem State.setHline_pw (s : State) (l : Nat) (v : HostLine) : (s.setHline l v).pw = s.pw := rfl
@[simp] theorem State.setHline_st (s : State) (l : Nat) (v : HostLine) : (s.setHline l v).st = s.st := rfl
@[simp] theorem State.setHline_net (s : State) (l : Nat) (v : HostLine) : (s.setHline l v).net = s.net := rfl
@[simp] theorem State.setHline_hd (s : State) (l : Nat) (v : HostLine) : (s.setHline l v).hd = s.hd := rfl
@[simp] theorem State.setHline_mm (s : State) (l : Nat) (v : HostLine) : (s.setHline l v).mm = s.mm := rfl
@[simp] theorem State.setHline_co (s : State) (l : Nat) (v : HostLine) : (s.setHline l v).co = s.co := rfl
@[simp] theorem State.setHline_sc (s : State) (l : Nat) (v : HostLine) : (s.setHline l v).sc = s.sc := rfl
@[simp] theorem State.setHline_en (s : State) (l : Nat) (v : HostLine) : (s.setHline l v).en = s.en := rfl
@[simp] theorem State.setHline_ctl (s : State) (l : Nat) (v : HostLine) : (s.setHline l v).ctl = s.ctl := rfl

@[simp] theorem State.queueMsg_pw (s : State) (l hold vc : Nat) (m : LinkMsg) (note : Option Note) : (s.queueMsg l hold vc m note).pw = s.pw := rfl
@[simp] theorem State.queueMsg_st (s : State) (l hold vc : Nat) (m : LinkMsg) (note : Option Note) : (s.queueMsg l hold vc m note).st = s.st := rfl
@[simp] theorem State.queueMsg_hi (s : State) (l hold vc : Nat) (m : LinkMsg) (note : Option Note) : (s.queueMsg l hold vc m note).hi = s.hi := rfl
@[simp] theorem State.queueMsg_hd (s : State) (l hold vc : Nat) (m : LinkMsg) (note : Option Note) : (s.queueMsg l hold vc m note).hd = s.hd := rfl
@[simp] theorem State.queueMsg_mm (s : State) (l hold vc : Nat) (m : LinkMsg) (note : Option Note) : (s.queueMsg l hold vc m note).mm = s.mm := rfl
@[simp] theorem State.queueMsg_co (s : State) (l hold vc : Nat) (m : LinkMsg) (note : Option Note) : (s.queueMsg l hold vc m note).co = s.co := rfl
@[simp] theorem State.queueMsg_sc (s : State) (l hold vc : Nat) (m : LinkMsg) (note : Option Note) : (s.queueMsg l hold vc m note).sc = s.sc := rfl
@[simp] theorem State.queueMsg_en (s : State) (l hold vc : Nat) (m : LinkMsg) (note : Option Note) : (s.queueMsg l hold vc m note).en = s.en := rfl
@[simp] theorem State.queueMsg_ctl (s : State) (l hold vc : Nat) (m : LinkMsg) (note : Option Note) : (s.queueMsg l hold vc m note).ctl = s.ctl := rfl

@[simp] theorem State.modFrame_pw (s : State) (hold mva : Nat) (g : FrameRec → FrameRec) : (s.modFrame hold mva g).pw = s.pw := rfl
@[simp] theorem State.modFrame_st (s : State) (hold mva : Nat) (g : FrameRec → FrameRec) : (s.modFrame hold mva g).st = s.st := rfl
@[simp] theorem State.modFrame_net (s : State) (hold mva : Nat) (g : FrameRec → FrameRec) : (s.modFrame hold mva g).net = s.net := rfl
@[simp] theorem State.modFrame_hi (s : State) (hold mva : Nat) (g : FrameRec → FrameRec) : (s.modFrame hold mva g).hi = s.hi := rfl
@[simp] theorem State.modFrame_hd (s : State) (hold mva : Nat) (g : FrameRec → FrameRec) : (s.modFrame hold mva g).hd = s.hd := rfl
@[simp] theorem State.modFrame_mm (s : State) (hold mva : Nat) (g : FrameRec → FrameRec) : (s.modFrame hold mva g).mm = s.mm := rfl
@[simp] theorem State.modFrame_co (s : State) (hold mva : Nat) (g : FrameRec → FrameRec) : (s.modFrame hold mva g).co = s.co := rfl
@[simp] theorem State.modFrame_en (s : State) (hold mva : Nat) (g : FrameRec → FrameRec) : (s.modFrame hold mva g).en = s.en := rfl
@[simp] theorem State.modFrame_ctl (s : State) (hold mva : Nat) (g : FrameRec → FrameRec) : (s.modFrame hold mva g).ctl = s.ctl := rfl

@[simp] theorem State.setEnt_pw (s : State) (k : Nat) (e e' : PqEnt) : (s.setEnt k e e').pw = s.pw := rfl
@[simp] theorem State.setEnt_st (s : State) (k : Nat) (e e' : PqEnt) : (s.setEnt k e e').st = s.st := rfl
@[simp] theorem State.setEnt_net (s : State) (k : Nat) (e e' : PqEnt) : (s.setEnt k e e').net = s.net := rfl
@[simp] theorem State.setEnt_hi (s : State) (k : Nat) (e e' : PqEnt) : (s.setEnt k e e').hi = s.hi := rfl
@[simp] theorem State.setEnt_hd (s : State) (k : Nat) (e e' : PqEnt) : (s.setEnt k e e').hd = s.hd := rfl
@[simp] theorem State.setEnt_co (s : State) (k : Nat) (e e' : PqEnt) : (s.setEnt k e e').co = s.co := rfl
@[simp] theorem State.setEnt_sc (s : State) (k : Nat) (e e' : PqEnt) : (s.setEnt k e e').sc = s.sc := rfl
@[simp] theorem State.setEnt_en (s : State) (k : Nat) (e e' : PqEnt) : (s.setEnt k e e').en = s.en := rfl
@[simp] theorem State.setEnt_ctl (s : State) (k : Nat) (e e' : PqEnt) : (s.setEnt k e e').ctl = s.ctl := rfl

@[simp] theorem State.setSfuQ_pw (s : State) (k : Nat) (l : List SfuReq) : (s.setSfuQ k l).pw = s.pw := rfl
@[simp] theorem State.setSfuQ_st (s : State) (k : Nat) (l : List SfuReq) : (s.setSfuQ k l).st = s.st := rfl
@[simp] theorem State.setSfuQ_net (s : State) (k : Nat) (l : List SfuReq) : (s.setSfuQ k l).net = s.net := rfl
@[simp] theorem State.setSfuQ_hi (s : State) (k : Nat) (l : List SfuReq) : (s.setSfuQ k l).hi = s.hi := rfl
@[simp] theorem State.setSfuQ_hd (s : State) (k : Nat) (l : List SfuReq) : (s.setSfuQ k l).hd = s.hd := rfl
@[simp] theorem State.setSfuQ_mm (s : State) (k : Nat) (l : List SfuReq) : (s.setSfuQ k l).mm = s.mm := rfl
@[simp] theorem State.setSfuQ_co (s : State) (k : Nat) (l : List SfuReq) : (s.setSfuQ k l).co = s.co := rfl
@[simp] theorem State.setSfuQ_sc (s : State) (k : Nat) (l : List SfuReq) : (s.setSfuQ k l).sc = s.sc := rfl
@[simp] theorem State.setSfuQ_ctl (s : State) (k : Nat) (l : List SfuReq) : (s.setSfuQ k l).ctl = s.ctl := rfl

@[simp] theorem State.keepToken_pw (s : State) (q : TokenReq) : (s.keepToken q).pw = s.pw := rfl
@[simp] theorem State.keepToken_st (s : State) (q : TokenReq) : (s.keepToken q).st = s.st := rfl
@[simp] theorem State.keepToken_net (s : State) (q : TokenReq) : (s.keepToken q).net = s.net := rfl
@[simp] theorem State.keepToken_hi (s : State) (q : TokenReq) : (s.keepToken q).hi = s.hi := rfl
@[simp] theorem State.keepToken_mm (s : State) (q : TokenReq) : (s.keepToken q).mm = s.mm := rfl
@[simp] theorem State.keepToken_co (s : State) (q : TokenReq) : (s.keepToken q).co = s.co := rfl
@[simp] theorem State.keepToken_sc (s : State) (q : TokenReq) : (s.keepToken q).sc = s.sc := rfl
@[simp] theorem State.keepToken_en (s : State) (q : TokenReq) : (s.keepToken q).en = s.en := rfl
@[simp] theorem State.keepToken_ctl (s : State) (q : TokenReq) : (s.keepToken q).ctl = s.ctl := rfl

@[simp] theorem State.setHalf_pw (s : State) (h v : Nat) : (s.setHalf h v).pw = s.pw := rfl
@[simp] theorem State.setHalf_st (s : State) (h v : Nat) : (s.setHalf h v).st = s.st := rfl
@[simp] theorem State.setHalf_net (s : State) (h v : Nat) : (s.setHalf h v).net = s.net := rfl
@[simp] theorem State.setHalf_hd (s : State) (h v : Nat) : (s.setHalf h v).hd = s.hd := rfl
@[simp] theorem State.setHalf_mm (s : State) (h v : Nat) : (s.setHalf h v).mm = s.mm := rfl
@[simp] theorem State.setHalf_co (s : State) (h v : Nat) : (s.setHalf h v).co = s.co := rfl
@[simp] theorem State.setHalf_sc (s : State) (h v : Nat) : (s.setHalf h v).sc = s.sc := rfl
@[simp] theorem State.setHalf_en (s : State) (h v : Nat) : (s.setHalf h v).en = s.en := rfl
@[simp] theorem State.setHalf_ctl (s : State) (h v : Nat) : (s.setHalf h v).ctl = s.ctl := rfl

@[simp] theorem State.setBar_pw (s : State) (core hold n : Nat) (b : Bar) : (s.setBar core hold n b).pw = s.pw := rfl
@[simp] theorem State.setBar_st (s : State) (core hold n : Nat) (b : Bar) : (s.setBar core hold n b).st = s.st := rfl
@[simp] theorem State.setBar_net (s : State) (core hold n : Nat) (b : Bar) : (s.setBar core hold n b).net = s.net := rfl
@[simp] theorem State.setBar_hi (s : State) (core hold n : Nat) (b : Bar) : (s.setBar core hold n b).hi = s.hi := rfl
@[simp] theorem State.setBar_hd (s : State) (core hold n : Nat) (b : Bar) : (s.setBar core hold n b).hd = s.hd := rfl
@[simp] theorem State.setBar_mm (s : State) (core hold n : Nat) (b : Bar) : (s.setBar core hold n b).mm = s.mm := rfl
@[simp] theorem State.setBar_sc (s : State) (core hold n : Nat) (b : Bar) : (s.setBar core hold n b).sc = s.sc := rfl
@[simp] theorem State.setBar_en (s : State) (core hold n : Nat) (b : Bar) : (s.setBar core hold n b).en = s.en := rfl
@[simp] theorem State.setBar_ctl (s : State) (core hold n : Nat) (b : Bar) : (s.setBar core hold n b).ctl = s.ctl := rfl

@[simp] theorem State.setQReq_pw (s : State) (pos : Nat) (q : Option QReq) : (s.setQReq pos q).pw = s.pw := rfl
@[simp] theorem State.setQReq_st (s : State) (pos : Nat) (q : Option QReq) : (s.setQReq pos q).st = s.st := rfl
@[simp] theorem State.setQReq_net (s : State) (pos : Nat) (q : Option QReq) : (s.setQReq pos q).net = s.net := rfl
@[simp] theorem State.setQReq_hi (s : State) (pos : Nat) (q : Option QReq) : (s.setQReq pos q).hi = s.hi := rfl
@[simp] theorem State.setQReq_hd (s : State) (pos : Nat) (q : Option QReq) : (s.setQReq pos q).hd = s.hd := rfl
@[simp] theorem State.setQReq_mm (s : State) (pos : Nat) (q : Option QReq) : (s.setQReq pos q).mm = s.mm := rfl
@[simp] theorem State.setQReq_co (s : State) (pos : Nat) (q : Option QReq) : (s.setQReq pos q).co = s.co := rfl
@[simp] theorem State.setQReq_en (s : State) (pos : Nat) (q : Option QReq) : (s.setQReq pos q).en = s.en := rfl
@[simp] theorem State.setQReq_ctl (s : State) (pos : Nat) (q : Option QReq) : (s.setQReq pos q).ctl = s.ctl := rfl

@[simp] theorem State.setMove_pw (s : State) (h n : Nat) (m : Option MoveSlot) : (s.setMove h n m).pw = s.pw := rfl
@[simp] theorem State.setMove_st (s : State) (h n : Nat) (m : Option MoveSlot) : (s.setMove h n m).st = s.st := rfl
@[simp] theorem State.setMove_net (s : State) (h n : Nat) (m : Option MoveSlot) : (s.setMove h n m).net = s.net := rfl
@[simp] theorem State.setMove_hi (s : State) (h n : Nat) (m : Option MoveSlot) : (s.setMove h n m).hi = s.hi := rfl
@[simp] theorem State.setMove_mm (s : State) (h n : Nat) (m : Option MoveSlot) : (s.setMove h n m).mm = s.mm := rfl
@[simp] theorem State.setMove_co (s : State) (h n : Nat) (m : Option MoveSlot) : (s.setMove h n m).co = s.co := rfl
@[simp] theorem State.setMove_sc (s : State) (h n : Nat) (m : Option MoveSlot) : (s.setMove h n m).sc = s.sc := rfl
@[simp] theorem State.setMove_en (s : State) (h n : Nat) (m : Option MoveSlot) : (s.setMove h n m).en = s.en := rfl
@[simp] theorem State.setMove_ctl (s : State) (h n : Nat) (m : Option MoveSlot) : (s.setMove h n m).ctl = s.ctl := rfl

@[simp] theorem State.setGot_pw (s : State) (mx : Bool) (key : Nat) (l : List (Nat × CplStatus × List Byte)) : (s.setGot mx key l).pw = s.pw := by unfold State.setGot; split <;> rfl
@[simp] theorem State.setGot_st (s : State) (mx : Bool) (key : Nat) (l : List (Nat × CplStatus × List Byte)) : (s.setGot mx key l).st = s.st := by unfold State.setGot; split <;> rfl
@[simp] theorem State.setGot_net (s : State) (mx : Bool) (key : Nat) (l : List (Nat × CplStatus × List Byte)) : (s.setGot mx key l).net = s.net := by unfold State.setGot; split <;> rfl
@[simp] theorem State.setGot_hi (s : State) (mx : Bool) (key : Nat) (l : List (Nat × CplStatus × List Byte)) : (s.setGot mx key l).hi = s.hi := by unfold State.setGot; split <;> rfl
@[simp] theorem State.setGot_hd (s : State) (mx : Bool) (key : Nat) (l : List (Nat × CplStatus × List Byte)) : (s.setGot mx key l).hd = s.hd := by unfold State.setGot; split <;> rfl
@[simp] theorem State.setGot_mm (s : State) (mx : Bool) (key : Nat) (l : List (Nat × CplStatus × List Byte)) : (s.setGot mx key l).mm = s.mm := by unfold State.setGot; split <;> rfl
@[simp] theorem State.setGot_co (s : State) (mx : Bool) (key : Nat) (l : List (Nat × CplStatus × List Byte)) : (s.setGot mx key l).co = s.co := by unfold State.setGot; split <;> rfl
@[simp] theorem State.setGot_sc (s : State) (mx : Bool) (key : Nat) (l : List (Nat × CplStatus × List Byte)) : (s.setGot mx key l).sc = s.sc := by unfold State.setGot; split <;> rfl
@[simp] theorem State.setGot_ctl (s : State) (mx : Bool) (key : Nat) (l : List (Nat × CplStatus × List Byte)) : (s.setGot mx key l).ctl = s.ctl := by unfold State.setGot; split <;> rfl

@[simp] theorem State.setPaid_pw (s : State) (x : Eng) (p : Nat × Nat) : (s.setPaid x p).pw = s.pw := by unfold State.setPaid; split <;> rfl
@[simp] theorem State.setPaid_st (s : State) (x : Eng) (p : Nat × Nat) : (s.setPaid x p).st = s.st := by unfold State.setPaid; split <;> rfl
@[simp] theorem State.setPaid_net (s : State) (x : Eng) (p : Nat × Nat) : (s.setPaid x p).net = s.net := by unfold State.setPaid; split <;> rfl
@[simp] theorem State.setPaid_hi (s : State) (x : Eng) (p : Nat × Nat) : (s.setPaid x p).hi = s.hi := by unfold State.setPaid; split <;> rfl
@[simp] theorem State.setPaid_hd (s : State) (x : Eng) (p : Nat × Nat) : (s.setPaid x p).hd = s.hd := by unfold State.setPaid; split <;> rfl
@[simp] theorem State.setPaid_mm (s : State) (x : Eng) (p : Nat × Nat) : (s.setPaid x p).mm = s.mm := by unfold State.setPaid; split <;> rfl
@[simp] theorem State.setPaid_co (s : State) (x : Eng) (p : Nat × Nat) : (s.setPaid x p).co = s.co := by unfold State.setPaid; split <;> rfl
@[simp] theorem State.setPaid_sc (s : State) (x : Eng) (p : Nat × Nat) : (s.setPaid x p).sc = s.sc := by unfold State.setPaid; split <;> rfl
@[simp] theorem State.setPaid_ctl (s : State) (x : Eng) (p : Nat × Nat) : (s.setPaid x p).ctl = s.ctl := by unfold State.setPaid; split <;> rfl

@[simp] theorem State.queueToken_pw (s : State) (q : TokenReq) : (s.queueToken q).pw = s.pw := by unfold State.queueToken; split <;> rfl
@[simp] theorem State.queueToken_st (s : State) (q : TokenReq) : (s.queueToken q).st = s.st := by unfold State.queueToken; split <;> rfl
@[simp] theorem State.queueToken_net (s : State) (q : TokenReq) : (s.queueToken q).net = s.net := by unfold State.queueToken; split <;> rfl
@[simp] theorem State.queueToken_hi (s : State) (q : TokenReq) : (s.queueToken q).hi = s.hi := by unfold State.queueToken; split <;> rfl
@[simp] theorem State.queueToken_mm (s : State) (q : TokenReq) : (s.queueToken q).mm = s.mm := by unfold State.queueToken; split <;> rfl
@[simp] theorem State.queueToken_co (s : State) (q : TokenReq) : (s.queueToken q).co = s.co := by unfold State.queueToken; split <;> rfl
@[simp] theorem State.queueToken_sc (s : State) (q : TokenReq) : (s.queueToken q).sc = s.sc := by unfold State.queueToken; split <;> rfl
@[simp] theorem State.queueToken_en (s : State) (q : TokenReq) : (s.queueToken q).en = s.en := by unfold State.queueToken; split <;> rfl
@[simp] theorem State.queueToken_ctl (s : State) (q : TokenReq) : (s.queueToken q).ctl = s.ctl := by unfold State.queueToken; split <;> rfl

end Sys2Proof.Machine
end

