-- ==== Sys2Proof/Tests/Slice0.lean ====
section
/-! SUPPORT. Tests of this package: words of the manual and of its encoding tables, ill-formed terms, single steps on small states,
and witnesses: for each statement a concrete state and operands that meet its hypotheses together. -/

open Sys2Proof Sys2Proof.Machine Sys2Proof.Claims

namespace Sys2Proof.Tests

set_option Elab.async false

/-! ### Small terms and states -/

def z : Operand := ⟨.Z, 0⟩
def i0 : Operand := ⟨.I, 0⟩
def g (n : Nat) : Operand := ⟨.G, BitVec.ofNat 7 n⟩
def pr (n : Nat) : Operand := ⟨.P, BitVec.ofNat 7 n⟩
def tr (n : Nat) : Operand := ⟨.T, BitVec.ofNat 7 n⟩
def sr (n : Nat) : Operand := ⟨.S, BitVec.ofNat 7 n⟩
def ar (n : Nat) : Operand := ⟨.A, BitVec.ofNat 7 n⟩
def qr (n : Nat) : Operand := ⟨.Q, BitVec.ofNat 7 n⟩

/-- Fields guarded by p31. -/
def fd (d a b : Operand) (md : BitVec 8 := 0) (imm : BitVec 32 := 0) (fn : BitVec 4 := 0) : Fields :=
  ⟨fn, false, 31, false, false, 0, d, a, b, md, imm⟩

/-- Core 0 with a thread of holding 0 in slot 0, about to issue; the environment makes no choice of its own. -/
def base : State := let s := State.reset.place 0
  { s with ctl := { s.ctl with choices := [] } }

/-- The same with registers g0, g1, ... of the thread. -/
def regs (l : List Word) (s : State := base) : State :=
  s.modThr fun t => { t with g := ((List.range l.length).zip l).filter fun p => p.2 ≠ 0 }

/-- The same with a page table that maps the first 64 GiB of MVAs to themselves with every right, and segment 1 over them. -/
def paged : State :=
  let s := base.modThr fun t => { t with sg := [(1, 0xF000000FFFFFFFFF0000000000000000)] }
  let s := { s with hd := { s.hd with keys := [(0, some 1)] } }
  (s.rawPut 0 0 0 0x2001).rawPut 0 0 8192 0x8000001F

/-- A pointer into segment 1. -/
def p1 (off : Nat) : Word := BitVec.ofNat 64 (2 ^ 61 + off)

/-- The thread of an outcome. -/
def thrOf : Host.Outcome State Fault Refusal → Thread
  | .next s => s.thr
  | _ => {}

/-- The state of an outcome. -/
def stOf : Host.Outcome State Fault Refusal → State
  | .next s => s
  | _ => State.reset

/-- The instruction is ready in the state with one of some fields. -/
def someReady (i : Form) (l : List Fields) (s : State) : Bool := l.any fun f => ready (i f) s

/-- A result that is there and passes a test. -/
def okAnd {α : Type} (m : M α) (p : α → Bool) : Bool :=
  match m with
  | .ok a => p a
  | .error _ => false

/-! ### Witnesses: scalar instructions -/

theorem witness_integer : (intTable.all fun x => someReady x.1 [fd (g 1) (g 2) (g 3), fd (g 1) (g 2) z] base) = true := by
  decide +kernel
theorem witness_fieldAndSpecial : (ready (.bfi (fd (g 1) (g 2) (g 3))) base && ready (.movhi (fd (g 1) i0 z 0 9)) base &&
    ready (.sel (fd (g 1) (g 2) (g 3) 0 0x3F)) base && ready (.addsh (fd (g 1) (g 2) (g 3) 0 7)) base &&
    ready (.mfs (fd (g 1) (sr 40) z)) base && ready (.mts (fd (sr 36) (g 1) z 1)) base) = true := by decide +kernel
theorem witness_float : (floatTable.all fun x => someReady x.1 [fd (g 1) (g 2) (g 3) 0x10] base) = true := by decide +kernel
theorem witness_floatOther : (([.ffma, .fmin, .fmax] : List Form).all fun x => someReady x [fd (g 1) (g 2) (g 3) 0x10] base) = true := by
  decide +kernel
theorem witness_conversion : (ready (.fcvt (fd (g 1) (g 2) z 0x10 0x15)) base && ready (.dcvt (fd (g 1) (g 2) z 0 0x01)) base) = true := by
  decide +kernel
theorem witness_fp64 : (fp64Table.all fun x => someReady x.1 [fd (g 1) (g 2) (g 3), fd (g 1) (g 2) z] base) = true := by decide +kernel
theorem witness_predicate : (ready (.cmp (fd (pr 1) (g 2) (g 3) 0 0 5)) base && ready (.cmpu (fd (pr 31) (g 2) (g 3))) base &&
    ready (.fcmp (fd (pr 1) (g 2) (g 3) 0x10)) base && ready (.dcmp (fd (pr 1) (g 2) (g 3) 0 5)) base &&
    ready (.plog (fd (pr 1) (pr 2) (pr 3) 7 0 3)) base && ready (.pget (fd (g 1) z z)) base && ready (.pset (fd z (g 1) z 0 0xFF)) base) = true := by
  decide +kernel

/-! ### Witnesses: control, traps and modes -/

/-- The word after the one at PC is ADD, in the instruction buffer. -/
def afterRep : State :=
  { base with co := { base.co with ibuf := [(0, [⟨0, 12, 0x1000E000501B000100000064⟩])] } }

theorem witness_rep : (ready (.rep (fd z z z 0 0x3F)) afterRep &&
    okAnd (fetchAt afterRep (afterRep.thr.pc + 12)) fun r => !repBad r.1 7 && r.2.thr.repc ≤ 64) = true := by decide +kernel
theorem witness_repBad : okAnd (fetchAt { afterRep with co := { afterRep.co with ibuf := [(0, [⟨0, 12, 0x0007C0380E03800000000000⟩])] } }
    (afterRep.thr.pc + 12)) (fun r => repBad r.1 0) = true := by decide +kernel
theorem witness_exit : (ready (.exit (fd z z z)) base && base.released base.core base.slotNo (base.regionPlot base.thr) &&
    base.slot.ld == 0 && base.slot.tl == 0 && (base.exitReady base.thr.hold base.thr.rgn base.thr.frame).1) = true := by decide +kernel
theorem witness_bra : (ready (.bra (fd z z z 0 5)) base && (target base.thr.pc 20).isSome && (target base.thr.pc (-4)).isNone &&
    ready (.bra (fd z z z 0 0xFFFFFFFF)) base) = true := by decide +kernel
theorem witness_brx : (ready (.brx (fd z (g 1) z)) base && (target (base.g (g 1)) 0).isSome && (target (base.g (g 1)) (-1)).isNone) = true := by
  decide +kernel
theorem witness_call : (ready (.call (fd (g 23) z z 0 3)) base && ready (.call (fd (g 4) (g 4) z 0 3)) base &&
    (target base.thr.pc 12).isSome && (target base.thr.pc (-4)).isNone) = true := by decide +kernel
theorem witness_callLink : (let s := base.modThr fun t => { t with pc := 0x3FFFFFFFFFFFFFFC }
    ready (.call (fd (g 4) (g 4) z)) s && (target (s.g (g 4)) 0).isSome && (target s.thr.pc 12).isNone) = true := by decide +kernel
theorem witness_loop : (ready (.loop (fd (g 1) z z 0 5)) base && decide ((regs [0, 1]).g (g 1) - 1 = 0) && decide (base.g (g 1) - 1 ≠ 0) &&
    (target base.thr.pc 20).isSome && (target base.thr.pc (-4)).isNone) = true := by decide +kernel
theorem witness_skip : (base.slot.thr.isSome && !illopOf (.bra (fd z z z)) && (illopdOf false (.bra (fd z z z))).isNone &&
    !base.thr.prd 1) = true := by decide +kernel

/-- The thread of slot 0 runs a user trap handler. -/
def handler : State := base.modThr fun t => { t with h := true, utvec := 0x2000000000000100 }
/-- The thread of slot 0 stands in S mode. -/
def superv : State := base.modThr fun t => { t with s := true, root := false }
/-- The thread of slot 0 is no root sprig; its holding has a supervisor vector, and it has a user vector. -/
def user : State :=
  (base.modThr fun t => { t with root := false, utvec := 0x2000000000000100 }).modHold 0 fun h =>
    { h with words := Tab.set 0 h.words 0x78 0x2000000000000200 }

theorem witness_nopUien : (ready (.nop (fd (g 3) (qr 7) (tr 15))) base && ready (.uien (fd (g 1) z z 0 1)) base) = true := by decide +kernel
theorem witness_tret : (ready (.tret (fd z z z)) handler && !user.thr.h && user.slot.thr.isSome && !illopOf (.tret (fd z z z)) &&
    (illopdOf false (.tret (fd z z z))).isNone && superv.thr.s) = true := by decide +kernel
theorem witness_trapUser : (ready (.trap (fd z z z 0 0xFF)) user && !user.thr.h && !user.thr.s && decide (user.thr.utvec ≠ 0)) = true := by
  decide +kernel
theorem witness_trapEscalated : (let s := user.modThr fun t => { t with h := true }
    ready (.trap (fd z z z 0 0x80)) s && s.thr.h && !s.thr.s && decide (s.hword s.thr.hold 0x78 ≠ 0)) = true := by decide +kernel
theorem witness_trapStops : (ready (.trap (fd z z z 0 0x80)) superv && superv.thr.s) = true := by decide +kernel
theorem witness_scall : (ready (.scall (fd z z z 0 0x80)) user && !user.thr.s && decide (user.hword user.thr.hold 0x78 ≠ 0) &&
    ready (.scall (fd z z z 0 0xFF)) superv && superv.thr.s) = true := by decide +kernel
theorem witness_sret : (ready (.sret (fd z z z)) superv && superv.thr.s && !base.thr.s && (illopdOf false (.sret (fd z z z))).isNone &&
    decide (base.slot.acq = []) && decide (base.slot.leave = .stay) && base.slot.park.isNone && !base.slot.sfu && decide (base.slot.pendG = []) &&
    base.slot.strong == 0) = true := by decide +kernel
theorem witness_guard : (illopOf (.add (fd (g 1) (g 2) (g 3) 0 0 1)) && (illopdOf false (.add (fd (pr 1) (g 2) (g 3)))) == some 0 &&
    !illopOf (.add (fd (g 1) (g 2) (g 3)))) = true := by decide +kernel
theorem witness_super : (superForms.all fun i => [fd z z z, fd z (g 1) z, fd z (g 1) z 0 1, fd (g 1) (g 2) (g 3), fd z (g 1) (g 2), fd (g 1) (g 2) z, fd z z (g 1) 0 1,
    fd z (g 1) z 0 2, fd (g 1) (g 2) z 0 1, fd (g 1) (g 2) z 0 2, fd (g 1) (g 2) z 0 3, fd z z z 0 5, fd (tr 1) (g 1) (g 2), fd (g 1) (g 1) i0, fd (ar 1) (g 1) z, fd z (ar 1) (g 1)].any fun f =>
    !illopOf (i f) && (illopdOf false (i f)).isNone) = true := by decide +kernel

/-- Operands that some form of every instruction of the tables accepts. -/
def shapes : List Fields :=
  [fd z z z, fd z (g 1) z, fd z (g 1) z 0 1, fd (g 1) (g 2) (g 3), fd z (g 1) (g 2), fd (g 1) (g 2) z, fd z z (g 1) 0 1, fd z (g 1) (g 2) 0 1,
   fd (g 1) (g 2) (g 3) 0 0x400, fd (g 1) (g 2) (g 3) 0 0 1, fd (g 1) (g 2) (g 3) 0 0 2, fd (g 1) (g 2) (g 3) 0 0 3, fd (g 1) (g 2) (g 3) 0 0 4,
   fd (g 1) (g 2) (g 3) 0 0 5, fd (pr 1) (g 2) (g 3), fd (g 1) (g 2) z 0 1, fd (g 1) (g 2) (g 3) 0 0x100000]

theorem witness_root : (rootForms.all fun i => shapes.any fun f => !illopOf (i f) && (illopdOf false (i f)).isNone) = true := by decide +kernel
theorem witness_copyPlace : (copyForms.all fun i => shapes.any fun f => !illopOf (i f) && (illopdOf false (i f)).isNone) = true := by
  decide +kernel
theorem witness_otherSlot : (let s : State := (base.setSlotAt 0 5 { thr := some { } }).at_ ⟨0, 5, 0⟩
    s.slot.thr.isSome && decide (s.slotNo ≠ s.hmovs s.thr.hold)) = true := by decide +kernel
theorem witness_fp64Place : (fp64Forms.all fun i => shapes.any fun f => !illopOf (i f) && (illopdOf false (i f)).isNone) = true := by decide +kernel
theorem witness_otherCore : (let s : State := (base.setSlotAt 1 0 { thr := some { roam := true } }).at_ ⟨1, 0, 0⟩
    decide (coreNo s.core ≠ 0) && !s.thr.pinned && ({ s.thr with roam := false } : Thread).pinned) = true := by decide +kernel
theorem witness_fp64Format : (([.vadd, .vmul, .vred] : List Form).all fun i => [fd (g 1) (g 2) (g 3) 0xD0, fd (g 1) (g 2) z 0xD0].any fun f =>
    !illopOf (i f) && (illopdOf false (i f)).isNone && mdFmt f.md == 13) = true := by decide +kernel
theorem witness_entry : (user.thr.trapsUser ⟨0x20, 0, 0, false, false, false⟩ && !user.thr.trapsUser ⟨0x14, 0, 0, false, false, false⟩ &&
    decide (user.hword user.thr.hold 0x78 ≠ 0) && decide (base.hword base.thr.hold 0x78 = 0)) = true := by decide +kernel

/-! ### Witnesses: arithmetic and frames -/

theorem witness_border : (let f := fd (g 1) (g 2) (g 3)
    ready (.div f) (regs [0, 0, 5, 0]) && uAt 0 ((regs [0, 0, 5, 0]).srcs f 0).2.1 == 0 &&
    decide (sAt 0 ((regs [0, 0, 0x8000000000000000, 0xFFFFFFFFFFFFFFFF]).srcs f 0).1 = -2 ^ 63) &&
    decide (sAt 0 ((regs [0, 0, 0, 0xFFFFFFFFFFFFFFFF]).srcs f 0).2.1 = -1) &&
    decide (sAt 0 ((regs [0, 0, 0xFFFFFFFFFFFFFFF9, 2]).srcs f 0).1 = -7) && ready (.rem f) base && ready (.shl f) base && ready (.shr f) base &&
    ready (.sar f) base && ready (.rotl f) base && ready (.clz (fd (g 1) (g 2) z)) base && ready (.abs (fd (g 1) (g 2) z 0x0C)) base &&
    ready (.abs (fd (g 1) (g 2) z 0x08)) base && ready (.add (fd (g 1) (g 2) (g 3) 0x08)) base && ready (.sub (fd (g 1) (g 2) (g 3) 0x0B)) base &&
    ready (.mul (fd (g 1) (g 2) (g 3) 0x0D)) base && ready (.divu (fd (g 1) (g 2) (g 3) 0x05)) base) = true := by decide +kernel
theorem witness_wholeWord : (wordTable.all fun x => someReady x.1 [fd (g 1) (g 2) (g 3), fd (g 1) (g 2) z] base) = true := by decide +kernel
theorem witness_rng : ready (.mts (fd (sr 27) (g 1) z)) base = true := by decide +kernel
theorem witness_scalarFrame : ((registerForms.all fun i => ([fd z i0 z, fd (g 1) i0 z, fd (g 1) (sr 0) z, fd (g 1) z z, fd (g 1) (g 2) (g 3) 0x10,
    fd (g 1) (g 2) z 0x10 1, fd (g 1) (g 2) z 0 1] ++ shapes).any fun f => ready (i f) base) &&
    (predicateForms.all fun i => [fd (pr 1) (g 2) (g 3), fd (pr 1) (g 2) (g 3) 0x10, fd (pr 1) (pr 2) (pr 3), fd z (g 1) z 0 9].any fun f =>
      ready (i f) base)) = true := by decide +kernel

/-! ### Witnesses: loads and stores -/

/-- Memory operands: g1 holds an offset of the own bank, g2 one of segment 1, g3 the plot word of the module. -/
def memRegs (s : State := paged) : State := regs [0, 0x100, p1 0x40000, 0x8000000000000000] s
/-- Fields of a memory instruction at the own bank, in its scalar and pair forms and with a plot. -/
def own : List Fields := [fd (g 4) (g 1) z, fd (g 4) (g 1) (g 3), fd z (g 1) z]
/-- The same at segment 1. -/
def glob : List Fields := [fd (g 4) (g 2) z, fd (g 4) (g 2) (g 3), fd z (g 2) z]

theorem witness_loadOwn : (loadTable.all fun x => own.any fun f => ready (x.instr f) memRegs &&
    okAnd (locate1 memRegs kLD (x.n f) (x.n f) { r := true } (x.ref memRegs f)) fun r => match r with
      | (.here _ acts, _, _, s1) => !s1.unitBad s1.core s1.thr.hold acts && acts.all (fun a => actOf a.2 != 5) && s1.slot.rels == 0
      | _ => false) = true := by decide +kernel
theorem witness_loadGlobal : (loadTable.all fun x => glob.any fun f => ready (x.instr f) memRegs &&
    okAnd (locate1 memRegs kLD (x.n f) (x.n f) { r := true } (x.ref memRegs f)) fun r => match r with
      | (.glob parts, _, _, s1) => !(parts.any fun (t, m) => s1.pooled t m) && (s1.quickAll (cutParts 8 parts 0)).1.isNone && s1.slot.ld == 0
      | _ => false) = true := by decide +kernel
theorem witness_loadQuick : (let s := memRegs (paged.setL1 0 0x8000 (some ⟨some ⟨0, none, 0, 0, 0, 0⟩, 7, none⟩))
    okAnd (locate1 s kLD 8 8 { r := true } (s.refM (fd (g 4) (g 2) z))) fun r => match r with
      | (.glob parts, _, _, s1) => (s1.quickAll (cutParts 8 parts 0)).1.isSome
      | _ => false) = true := by decide +kernel
theorem witness_storeOwn : (storeTable.all fun x => own.any fun f => ready (x.instr f) memRegs &&
    okAnd (locate1 memRegs kST (x.n f) (x.n f) { w := true } (x.ref memRegs f)) fun r => match r with
      | (.here .., _, _, s1) => s1.released s1.core s1.slotNo 0x8000000000000000 && f.d.cls != .Q
      | _ => false) = true := by decide +kernel
theorem witness_storeGlobal : (storeTable.all fun x => glob.any fun f => ready (x.instr f) memRegs &&
    okAnd (locate1 memRegs kST (x.n f) (x.n f) { w := true } (x.ref memRegs f)) fun r => match r with
      | (.glob parts, _, _, s1) => !(parts.any fun (t, m) => s1.pooled t m) && s1.slot.issued == s1.slot.drained
      | _ => false) = true := by decide +kernel
/-- Segment 1 over the direct window, g2 a pointer to core 1's bank 2 (R173). -/
def farRegs : State := regs [0, 0x100, p1 0x2000000000A0, 0x8000000000000000]
  (paged.modThr fun t => { t with sg := [(1, 0xF1FFFFFFFFFFFFFF01F0000000000000)] })
theorem witness_loadFar : (loadTable.all fun x => glob.any fun f => ready (x.instr f) farRegs &&
    okAnd (locate1 farRegs kLD (x.n f) (x.n f) { r := true } (x.ref farRegs f)) fun r => match r with
      | (.far core off, _, _, s1) => core != 0 && !s1.behindStore (.bank core s1.thr.hold off) (x.n f) && s1.slot.ld == 0
      | _ => false) = true := by decide +kernel
theorem witness_storeFar : (storeTable.all fun x => glob.any fun f => ready (x.instr f) farRegs &&
    okAnd (locate1 farRegs kST (x.n f) (x.n f) { w := true } (x.ref farRegs f)) fun r => match r with
      | (.far core _, _, _, s1) => core != 0 && s1.slot.issued == s1.slot.drained
      | _ => false) = true := by decide +kernel

/-! ### Witnesses: lines, tags, atomics and incumbents -/

theorem witness_lineQuiet : (ready (.pref (fd z (g 1) z)) memRegs && (memRegs.quietLine (memRegs.refM (fd z (g 1) z))).1.isNone &&
    ready (.wbk (fd z (g 1) z)) memRegs && ready (.linv (fd z (g 1) z)) memRegs &&
    okAnd (lineCheck memRegs (memRegs.refM (fd z (g 1) z))) fun r => r.1.isNone) = true := by decide +kernel
theorem witness_lineReal : ((memRegs.quietLine (memRegs.refM (fd z (g 2) z))).1.isSome && (memRegs.choose 2).1 == 0 &&
    ({ memRegs with ctl := { memRegs.ctl with choices := [1] } }.choose 2).1 == 1 && ready (.wbk (fd z (g 2) z)) memRegs &&
    okAnd (lineCheck memRegs (memRegs.refM (fd z (g 2) z))) fun r => r.1.isSome && r.2.slot.issued == r.2.slot.drained) = true := by decide +kernel
theorem witness_pads : (padTable.all fun x => (own ++ [fd (g 4) (g 1) (g 5)]).any fun f => ready (x.instr f) memRegs &&
    okAnd (padSpot memRegs (x.ref memRegs f) x.n x.n x.need) fun r => r.1 == memRegs.core) = true := by decide +kernel
theorem witness_padsFar : (let s := farRegs.modThr fun t => { t with roam := false }
    padTable.all fun x => (glob ++ [fd (g 4) (g 2) (g 5)]).any fun f => ready (x.instr f) s && s.thr.pinned && s.slot.ld == 0 &&
    okAnd (padSpot s (x.ref s f) x.n x.n x.need) fun r => r.1 == 1 && !s.behindStore (.bank r.1 s.thr.hold r.2) x.n) = true := by decide +kernel
theorem witness_tswap : ready (.tswap (fd z z z 0 3)) base = true := by decide +kernel
theorem witness_tblld : (let s := memRegs
    let s1 := stOf (exec (.tblld (fd z (g 1) z 0 3)) s)
    ready (.tblld (fd z (g 1) z 0 3)) s && s1.thr.pc == s.thr.pc + 12) = true := by decide +kernel
theorem witness_atomOwn : (atomicTable.all fun x => [fd (g 4) (g 1) (g 6), fd (g 4) (g 1) z].any fun f => ready (x.instr f) memRegs &&
    okAnd (locate1 memRegs kAT (x.n f) (x.n f) { r := true, w := true, a := true } (x.ref memRegs f)) fun r => match r with
      | (.here off acts, _, _, s1) => x.fits s1 (.here off acts) && !s1.unitBad s1.core s1.thr.hold acts
      | _ => false) = true := by decide +kernel
theorem witness_atomFar : (atomicTable.all fun x => [fd (g 4) (g 2) (g 6), fd (g 4) (g 2) z].any fun f => ready (x.instr f) farRegs &&
    okAnd (locate1 farRegs kAT (x.n f) (x.n f) { r := true, w := true, a := true } (x.ref farRegs f)) fun r => match r with
      | (.far core off, _, _, s1) => x.fits s1 (.far core off) && s1.slot.ld == 0 && !s1.behindStore (.bank core s1.thr.hold off) (x.n f)
      | _ => false) = true := by decide +kernel
theorem witness_atomGlobal : (let s := memRegs (paged.rawPut 0 0 8192 0x8000003F)
    atomicTable.all fun x => [fd (g 4) (g 2) (g 6), fd (g 4) (g 2) z].any fun f => ready (x.instr f) s &&
    okAnd (locate1 s kAT (x.n f) (x.n f) { r := true, w := true, a := true } (x.ref s f)) fun r => match r with
      | (.glob parts, _, _, s1) => x.fits s1 (.glob parts) && s1.slot.ld == 0 && okAnd (clearWay s1 parts) fun _ => true
      | _ => false) = true := by decide +kernel
theorem witness_pool : (let f := fd (g 4) (g 2) z
    ready (.pool f) memRegs && okAnd (locate1 memRegs kAT 8 8 { r := true, w := true, a := true } (memRegs.refM f)) fun r => match r with
      | (.glob [(.dev pa leaf, _)], _, _, s1) => s1.poolable (.dev pa leaf) && !s1.behindStore (.dev pa leaf) 8 &&
          ((s1.pools s1.core).find? fun e => e.word = pa / 8).isNone && (s1.pools s1.core).length < 32
      | _ => false) = true := by decide +kernel
theorem witness_poolJoin : (let f := fd (g 4) (g 2) z
    let s := (stOf (exec (.pool f) memRegs)).modThr fun t => { t with pc := 0x2000000000000000 }
    ready (.pool f) s && okAnd (locate1 s kAT 8 8 { r := true, w := true, a := true } (s.refM f)) fun r => match r with
      | (.glob [(.dev pa leaf, _)], _, _, s1) => s1.poolable (.dev pa leaf) &&
          ((s1.pools s1.core).find? fun e => e.word = pa / 8).any fun e => e.off == pa % 8 && e.op == 0 && e.size == 8
      | _ => false) = true := by decide +kernel
theorem witness_poolf : (let f := fd (g 4) (g 1) z 1
    ready (.poolf f) memRegs && okAnd (locate1 memRegs kAT 4 4 { r := true, w := true, a := true } (memRegs.refM f)) fun r => match r with
      | (.here _ acts, _, _, s1) => !s1.unitBad s1.core s1.thr.hold acts
      | _ => false) = true := by decide +kernel
theorem witness_incumbents : (let s := base
    ready (.incld (fd (g 4) (pr 1) z 0 63)) s && ready (.incofr (fd (g 4) (g 1) (g 2))) s && ready (.incset (fd z z z 0 0x100)) s &&
    bit (s.hword s.thr.hold 0x90) 0 && bit (s.hword s.thr.hold 0x90) 63 && s.slot.rels == 0 && s.slot.ld == 0 &&
    s.released s.core s.slotNo 0x8000000000000000 && !s.slot.sent && !s.resetPending 0) = true := by decide +kernel

/-! ### Witnesses: ordering, barriers, queues and mailboxes -/

theorem witness_fences : (let s := memRegs
    ([0x00, 0x08, 0x10] : List (BitVec 8)).all (fun md => ready (.fence (fd z (g 3) z md)) s) && !plotBad (s.g (g 3)) && s.slot.rels == 0 &&
    s.fenced s.core s.slotNo (s.g (g 3)) && decide (s.hi.writes = []) && ready (.waitc (fd z z z 0 15)) s) = true := by decide +kernel
theorem witness_timelines : (let s := regs [0, 0, 0, 0x8000000000000000]
    (match s.timeline s.thr.hold 0 with | .ok t => decide ((s.src (g 2) 0).1.toNat ≤ t.count) | .error _ => false) && ready (.waittl (fd (g 3) (g 1) (g 2))) s &&
    ready (.tlget (fd (g 4) (g 1) z)) s && ready (.tlgetStat (fd (g 4) (g 1) z 0 0 1)) s) = true := by decide +kernel
theorem witness_barriers : (let s := regs [0, 0x4000000000000000, 1]
    ready (.barset (fd z (g 1) (g 2) 0 7)) s && !plotBad (s.g (g 1)) && plotKind (s.g (g 1)) == 1 &&
    decide ((s.g (g 2)).extractLsb' 0 16 &&& ~~~(BitVec.ofNat 16 (s.hslots 0)) = 0) && (s.bar 0 0 7).arrived == 0 &&
    ready (.bararr (fd (g 4) z z 0 7)) s && (s.bar 0 0 7).mask == 0 && ready (.barwt (fd z z z 0 7)) s) = true := by decide +kernel
theorem witness_bararr : (let s := stOf (exec (.barset (fd z (g 1) (g 2) 0 7)) (regs [0, 0x4000000000000000, 1]))
    ready (.bararr (fd (g 4) z z 0 7)) s && (s.bar 0 0 7).mask.getLsbD 0 && !(s.bar 0 0 7).arrived.getLsbD 0 &&
    s.released 0 0 (s.bar 0 0 7).plot) = true := by decide +kernel

/-! ### Witnesses: vectors and tiles -/

/-- The instruction is ready and goes on to the next one: no check of its meaning stops it, and everything that it reads is there. -/
def runs (i : Instr) (s : State) : Bool := ready i s && (thrOf (exec i s)).pc == s.thr.pc + 12

/-- A shape record of one dimension. -/
def shapeRec (efmt base n : Nat) : List Byte := leBytes 8 (efmt * 2 ^ 32 + base) ++ leBytes 8 n ++ leBytes 16 1

/-- Shapes of four elements: floating ones at 0x1000, 0x1020 and 0x1040, integer ones at 0x1060, 0x1080 and 0x10A0, and a floating one of one
element at 0x10C0; g1 to g7 point at them. -/
def vecs : State := regs [0, 0x1000, 0x1020, 0x1040, 0x1060, 0x1080, 0x10A0, 0x10C0, 0x4000]
  (base.winPut 0 0 0x1000 (shapeRec 1 0x4000 4 ++ shapeRec 1 0x4100 4 ++ shapeRec 1 0x4200 4 ++ shapeRec 0xA 0x4300 4 ++ shapeRec 0xA 0x4400 4 ++
    shapeRec 0xA 0x4500 4 ++ shapeRec 1 0x4600 1))

/-- The same once the special function unit has served the VSFN of the slot. -/
def served : State := vecs.modSlot fun v => { v with resume := { served := true } }

theorem witness_vec : (vecTable.all fun x => [fd (g 1) (g 2) (g 3), fd (g 4) (g 5) (g 6), fd (g 1) (g 2) z, fd (g 4) (g 5) z].any fun f =>
    runs (x.instr f) vecs) = true := by decide +kernel
theorem witness_vecUnary : (runs (.vcvt (fd (g 4) (g 2) z)) vecs && runs (.vred (fd (g 7) (g 2) z)) vecs && runs (.vscan (fd (g 1) (g 2) z)) vecs &&
    runs (.vcopy (fd (g 1) (g 2) z)) vecs && runs (.vsfn (fd (g 1) (g 2) z)) served) = true := by decide +kernel
theorem witness_vecSelect : (runs (.vcmp (fd (g 4) (g 1) (g 2))) vecs && runs (.vsel (fd (g 1) (g 2) (g 3) 0 4)) vecs &&
    runs (.vfill (fd (g 1) (g 8) z)) vecs && runs (.vfill (fd (g 1) i0 z 0 0x3F800000)) vecs) = true := by decide +kernel
theorem witness_gather : (runs (.vgath (fd (g 1) (g 8) (g 6))) vecs && runs (.vscat (fd (g 8) (g 1) (g 6))) vecs) = true := by decide +kernel
theorem witness_sfn : (ready (.sfn (fd (g 4) (g 1) z 0x10)) base && base.slot.ld == 0 && decide (base.sfuQ 0 = []) &&
    ((stOf (exec (.sfn (fd (g 4) (g 1) z 0x10)) base)).sfuQ 0).length == 1 && ready (.vsfn (fd (g 1) (g 2) z)) vecs && !vecs.slot.resume.served &&
    ((stOf (exec (.vsfn (fd (g 1) (g 2) z)) vecs)).sfuQ 0).any (·.vec)) = true := by decide +kernel

/-- A sealed header of a 4 by 4 tile of BF16 numbers, and of one of E4M3 numbers. -/
def head16 : List Byte := sealHdr (({ efmt := 2, n := 4, c := 4, dlen := 2 } : Hdr).pack)
def head8 : List Byte := sealHdr (({ efmt := 4, n := 4, c := 4, dlen := 1 } : Hdr).pack)
/-- The entries of tile register `t` when it holds a header and zeros. -/
def heldTile (t : Nat) (h : List Byte) : Tab Byte := (((List.range 16).zip h).filter fun p => p.2 ≠ 0).map fun p => (t * 4112 + p.1, p.2)
/-- Tile registers 1 to 3 hold tiles of zeros, memory at 0x2000 one, and g1 points at it; g4 and g5 hold its header. -/
def tiles : State :=
  let s := regs [0, 0x2000, 0, 0, wordLe head16, wordLe (head16.drop 8)] (base.winPut 0 0 0x2000 head16)
  { s with co := { s.co with treg := heldTile 1 head16 ++ heldTile 2 head16 ++ heldTile 3 head8 } }

theorem witness_tileRegisters : (runs (.tld (fd (tr 4) (g 1) z)) tiles && runs (.tst (fd (tr 1) (g 1) z)) tiles && runs (.thdr (fd (g 6) (tr 1) z)) tiles &&
    runs (.thset (fd (tr 1) (g 4) z)) tiles && runs (.tchk (fd (g 6) (tr 1) z)) tiles && runs (.tzero (fd (tr 1) (g 4) z)) tiles &&
    runs (.tzero (fd (tr 1) z z)) tiles) = true := by decide +kernel
theorem witness_tileConversion : (runs (.tcvt (fd (tr 4) (tr 1) z 0x10)) tiles && runs (.ttrn (fd (tr 4) (tr 1) z 0 1)) tiles &&
    runs (.ttrn (fd (tr 4) (tr 1) z 0 0)) tiles) = true := by decide +kernel
theorem witness_tileQuantisation : (runs (.tqnt (fd (tr 4) (tr 1) z 0x80 0x11)) tiles && runs (.tenc (fd (tr 4) (tr 3) z 0 0x21)) tiles) = true := by
  decide +kernel
/-- The same tile of E4M3 zeros coded with EXPC, in tile register 4. -/
def coded : State :=
  let h := sealHdr (({ efmt := 4, enc := 2, n := 4, c := 4, dlen := 1 } : Hdr).pack) ++ expcEncode (List.replicate 16 0)
  { tiles with co := { tiles.co with treg := (((List.range h.length).zip h).filter fun p => p.2 ≠ 0).map fun p => (4 * 4112 + p.1, p.2) } }

theorem witness_tileDecode : runs (.tenc (fd (tr 5) (tr 4) z 0 0x61)) coded = true := by decide +kernel
theorem witness_tileArithmetic : (runs (.tadd (fd (tr 4) (tr 1) (tr 2))) tiles && runs (.tmul (fd (tr 4) (tr 1) (tr 2))) tiles &&
    runs (.tfma (fd (tr 4) (tr 1) (tr 2) 0 1)) tiles && runs (.tmax (fd (tr 4) (tr 1) (tr 2))) tiles) = true := by decide +kernel

/-! ### Witnesses: barrier objects, queues and mailboxes -/

/-- g1 points at a barrier object at 0x800 of the own bank that expects one arrival; g2 is a plot, g3 an initial value. -/
def objs : State := regs [0, 0x800, 0x4000000000000000, 0x50001, 0, 0x40]
  (base.winPut 0 0 0x800 (BarObj.bytes ⟨5, 1, 0, 0, 0, 1, 0⟩))

theorem witness_barrierObjects : (ready (.boinit (fd (g 3) (g 1) z)) objs && ready (.boarr (fd (g 4) (g 1) (g 2))) objs &&
    ready (.boexp (fd (g 5) (g 1) z)) objs && ready (.bowt (fd (g 4) (g 1) (g 2))) objs && !plotBad (objs.g (g 2)) &&
    okAnd (objOff objs (objs.refM (fd (g 3) (g 1) z))) (fun off => off == 0x800 && !objs.winBad 0 0 off) &&
    okAnd (objOff objs (objs.refP (fd (g 4) (g 1) (g 2)))) (fun off => off == 0x800) && objs.released 0 0 (objs.g (g 2)) &&
    decide ((objs.barObj 0 0 0x800).gen ≠ (objs.g (g 4)).extractLsb' 0 4) && objs.slot.rels == 0) = true := by decide +kernel
theorem witness_phaseTest : (let o : BarObj := ⟨5, 0, 0, 0, 0, 1, 0⟩
    o.arr == 0 && o.inb == 0 && o.outb == 0 && (⟨5, 1, 0, 0, 0, 1, 0⟩ : BarObj).arr != 0) = true := by decide +kernel
theorem witness_barrierMessages : (let s := stOf (exec (.barset (fd z (g 1) (g 2) 0 7)) (regs [0, 0x4000000000000000, 1]))
    let b := s.bar 0 0 7
    let m : BarMsg := ⟨0, 0, 7, b.plot, b.mask, false, false⟩
    let s1 := { s with co := { s.co with barMsg := [m, { m with release := true }] } }
    decide (s1.co.barMsg[s1.ctl.here.pos]? = some m) && b.mask != 0 &&
    decide ((s1.at_ ⟨0, 0, 1⟩).co.barMsg[1]? = some { m with release := true })) = true := by decide +kernel

/-- g1 points at the header of a memory queue of four entries with one entry, g3 holds a value to push. -/
def queues : State := regs [0, p1 0x40000, 0, 7]
  (((((paged.rawPut 0 0 8192 0x8000003F).rawPut 0 0 0x40000 0x50000).rawPut 0 0 0x40008 3).rawPut 0 0 0x40010 0).rawPut 0 0 0x40018 1)
/-- The same after the push has been sent. -/
def pushed : State := stOf (exec (.qpush (fd (g 3) (g 1) z)) queues)
/-- The same after a pop has been sent and has taken the entry, which slot 0 of core 0 pushed. -/
def popped : State :=
  let s := stOf (exec (.qpop (fd (g 4) (g 1) z)) queues)
  { s with sc := { s.sc with qreqs := s.sc.qreqs.map fun (q : QReq) => { q with taken := some (7, 0, 0) } } }

theorem witness_queueSend : (queueTable.all fun p => [fd (g 3) (g 1) z].any fun f => ready (p.1 f) queues && !queues.slot.sent &&
    okAnd (reachM queues queues.who (queues.refM f) 64 64 { r := true, w := true, a := true }) fun at_ => match at_ with
      | .mva a => okAnd (transParts queues 0 0 a 64 { r := true, w := true, a := true } (queues.refM f).word) fun r => match r with
        | ([(.dev pa leaf, m)], s1) => (roams s1 [(.dev pa leaf, m)]).isNone
        | _ => false
      | _ => false) = true := by decide +kernel
theorem witness_queuePush : (match pushed.sc.qreqs[pushed.ctl.here.pos]? with
    | some q => q.taken.isNone && q.push && (match q.dst with | .reg _ => true | _ => false) && (match q.hdrAt with
      | .dev pa leaf =>
        let who : Req := .queue q.core q.slot
        let r := (pushed.hdmGate (some who) pa 64 true q.hold 0).2.homeBytes (atHome leaf q.hold 0 (BitVec.ofNat 64 q.hdr)) pa 64
        (pushed.keyMat leaf.key).isSome && (pushed.hdmGate (some who) pa 64 true q.hold 0).1 && !r.2.1 && (match qHdrOf r.1 with
        | some h => decide ((h.tail - h.head).toNat ≤ h.capm1) && (r.2.2.walksOpen ⟨who, q.hold, 0⟩ h.pages).1 && !r.2.2.ringBad q.hold h &&
          (match r.2.2.translate ⟨who, q.hold, 0⟩ (clusterOf q.core) (h.rbase + 32 * (h.tail.toNat % (h.capm1 + 1))) { r := true, w := true } with
            | (.ok (.dev ea _), s3) => (s3.hdmGate (some who) ea 32 true q.hold 0).1
            | _ => false)
        | none => false)
      | _ => false)
    | none => false) = true := by decide +kernel
theorem witness_queueLand : ((popped.sc.qreqs[popped.ctl.here.pos]?).any fun q =>
    q.taken == some (7, 0, 0) && decide (0 ≤ (Tab.get {} popped.co.slots 0).drained)) = true := by decide +kernel
theorem witness_mailboxes : (ready (.mbput (fd z (g 8) z 0 5)) base && !Tab.get false (base.hcAt 0 0).mbFull 5 && base.mboxTurn 10 &&
    base.released 0 0 0x8000000000000000 &&
    (let s := (stOf (exec (.mbput (fd z (g 8) z 0 5)) base)).modThr fun t => { t with pc := 0x2000000000000000 }
     ready (.mbtake (fd (g 8) z z 0 5)) s && Tab.get false (s.hcAt 0 0).mbFull 5 && s.mboxTurn 11 && s.slot.rels == 0)) = true := by
  decide +kernel

/-! ### Witnesses: matrix records and copies -/

/-- Partition 0 is the holding's and has an owner; g1 is the word of matrix context 0 of cluster 0, g2 points at a ZERO record, g6 at 4 KiB
of the own bank; g8 names no owner. -/
def matrix : State := regs [0, 0x40000000, 0x100, 0, 0, 0, 0x1000, 0, 0x100000000]
  ((paged.winPut 0 0 0x104 [1]).setOwner 0 0 ⟨0, false, 0⟩)

theorem witness_matrixAppend : (runs (.mxa (fd (g 4) (g 1) (g 2))) matrix && runs (.mxb (fd (g 4) (g 1) z 0 0x1000000)) matrix &&
    (matrix.ownerAt 0 0).none == false && bit (matrix.haparts 0) 0 && bit (matrix.hmctx 0) 0) = true := by decide +kernel
theorem witness_partitions : (runs (.mxown (fd z (g 5) (g 8))) matrix && runs (.mxspill (fd (g 10) (g 6) (g 5))) matrix &&
    runs (.mxfill (fd (g 10) (g 6) (g 5))) matrix && bit (matrix.haparts 0) 0 && !matrix.partPending 0 0 && !matrix.partHeld 0 0) = true := by
  decide +kernel

/-- The root thread stands in its movement slot; g1 and g2 point at 0x1000 and 0x2000 of the own bank, g3 holds a length, g4 points at a shape of four
bytes, g5 names the tensor 1, g6 an origin, g7 points at a gather record of no rows, and g8 at a shape of four indices. -/
def copies : State :=
  let s := paged.modHold 0 fun h => { h with words := Tab.set 0 h.words 0x98 0x100000 }
  let s := regs [0, 0x1000, 0x2000, 64, 0x3000, 1, 0, 0x3400, 0x3200] s
  let s := (s.winPut 0 0 0x3000 (shapeRec 9 0 4 ++ List.replicate 480 0 ++ shapeRec 0xA 0x3300 4)).winPut 0 0 0x3400 (leBytes 24 0 ++ leBytes 8 1 ++ leBytes 8 9)
  (((((s.rawPut 0 0 0x100080 0x8000000000200000).rawPut 0 0 0x100088 0x0001000100080008).rawPut 0 0 0x100090 0x1000000002).rawPut 0 0 0x1000C0
    (wordLe head16)).rawPut 0 0 0x1000C8 (wordLe (head16.drop 8)))

theorem witness_copyLinear : (runs (.cpy (fd (g 1) (g 2) (g 3))) copies && runs (.cpys (fd (g 1) (g 2) (g 4))) copies &&
    runs (.cpys (fd (g 1) (g 2) (g 4) 0 0x100000)) copies && runs (.cpym (fd (g 1) (g 2) (g 3) 0 0x100000)) copies) = true := by decide +kernel
/-- The same after the entry of the tensor 1 has been read. -/
def tensor : State := copies.modSlot fun v => { v with resume := { unit := 1, data := [leBytes 8 0x8000000000200000 ++ leBytes 8 0x0001000100080008 ++
  leBytes 8 0x1000000002 ++ leBytes 40 0 ++ head16 ++ leBytes 48 0] } }
theorem witness_copyIndexed : (runs (.cpyt (fd (g 1) (g 5) (g 6))) tensor && okAnd (tableEntry tensor 0x100080) (fun r => (Tensor.ofBytes r.1).isSome) && runs (.cpyg (fd z (g 7) z)) copies &&
    runs (.cpyx (fd (g 1) (g 2) (g 8))) copies && runs (.cpya (fd (g 1) (g 2) (g 8))) copies) = true := by decide +kernel

/-! ### Witnesses: launches, threads and holdings -/

/-- g1 names the region at 0x200000, whose parent is the holding, with four frames and a grid of one tile; g2 names core 0. -/
def regions : State := regs [0, 0x200000, 0]
  (((((paged.rawPut 0 0 0x200000 3).rawPut 0 0 0x200008 1).rawPut 0 0 0x200028 0x300000).rawPut 0 0 0x200030 4).rawPut 0 0 0x200058 0x000100010001)
/-- The same with the region launched. -/
def launched : State := (stOf (exec (.spawn (fd (g 4) (g 1) z)) regions)).modThr fun t => { t with pc := 0x2000000000000000 }

theorem witness_spawn : (runs (.spawn (fd (g 4) (g 1) z)) regions && (match lookRegion regions 0x200000 with
    | .ok l => (regions.launchCheck 0 0x200000 l.1 0).1 == 0 && (launched.launchCheck 0 0x200000 l.1 0).1 == 1
    | _ => false) && regions.released 0 0 (BitVec.ofNat 64 (regions.eff 0 0x200000 0x10)) && runs (.spawn (fd (g 4) (g 1) z)) launched &&
    runs (.spawn (fd (g 4) (g 2) z)) (regs [0, 0, 1])) = true := by decide +kernel
/-- g5 points at a task record that names the region. -/
def tasks (s : State) : State := regs [0, 0x200000, 0, 0, 0, 0x100] (s.winPut 0 0 0x110 (leBytes 8 0x200000))

theorem witness_spawnb : ([(tasks launched, 0), (tasks regions, 2)].all fun (s, c) => ready (.spawnb (fd (g 4) (g 5) z)) s &&
    okAnd (unitRd kLD { r := true } s (refOf (s.g (g 5)) 0) 64 64) fun r => okAnd (lookRegion r.2 0x200000) fun l =>
      (r.2.markFrz 0 0x200000).spawnbCode 0 0x200000 r.1 l.1 == c && recordRgn r.1 0 == 0x200000) = true := by decide +kernel
theorem witness_wake : ([(launched, 0), (regions, 2)].all fun (s, c) => ready (.wake (fd (g 4) (g 1) (g 2))) s &&
    okAnd (lookRegion s 0x200000) fun l => (s.markFrz 0 0x200000).wakeCode 0 0x200000 0 l.1 == c) = true := by decide +kernel

/-- Cell 0 is set everywhere with the value 7, smaller is better, and the thread is one that a launch made. -/
def bounded : State :=
  { regions.modThr fun t => { t with root := false, rgn := 0x200000, bnd := true, bound := 9 } with
    sc := { regions.sc with cells := [(0, { set := true, value := 7 })], replicas := [(0, { set := true, value := 7 })] } }

theorem witness_bound : (runs (.bound (fd z (g 1) z)) base && runs (.kpoint (fd z z z)) base && ready (.kpoint (fd z z z)) bounded &&
    !bounded.thr.s && !bounded.thr.h &&
    bounded.doomed bounded.thr.hold bounded.thr.rgn bounded.thr.bnd bounded.thr.bound 0) = true := by decide +kernel
theorem witness_roamMigr : (ready (.roam (fd (g 1) z z 0 1)) base && ready (.migr (fd z (g 1) z)) base && (base.hplot 0).covers 0 &&
    base.thr.stkc == 0 && base.thr.root && !user.thr.root && ready (.migr (fd z (g 1) z)) user) = true := by decide +kernel
theorem witness_spillIdle : (let sent := base.modSlot fun v => { v with sent := true }
    ready (.spill (fd z i0 z 0 3)) base && !base.slot.sent && decide (base.ownerNow 0 3 = some 0) && (base.slotAt 0 3).thr.isNone &&
    ready (.spill (fd z i0 z 0 3)) sent && sent.slot.sent && decide ((sent.slotAt 0 3).leave = .stay) &&
    ready (.idle (fd z (g 1) z)) sent && !sent.slot.idling) = true := by decide +kernel
theorem witness_resto : (let s := regs [0, 0, 0x300000] (base.modHold 0 fun h => { h with words := Tab.set 0 (Tab.set 0 h.words 0x28 0x300000) 0x30 4 })
    ready (.resto (fd z (g 1) z)) s && decide ((s.timeline 0 0).toOption.isSome = true) && ready (.restoFrame (fd z (g 2) z 0 1)) s && s.inPool 0 0x300000) = true := by decide +kernel

/-- A parameter block with banks, slots and MOVS, matrix, copy and queue shares, keys and rates, slice and cells. -/
def block (pa : Nat) (w18 w20 w48 w50 w90 : Word) (s : State) : State :=
  (((((s.rawPut 0 0 (pa + 0x10) 0x3F7F0000).rawPut 0 0 (pa + 0x18) w18).rawPut 0 0 (pa + 0x20) w20).rawPut 0 0 (pa + 0x48) w48).rawPut 0 0 (pa + 0x50) w50).rawPut 0 0
    (pa + 0x90) w90
/-- Holding 0 has half of everything; at 0x400000 stands a block with the other half, at 0x400100 one that shares its slots, and at 0x400200
its own block; g1, g2 and g3 name these blocks, g4 the holding 1 and g5 the holding 0. -/
def halves : State :=
  let s := base.modHold 0 fun h => { h with words := [(0x10, 0x3F7F0000), (0x18, 0xFFFF000000FF), (0x20, 0x333000FF), (0x48, 0x80010800F00),
    (0x50, 0x1000), (0x90, 0xFFFFFFFF)] }
  regs [0, 0x400000, 0x400100, 0x400200, 1, 0]
    (block 0x400000 0xFFFF00000008FF00 0xCCCFFF00 0x80020801F10 0 0
      (block 0x400100 0xFFFF0000000000FF 0xCCCFFF00 0x80020801F10 0x1000 0
        (block 0x400200 0xFFFF000000FF 0x333000FF 0x80010800F00 0x1000 0xFFFFFFFF s)))
/-- The same with holding 1 created. -/
def both : State := (stOf (exec (.rgnopCreate (fd (g 6) (g 1) (g 4))) halves)).modThr fun t => { t with pc := 0x2000000000000000 }

/-- An RGNOP on a holding that has no other operation may go on at once. -/
def free (s : State) (h : Nat) : Bool := s.released 0 0 0x8000000000000000 && (s.busyWith h).isNone

theorem witness_create : (ready (.rgnopCreate (fd (g 6) (g 1) (g 4))) halves && free halves 1 && !halves.live 1 &&
    blockOk (halves.blockAt 0x400000) false && !halves.conflict 1 (halves.blockAt 0x400000) false &&
    !(halves.createDo 1 0x400000 (halves.blockAt 0x400000) .active).cellsPending 0) = true := by decide +kernel
theorem witness_slice : (ready (.rgnopSlice (fd (g 6) (g 2) (g 4) 0 0 5)) halves && free halves 1 && !halves.live 1 &&
    blockOk (halves.blockAt 0x400100) true && !placeDiffers (halves.blockAt 0x400100) (halves.hold 0).words &&
    decide (4096 ≤ bits (halves.hword 0 0x50) 31 0) && !halves.conflict 1 (halves.blockAt 0x400100) true &&
    !(halves.createDo 1 0x400100 (halves.blockAt 0x400100) .sliced).cellsPending 0) = true := by decide +kernel
theorem witness_resize : (let w := keepWords (halves.hold 0).words (halves.blockAt 0x400200)
    ready (.rgnopResize (fd (g 6) (g 3) (g 5) 0 0 1)) halves && free halves 0 && decide ((halves.hold 0).st = .active) &&
    halves.resizeCode 0 (halves.blockAt 0x400200) w == 0 && decide (halves.resizeSpills 0 w = []) &&
    !(halves.resizeDo 0 0x400200 w).cellsPending (minus (halves.hword 0 0x90) (wordIn w 0x90))) = true := by decide +kernel
theorem witness_freeze : (let s1 := ((both.modHold 1 fun v => { v with st := .frozen, prev := v.st }).beginEnd 1).writeFrz 1
    ready (.rgnopFreeze (fd (g 6) (g 1) (g 4) 0 0 2)) both && free both 1 && decide ((both.hold 1).st = .active) && !(both.ringed) &&
    decide (s1.slotsOf 1 = []) && s1.enginesIdle 1) = true := by decide +kernel
theorem witness_thaw : (let s := both.modHold 1 fun v => { v with st := .frozen, prev := .active }
    ready (.rgnopThaw (fd (g 6) (g 1) (g 4) 0 0 3)) s && free s 1 && s.frozen 1) = true := by decide +kernel
theorem witness_destroy : (ready (.rgnopDestroy (fd (g 6) (g 1) (g 4) 0 0 4)) both && free both 1 && both.live 1 && decide (both.slotsOf 1 = []) &&
    !((both.wipe 1).unmake 1).cellsPending (both.hword 1 0x90)) = true := by decide +kernel
theorem witness_keys : (ready (.keyset (fd z (g 1) (g 4))) halves && ready (.keysetClear (fd z z (g 4) 0 1)) halves && free halves 0 &&
    ready (.tlbinv (fd z (g 1) z)) halves && ready (.tlbinv (fd z z z 0 1)) halves && halves.thr.root && !(halves.tlbDrop fun t => t.hold = 0).accessOpen 0) = true := by decide +kernel
theorem witness_rotas : (let s := regs [0, 0x400300, 0x10001, 0xC000000000000000] halves
    ready (.rota (fd z (g 2) (g 1))) s && rotaOf 0x10001 == some (.mesh 1 1) && ready (.rotaCtl (fd z (g 2) (g 1) 0 1)) s &&
    ready (.rotaCtl (fd z (g 3) (g 1) 0 1)) s && rotaOf 0xC000000000000000 == some .master &&
    ((s.rootBytes 0x400300 64).map (· &&& 0xBF)).all fun e => (entryOwner e).all fun h => s.live h) = true := by decide +kernel

/-- The MVA 0x1000000000 is mapped by a leaf of a 64 KiB page at frame 0x30; g1 holds it, g2 a commit of version 0 of slot 0, g3 the frame 0x31. -/
def moves : State := regs [0, 0x1000000000, 0, 0x31]
  (((paged.rawPut 0 0 0x2008 0x4001).rawPut 0 0 0x4000 0x6001).rawPut 0 0 0x6000 0xC08000001F)
/-- The same with the page armed. -/
def armed : State := (stOf (exec (.pgverArm (fd (g 4) (g 1) z)) moves)).modThr fun t => { t with pc := 0x2000000000000000 }

theorem witness_arm : (ready (.pgverArm (fd (g 4) (g 1) z)) moves && (match moves.walkFrom 0x1000000000 4 3 (moves.hword 0 0x40) with
    | .ok (0, _, e) => moves.leafOk 0 0 0x1000000000 {} e && bits e.toNat 29 28 == 0 && !moves.inHdm (bits e.toNat 63 34 * 65536) &&
        !moves.armed (bits e.toNat 63 34 * 65536)
    | _ => false) && (moves.freeMove 0).isSome) = true := by decide +kernel
theorem witness_commit : (ready (.pgverRead (fd (g 4) (g 2) (g 2) 0 1)) armed && ready (.pgverCommit (fd (g 4) (g 2) (g 3) 0 2)) armed &&
    ready (.pgverFree (fd (g 4) (g 2) (g 2) 0 3)) armed && ready (.pgverCommit (fd (g 4) (g 2) (g 3) 0 2)) moves && (moves.move 0 0).isNone &&
    (armed.move 0 0).any fun m => m.version == 0 && armed.rawWord m.leafAt == m.leaf) = true := by decide +kernel

/-! ### Witnesses: power, signals, the start and the host -/

/-- A step has a next state. -/
def goes (i : Instr) (s : State) : Bool :=
  match exec i s with
  | .next _ => true
  | _ => false
/-- Reset with another power unit. -/
def pw (g : Power → Power) : State := { State.reset with pw := g State.reset.pw }
/-- Reset with the start at a step. -/
def startAt (n : Nat) : State := { State.reset with st := { step := n } }

theorem witness_signals : (goes .vauxPresent (pw fun p => { p with vaux := false, mode := .off, seq := .idle, rails := 0, pgood := false }) &&
    goes .vauxAbsent State.reset && goes .pwrEnHigh (pw fun p => { p with pwrEn := false }) && goes .pwrEnLow State.reset &&
    goes .modRstFall State.reset && goes (.modRstRise 5 1 true) (pw fun p => { p with modRst := false }) && State.reset.pw.vaux &&
    State.reset.pw.pwrEn && State.reset.pw.modRst) = true := by decide +kernel
theorem witness_rails : (let rising := fun n => pw fun p => { p with seq := .rising, rails := n, pgood := false }
    goes (.ranborBoot true) (pw fun p => { p with seq := .boot }) && goes (.ranborBoot false) (pw fun p => { p with seq := .boot }) &&
    goes .railWithinTolerance (rising 0) && goes .railWithinTolerance (rising 2) && goes .railWithinTolerance (rising 3) &&
    goes .railFault ((rising 3).at_ ⟨0, 3, 0⟩) && goes .railFault (State.reset.at_ ⟨0, 3, 0⟩) && goes .perstAssert State.reset &&
    goes .perstAssert (State.reset.at_ ⟨1, 0, 0⟩) && goes .perstDeassert (pw fun p => { p with perstA := false }) &&
    goes .perstDeassert ((pw fun p => { p with perstB := false }).at_ ⟨1, 0, 0⟩) && portMode 16 640 && State.reset.hi.upA.isNone &&
    goes (.hostPortLinkUp 16 640) (startAt 5) && goes (.hostPortLinkUp 16 640) ((startAt 5).at_ ⟨1, 0, 0⟩)) = true := by decide +kernel
theorem witness_measurements : (let run := fun c b h => pw fun p => { p with mode := if c = 850 then .run else .cap, clock := c, below := b, hot := h }
    goes (.powerMeasurement 10001) (run 400 0 false) && goes (.powerMeasurement 10001) (run 850 0 false) &&
    goes (.powerMeasurement 9500) (run 850 0 false) && goes (.powerMeasurement 9499) (run 850 8 false) &&
    goes (.powerMeasurement 9499) (run 800 9 true) && goes (.powerMeasurement 9499) (run 800 9 false) &&
    goes (.temperatureMeasurement 105) (run 850 0 false) && goes (.temperatureMeasurement 95) (run 850 0 false) &&
    goes (.temperatureMeasurement 94) (run 850 0 true)) = true ∧ PowerOk (pw fun p => { p with mode := .cap, clock := 400 }).pw := by
  constructor
  · decide +kernel
  · unfold PowerOk; decide
theorem witness_start : (State.reset.atStep 1 && goes (.pllLock false) (startAt 1) && goes (.pllLock true) (startAt 1) && goes (.bridgeTraining false) (startAt 2) &&
    goes (.bridgeTraining true) (startAt 2) && goes (.dramTraining false) (startAt 3) && goes (.dramTraining true) (startAt 3) && goes (.fullScrub false) (startAt 4) &&
    goes (.fullScrub true) (startAt 4) && goes (.phyEqualisation [(47, .up8, 1), (0, .failed, 0)]) (startAt 5) && goes (.firmwareVerification true true 3 3) (startAt 6) &&
    goes (.firmwareVerification true true 2 3) (startAt 6) && goes (.firmwareVerification false true 3 3) (startAt 6) &&
    goes (.firmwareVerification true false 3 3) (startAt 6) && goes (.fwgo 64) (startAt 6) &&
    goes .fwgoTimeout { startAt 6 with st := { step := 6, waiting := true } } && (startAt 7).atStep 7 && (startAt 8).atStep 8 &&
    goes (.capabilityTableBuild false) (startAt 8) && goes .startWarm State.reset && goes .startCold State.reset) = true := by decide +kernel

theorem witness_registers : (accessOk 8 8 && !accessOk 4 8 && (both.winA 1 0x200).isSome && goes (.registerWrite (.winA 1 0x200) 8 0) both &&
    goes (.registerWrite (.winA 1 0x204) 8 0) both && goes (.registerWrite (.winB 0 0x8) 8 0) both && goes (.registerWrite .powerLimit 8 4000) both &&
    goes (.registerWrite .powerLimit 8 3999) both && goes (.registerWrite (.routeMask 7) 8 1) both &&
    goes (.registerWrite (.peerGrant 7 63 true 63 0 0xFFFF true true true) 8 0) both && goes (.registerWrite (.linkCounters 47) 8 0) both &&
    goes (.hostRegisterRead false 0x10 8) both && goes (.hostRegisterRead true 0x8 8) both && goes (.hostRegisterRead true 0x4 8) both &&
    goes (.configSpaceWrite .atsEnable true) (both.at_ ⟨1, 63, 0⟩) && goes (.configSpaceWrite .priEnable true) (both.at_ ⟨1, 63, 0⟩) &&
    goes (.configSpaceWrite .atomicEnable true) (both.at_ ⟨1, 63, 0⟩) && goes (.configSpaceWrite (.priAllocation 513) true) (both.at_ ⟨1, 63, 0⟩) &&
    goes (.hdmRegionWrite 0x40001) both && goes (.pageRequestQuarantineClear 1) both) = true := by decide +kernel

/-- A state with another host interface. -/
def host (g : HostIf → HostIf) (s : State := both) : State := { s with hi := g s.hi }
/-- Holding 0 has a segment table in which segment 1 maps the first 256 MiB. -/
def windowM : State :=
  ((paged.modHold 0 fun h => { h with words := Tab.set 0 h.words 0x38 0x40000 }).rawPut 0 0 0x40000 0).rawPut 0 0 0x40008 0xF00000000FFFFFFF
/-- A page request of function 1. -/
def request : PageReq := ⟨1, 0, 5, false, [], false⟩

theorem witness_windowM : (goes (.windowMAccess 0 0 (some [1, 2])) { both with st := { waiting := true }, pw := { both.pw with strapBoot := 1 } } &&
    (windowM.windowMva 0 0 0xFFFFFFE 2).1.toOption == some 0xFFFFFFE && goes (.windowMAccess 0xFFFFFFE 2 (some [1, 2])) windowM &&
    decide (((windowM.nextNum 0).2.agentWrite 0 0 0 0xFFFFFFE [1, 2] false).1 = .done) && !windowM.behindWrite 0 0 && windowM.cplRoom 0 0 2 &&
    (match (windowM.agentRead 0 0 0xFFFFFFE 2).1 with | .data _ _ => true | _ => false)) = true := by decide +kernel
theorem witness_pageRequests : (let s := (host fun x => { x with pageReqs := [request] }).at_ ⟨1, 0, 0⟩
    decide (s.pageReq = some request) && goes .priSuccess s && goes .priInvalidRequest s && goes .priResponseFailure s &&
    goes (.atsInvalidateRequest 5 1) s) = true := by decide +kernel
theorem witness_functions : (let s := both.at_ ⟨1, 0, 0⟩
    let s1 := s.modHold 1 fun v => { v with reset := 1 }
    let s3 := (both.modHold 1 fun v => { v with reset := 3 }).at_ ⟨0, 1, 0⟩
    let v := host fun x => { x with vfA := true, vfB := true }
    s.live 1 && (s.hold 1).reset == 0 && goes .functionLevelReset s && decide (s1.slotsOf 1 = []) && goes .functionLevelReset s1 &&
    goes .vfEnableClear s3 && goes .vfEnableClear v && goes .vfEnableClear (v.at_ ⟨1, 0, 0⟩) && goes (.configSpaceWrite .vfEnable false) v &&
    goes (.hostCompletion .unsupported []) (host fun x => { x with reqs := [⟨1, 0, 1, .chain 1, none⟩] }) && goes (.spdmRequest 0x84) v &&
    goes (.spdmRequest 0) (v.at_ ⟨1, 0, 0⟩)) = true := by decide +kernel

/-- The chain of a function, at the place of its record 1. -/
def chain (c : Chain) (fn : Nat := 1) (s : State := both) : State := (s.modChain fn fun _ => c).at_ ⟨fn, 0, 1⟩
/-- A record of a type with its words 2 to 5. -/
def rec1 (type : Nat) (flags : BitVec 8) (a b c : Word := 0) : Rec := { num := 1, type := type, flags := flags, body := [0, 0, a, b, c, 0, 0, 0], ptr := 0 }
/-- A running chain with one record. -/
def with1 (r : Rec) : Chain := { run := true, ctail := 5, recs := [r] }

theorem witness_chainRegisters : (goes (.ctailWrite 4) (chain { ctail := 5 }) && goes (.ctailWrite 5) (chain { ctail := 5 }) &&
    goes (.cheadWrite 64) (chain { run := true }) && goes (.cheadWrite 64) (chain {}) && goes .go (chain {}) && goes .go (chain { run := true })) = true := by
  decide +kernel
theorem witness_fetch : (goes .recordFetch (chain { run := true, ctail := 5, chead := 0x42 }) && goes .recordFetch (chain { run := true, ctail := 5, chead := 0x40 }) &&
    goes .recordFetch (chain { run := true, ctail := 5, chead := 0x40, got := some (some (List.replicate 64 0)) }) &&
    goes .recordFetch (chain { run := true, ctail := 5, chead := 0x41, facc := 4 } 0 (paged.tokenWindow 0)) && ptrBad 0x42 0 && !ptrBad 0x40 0 && ptrBad 0x41 0 &&
    (match ((paged.tokenWindow 0).agentRead (chainPort 0) 0 0x40 64).1 with | .data _ b => !b | _ => false)) = true := by decide +kernel
theorem witness_records : (goes .feature (chain (with1 (rec1 5 0 7))) && goes .feature (chain { with1 (rec1 5 0 7) with first := false }) &&
    goes .signal (chain (with1 (rec1 3 0 1))) && goes .signal (chain (with1 (rec1 3 0 8))) && goes .copyh (chain (with1 (rec1 2 0 0 0 64))) &&
    goes .copyh (chain (with1 { rec1 2 0 0 0 64 with acted := true })) &&
    goes .copyh (chain (with1 { rec1 2 0 0 0 64 with acted := true, buf := some ([1], false) })) && goes .resync (chain (with1 (rec1 4 0 0 8))) &&
    goes .recordComplete (chain (with1 { rec1 5 0 with acted := true })) &&
    goes .recordComplete (chain { with1 { rec1 3 2 with acted := true } with facc := 3, tlmir := 8 }) &&
    goes .mirrorWrite (chain { mirror := some 1, tlmir := 8 }) && ((chain (with1 (rec1 3 0 8))).spaceOk 1 0 8 8 { w := true }).1 == .done &&
    (chain (with1 { rec1 5 0 with acted := true })).recordOver 1 { rec1 5 0 with acted := true }) = true := by decide +kernel
theorem witness_launch : (let c := chain (with1 (rec1 1 0 0x200000)) 0 regions
    (c.startable 1).isSome && !c.chainWrites 0 (· < 1) && c.live 0 && (match c.lookChain 0 15 0x200000 with
      | .ok x => ((c.markFrz 0 0x200000).launchCheck 0 0x200000 (.ok x) 0).1 == 0
      | _ => false)) = true := by decide +kernel

/-- Port A runs CXL, and the first 256 MiB of device memory are HDM-DB. -/
def cxl (g : HostIf → HostIf := id) : State :=
  { host (fun x => g { x with upA := some (16, 640), hdm := 0x40001 }) with pw := { both.pw with strapCxl := true } }

theorem witness_coherence : (cxl.cxlOk 0 && goes (.cxlMemrd .shared) cxl && goes (.cxlMemwr .invalid (List.replicate 64 (some 1))) cxl &&
    goes (.birsp true none) (cxl fun x => { x with snoops := [⟨0, false, false, 0, 1, false⟩] }) &&
    goes .biconflict (cxl fun x => { x with snoops := [⟨0, false, false, 0, 1, false⟩] }) &&
    goes .bisnpTimeout (cxl fun x => { x with snoops := [⟨0, false, false, 0, 1, false⟩] }) && decide (cxl.mm.portq = []) &&
    goes .hostWrite (host (fun x => { x with writes := [⟨0, 0, 0, .dev 0 ⟨0, 0, 0, 0, none⟩, [some 1], false, false⟩] }) (both.tokenWindow 0)) &&
    ((both.tokenWindow 0).token 0 0).isSome && cxl.cxlUp && goes (.hostSnoop true) cxl && goes (.hostSnoop false) (cxl fun x => { x with hlc := [(0, ⟨3, List.replicate 64 1, false⟩)] })) =
    true := by decide +kernel

/-! ### Witnesses: links, rotas, memory on its way, slots and engines -/

/-- A state with another network, at a place. -/
def net (g : Net → Net) (p : Place := ⟨0, 0, 0⟩) : State := ({ paged with net := g paged.net }).at_ p
/-- The link 0 in a state. -/
def link0 (k : Link) : State := net fun n => { n with links := [(0, k)] }
/-- Peer 1's source holding 2 may read and write 4 KiB of holding 0's first bytes. -/
def peer (m : LinkMsg) : State := net fun n => { n with grants := [(66, ⟨true, 0, 0, 4096, true, true, false⟩)], peerReqs := [⟨0, 1, m⟩] }
/-- A check over bytes is one over the first of them and then over the rest. -/
theorem crc_append (p i : Nat) (a b : List Byte) : crcLsb p i (a ++ b) = crcLsb p (crcLsb p i a) b := by
  simp [crcLsb, List.foldl_append]
/-- The header of a plain flit with SEQ 1. -/
def flit1 : BitVec 96 := 0x1000000400000000000000
/-- Forty bytes of the payload. -/
def zeros40 : List Byte := List.replicate 40 0
theorem witness_flit : (bits flit1.toNat 60 58 == 1 && bits flit1.toNat 95 84 == 1) = true := by decide +kernel

theorem witness_links : (goes (.linkTrainingDone .up8 1) (link0 { st := .train }) && goes (.retrain true) (link0 { st := .up8 }) &&
    goes (.retrain false) (link0 { st := .up8, nakRun := 8 }) && goes .rst (net id ⟨47, 0, 0⟩) && goes (.kryasFlitReceive flit1 [] 0 []) (link0 { st := .up8 }) &&
    goes .nonpostedTimeout (host (fun x => { x with reqs := [⟨1, 3, 0, .chain 0, none⟩] }) paged)) = true := by decide +kernel
theorem witness_peers : ((peer (.read 0 2 0 0 8)).grant 1 2 0 8 { r := true } == some (0, 0) && goes .peerRequest (peer (.read 0 2 0 4095 8)) &&
    goes .peerRequest (peer (.write 2 0 4095 [1, 2] [] 0 0)) && goes .peerRequest (peer (.write 2 0 4088 [1, 2] (dataChecks [1, 2] false) 0 0)) &&
    (match ((peer (.read 0 2 0 0 8)).agentRead 3 0 0 8).1 with | .data _ _ => true | _ => false) && goes .peerFlush (peer (.flush 0))) = true := by
  decide +kernel
theorem witness_rotas2 : (goes (.rotaSlotStart (.mesh 0 1)) base && goes (.rotaSlotStart (.kryas 0)) (link0 { st := .up8 }) && goes (.rotaSlotStart (.host 1)) base &&
    goes (.rotaMarkerArrival none 0) base && goes (.rotaMarkerArrival (some (base.refEpoch 0)) (-1)) base &&
    goes (.rotaMarkerArrival (some (base.refEpoch 0)) 2) base && goes (.rotaMarkerArrival none 0) (base.at_ ⟨ioDie 1, 0, 0⟩)) = true := by decide +kernel
/-- A flit of holding 0 that arrives at a core. -/
def flit (here dst ready : Nat) : MeshFlit := ⟨0, 0, here, dst, ready, 0, true, false, [], []⟩

theorem witness_mesh : (goes .flitHop (net fun n => { n with flits := [flit 0 0 0] }) && goes .flitHop (net fun n => { n with flits := [flit (ioDie 0) (ioDie 0) 0] }) &&
    nextOut 0 0 == 4 && goes .flitHop (net fun n => { n with flits := [flit 0 1 63] }) && nextOut 0 1 == 1 && nextOut 0 (ioDie 0) == 3 &&
    (outEnd 0 3 == some (ioDie 0)) && (net id).slotFor 0 1 0 0 && (let s := net fun n => { n with
      rotas := [(rotaKey (.mesh 0 1), { active := [(1, 0x81)] })]
      routers := [(0, { aligned := true })]
      flits := [flit 0 1 63] }
    !s.slotFor 0 1 1 0 && goes .flitHop s)) = true := by decide +kernel

/-- An entry of a port queue of core 0: an operation at a device word that slice 0 is home of. -/
def entry (op : PqOp) (store : Option Nat := none) : PqEnt :=
  ⟨{}, none, store, op, 0, .dev 0x40000 ⟨0, 0, 0, 0, none⟩, p1 0x40000, 0, 0, false, false, false, 1, none⟩
/-- A state with another memory system, with tokens at slice 0. -/
def mem (g : Mem → Mem) (p : Place := ⟨0, 0, 0⟩) : State := ({ paged.tokenWindow 0 with mm := g paged.mm }).at_ p
/-- A state with another scheduler. -/
def sched (g : Sched → Sched) (p : Place := ⟨0, 0, 0⟩) (s : State := paged) : State := ({ s with sc := g s.sc }).at_ p
/-- A pool entry of core 0 for the word at 0x40000. -/
def pool (en due : Bool) : PoolEnt := ⟨0x8000, 0, 0, 8, 1, 0, 0, 0, 0, 0, en, due, due && !en⟩

theorem witness_ports : (goes .postBufferMove (paged.modSlot fun v => { v with post := [entry (.wr [1])] }) &&
    goes .portQueuePerform (mem fun m => { m with portq := [(0, [entry (.rd 8)])] }) && goes .tokenWindow paged && goes .tokenWindow (paged.at_ ⟨2047, 0, 0⟩) &&
    (let s := mem fun m => { m with portq := [(0, [entry (.rd 8)])] }
     let q : TokenReq := ⟨0, 0, (entry (.rd 8)).req 0⟩
     let t := { s with hd := { s.hd with tokenQ := [q] } }
     decide (t.waiting 0 = [0]) && (t.reqEnt q.who).isSome && (t.token 0 0).isSome && goes .slicePortServe t &&
      (let u := { s with hd := { s.hd with tokenQ := [⟨0, 0, .part 5⟩] } }
       decide (u.waiting 0 = [0]) && (u.reqEnt (.part 5)).isNone && (u.token 0 0).isSome && goes .slicePortServe u))) = true := by decide +kernel
theorem witness_pools : (let en := mem fun m => { m with pools := [(0, [pool false false])], home := [(0x8000, .pool [])] }
    let due := mem fun m => { m with pools := [(0, [pool true true])], home := [(0x8000, .pool [0])] }
    let un := mem fun m => { m with pools := [(0, [pool false true])] }
    let plain := mem fun m => { m with pools := [(0, [pool false false])] }
    let owned := mem fun m => { m with pools := [(0, [pool false false])], home := [(0x8000, .reg 5)] }
    decide (en.homeSt 0 0x8000 = .pool []) && (en.poolEnter 0 (pool false false)).1 && !en.armed 0x40000 && goes .enlist en && goes .poolMerge due &&
    decide (due.homeSt 0 0x8000 = .pool [0]) && (due.poolEnter 0 (pool true true)).1 && goes .poolMerge un && goes .enlist plain &&
    decide (plain.homeSt 0 0x8000 = .unreg) && goes .enlist owned && decide (owned.homeSt 0 0x8000 = .reg 5)) = true := by decide +kernel
theorem witness_eviction : (goes .l1Eviction (mem (fun m => { m with l1 := [(0x8000, some ⟨none, 7, none⟩)] }) ⟨0, 0, 0x8000⟩) &&
    goes .l1Eviction (mem (fun m => { m with l1 := [(0x8000, some ⟨some ⟨0, none, 0, 0, 0, 0⟩, 7, none⟩)], home := [(0x8000, .reg 0)] }) ⟨0, 0, 0x8000⟩)) = true := by
  decide +kernel
theorem witness_returns : (goes .remoteBankAnswer (mem (fun m => { m with accs := [(1, some ⟨0, 0, 0, [], 8, .none, ⟨8, false⟩, none, 0, none, 0, false, [], false, none⟩)] }) ⟨0, 0, 1⟩) &&
    goes .parkedAccessWake (paged.modSlot fun v => { v with park := some ⟨[0], false, true⟩ }) &&
    goes .partAccess (sched fun c => { c with parts := [⟨1, 0, 0, 0x40000, [1], .put, []⟩] }) && !paged.canRequest 0 && paged.resident 0 0x40000 &&
    goes .crierMessage (sched fun c => { c with crier := [⟨0, 0, false, true, 7, []⟩] })) = true := by decide +kernel
theorem witness_barrel : (goes .issueCycle paged && goes .issueCycle (paged.at_ ⟨5, 0, 0⟩) && (paged.slotAt 5 0).thr.isNone &&
    goes .userInterrupt (paged.modSlot fun v => { v with thr := v.thr.map fun t => { t with utvec := 0x2000000000000100, uimask := 0x81 }, uipend := 1 }) &&
    goes .idleLimit (paged.modSlot fun v => { v with idling := true, idleBy := some 0 })) = true := by decide +kernel

/-- The region of `launched` with a frame of a sprig that waits in the dispatch queue of core 1. -/
def queued : State := sched (fun c => { c with
  frames := [⟨0, 0x300000, 0, .new, 0x200000, 2, 1, 0, 0, false, false, 0, 0, 0⟩]
  disp := [⟨0, 0x200000, 2, 1, 0x300000⟩] }) ⟨1, 0, 1⟩ launched

theorem witness_fill : (queued.slot.thr.isNone && decide (queued.ownerNow 1 0 = some 0) && queued.openSlot 1 0 0 &&
    (queued.source 1 0 0).isSome) = true := by decide +kernel
theorem witness_deal : ((launched.sc.launches.any fun l => l.id == 2 && l.next == 0 && l.alive == 0 && gridTiles l.dims.toNat == 1) &&
    (launched.chainReady (schedAsker 0 0x200000) 0x200000).1 && (launched.takeFrame 0 0x200000).1.isSome && (launched.exitReady 0 0x200000 0x300000).1 && !(launched.hold 0).stopped) = true := by decide +kernel
theorem witness_launchEnd : (let s := sched (fun c => { c with launches := c.launches.map fun (l : Launch) => { l with next := 1 } }) ⟨0, 0, 2⟩ launched
    (s.frameReady 0 0x200000 0x200000).1 && !s.commandsOpen 2 && !s.storesOpen 2 && goes .launchComplete s) = true := by decide +kernel
theorem witness_drainWake : (let s := fun b => ({ launched with en := { launched.en with wakes := [⟨0, 0, 0, 0x200000, 5, 0, b⟩] } }).at_ ⟨0, 0, 0⟩
    ((s true).regionGate (schedAsker 0 0x200000) 0x200000).1 && ((s true).takeFrame 0 0x200000).1 == some 0x300000 && goes .drainWake (s true) && goes .drainWake (s false)) = true := by
  decide +kernel
theorem witness_turns : (let s := { halves.modHold 1 fun h => { h with st := .sliced } with co := { halves.co with cyc := [(0, 0x1000)] } }
    s.ringed && s.turnReady.1 && decide (bits (s.hword s.hd.turn 0x50) 31 0 ≤ (2 ^ 64 + s.cyc s.turnCore - s.hd.turnAt) % 2 ^ 64) && goes .turnEnd s &&
    goes .sliceEndBroadcast ({ s with hd := { s.hd with ended := [(0, 1)] } }.at_ ⟨1, 0, 0⟩) &&
    goes .drainAllowanceExpiry (paged.modSlot fun v => { v with drainBy := some 0 })) = true := by decide +kernel

theorem witness_goingOn : (let acc : Acc := ⟨0, 0, 0, [], 16, .tile 1, ⟨8, false⟩, none, 0, none, 0, false, [], false, some ({}, p1 0x40000, 5, false)⟩
    goes .remoteBankAnswer (mem (fun m => { m with accs := [(1, some acc)] }) ⟨0, 0, 1⟩) &&
    goes .parkedAccessWake (paged.modSlot fun v => { v with park := some ⟨[0], false, true⟩, resume := { again := true } }) &&
    goes .slotFill (paged.modSlot fun v => { v with carve := some (false, 0) }) &&
    goes .pageArrival (host (fun x => { x with stops := [(0, 0x300000, false)] }) paged)) = true := by decide +kernel
/-- The thread in slot 0, from a launch, leaves it. -/
def leaves (l : Leave) : State := regions.modSlot fun v => { v with leave := l, thr := v.thr.map fun t => { t with root := false, frame := 0x300000, stkc := 0 } }

theorem witness_leaving : (goes .migrationDeparture (leaves (.migrate 5 false)) && ((leaves (.migrate 5 false)).lateFirst 0 0 false).isNone &&
    (leaves (.migrate 5 false)).poolsClear 0 0 && ((leaves .spill).modThr fun t => { t with roam := false }).canSpill 0 0 &&
    ((leaves .spill).frameReady 0 0 0x300000).1 && ((leaves .spill).carveReady (leaves .spill).thr).1) = true := by decide +kernel
theorem witness_parking : (let s := leaves (.page 0x2000000000000040 0x40 false)
    let t := host (fun x => { x with fns := [(0, { supq := 0x500000 })] }) s
    t.canRequest 0 && (t.frameReady 0 0 0x300000).1 && (t.lateFirst 0 0 false).isNone && goes .pagePark t && goes .slotSpill
      ((leaves .spill).modThr fun t => { t with roam := false })) = true := by decide +kernel
theorem witness_arrival : (let s := { launched with sc := { launched.sc with flight := [⟨0, { hold := 0, rgn := 0x200000, launch := 2, frame := 0x300000 }, 0⟩] } }
    !s.doomed 0 0x200000 false 0 0 && (s.chainReady (schedAsker 0 0x200000) 0x200000).1 && (s.migrantCore 0 0 2 false).isSome && (s.openIn 0 0 2).isSome &&
    goes .stileArrival s && goes .pageArrival (host (fun x => { x with arrived := [(0, 0x300000)] }) paged)) = true := by decide +kernel
/-- A fault record of holding 0, whose fault queue at 0x500000 has room. -/
def faulty : State :=
  let s := ((paged.modHold 0 fun h => { h with words := Tab.set 0 h.words 0x80 0x500000 }).rawPut 0 0 0x500000 0x510000).rawPut 0 0 0x500008 3
  sched (fun c => { c with faults := [⟨0, false, 0x500000, 1, 0x14, false, 0, 0, 0, 0⟩] }) ⟨0, 0, 0⟩ s
theorem witness_faultQueues : (faulty.sc.faults.any fun r => !faulty.behind r 0 && (match faulty.addRecord r with | (.done, _) => true | _ => false)) &&
    goes .headStore ({ faulty with sc := { faulty.sc with faults := [⟨0, false, 0x500000, 2, 0x14, false, 0, 0, 0, 0⟩] } }.at_ ⟨0, 0, 0x500000⟩) = true := by
  decide +kernel

/-- A matrix record of a type, at address 0x2000 and with the flags and tiles that it needs. -/
def record (ty : Nat) : List Byte :=
  leBytes 1 ty ++ leBytes 1 (if ty = 7 then 1 else 0) ++ leBytes 2 (if ty = 2 || ty = 3 then 0x4000 else 0) ++ leBytes 4 (if ty = 0 then 1 else 0) ++
    leBytes 16 0 ++ leBytes 8 (if ty = 0 || ty = 4 || ty = 7 then 0 else 0x2000) ++ leBytes 32 0
/-- The header of a 4 by 4 accumulator tile. -/
def headAcc : List Byte := sealHdr (({ kind := 1, efmt := 1, n := 4, c := 4, dlen := 4 } : Hdr).pack)
/-- The record as appended by slot 0 of core 0. -/
def appendedRec (ty : Nat) (running : Bool) : MxRec :=
  { num := 1, bytes := record ty, hdrA := hdrBits head16, hdrB := 0, hdrC := hdrBits (if ty = 1 then head16 else headAcc), ldb := 0, mode := 0, nsat := false,
    seed := 1, order := 5, core := 0, slot := 0, hold := 0, rgn := 0, launch := 0, ctxid := 0, part := 0, dst := .none, drainTo := 0, sg := [], stkc := 0, sovf := 0,
    running := running, begun := 0, pos := 0, buf := [] }
/-- Matrix context 0 of cluster 0 with one record that waits, or that is in its queue; memory at 0x2000 holds a tile of zeros, and so does B
position 0. -/
def engine (ty : Nat) (waits running : Bool) : State :=
  let s := (base.tokenWindow 0).winPut 0 0 0x2000 head16
  let s := { s with en := { s.en with bpos := [(0, { hdr := some (hdrBits head16), data := List.replicate 32 0 })] } }
  s.modMctx 0 fun c => if waits then { c with wait := [{ appendedRec ty running with num := 0 }] } else { c with queue := [appendedRec ty running], last := 1 }

theorem witness_records2 : (goes .matrixRecordAccept (engine 0 true false) && ((engine 0 true false).mxAccept 0 0).isSome &&
    goes .matrixRecordStart (engine 0 false false) && decide ((engine 0 false false).mxReady 0 0 = [1]) &&
    recordTable.all fun p => goes p.1 (engine p.2.1 false true) &&
      (match p.2.2 ((appendedRec p.2.1 true).eng 0) (appendedRec p.2.1 true) (engine p.2.1 false true) with | .ok _ => true | _ => false)) = true := by
  decide +kernel

/-- A copy of 64 bytes waits in copy context 0 of core 0, or is in its queue with some sectors done. -/
def copying (pos : Option Nat) : State :=
  let s := stOf (exec (.cpy (fd (g 1) (g 2) (g 3))) copies)
  match pos with
  | none => s
  | some n => s.modCctx 0 fun c => { c with wait := [], queue := c.wait, last := 1, pos := n }

theorem witness_copySteps : (goes .copyCommandAccept (copying none) && goes .copySector (copying (some 0)) && goes .copyComplete (copying (some 1)) &&
    ((copying (some 0)).cctx 0).runs && (match ((copying (some 0)).cctx 0).queue with
      | c :: _ => (copying (some 0)).copySectors (c.eng 0) c ((copying (some 0)).cctx 0).walk == 1 &&
          (match runSector (c.eng 0) c 0 (copying (some 0)) with | .ok _ => true | _ => false)
      | [] => false)) = true := by decide +kernel
theorem witness_copyPeers : (goes .copyComplete ((copying (some 1)).modCctx 0 fun c => { c with peers := [1] }) && !(copying (some 1)).engFlushing false 0 &&
    !(copying (some 1)).sending (· = .eng false 0)) = true := by decide +kernel
theorem witness_timelines2 : (let s := (base.modMctx 0 fun c => { c with last := 1 }).modCctx 0 fun c => { c with last := 1 }
    goes .timelineAdvance (s.at_ ⟨0, 0, 1⟩) && goes .timelineAdvance s) = true := by decide +kernel

/-! ### Witnesses: the rules that hold of the whole part -/

theorem witness_improve : ((base.cell 5).set == false && (base.replica 0 5).gen == (base.cell 5).gen && newer 5 5 == false && newer 4 5 == false &&
    (4 : BitVec 16) != 5) = true := by decide +kernel
theorem witness_beat : (let a : AtHome := ⟨0, none, 0, 0, 0, 0⟩
    let at_ := fun (s : State) => (s.memBytes a 0x40000 128).length == 128 && (s.l2 0 (0x40000 / 128)).isNone
    let s := { base with mm := { base.mm with poison := [(0x2000, true)] } }
    at_ base && !base.beatBad a 0x40000 && base.memWf && at_ s && s.beatBad a 0x40000 && decide (0x40008 % 32 + 8 ≤ 32)) = true := by
  decide +kernel
theorem witness_wellFormed : (Instr.add (fd (g 1) (g 2) (g 3))).wellFormed = true := by decide +kernel
theorem witness_powerOk : PowerOk State.reset.pw ∧ goes .vauxPresent State.reset = false ∧ goes .modRstFall State.reset = true := by
  refine ⟨by unfold PowerOk; decide, ?_, ?_⟩ <;> decide +kernel
theorem witness_notPower : (!powerEvent (.nop (fd z z z)) && goes (.nop (fd z z z)) base) = true := by decide +kernel
theorem witness_step : (base.ctl.issue && base.slot.thr.isSome && decide (base.slot.leave = .stay) && !base.slot.sfu && decide (base.slot.late = []) &&
    (base.slot.eligible base.thr).isNone && okAnd (fetchAt base base.thr.pc) fun r => match decode r.1 with | .ok (.nop _) => true | _ => false) = true := by
  decide +kernel

/-! ### Witnesses: windows of plain data -/

/-- Without tag regions and poison, and at the start of an instruction, the own bank is plain data. -/
theorem plain_of {s : State} (h : (s.hcAt s.core s.thr.hold).tagrgn = []) (hp : s.co.poison = [] ∧ s.co.ecc = [])
    (hf : s.slot.resume = { served := s.slot.resume.served } ∧ s.slot.unit = 0 ∧ s.slot.acq = [])
    (hs : s.ctl.choices = [] ∧ ∀ v ∈ s.co.slots, v.1 / 16 = s.core → v.1 % 16 ≠ s.slotNo → v.2.busy = []) : PlainBank s := by
  have hr : ∀ w, s.tagRgn s.core s.thr.hold w = none := fun w => by
    simp [State.tagRgn, h, Tab.get, bit, List.range, List.range.loop]
  exact ⟨fun k w => by simp [State.entryAt, hr], fun w => by simp [State.feOn, hr], fun off => by simp [State.winBad, State.winEcc, hp, Tab.get], hf, hs⟩

/-- The shape at a pointer into the own bank. -/
def shp (s : State) (p : Word) : Shape := (Shape.ofBytes p (s.winBytes s.core s.thr.hold p.toNat 32)).getD ⟨false, 0, 0, [], [], 0⟩
/-- A shape stands at the pointer and lies in the window. -/
def shapeAt (s : State) (p : Word) : Bool :=
  let h := shp s p
  decide (p.toNat % 32 = 0 ∧ p.toNat + 32 ≤ s.winSize s.thr.hold) &&
  (Shape.ofBytes p (s.winBytes s.core s.thr.hold p.toNat 32) == some h) && decide (h.efmt = 13 → coreNo s.core = 0) &&
  decide (h.q = true → s.qOwned s.core s.thr.hold h.base = true) &&
  decide (h.q = false → h.count ≠ 0 → 0 ≤ h.span.1 ∧ h.span.2 < s.winSize s.thr.hold ∧ 8 * h.base % h.w = 0)
theorem shapeAt_of {s : State} {p : Word} (h : shapeAt s p = true) : ShapeAt s p (shp s p) := by
  simp only [shapeAt, Bool.and_eq_true, decide_eq_true_eq, beq_iff_eq] at h
  exact ⟨h.1.1.1.1, h.1.1.1.2, h.1.1.2, h.1.2, h.2⟩

theorem plain_vecs : PlainBank vecs ∧ PlainBank served := by constructor <;> exact plain_of (by decide +kernel) (by decide +kernel) (by decide +kernel) (by decide +kernel)
theorem shapes_vecs : ∀ n ∈ [1, 2, 3, 4, 5, 6, 7], ShapeAt vecs (vecs.thr.gpr n) (shp vecs (vecs.thr.gpr n)) := fun n hn =>
  shapeAt_of ((by decide +kernel : ∀ n ∈ [1, 2, 3, 4, 5, 6, 7], shapeAt vecs (vecs.thr.gpr n) = true) n hn)
/-- The shape that register `n` names. -/
def sh (n : Nat) : Shape := shp vecs (vecs.thr.gpr n)

theorem witness_vecInWindow : (vecTable.all fun p => [(fd (g 1) (g 2) (g 3), 1, 2, some 3), (fd (g 4) (g 5) (g 6), 4, 5, some 6),
    (fd (g 1) (g 2) z, 1, 2, none), (fd (g 4) (g 5) z, 4, 5, none)].any fun (f, d, a, b) => ready (p.instr f) vecs &&
    (f.b.cls == .G) == b.isSome && !(p.old && (sh d).q) && mdFmt f.md == 0 && (sh a).float == (sh d).float && (b.all fun b => (sh b).float == (sh d).float) &&
    !(p.intOnly && (sh d).float) && (sh a).count == (sh d).count && (b.all fun b => (sh b).count == (sh d).count) &&
    vecs.shapesGo [sh d] (vecSources p (sh d) (sh a) (b.map sh))) = true := by decide +kernel
theorem witness_unaryInWindow : ((ready (.vcvt (fd (g 4) (g 2) z)) vecs && ready (.vred (fd (g 7) (g 2) z)) vecs && ready (.vscan (fd (g 1) (g 2) z)) vecs &&
    ready (.vcopy (fd (g 1) (g 2) z)) vecs && ready (.vsfn (fd (g 1) (g 2) z)) served && served.shapesGo [sh 1] [sh 2] && vecs.shapesGo [sh 4] [sh 2] && vecs.shapesGo [sh 7] [sh 2] &&
    vecs.shapesGo [sh 1] [sh 2]) = true) ∧
    ∀ p ∈ unaryTable, ∃ s ∈ [vecs, served], ∃ d ∈ [1, 4, 7], p.fits s (sh d) (sh 2) := by
  constructor
  · decide +kernel
  · intro p hp
    simp only [unaryTable, List.mem_cons, List.mem_nil_iff, or_false] at hp
    have at_ {p : UnaryForm} (d : Nat) (hd : d ∈ [1, 4, 7]) (s : State) (hs : s ∈ [vecs, served]) (h : p.fits s (sh d) (sh 2)) :
      ∃ s ∈ [vecs, served], ∃ d ∈ [1, 4, 7], p.fits s (sh d) (sh 2) := ⟨s, hs, d, hd, h⟩
    rcases hp with rfl | rfl | rfl | rfl | rfl
    · exact at_ 4 (by decide) vecs (by simp) (by decide +kernel)
    · exact at_ 7 (by decide) vecs (by simp) (by decide +kernel)
    all_goals exact at_ 1 (by decide) served (by simp) (by decide +kernel)
theorem witness_selectInWindow : (ready (.vcmp (fd (g 4) (g 1) (g 2))) vecs && !(sh 4).float && (sh 2).float == (sh 1).float && (sh 1).count == (sh 4).count &&
    (sh 2).count == (sh 4).count && vecs.shapesGo [sh 4] [sh 1, sh 2] && ready (.vsel (fd (g 1) (g 2) (g 3) 0 4)) vecs && (sh 2).efmt == (sh 1).efmt &&
    (sh 3).efmt == (sh 1).efmt && (sh 3).count == (sh 1).count && vecs.shapesGo [sh 1] [sh 2, sh 3, sh 4] && ready (.vfill (fd (g 1) (g 8) z)) vecs &&
    ready (.vfill (fd (g 1) i0 z 0 0x3F800000)) vecs && vecs.shapesGo [sh 1] []) = true := by decide +kernel

/-- Elements at the references lie in the window, each aligned. -/
def inWindow (s : State) (n : Nat) (refs : List Ref) : Bool := refs.all fun r =>
  decide (r.seg = 0 ∧ 0 ≤ r.off ∧ r.off % (n : Nat) = 0 ∧ r.off + n ≤ (s.winSize s.thr.hold : Nat))
/-- The elements that the indices of the last of some shapes name from g8. -/
def refsOf (w : Nat) (k : List Shape) : List Ref := elemRefs (vecs.thr.gpr 8) w
  (((vecs.codesOf (winByte vecs) [] k).getLastD []).map fun c => (decodeNum (sh 6).efmt c).int)
theorem witness_gatherInWindow : (ready (.vgath (fd (g 1) (g 8) (g 6))) vecs && ready (.vscat (fd (g 8) (g 1) (g 6))) vecs && indexFmt (sh 6) && decide (8 ≤ (sh 1).w) &&
    (sh 6).count == (sh 1).count && vecs.shapesGo [sh 1] [sh 6] && vecs.shapesGo [] [sh 1, sh 6] && inWindow vecs ((sh 1).w / 8) (refsOf (sh 1).w [sh 6]) &&
    inWindow vecs ((sh 1).w / 8) (refsOf (sh 1).w [sh 1, sh 6])) = true := by decide +kernel
theorem witness_tablesInWindow : PlainBank memRegs ∧ InSeg0 memRegs (refOf (memRegs.g (g 1)) 0) 256 16 ∧ ready (.tblld (fd z (g 1) z 0 3)) memRegs = true := by
  refine ⟨plain_of ?_ ?_ ?_ ?_, ?_, ?_⟩ <;> first | decide +kernel | (unfold InSeg0; decide +kernel)
theorem witness_tilesInWindow : PlainBank tiles ∧ tiles.tilePending 4 = false ∧ tiles.tilePending 1 = false ∧ bit (tiles.htregs tiles.thr.hold) 4 = true ∧ tiles.heldElse [tileHold 4] = false ∧
    tiles.heldElse [tileHold 1] = false ∧
    InSeg0 tiles (tiles.refM (fd (tr 4) (g 1) z)) (hdrOf (tiles.winBytes tiles.core tiles.thr.hold 0x2000 16)).len 16 ∧
    InSeg0 tiles (tiles.refM (fd (tr 1) (g 1) z)) (hdrOf (tiles.tile (tr 1))).len 16 := by
  refine ⟨plain_of ?_ ?_ ?_ ?_, ?_, ?_, ?_, ?_, ?_, ?_, ?_⟩ <;> first | decide +kernel | (unfold InSeg0; decide +kernel)
theorem witness_accumulatorsInWindow : PlainBank matrix ∧ bit (matrix.haparts matrix.thr.hold) 0 = true ∧
    matrix.partPending (clusterOf matrix.core) 0 = false ∧ InSeg0 matrix (refOf (matrix.g (g 6)) 0) 4096 4096 ∧
    ready (.mxspill (fd (g 10) (g 6) (g 5))) matrix = true ∧ ready (.mxfill (fd (g 10) (g 6) (g 5))) matrix = true := by
  refine ⟨plain_of ?_ ?_ ?_ ?_, ?_, ?_, ?_, ?_, ?_⟩ <;> first | decide +kernel | (unfold InSeg0; decide +kernel)
/-! ### Witnesses: the clauses of the statements, each at a boundary -/

/-- The power unit off, in reset, or between two rails. -/
def unpowered (g : Power → Power) : State := pw fun p => g { p with mode := .stby, clock := 0, seq := .idle, rails := 0, pgood := false }
theorem witness_powerClauses : (goes .vauxAbsent (unpowered fun p => { p with pwrEn := false }) &&
    goes .modRstFall (unpowered fun p => { p with vaux := false, mode := .off }) && goes .pwrEnLow (unpowered fun p => { p with modRst := false }) &&
    goes .railFault ((unpowered fun p => { p with seq := .rising }).at_ ⟨0, 0, 0⟩) && goes (.ranborBoot true) (unpowered fun p => { p with seq := .boot, strapBoot := 2 }) &&
    goes (.temperatureMeasurement 104) (unpowered fun p => { p with seq := .rising, rails := 1 }) &&
    goes .startWarm { State.reset with st := { state := .done, step := 8 } } && goes .startCold { State.reset with st := { state := .failed, step := 3 } }) = true := by
  decide +kernel
theorem witness_powersOk : ∀ s ∈ [pw fun p => { p with mode := .run, clock := 850 }, pw fun p => { p with mode := .cap, clock := 800, below := 9, hot := true },
    pw fun p => { p with clock := 850, below := 9 }, unpowered fun p => { p with seq := .rising, rails := 1 }], PowerOk s.pw := by
  simp only [PowerOk]; decide
theorem witness_registerClauses : (goes (.hostRegisterRead true 0xFF8 8) (both.at_ ⟨64, 1, 47⟩) && goes (.hostRegisterRead false 0xFFFC 4) (both.at_ ⟨127, 0, 0⟩) &&
    goes (.hostRegisterRead true 0xFFE 8) (both.at_ ⟨127, 0, 0⟩) && (both.rootReg 7 0 0).isSome && (both.rootReg 5 0 0xFF8).isSome && (both.winA 63 0xFFF8).isNone &&
    (both.winB 63 0xFF8).isNone) = true := by decide +kernel

/-- The staging buffer is open; segment 1 has no page; the host holds the first line of window M. -/
def staging : State := { both with st := { waiting := true }, pw := { both.pw with strapBoot := 1 } }
def unmapped : State := windowM.rawPut 0 0 8192 0
def hostHeld : State :=
  { windowM with hi := { windowM.hi with upA := some (16, 640), hdm := 0x40001, half := [(0, 2)] }, pw := { windowM.pw with strapCxl := true } }
/-- What a read from outside answers: 0 bytes, 1 denied, 2 it waits. -/
def answered (r : Got × State) : Nat := match r.1 with | .data _ _ => 0 | .denied => 1 | .waits => 2

theorem witness_windowMClauses : (staging.staged 0 0 && !windowM.staged 0 0 && goes (.windowMAccess (2 ^ 25 - 512) 1 (some (List.replicate 512 1))) staging &&
    goes (.windowMAccess (2 ^ 25 - 8) 8 none) staging && goes (.windowMAccess 0xFFFFFFE 2 none) windowM && (windowM.windowMva 0 0 (2 ^ 36 - 2) 2).1.toOption.isNone &&
    goes (.windowMAccess (2 ^ 36 - 2) 2 none) windowM && answered (windowM.agentRead 0 0 0xFFFFFFE 2) == 0 && answered (unmapped.agentRead 0 0 0xFFFFFFE 2) == 1 &&
    goes (.windowMAccess 0xFFFFFFE 2 none) unmapped && decide ((unmapped.agentWrite 0 0 0 0xFFFFFFE [1] false).1 = .denied) && answered (hostHeld.agentRead 0 0 0 2) == 2 &&
    goes (.windowMAccess 0 2 none) hostHeld) = true := by decide +kernel
theorem witness_functionClauses : (let s := (host fun x => { x with pageReqs := [{ request with quar := true }] }).at_ ⟨1, 0, 0⟩
    let s4 := (both.modHold 1 fun v => { v with reset := 4 }).at_ ⟨1, 0, 0⟩
    let s2 := (both.modHold 1 fun v => { v with reset := 2 }).at_ ⟨0, 1, 0⟩
    (s.pageReq.any (·.quar)) && goes .priSuccess s && !s4.cellsPending (s4.hword 1 0x90) && goes .functionLevelReset s4 && goes .functionLevelReset (both.at_ ⟨0, 0, 0⟩) &&
    (s2.busyWith 1).isNone && goes .vfEnableClear s2 && goes (.spdmRequest 0xE0) (both.at_ ⟨1, 0, 0⟩)) = true := by decide +kernel

/-- A copy of 64 bytes inside holding 0's device memory. -/
def copyDev : Rec := rec1 2 0x14 0 0x40 64
theorem witness_chainClauses : (let dev := fun r => chain (with1 r) 0 (paged.tokenWindow 0)
    goes .recordFetch (chain { run := true, ctail := 5, next := 2, prev := some 0x40, chead := 0x40, got := some (some (leBytes 64 0x80)) }) &&
    goes .recordFetch (chain { run := true, ctail := 5, chead := 0x40, got := some none }) && both.tagFree 0 && both.portRoom 0 1 &&
    copyDev.ssp == 1 && copyDev.dsp == 1 && ((dev copyDev).spaceOk 0 1 0 64 { r := true }).1 == .done && ((dev copyDev).spaceOk 0 1 0x40 64 { w := true }).1 == .done &&
    goes .copyh (dev copyDev) && goes .copyh (dev { copyDev with acted := true }) && answered ((dev copyDev).agentRead (chainPort 0) 0 0 32) == 0 &&
    goes .copyh (dev { copyDev with acted := true, left := 64, pieces := [(List.replicate 32 1, false), (List.replicate 32 2, true)] }) &&
    goes .copyh (chain (with1 { rec1 2 0 0 0x40 64 with acted := true, left := 64, pieces := [(List.replicate 64 1, false)] })) &&
    goes .signal (chain (with1 (rec1 3 0x10 0x40 7)) 0 paged) && ((dev copyDev).spaceOk 0 1 0x40 8 { w := true }).1 == .done && goes .resync (chain (with1 (rec1 4 0x10 0x40 64)) 0 paged) &&
    goes .mirrorWrite (chain { mirror := some 1, tlmir := 0 }) && goes .mirrorWrite (chain { mirror := some 1, tlmir := 8, ports := [(1, 1)] }) &&
    goes .recordComplete (chain { with1 { rec1 4 0x10 with acted := true } with peers := [(1, 2)] }) &&
    goes .resync (chain (with1 { rec1 4 0x10 0x40 64 with acted := true, left := 64, pieces := [(List.replicate 64 1, false)] }) 0 (paged.tokenWindow 0))) = true := by decide +kernel
theorem witness_launchClauses : (let c := fun s => chain (with1 (rec1 1 0 0x200000)) 0 s
    ((c regions).regionGate (schedAsker 0 0x200000) 0x200000).1 && goes .launch (c regions) && ((c launched).regionGate (schedAsker 0 0x200000) 0x200000).1 && goes .launch (c launched)) = true := by decide +kernel

/-- One write from outside waits. -/
def oneWrite (t : Tgt) (s : State := both) : State := host (fun x => { x with writes := [⟨0, 0, 0, t, [some 1], false, false⟩] }) s
/-- Core 0's bank has a tag region whose table traps writes. -/
def trapped : State := both.modHc 0 0 fun c => { c with tagrgn := [(0, 0x80000000FFFF0000)], table := [(16 * kST, 0x8000), (128 + 16 * kST, 0x8000)] }
theorem witness_writeClauses : (goes .hostWrite (oneWrite (.bank 0 0 0x40)) && (match both.unitLook 0 0 kST (winWords 0x40 1) with | .go _ => true | _ => false) &&
    goes .hostWrite (oneWrite (.bank 0 0 0x40) trapped) && (match trapped.unitLook 0 0 kST (winWords 0x40 1) with | .trap .. => true | _ => false) &&
    goes .hostWrite (oneWrite (.host 0x40 ⟨2, 0, 0, 0, none⟩)) &&
    (let s := host (fun x => { x with hlc := [(1, ⟨3, List.replicate 64 1, false⟩)] }) (oneWrite (.host 0x40 ⟨1, 0, 0, 0, none⟩))
     (s.hline 1).serves true && goes .hostWrite s) &&
    (let s := host (fun x => { x with upA := some (16, 640), hdm := 0x40001, half := [(0, 2)] })
       (oneWrite (.dev 0 ⟨0, 0, 0, 0, none⟩) { both.tokenWindow 0 with pw := { both.pw with strapCxl := true } })
     let r := s.enter (.write 0 0 0) 0 0 1 true 0 0
     !r.1 && s.stirred r.2 && goes .hostWrite s) &&
    (both.tokenWindow 0 |>.enter (.write 0 0 0) 0 0 1 true 0 0).1 && goes .hostWrite { windowM with hi := { windowM.hi with reads := [⟨0, 0, 0, 2, none⟩] } }) = true := by
  decide +kernel

/-- A read of two bytes through window M. -/
def read2 : HostRead := ⟨0, 0, 0xFFFFFFE, 2, none⟩
theorem witness_waitingAccesses : (let full := host (fun x => { x with out := List.replicate 16 ⟨.cplData 0 0 [] false, none, none⟩ }) windowM
    let writes := host (fun x => { x with reads := [{ read2 with put := some (0, [1, 2]) }] }) windowM
    !full.cplRoom 0 0 2 && goes (.windowMAccess 0xFFFFFFE 2 none) full && writes.behindWrite 1 0 && goes (.windowMAccess 0xFFFFFFE 2 none) writes &&
    (match (windowM.agentPieces 0 0 0xFFFFFFE 2).1 with | .ok l => l.all fun x => x.1.length ≤ 512 | .error _ => false)) = true := by decide +kernel
theorem witness_resetClauses : (let s5 := (both.modHold 1 fun v => { v with reset := 5 }).at_ ⟨0, 1, 0⟩
    !halves.live 1 && goes .functionLevelReset (halves.at_ ⟨1, 0, 0⟩) && !s5.cellsPending (s5.hword 1 0x90) && goes .vfEnableClear s5) = true := by decide +kernel
theorem witness_recordStops : (let c := fun r => chain (with1 r) 0 paged
    goes .copyh (c (rec1 2 0 0 0 0)) && ((c (rec1 3 0x10 0x1000000000)).spaceOk 0 1 0x1000000000 8 { w := true }).1 == .denied &&
    goes .signal (c (rec1 3 0x10 0x1000000000)) && goes .resync (c (rec1 4 0x10 4 64)) && ((c (rec1 2 4 0x1000000000 0 64)).spaceOk 0 1 0x1000000000 64 { r := true }).1 == .denied &&
    goes .copyh (c (rec1 2 4 0x1000000000 0 64))) = true := by decide +kernel
theorem witness_writesOut : (let s := { oneWrite (.host 0x40 ⟨3, 0, 0, 0, none⟩) with net := { both.net with links := [(0, { st := .up8 })] } }
    let carve := host (fun x => { x with writes := [⟨carveSrc, 0, 0, .bank 0 0 0x40, [some 1], false, false⟩] })
    s.linkRoom (peerOf 0x40) 0x40 0 && goes .hostWrite s && goes .hostWrite carve) = true := by decide +kernel

/-- A check over a header and a payload of zeros, forty bytes at a time. -/
theorem good_of {hdr : BitVec 96} {c c0 c1 c2 c3 c4 c5 : Nat} {crc : BitVec 32} (links : crcLsb 0xEDB88320 0xFFFFFFFF (leBytes 12 hdr.toNat) = c ∧
      crcLsb 0xEDB88320 c zeros40 = c0 ∧ crcLsb 0xEDB88320 c0 zeros40 = c1 ∧ crcLsb 0xEDB88320 c1 zeros40 = c2 ∧ crcLsb 0xEDB88320 c2 zeros40 = c3 ∧
      crcLsb 0xEDB88320 c3 zeros40 = c4 ∧ crcLsb 0xEDB88320 c4 zeros40 = c5 ∧ c5 ^^^ 0xFFFFFFFF = crc.toNat)
    (ht : (decide (bits hdr.toNat 60 58 ≤ 2) && decide (bits hdr.toNat 19 0 = 0)) = true) :
    flitGood hdr (List.replicate 240 0) crc = true := by
  obtain ⟨h, h0, h1, h2, h3, h4, h5, hc⟩ := links
  have hz : List.replicate 240 (0 : Byte) = zeros40 ++ zeros40 ++ zeros40 ++ zeros40 ++ zeros40 ++ zeros40 := by decide +kernel
  have hl : (leBytes 12 hdr.toNat ++ List.replicate 240 (0 : Byte)).length = 252 := by
    rw [List.length_append, List.length_replicate]; simp [leBytes]
  simp only [flitGood, hl]
  simp only [hz, ← List.append_assoc, crc_append, h, h0, h1, h2, h3, h4, h5, hc]
  simpa using ht
/-- The CRC-32 of a plain flit with SEQ 1 and a payload of zeros (computed outside the model). -/
theorem test_crc32 : flitGood flit1 (List.replicate 240 0) 0x9A79289D = true :=
  good_of (c := 0x3B688D01) (c0 := 0xC32932D2) (c1 := 0x33488787) (c2 := 0xB4D7580A) (c3 := 0xC159FC7E) (c4 := 0xE8141485) (c5 := 0x6586D762)
    (by refine ⟨?_, ?_, ?_, ?_, ?_, ?_, ?_, ?_⟩ <;> decide +kernel) (by decide +kernel)
theorem witness_flitNull : flitGood 0 (List.replicate 240 0) 0xA66359F1 = true :=
  good_of (c := 0x842A3990) (c0 := 0x33D4F04F) (c1 := 0x3D4AD918) (c2 := 0x3A767AE1) (c3 := 0xA9EC2F46) (c4 := 0x90C1D3C) (c5 := 0x599CA60E)
    (by refine ⟨?_, ?_, ?_, ?_, ?_, ?_, ?_, ?_⟩ <;> decide +kernel) (by decide +kernel)
/-- A failover flit of link 5 with SEQ 1. -/
theorem witness_flitFailover : flitGood 0x1000000850000000000000 (List.replicate 240 0) 0x32F4A828 = true ∧
    (bits (0x1000000850000000000000 : BitVec 96).toNat 60 58 == 2 && bits (0x1000000850000000000000 : BitVec 96).toNat 57 52 == 5) = true :=
  ⟨good_of (c := 0xF21668F7) (c0 := 0x85BCE2A1) (c1 := 0x28722A97) (c2 := 0x41C2D5A8) (c3 := 0x93CC19B2) (c4 := 0x88AC17FE) (c5 := 0xCD0B57D7)
    (by refine ⟨?_, ?_, ?_, ?_, ?_, ?_, ?_, ?_⟩ <;> decide +kernel) (by decide +kernel), by decide +kernel⟩

/-- Peer 1's atomic of source holding 2, which its grant allows. -/
def peerAtomic : State := (let s := (paged.tokenWindow 0).rawPut 0 0 8192 0x8000003F
  { s with net := { s.net with grants := [(66, ⟨true, 0, 0, 4096, true, true, true⟩)], peerReqs := [⟨0, 1, .atomic 0 0 2 0 0 8 1 0 (dataChecks (operandBeat 1 0) false)⟩] } }).at_ ⟨0, 0, 0⟩
theorem witness_peerClauses : (peerAtomic.grant 1 2 0 8 atomNeed == some (0, 0) && answered (peerAtomic.agentAtomic 3 0 0 8 (peerOp 0 8 1 0)) == 0 &&
    goes .peerRequest peerAtomic && ((peer (.atomic 0 0 2 0 0 8 1 0 [])).grant 1 2 0 8 atomNeed).isNone && goes .peerRequest (peer (.atomic 0 0 2 0 0 8 1 0 [])) &&
    checksBad (operandBeat 1 0) []) = true := by
  decide +kernel
/-- A rota of core 0. -/
def rotaAt (r : Rota) : State := { base with net := { base.net with rotas := [(rotaKey (.mesh 0 1), r)] } }
theorem witness_rotaClauses : (([{ slot := 63, adjust := -1 }, { slot := 63, adjust := 1 }, { slot := 64 }, { arm := true, tepoch := base.epochAt (.mesh 0 1) }] : List Rota).all
      (fun r => goes (.rotaSlotStart (.mesh 0 1)) (rotaAt r)) && ({ arm := true, tepoch := base.epochAt (.mesh 0 1) } : Rota).swaps (base.epochAt (.mesh 0 1)) &&
    goes (.rotaMarkerArrival (some (base.refEpoch 0)) 1) base && goes (.rotaMarkerArrival (some (base.refEpoch 0)) (-2)) base &&
    goes (.rotaMarkerArrival (some (base.refEpoch (ioDie 1))) 0) (base.at_ ⟨ioDie 1, 0, 0⟩)) = true := by decide +kernel
/-- Slice 0 holds the first line of device memory, with its second beat poisoned. -/
def lined : State := { base with mm := { base.mm with l2 := [(0, some ⟨0, 0, true, List.replicate 128 5, [false, true, false, false]⟩)] } }
theorem witness_lineAt : LineAt lined ⟨0, none, 0, 0, 0, 0⟩ 0 ∧
    (lined.beatBad ⟨0, none, 0, 0, 0, 0⟩ 32 && !lined.beatBad ⟨0, none, 0, 0, 0, 0⟩ 0 && lined.memWf) = true := by
  refine ⟨⟨by decide +kernel, fun v hv => ?_⟩, by decide +kernel⟩
  have h : lined.l2 0 0 = some ⟨0, 0, true, List.replicate 128 5, [false, true, false, false]⟩ := by decide +kernel
  rw [h] at hv
  cases hv
  decide +kernel
theorem witness_prefClauses : (let s := memRegs
    let t := s.tokenWindow 1
    (match (s.quietLine (s.refM (fd z (g 2) z))).1 with
     | some (l, leaf) => l == 2048 && leaf.home == 1 && (t.token leaf.home 0).isSome && (t.hdmGate none (l * 128) 128 false 0 0).1
     | none => false)) = true := by decide +kernel

/-- The word at PC and the one after it, in the instruction buffer, with the issue slot open. -/
def words (v w : BitVec 96) (s : State := base) : State := { s with co := { s.co with ibuf := [(0, [⟨0, 0, v⟩, ⟨0, 12, w⟩])] } }
/-- The same state inside a repeat of four, with the index of D stepped. -/
def repeating : State := (words 0 0x1007C000100803000000000).modThr fun t => { t with rep := some ⟨4, 1, 1⟩, repc := 3 }
theorem witness_stepClauses : (okAnd (fetchAt (words 5 6) base.thr.pc) (fun r => r.1 == 5) && okAnd (fetchAt (words 5 6) (base.thr.pc + 12)) (fun r => r.1 == 6) &&
    (match decode 0x1007C00810080F0000000000 with | .error (.illopd _) => true | _ => false) &&
    (match decode 0xFF07C0380E03800000000000 with | .error .illop => true | _ => false) &&
    (match stepInstr (.add (fd (g 1) (g 2) (g 3))) 1 1 with | .ok (.add f) => f.d == g 2 | _ => false) &&
    (let s := base.modThr fun t => { t with sg := [(1, 0xF1FFFFFFFFFFFFFF01F0000000000000)] }
     match s.reachX s.thr.pc with | .ok (.win core off) => core == 0 && off == 0 | _ => false)) = true := by decide +kernel

/-- SHA-384 of "abc" starts CB 00 75 3F and ends 58 BA EC A7 (the standard's own example). -/
theorem test_sha384 : (sha384 [0x61, 0x62, 0x63]).take 4 = [0xCB, 0x00, 0x75, 0x3F] ∧ (sha384 [0x61, 0x62, 0x63]).drop 44 = [0x34, 0xC8, 0x25, 0xA7] := by
  decide +kernel

/-! ### Words of the manual -/

/-- A guarded ADD.b32 that yields (chapter 13), and the bytes of it in memory. -/
theorem test_decodeAdd : decodeTableWord 96 0x1000E000501B000100000064 =
    some (.add ⟨0, false, 3, true, false, 0, ⟨.G, 5⟩, ⟨.G, 6⟩, ⟨.I, 0⟩, 1, 100⟩) ∧
    wordOfBytes [0x64, 0x00, 0x00, 0x00, 0x01, 0x00, 0x1B, 0x50, 0x00, 0xE0, 0x00, 0x10] = 0x1000E000501B000100000064 := by decide +kernel
/-- CALL g23 with displacement 12 (chapter 15); a comparison .gt, SEXT, MFS and PLOG.andn from the tables of R299, R302, R310 and R314. -/
theorem test_decodeControl : decodeTableWord 96 0x0307C0017E0380000000000C = some (.call ⟨0, false, 31, false, false, 0, ⟨.G, 23⟩, ⟨.Z, 0⟩, ⟨.Z, 0⟩, 0x00, 0xC⟩) ∧
    decodeTableWord 96 0x2A07C000100B000000000010 = some (.sext ⟨0, false, 31, false, false, 0, ⟨.G, 1⟩, ⟨.G, 2⟩, ⟨.I, 0⟩, 0x00, 0x10⟩) ∧
    decodeTableWord 96 0x3307C00038A3800000000000 = some (.mfs ⟨0, false, 31, false, false, 0, ⟨.G, 3⟩, ⟨.S, 40⟩, ⟨.Z, 0⟩, 0x00, 0x0⟩) ∧
    decodeTableWord 96 0x4047C0081013000000000005 = some (.cmp ⟨4, false, 31, false, false, 0, ⟨.P, 1⟩, ⟨.G, 4⟩, ⟨.I, 0⟩, 0x00, 0x5⟩) ∧
    decodeTableWord 96 0x4337C00812089F0000000000 = some (.plog ⟨3, false, 31, false, false, 0, ⟨.P, 1⟩, ⟨.P, 2⟩, ⟨.P, 31⟩, 0x00, 0x0⟩) := by decide +kernel
/-- FADD with .rz and .sat is FP32 at MOD[7:4] = 0 or FP16 at 2; DADD with .rup and .sat (R308, R314). -/
theorem test_decodeFloat : decodeTableWord 96 0x3807C0001008032A00000000 = some (.fadd ⟨0, false, 31, false, false, 0, ⟨.G, 1⟩, ⟨.G, 2⟩, ⟨.G, 3⟩, 0x2A, 0x0⟩) ∧
    decodeTableWord 96 0xE807C0001008030C00000000 = some (.dadd ⟨0, false, 31, false, false, 0, ⟨.G, 1⟩, ⟨.G, 2⟩, ⟨.G, 3⟩, 0x0C, 0x0⟩) := by decide +kernel
/-- The words of chapters 16 and 20: LD, ATOM.add.acq, QPOP; TAGST and FENCE.rel from the tables. -/
theorem test_decodeMemory : decodeTableWord 96 0x4807C000103B800000000128 = some (.ld ⟨0, false, 31, false, false, 0, ⟨.G, 1⟩, ⟨.G, 14⟩, ⟨.Z, 0⟩, 0x00, 0x128⟩) ∧
    decodeTableWord 96 0x5007C000100B800000000010 = some (.tagst ⟨0, false, 31, false, false, 0, ⟨.G, 1⟩, ⟨.G, 2⟩, ⟨.Z, 0⟩, 0x00, 0x10⟩) ∧
    decodeTableWord 96 0x6007C0006010050815000010 = some (.atom ⟨0, false, 31, false, false, 0, ⟨.G, 6⟩, ⟨.G, 4⟩, ⟨.G, 5⟩, 0x08, 0x15000010⟩) ∧
    decodeTableWord 96 0x7C07C0005013800000000040 = some (.qpop ⟨0, false, 31, false, false, 0, ⟨.G, 5⟩, ⟨.G, 4⟩, ⟨.Z, 0⟩, 0x00, 0x40⟩) ∧
    decodeTableWord 96 0x7007C0380007801000000000 = some (.fence ⟨0, false, 31, false, false, 0, ⟨.Z, 0⟩, ⟨.G, 1⟩, ⟨.Z, 0⟩, 0x10, 0x0⟩) := by decide +kernel
/-- VFMA of chapter 17; SFN.erf and TADD from the tables. -/
theorem test_decodeVectorTile : decodeTableWord 96 0x8307C0005013000040000000 = some (.vfma ⟨0, false, 31, false, false, 0, ⟨.G, 5⟩, ⟨.G, 4⟩, ⟨.I, 0⟩, 0x00, 0x40000000⟩) ∧
    decodeTableWord 96 0xA097C000100B800000000000 = some (.sfn ⟨9, false, 31, false, false, 0, ⟨.G, 1⟩, ⟨.G, 2⟩, ⟨.Z, 0⟩, 0x00, 0x0⟩) ∧
    decodeTableWord 96 0xB807C01014090F0000000000 = some (.tadd ⟨0, false, 31, false, false, 0, ⟨.T, 1⟩, ⟨.T, 2⟩, ⟨.T, 15⟩, 0x00, 0x0⟩) := by decide +kernel
/-- MXB.mma of chapter 18, CPYM of chapter 19, BOUND of chapter 22. -/
theorem test_decodeEngines : decodeTableWord 96 0xC127C0007050080000505200 = some (.mxb ⟨2, false, 31, false, false, 0, ⟨.G, 7⟩, ⟨.G, 20⟩, ⟨.G, 8⟩, 0x00, 0x505200⟩) ∧
    decodeTableWord 96 0xD207C00080280B0000F06628 = some (.cpym ⟨0, false, 31, false, false, 0, ⟨.G, 8⟩, ⟨.G, 10⟩, ⟨.G, 11⟩, 0x00, 0xF06628⟩) ∧
    decodeTableWord 96 0xE207C0380017800000000000 = some (.bound ⟨0, false, 31, false, false, 0, ⟨.Z, 0⟩, ⟨.G, 5⟩, ⟨.Z, 0⟩, 0x00, 0x0⟩) := by decide +kernel
/-- RGNOP.create of chapter 23, and RGNOP.slice. -/
theorem test_decodeSystem : decodeTableWord 96 0xF207C000500C020000000000 = some (.rgnopCreate ⟨0, false, 31, false, false, 0, ⟨.G, 5⟩, ⟨.G, 3⟩, ⟨.G, 2⟩, 0x00, 0x0⟩) ∧
    decodeTableWord 96 0xF257C000500C020000000000 = some (.rgnopSlice ⟨5, false, 31, false, false, 0, ⟨.G, 5⟩, ⟨.G, 3⟩, ⟨.G, 2⟩, 0x00, 0x0⟩) := by decide +kernel
/-- Words that stand for nothing: opcode 0x0B and 0xFF are not assigned (R314), function 6 is no comparison (R310), an SZ of ADD needs MOD[7:4] = 0
(R308). -/
theorem test_decodeRefused : ([0x0B07C0380E03800000000000, 0xFF07C0380E03800000000000, 0x4067C0801013000000000005, 0x1007C000501B001000000064].all
    fun w => (decodeTableWord 96 w).isNone) = true := by decide +kernel

/-! ### Ill-formed terms: one for each check of WellFormed -/

/-- An event is no instruction word. -/
theorem test_illFormedEvent : Instr.vauxPresent.wellFormed = false := by decide +kernel
/-- A function value, a modifier and an immediate that R310, R308 and R305 do not allow. -/
theorem test_illFormedFields : (Instr.add (fd (g 1) (g 2) (g 3) 0 0 1)).wellFormed = false ∧ (Instr.add (fd (g 1) (g 2) (g 3) 0x10)).wellFormed = false ∧
    (Instr.add (fd (g 1) (g 2) (g 3) 0 1)).wellFormed = false := by decide +kernel
/-- A class that D, A or B does not accept, and an index outside its class (R302). -/
theorem test_illFormedOperands : (Instr.add (fd (pr 1) (g 2) (g 3))).wellFormed = false ∧ (Instr.add (fd (g 1) (pr 2) (g 3))).wellFormed = false ∧
    (Instr.add (fd (g 1) (g 2) (pr 3))).wellFormed = false ∧ (Instr.add (fd (g 28) (g 2) (g 3))).wellFormed = false := by decide +kernel

/-! ### Single steps: the manual's examples and corners worked out by hand from its rules -/

/-- Register `n` after an instruction on a state. -/
def after (i : Instr) (l : List Word) (n : Nat) : Word := (thrOf (exec i (regs l))).gpr n

/-- R340: a 32-bit sum wraps and its result is zero-extended, or sign-extended with .s. -/
theorem test_addWraps : after (.add (fd (g 5) (g 6) i0 1 100)) [0, 0, 0, 0, 0, 7, 0xFFFFFFFF] 5 = 99 ∧
    after (.add (fd (g 5) (g 6) i0 5 100)) [0, 0, 0, 0, 0, 7, 0x7FFFFFFF] 5 = 0xFFFFFFFF80000063 := by decide +kernel
/-- R341: −7 / 2 and −7 rem 2 go toward zero; x / 0 is all ones, x rem 0 is x. -/
theorem test_division : after (.div (fd (g 1) (g 2) (g 3) 4)) [0, 0, 0xFFFFFFFFFFFFFFF9, 2] 1 = 0xFFFFFFFFFFFFFFFD ∧
    after (.rem (fd (g 1) (g 2) (g 3) 4)) [0, 0, 0xFFFFFFFFFFFFFFF9, 2] 1 = 0xFFFFFFFFFFFFFFFF ∧
    after (.div (fd (g 1) (g 2) z)) [0, 0, 5] 1 = 0 ∧ after (.divu (fd (g 1) (g 2) (g 3) 1)) [0, 0, 5] 1 = 0xFFFFFFFF ∧
    after (.remu (fd (g 1) (g 2) (g 3))) [0, 0, 5] 1 = 5 := by decide +kernel
/-- R340: the high word of a product; R341: a count over the width is taken modulo it. -/
theorem test_highAndShifts : after (.mulhu (fd (g 1) (g 2) (g 3))) [0, 0, 0xFFFFFFFFFFFFFFFF, 2] 1 = 1 ∧
    after (.mulh (fd (g 1) (g 2) (g 3))) [0, 0, 0xFFFFFFFFFFFFFFFF, 2] 1 = 0xFFFFFFFFFFFFFFFF ∧
    after (.shl (fd (g 1) (g 2) (g 3))) [0, 0, 3, 65] 1 = 6 := by decide +kernel
/-- A source that is also the destination is read before it is written (R326). -/
theorem test_sourceIsDestination : after (.sub (fd (g 2) (g 3) (g 2))) [0, 0, 5, 9] 2 = 4 := by decide +kernel
/-- 1.5 + 2.25 = 3.75 in FP32, and 2^24 + 1 rounds to even (R226, R351). -/
theorem test_fadd : after (.fadd (fd (g 1) (g 2) (g 3) 1)) [0, 0, 0x3FC00000, 0x40100000] 1 = 0x40700000 ∧
    after (.fadd (fd (g 1) (g 2) (g 3) 1)) [0, 0, 0x4B800000, 0x3F800000] 1 = 0x4B800000 := by decide +kernel
/-- CALL of chapter 15: at 0x3C with displacement 12 it links 0x48 and goes to 0x6C. -/
theorem test_call : (let s := base.modThr fun t => { t with pc := 0x200000000000003C }
    let t := thrOf (exec (.call (fd (g 23) z z 0 12)) s)
    t.pc == 0x200000000000006C && t.gpr 23 == 0x2000000000000048) = true := by decide +kernel
/-- LOOP of chapter 15: at 0x30 with displacement −6 it goes to 0x18, and falls through at the last count. -/
theorem test_loop : (let s := fun n => (regs [0, 0, n]).modThr fun t => { t with pc := 0x2000000000000030 }
    let t := thrOf (exec (.loop (fd (g 2) z z 0 0xFFFFFFFA)) (s 4))
    let u := thrOf (exec (.loop (fd (g 2) z z 0 0xFFFFFFFA)) (s 1))
    t.pc == 0x2000000000000018 && t.gpr 2 == 3 && u.pc == 0x200000000000003C && u.gpr 2 == 0) = true := by decide +kernel
/-- R306: a false guard skips the instruction. -/
theorem test_skipped : (let t := thrOf (exec (.add ⟨0, false, 3, false, false, 0, g 1, g 2, i0, 0, 5⟩) base)
    t.gpr 1 == 0 && t.pc == base.thr.pc + 12) = true := by decide +kernel
/-- R140, R334: TRAP enters the user handler with the next instruction in %tpc and clears the user h registers. -/
theorem test_trap : (let t := thrOf (exec (.trap (fd z z z 0 0x85)) user)
    t.h && t.pc == 0x2000000000000100 && t.tpc == user.thr.pc + 12 && t.tcause == 0x85 && !t.s) = true := by decide +kernel
/-- R467: SCALL enters S mode at the holding's supervisor vector with the next instruction in %spc. -/
theorem test_scall : (let t := thrOf (exec (.scall (fd z z z 0 0x80)) user)
    t.s && t.pc == 0x2000000000000200 && t.spc == user.thr.pc + 12 && t.scause == 0x80) = true := by decide +kernel
/-- R316: a class that OPB does not accept is ILLOPD (cause 2) with INFO 2, a fault of S mode at the instruction. -/
theorem test_illopd : (let t := thrOf (exec (.add (fd (g 1) (g 2) (pr 3))) user)
    t.s && t.scause.extractLsb' 0 8 == 2 && t.spc == user.thr.pc) = true := by decide +kernel
/-- R3 and R367: a store of 32 bits is little-endian, and a load of 16 of them with .s extends its sign. -/
theorem test_store : (let s := stOf (exec (.st (fd (g 2) (g 1) z 1)) (regs [0, 0x100, 0x1122F344]))
    let t := thrOf (exec (.ld (fd (g 3) (g 1) z 6)) (s.modThr fun t => { t with pc := 0x2000000000000000 }))
    (List.range 5).map (fun i => s.winBytes 0 0 (0x100 + i) 1) == [[0x44], [0xF3], [0x22], [0x11], [0]] && t.gpr 3 == 0xFFFFFFFFFFFFF344) = true := by
  decide +kernel
/-- R376: ATOM.add returns the old value and leaves the sum. -/
theorem test_atom : (let s := stOf (exec (.atom (fd (g 6) (g 1) (g 5))) (regs [0, 0x100, 0, 0, 0, 7] (base.winPut 0 0 0x100 [0xFE, 0xFF])))
    s.thr.gpr 6 == 0xFFFE && s.winBytes 0 0 0x100 4 == [0x05, 0x00, 0x01, 0x00]) = true := by decide +kernel
/-- R171 and R362: an access of 8 bytes that is not aligned faults ALIGN (cause 0x14) with the pointer in %saddr, and stores nothing. -/
theorem test_align : (let o := exec (.st (fd (g 2) (g 1) z)) (regs [0, 0x104, 5] user)
    (thrOf o).scause.extractLsb' 0 8 == 0x14 && (thrOf o).saddr == 0x104 && (stOf o).winBytes 0 0 0x104 8 == List.replicate 8 0) = true := by
  decide +kernel
/-- R227: the generator's first steps from 1, by hand: 1 becomes 0x00042021. -/
theorem test_rng : rngNext 1 = 0x00042021 := by decide +kernel

end Sys2Proof.Tests
end

/-! SUPPORT. What finding an access's place leaves alone, and what a load from the issuing core's own bank does (R173, R178, R367). -/

namespace Sys2Proof.Machine

open Sys2Proof.Claims

/-! ### The slot of the present step -/

theorem State.slot_modSlot (s : State) (f : Slot → Slot) : (s.modSlot f).slot = f s.slot :=
  State.slotAt_setSlotAt s s.core s.slotNo (f s.slot)

theorem State.thr_modSlot (s : State) (f : Slot → Slot) : (s.modSlot f).thr = (f s.slot).thr.getD {} := by
  unfold State.thr
  rw [State.slot_modSlot]

/-- Changing the thread gives the slot a thread, also where it had none. -/
theorem State.slot_thr_modThr (s : State) (f : Thread → Thread) : (s.modThr f).slot.thr = some (f s.thr) := by
  unfold State.modThr State.setThr
  rw [State.slot_modSlot]

@[simp] theorem State.thr_modThr (s : State) (f : Thread → Thread) : (s.modThr f).thr = f s.thr := by
  unfold State.thr
  rw [State.slot_thr_modThr]
  rfl

@[simp] theorem Slot.done_thr (v : Slot) (y : Bool) : (v.done y).thr = v.thr := rfl

/-- The thread after an instruction has completed is the one of its effect, moved on. -/
theorem State.finish_thr {e : State} {t : Thread} (f : Fields) (c : Nat) (h : e.slot.thr = some t) : (e.finish f c).thr = t.advance := by
  change (e.modSlot fun v => { v.done f.yld with thr := v.thr.map Thread.advance }).thr = _
  rw [State.thr_modSlot, h]
  rfl

@[simp] theorem State.finish_spad (e : State) (f : Fields) (c : Nat) : (e.finish f c).co.spad = e.co.spad := rfl

/-! ### General registers -/

/-- A register reads what was written to it, in either bank (R166). -/
@[simp] theorem Thread.gpr_setGpr_same (t : Thread) (n : Nat) (v : Word) : (t.setGpr n v).gpr n = v := by
  by_cases hn : n < 24
  · simp only [Thread.setGpr, Thread.gpr, if_pos hn, Tab.get_set_same]
  · by_cases hs : t.s = true
    · simp only [Thread.setGpr, Thread.gpr, if_neg hn, if_pos hs, Tab.get_set_same]
    · simp only [Thread.setGpr, Thread.gpr, if_neg hn, if_neg hs, Tab.get_set_same]

/-- Going on to the next instruction, or to the next iteration of a repeat, writes no general register (R311). -/
@[simp] theorem Thread.gpr_advance (t : Thread) (n : Nat) : t.advance.gpr n = t.gpr n := by
  unfold Thread.advance
  split
  · rfl
  · split <;> rfl

/-! ### States that differ in the slots alone -/

/-- The state `t` differs from `s` in its slots alone, and the thread of the present step at most in whether it roams: what the
search for an access's place may do when it ends in the own bank (R131, R178). -/
structure SlotsOnly (s t : State) : Prop where
  rest : ∃ l, t = { s with co := { s.co with slots := l } }
  thr : { t.thr with roam := false } = { s.thr with roam := false }

namespace SlotsOnly

theorem trans {s t u : State} (h1 : SlotsOnly s t) (h2 : SlotsOnly t u) : SlotsOnly s u := by
  obtain ⟨l1, rfl⟩ := h1.rest
  obtain ⟨l2, rfl⟩ := h2.rest
  exact ⟨⟨l2, rfl⟩, h2.thr.trans h1.thr⟩

theorem modSlot (s : State) {f : Slot → Slot} (hf : ∀ v, (f v).thr = v.thr) : SlotsOnly s (s.modSlot f) := by
  refine ⟨⟨_, rfl⟩, ?_⟩
  rw [State.thr_modSlot, hf]
  rfl

theorem pin (s : State) : SlotsOnly s s.pin := ⟨⟨_, rfl⟩, by simp [State.pin]⟩

variable {s t : State} (h : SlotsOnly s t)
include h

theorem ctl : t.ctl = s.ctl := by
  obtain ⟨l, rfl⟩ := h.rest
  rfl

theorem hd : t.hd = s.hd := by
  obtain ⟨l, rfl⟩ := h.rest
  rfl

theorem spad : t.co.spad = s.co.spad := by
  obtain ⟨l, rfl⟩ := h.rest
  rfl

theorem core : t.core = s.core := congrArg (·.here.unit) h.ctl

theorem thr_hold : t.thr.hold = s.thr.hold := by
  have hh := congrArg Thread.hold h.thr
  exact hh

theorem winPhys (hold off : Nat) : t.winPhys hold off = s.winPhys hold off := by
  simp only [State.winPhys, State.hbanks, State.hword, State.hold, h.hd]

end SlotsOnly

/-! ### Where an access lands in the own bank -/

@[simp] theorem raise_ne_ok {α : Type} (s : State) (code info : Nat) (addr : Word) (write : Bool) (x : α) :
    raise s code info addr write ≠ .ok x := nofun
@[simp] theorem stay_ne_ok {α : Type} (s : State) (x : α) : stay s ≠ .ok x := nofun
@[simp] theorem leftM_ne_ok {α : Type} (s : State) (x : α) : leftM s ≠ .ok x := nofun
@[simp] theorem parkAt_ne_ok {α : Type} (s : State) (off n : Nat) (full : Bool) (r : Ref) (redirs : Nat) (x : α) :
    parkAt s off n full r redirs ≠ .ok x := nofun

/-- The search for an access's place that ends in the own bank has changed slots alone: it has pinned the thread, once for each
REDIRECT that it followed (R178). -/
theorem locate_here {kind n al : Nat} {need : Need} {move : Bool} {off : Nat} {acts : List (Nat × Nat)} {r' : Ref} {k' : Nat} {t : State}
    (fuel : Nat) {s : State} {r : Ref} {k : Nat}
    (h : locate kind n al need move fuel s r k = .ok (.here off acts, r', k', t)) : SlotsOnly s t := by
  induction fuel generalizing s r k with
  | zero => simp [locate] at h
  | succ fuel ih =>
    rw [locate] at h
    cases hp : reachM s s.who r n al need with
    | error e => simp [hp, bind, Except.bind] at h
    | ok p =>
      cases p with
      | win core o =>
        simp only [hp, bind, Except.bind] at h
        split at h
        · cases h
        split at h
        · split at h
          · cases h
          have hpin := SlotsOnly.pin s
          cases hlook : s.pin.unitLook core s.thr.hold kind (winWords o (unitLen kind o n)) with
          | wait full => simp [hlook] at h
          | trap sub w => simp [hlook] at h
          | redirMany w => simp [hlook] at h
          | redirect w =>
            simp only [hlook] at h
            split at h
            · simp at h
            split at h
            · simp at h
            · exact hpin.trans (ih h)
          | go acts' =>
            simp only [hlook] at h
            cases h
            exact hpin
        · split at h
          · simp at h
          · cases h
      | mva a =>
        simp only [hp, bind, Except.bind] at h
        split at h
        · cases h
        split at h
        · cases h
        split at h
        · simp at h
        · cases h

/-- A unit that begins marks its slot with its number and pointer (R183). -/
theorem SlotsOnly.startAt (s : State) (r : Ref) : SlotsOnly s (s.startAt r).2.2 :=
  SlotsOnly.modSlot s (f := fun v => { v with resume := { v.resume with cur := (s.slot.unit, r.word) } }) fun _ => rfl

theorem locate1_here {s t : State} {kind n al : Nat} {need : Need} {r r' : Ref} {off k' : Nat} {acts : List (Nat × Nat)}
    (h : locate1 s kind n al need r = .ok (.here off acts, r', k', t)) : SlotsOnly s t :=
  (SlotsOnly.startAt s r).trans (locate_here 6 h)

/-! ### What a load changes of the banks -/

/-- What each step of a fold keeps, the fold keeps. -/
theorem foldl_keeps {σ α β : Type} (g : σ → β) {step : σ → α → σ} (h : ∀ s a, g (step s a) = g s) (l : List α) (s : σ) :
    g (l.foldl step s) = g s := by
  induction l generalizing s with
  | nil => rfl
  | cons a l ih => rw [List.foldl_cons, ih, h]

@[simp] theorem State.wakeIf_spad (s : State) (core : Nat) (p : Slot → Park → Bool) : (s.wakeIf core p).co.spad = s.co.spad := by
  unfold State.wakeIf State.upto
  refine foldl_keeps (·.co.spad) (fun s k => ?_) _ s
  split
  · split <;> rfl
  · rfl

@[simp] theorem State.setTag_spad (s : State) (core hold w : Nat) (t : BitVec 4) : (s.setTag core hold w t).co.spad = s.co.spad := by
  unfold State.setTag
  rw [State.wakeIf_spad]

/-- Retagging writes tags alone (R177). -/
@[simp] theorem State.retag_spad (s : State) (core hold : Nat) (acts : List (Nat × Nat)) : (s.retag core hold acts).co.spad = s.co.spad := by
  unfold State.retag
  refine foldl_keeps (·.co.spad) (fun s a => ?_) acts s
  dsimp only
  split
  · rw [State.setTag_spad]
  · rfl

@[simp] theorem acquired_spad (s : State) (w : Option Word) : (acquired s w).co.spad = s.co.spad := by
  cases w <;> rfl

theorem State.bankByte_congr {s t : State} (h : t.co.spad = s.co.spad) (core phys : Nat) : t.bankByte core phys = s.bankByte core phys := by
  unfold State.bankByte
  rw [h]

/-- A unit without dropped words reads the bytes of the window as they stand (R172, R177). -/
theorem State.unitRead_eq {s : State} {acts : List (Nat × Nat)} (h : ∀ a ∈ acts, actOf a.2 ≠ 5) (core hold off n : Nat) :
    s.unitRead core hold off n acts = (List.range n).map fun i => s.bankByte core (s.winPhys hold (off + i)) := by
  have hd : ∀ w, dropped acts w = false := fun w => by
    simp only [dropped, List.any_eq_false, Bool.and_eq_true, decide_eq_true_eq, not_and]
    exact fun a ha _ => h a ha
  simp [State.unitRead, hd, State.bankByte]

/-! ### Loads from the own bank -/

/-- A load whose unit lands in the own bank completes there at once, when no beat of it is bad and no release of the thread is open
before its acquire (R264, R367). -/
theorem loadOp_here {s s1 : State} {o : Operand} {two : Bool} {n al : Nat} {e : Ext} {r r' : Ref} {acq : Option Word}
    {off k : Nat} {acts : List (Nat × Nat)}
    (hl : locate1 s kLD n al { r := true } r = .ok (.here off acts, r', k, s1))
    (hb : s1.unitBad s1.core s1.thr.hold acts = false) (ha : AcqOk s acq) :
    loadOp s o two n al e r acq = .ok (.step
      ((acquired (s1.retag s1.core s1.thr.hold acts) acq).dstNow o two e (s1.unitRead s1.core s1.thr.hold off n acts))) := by
  unfold loadOp
  cases acq with
  | none => simp [hl, hb, bind, Except.bind, acquired]
  | some w =>
    obtain ⟨-, hr⟩ := ha
    simp [hl, hb, hr, bind, Except.bind, acquired]

theorem exec_ld (f : Fields) (s : State) : exec (.ld f) s = issue (.ld f) s fun f s =>
    loadOp s f.d false (szBytes (mdSz f.md)) (szBytes (mdSz f.md)) ⟨szBytes (mdSz f.md), mdSgn f.md⟩ (s.refM f) none := rfl

theorem exec_ldp (f : Fields) (s : State) : exec (.ldp f) s = issue (.ldp f) s fun f s =>
    loadOp s f.d true 16 16 ⟨8, false⟩ (s.refM f) none := rfl

theorem exec_ldacq (f : Fields) (s : State) : exec (.ldacq f) s = issue (.ldacq f) s fun f s => (do
    checkPlot s (s.g f.b)
    loadOp s f.d false (szBytes (mdSz f.md)) (szBytes (mdSz f.md)) ⟨szBytes (mdSz f.md), mdSgn f.md⟩ (s.refP f) (some (s.g f.b))) := rfl

/-- R367, R178 and R264: LD, LDP and LDACQ complete with the bytes of the own bank. -/
theorem loadFromOwnBank : LoadFromOwnBank := by
  intro p hp f s off acts r k s1 hready hl hb ha ha1
  have hbody := loadOp_here (o := f.d) (two := p.two) (e := p.ext f) hl hb ha
  simp only [loadTable, List.mem_cons, List.not_mem_nil, or_false] at hp
  rcases hp with rfl | rfl | rfl
  · exact completes_of_body (exec_ld f s) rfl hready hbody
  · exact completes_of_body (exec_ldp f s) rfl hready hbody
  · refine completes_of_body (exec_ldacq f s) rfl hready ?_
    simp only [checkPlot_ok ha.1, bind, Except.bind]
    exact hbody

/-- A value written to a general register as it comes is in it when the instruction has completed (R326). -/
theorem State.gpr_finish_dstNow (e : State) {o : Operand} (ho : o.cls = .G) (x : Ext) (bs : List Byte) (f : Fields) (c : Nat) :
    ((e.dstNow o false x bs).finish f c).thr.gpr o.idx.toNat = extVal x bs := by
  have hd : e.dstNow o false x bs = e.modThr fun t => t.setGpr o.idx.toNat (extVal x bs) := by
    simp [State.dstNow, State.dst, ho]
  rw [hd, State.finish_thr f c (State.slot_thr_modThr e _)]
  simp

theorem State.dstNow_spad (e : State) {o : Operand} (ho : o.cls = .G) (x : Ext) (bs : List Byte) :
    (e.dstNow o false x bs).co.spad = e.co.spad := by
  simp only [State.dstNow, State.dst, ho]
  rfl

/-- Settles O50: the search for the place changes slots alone, so that the load reads the window as it stood and writes no bank. -/
theorem loadValue : Obligations.LoadValue := by
  intro p hp f s off acts r k s1 hready hcls n hl hdrop hb hacq
  have hs := locate1_here hl
  have hval : s1.unitRead s1.core s1.thr.hold off n acts =
      (List.range n).map fun i => s.bankByte s.core (s.winPhys s.thr.hold (off + i)) := by
    simp only [State.unitRead_eq hdrop, State.bankByte_congr hs.spad, hs.core, hs.thr_hold, hs.winPhys]
  obtain ⟨acq, hcomp⟩ : ∃ acq, Completes (p.1 f) f s ((acquired (s1.retag s1.core s1.thr.hold acts) acq).dstNow f.d false
      ⟨n, mdSgn f.md⟩ (s1.unitRead s1.core s1.thr.hold off n acts)) := by
    simp only [List.mem_cons, List.not_mem_nil, or_false] at hp
    rcases hp with rfl | rfl
    · exact ⟨none, loadFromOwnBank _ (.head _) f s off acts r k s1 hready hl hb trivial trivial⟩
    · obtain ⟨ha, ha1⟩ := hacq (by simp)
      exact ⟨some (s.g f.b), loadFromOwnBank _ (.tail _ (.tail _ (.head _))) f s off acts r k s1 hready hl hb ha ha1⟩
  refine ⟨_, hcomp, ?_, fun core phys => State.bankByte_congr ?_ core phys⟩
  · rw [← hval]
    exact State.gpr_finish_dstNow _ hcls _ _ f s.core
  · dsimp only
    rw [State.finish_spad, State.dstNow_spad _ hcls, acquired_spad, State.retag_spad, hs.spad]

end Sys2Proof.Machine

/-! SUPPORT. What the host's accesses to registers, configuration bits and window M do, and what the events of a function do (R33 to R54,
R67, R90, R91, R115, R116). -/

namespace Sys2Proof.Machine

open Sys2Proof.Claims

theorem le_totalVFs {fn : Nat} (h : fn < 64) : fn ≤ totalVFs := Nat.le_of_lt_succ h

/-! ### Writes in windows A and B (R44, R45, R72) -/

/-- An access that is not aligned, or where no register is, only counts an MMIO error. -/
theorem State.putWin_error {s : State} {fn off size v : Nat} {reg : Nat → Option Nat} {put : State → Nat → Nat → State}
    (h : accessOk off size = false ∨ reg (off / 8 * 8) = none) : s.putWin fn off size v reg put = s.mmioError fn := by
  unfold State.putWin
  rcases h with h | h
  · simp [h]
  · simp [h]

theorem State.putWin_some {s : State} {fn off size v old : Nat} {reg : Nat → Option Nat} {put : State → Nat → Nat → State}
    (hok : accessOk off size = true) (h : reg (off / 8 * 8) = some old) :
    s.putWin fn off size v reg put = put s (off / 8 * 8) (mergeReg old off size v) := by
  simp [State.putWin, hok, h]

theorem happens_registerWrite_winA (s : State) {fn off : Nat} (size : Nat) (v : Word) (hfn : fn < 64) (hoff : off < 2 ^ 16) :
    Happens (.registerWrite (.winA fn off) size v) s (s.putWin fn off size v.toNat (s.winA fn) fun s => s.putA fn) :=
  happens_of rfl (if_neg (by simpa [le_totalVFs hfn] using hoff))

theorem happens_registerWrite_winB (s : State) {fn off : Nat} (size : Nat) (v : Word) (hfn : fn < 64) (hoff : off < 2 ^ 12) :
    Happens (.registerWrite (.winB fn off) size v) s (s.putWin fn off size v.toNat (s.winB fn) fun s => s.putB fn) :=
  happens_of rfl (if_neg (by simpa [le_totalVFs hfn] using hoff))

/-! ### Writes of root's registers (R11, R33 to R35) -/

/-- A limit out of its range is ignored (R11). -/
theorem exec_registerWrite_powerLimit (s : State) (size : Nat) (v : Word) :
    exec (.registerWrite .powerLimit size v) s = .next
      (withPw s (if 4000 ≤ v.toNat ∧ v.toNat ≤ 10000 then { s.pw with limit := v.toNat } else s.pw)) := by
  change execRegisterWrite .powerLimit size v s = _
  simp [execRegisterWrite, eventPw, withPw]

theorem happens_registerWrite_routeMask (s : State) {peer : Nat} (size : Nat) (v : Word) (h : peer < 8) :
    Happens (.registerWrite (.routeMask peer) size v) s
      { s with net := { s.net with masks := Tab.set 0 s.net.masks peer (BitVec.ofNat 48 v.toNat) } } :=
  happens_of rfl (if_neg (Nat.not_le.mpr h))

theorem happens_registerWrite_peerGrant (s : State) {peer hold loc : Nat} (valid : Bool) (base limit : Nat) (r w a : Bool) (size : Nat)
    (v : Word) (hp : peer < 8) (hh : hold < 64) (hl : loc < 64) :
    Happens (.registerWrite (.peerGrant peer hold valid loc base limit r w a) size v) s
      { s with net := { s.net with grants := Tab.set {} s.net.grants (peer * 64 + hold) ⟨valid, loc, base, limit, r, w, a⟩ } } :=
  happens_of rfl (if_neg (by simp [hp, hh, hl]))

theorem happens_registerWrite_linkCounters (s : State) {link : Nat} (size : Nat) (v : Word) (h : link < 48) :
    let t := s.modLink link fun k => { k with dropc := bits v.toNat 55 40, retc := bits v.toNat 39 24, nakc := bits v.toNat 23 8 }
    Happens (.registerWrite (.linkCounters link) size v) s (if bit v.toNat 3 then t.resetLink link else t) :=
  happens_of rfl (if_neg (Nat.not_le.mpr h))

/-! ### Reads (R4, R45) -/

/-- The part of an 8-byte register that a read of `size` bytes returns. -/
def regPart (off size x : Nat) : Word := BitVec.ofNat 64 (if size = 8 then x else bits x (off % 8 * 8 + 31) (off % 8 * 8))

section Reads

variable {s : State} {off size x : Nat} {b : Bool}
  (hp : s.ctl.here.unit / 64 < 2) (hoff : off < if b then 2 ^ 12 else 2 ^ 16)
include hp hoff

/-- The read of a register of window A or B. -/
theorem happens_hostRegisterRead_some (hok : accessOk off size = true) (hk : s.ctl.here.sub = 0)
    (hx : (if b then s.winB (s.ctl.here.unit % 64) (off / 8 * 8) else s.winA (s.ctl.here.unit % 64) (off / 8 * 8)) = some x) :
    Happens (.hostRegisterRead b off size) s
      (s.send (.cplValue (s.ctl.here.unit / 64) (s.ctl.here.unit % 64) (regPart off size x))) := by
  refine happens_of rfl ?_
  simpa [hp, hok, hk, hx, regPart] using hoff

/-- A read where no register is returns 0 and counts an MMIO error. -/
theorem happens_hostRegisterRead_none (hok : accessOk off size = true) (hk : s.ctl.here.sub = 0)
    (hx : (if b then s.winB (s.ctl.here.unit % 64) (off / 8 * 8) else s.winA (s.ctl.here.unit % 64) (off / 8 * 8)) = none) :
    Happens (.hostRegisterRead b off size) s
      ((s.mmioError (s.ctl.here.unit % 64)).send (.cplValue (s.ctl.here.unit / 64) (s.ctl.here.unit % 64) 0)) := by
  refine happens_of rfl ?_
  simpa [hp, hok, hk, hx] using hoff

/-- Root's read of a register of the root window (R4). -/
theorem happens_hostRegisterRead_root (hok : accessOk off size = true) (hfn : s.ctl.here.unit % 64 = 0) (hk : s.ctl.here.sub ≠ 0)
    (hx : s.rootReg s.ctl.here.sub s.ctl.here.pos off = some x) :
    Happens (.hostRegisterRead b off size) s
      (s.send (.cplValue (s.ctl.here.unit / 64) (s.ctl.here.unit % 64) (regPart off size x))) := by
  refine happens_of rfl ?_
  simpa [hp, hok, hfn, hk, hx, regPart] using hoff

/-- A read that is not aligned is an unsupported request and counts an MMIO error. -/
theorem happens_hostRegisterRead_misaligned (hok : accessOk off size = false) (hk : s.ctl.here.sub = 0) :
    Happens (.hostRegisterRead b off size) s
      ((s.mmioError (s.ctl.here.unit % 64)).send (.cplUR (s.ctl.here.unit / 64) (s.ctl.here.unit % 64))) := by
  refine happens_of rfl ?_
  simpa [hp, hok, hk] using hoff

end Reads

/-! ### Configuration bits and other registers (R49, R50, R53, R54, R67, R116) -/

theorem portFn_ok {p fn : Nat} (hp : p < 2) (hfn : fn < 64) : ¬(decide (2 ≤ p) || decide (totalVFs < fn)) = true := by
  simp [hp, le_totalVFs hfn]

/-- The register of the HDM-DB region enables it only where its size and range are allowed (R54). -/
theorem happens_hdmRegionWrite (s : State) (v : Word) : Happens (.hdmRegionWrite v) s { s with hi := { s.hi with
    hdm := BitVec.ofNat 64 (bits v.toNat 47 18 * 2 ^ 18 +
      if 1 ≤ bits v.toNat 29 18 ∧ bits v.toNat 29 18 ≤ 2048 ∧ (bits v.toNat 47 30 + bits v.toNat 29 18) * 2 ^ 28 ≤ dramSize
      then v.toNat % 2 else 0) } } := by
  change execHdmRegionWrite v s = _
  simp only [execHdmRegionWrite, event, eventPw, field, Bool.and_eq_true, decide_eq_true_eq, and_assoc]

/-- The host's register accesses, configuration bits and root's reads. -/
theorem hostRegisters : HostRegisters := by
  intro s
  refine ⟨?winA, ?winB, exec_registerWrite_powerLimit s, fun _ size v h => happens_registerWrite_routeMask s size v h,
    fun _ _ valid _ base limit r w a size v hp hh hl => happens_registerWrite_peerGrant s valid base limit r w a size v hp hh hl,
    fun _ size v h => happens_registerWrite_linkCounters s size v h, ?reads, fun i off => ⟨rfl, rfl, rfl, rfl⟩, ?config,
    happens_hdmRegionWrite s, fun v => happens_of rfl rfl⟩
  case winA =>
    intro fn off size v hfn hoff
    have h := happens_registerWrite_winA s size v hfn hoff
    exact ⟨fun hok _ hx => by rwa [State.putWin_some hok hx] at h, fun hbad => by rwa [State.putWin_error hbad] at h⟩
  case winB =>
    intro fn off size v hfn hoff
    have h := happens_registerWrite_winB s size v hfn hoff
    exact ⟨fun hok _ hx => by rwa [State.putWin_some hok hx] at h, fun hbad => by rwa [State.putWin_error hbad] at h⟩
  case reads =>
    intro off size p fn part hp
    have wide : ∀ {b : Bool}, off < 2 ^ 12 → off < if b then 2 ^ 12 else 2 ^ 16 := by
      intro b h
      split <;> omega
    exact ⟨fun hoff hok hk => ⟨fun _ hx => happens_hostRegisterRead_some (b := false) hp hoff hok hk hx,
        fun hx => happens_hostRegisterRead_none (b := false) hp hoff hok hk hx⟩,
      fun hoff hok hk => ⟨fun _ hx => happens_hostRegisterRead_some (b := true) hp hoff hok hk hx,
        fun hx => happens_hostRegisterRead_none (b := true) hp hoff hok hk hx⟩,
      fun hoff hok hfn hk _ hx b => happens_hostRegisterRead_root hp (wide hoff) hok hfn hk hx,
      fun hoff hok hk b => happens_hostRegisterRead_misaligned hp (wide hoff) hok hk⟩
  case config =>
    intro x hp hfn p fn
    have hg := portFn_ok hp hfn
    exact ⟨happens_of rfl (if_neg hg), happens_of rfl (if_neg hg), happens_of rfl (if_neg hg), happens_of rfl (if_neg hg),
      fun n => happens_of rfl (if_neg hg), fun hon => happens_of rfl ((if_neg hg).trans (if_pos hon))⟩

/-! ### Window M (R36, R47, R90) -/

/-- Cutting data into completions loses no byte and changes none. -/
theorem completions_bytes (l : List (List Byte × Bool)) : (completions l).flatMap (·.1) = l.flatMap (·.1) := by
  induction l with
  | nil => rfl
  | cons x l ih =>
    rw [completions, List.flatMap_cons, ← ih]
    cases completions l with
    | nil => rfl
    | cons c r =>
      dsimp only
      split
      · simp
      · rfl

/-- Some completion is poisoned exactly when some piece is. -/
theorem completions_bad (l : List (List Byte × Bool)) : (completions l).any (·.2) = l.any (·.2) := by
  induction l with
  | nil => rfl
  | cons x l ih =>
    rw [completions, List.any_cons, ← ih]
    cases completions l with
    | nil => rfl
    | cons c r =>
      dsimp only
      split
      · simp [Bool.or_assoc]
      · rfl

/-- No completion is longer than 512 bytes when no piece is (R36). -/
theorem completions_length {l : List (List Byte × Bool)} (h : ∀ x ∈ l, x.1.length ≤ 512) : ∀ x ∈ completions l, x.1.length ≤ 512 := by
  induction l with
  | nil => exact h
  | cons x l ih =>
    obtain ⟨hx, hl⟩ := List.forall_mem_cons.mp h
    have ih := ih hl
    rw [completions]
    cases hc : completions l with
    | nil => simpa using hx
    | cons c r =>
      rw [hc] at ih
      dsimp only
      split
      · next hle => exact List.forall_mem_cons.mpr ⟨by simpa using hle, fun y hy => ih y (List.mem_cons_of_mem _ hy)⟩
      · exact List.forall_mem_cons.mpr ⟨hx, ih⟩

/-- A write inside the staging buffer is kept whole. -/
theorem State.stageM_write {s : State} {r : HostRead} {num : Nat} {d : List Byte} (h : r.put = some (num, d))
    (hr : r.off + d.length ≤ 2 ^ 25) : s.stageM r = s.modSt fun x => { x with staging := Tab.setBytes x.staging r.off d } := by
  have ht : d.take (2 ^ 25 - r.off) = d := List.take_of_length_le (by omega)
  simp only [State.stageM, h, ht]
  rfl

/-- A read inside the staging buffer returns its bytes. -/
theorem State.stageM_read {s : State} {r : HostRead} (h : r.put = none) (hr : r.off + r.len ≤ 2 ^ 25) :
    s.stageM r = s.complyM r ((cut64 (r.len + 1) r.off 0 r.len).map fun p =>
      (((Tab.bytes s.st.staging r.off r.len).drop p.2.1).take p.2.2, false)) := by
  have hm : min r.len (2 ^ 25 - r.off) = r.len := by omega
  simp only [State.stageM, h, hm, Nat.sub_self, List.replicate_zero, List.append_nil]

/-- An access through window M that need not wait for room before its port: at the staging buffer, or where segment 1 leads. -/
theorem State.windowM_room {s : State} {r : HostRead} (h : r.put.isSome = true ∨ s.cplRoom r.port r.fn r.len = true) :
    (r.put.isNone && !s.cplRoom r.port r.fn r.len) = false := by
  rcases h with h | h
  · simp [Option.isNone_eq_false_iff.mpr h]
  · simp [h]

theorem windowM_served (s : State) : WindowM s := by
  refine ⟨fun l hl => ⟨completions_bytes l, completions_bad l, completions_length hl⟩, ?noRoom, ?room⟩
  case noRoom =>
    intro r hput hroom
    simp [State.windowM, hput, hroom]
  case room =>
    intro r hroom answer denied
    have hg := State.windowM_room hroom
    refine ⟨fun hst => ?staged, fun hst => ?memory⟩
    case staged =>
      have hw : s.windowM r = .ok (s.stageM r) := by simp [State.windowM, hg, hst]
      exact ⟨fun num d hput hr => by rw [hw, State.stageM_write hput hr], fun hput hr => by rw [hw, State.stageM_read hput hr]; rfl⟩
    case memory =>
      refine ⟨fun t hm => ?_, fun e t he hm => ?_, fun a t hm => ⟨fun num d u hput => ?write, fun u hput => ?read⟩⟩
      · simp [State.windowM, hg, hst, hm]
      · cases e with
        | waits => exact absurd rfl he
        | done => simp [State.windowM, hg, hst, hm, denied, State.denyM]
        | denied => simp [State.windowM, hg, hst, hm, denied, State.denyM]
      case write =>
        refine ⟨fun hd => ?_, fun hd => ?_, fun hd => ?_⟩
        all_goals simp [State.windowM, hst, hm, hput, hd, denied, State.denyM]
      case read =>
        have hfree : s.cplRoom r.port r.fn r.len = true := by simpa [hput] using hroom
        refine ⟨fun l hd => ?_, fun hd => ?_, fun e he hd => ?_⟩
        · simp [State.windowM, hfree, hst, hm, hput, hd, answer, State.complyM]
        · simp [State.windowM, hfree, hst, hm, hput, hd]
        · cases e with
          | waits => exact absurd rfl he
          | data bs bad => simp [State.windowM, hfree, hst, hm, hput, hd, denied, State.denyM]
          | denied => simp [State.windowM, hfree, hst, hm, hput, hd, denied, State.denyM]

/-- An access through window M joins those that wait (R47). -/
def State.keepM (s : State) (r : HostRead) : State := { s with hi := { s.hi with reads := s.hi.reads ++ [r] } }

/-- The state after an access has come to window M in state `t`: it is served, or waits behind its port's writes or for what it needs
(R62). -/
def State.comeM (t : State) (r : HostRead) : State :=
  if t.behindWrite t.hi.reads.length r.port then t.keepM r
  else
    match t.windowM r with
    | .ok u => u
    | .error u => u.keepM r

section Come

variable {t u : State} {r : HostRead}

theorem State.comeM_behind (h : t.behindWrite t.hi.reads.length r.port = true) : t.comeM r = t.keepM r := if_pos h

theorem State.comeM_served (h : t.behindWrite t.hi.reads.length r.port = false) (hu : t.windowM r = .ok u) : t.comeM r = u := by
  simp [State.comeM, h, hu]

theorem State.comeM_waits (h : t.behindWrite t.hi.reads.length r.port = false) (hu : t.windowM r = .error u) :
    t.comeM r = u.keepM r := by
  simp [State.comeM, h, hu]

end Come

/-- An access through window M of a size that R36 allows comes to the window, a write under its port's next number (R62). -/
theorem happens_windowMAccess (s : State) {off len : Nat} {data : Option (List Byte)} (hp : s.ctl.here.unit < 2)
    (hfn : s.ctl.here.sub < 64) (hn : 0 < (data.map List.length).getD len)
    (hmax : (data.map List.length).getD len ≤ if data.isSome then 512 else 4096) (hend : off + (data.map List.length).getD len ≤ 2 ^ 36) :
    Happens (.windowMAccess off len data) s
      ((if data.isSome then (s.nextNum s.ctl.here.unit).2 else s).comeM ⟨s.ctl.here.unit, s.ctl.here.sub, off,
        (data.map List.length).getD len, data.map fun d => ((s.nextNum s.ctl.here.unit).1, d)⟩) := by
  refine happens_of rfl ((if_neg ?_).trans ?_)
  · simp only [Bool.or_eq_true, decide_eq_true_eq, not_or, Nat.not_le, Nat.not_lt]
    exact ⟨⟨⟨⟨hp, le_totalVFs hfn⟩, Nat.pos_iff_ne_zero.mp hn⟩, hmax⟩, hend⟩
  · have hcome : ∀ (t : State) (r : HostRead), (if t.behindWrite t.hi.reads.length r.port then some (t.keepM r) else
        match t.windowM r with
        | .ok u => some u
        | .error u => some (u.keepM r)) = some (t.comeM r) := by
      intro t r
      unfold State.comeM
      split
      · rfl
      · cases t.windowM r <;> rfl
    cases data with
    | none => exact hcome s ⟨s.ctl.here.unit, s.ctl.here.sub, off, len, none⟩
    | some d =>
      exact hcome (s.nextNum s.ctl.here.unit).2
        ⟨s.ctl.here.unit, s.ctl.here.sub, off, d.length, some ((s.nextNum s.ctl.here.unit).1, d)⟩

/-! ### Page responses (R50, R52) -/

/-- A response to a group that is not quarantined ends it. -/
theorem State.priAnswer_open {s : State} {r : PageReq} (f : State → PageReq → State) (h : s.pageReq = some r) (hq : r.quar = false) :
    s.priAnswer f = some ((f { s with hi := { s.hi with pageReqs := s.hi.pageReqs.erase r } } r).pump r.fn) := by
  simp [State.priAnswer, h, hq]

/-- A response to a quarantined index is only counted. -/
theorem State.priAnswer_quarantined {s : State} {r : PageReq} (f : State → PageReq → State) (h : s.pageReq = some r)
    (hq : r.quar = true) : s.priAnswer f = some (s.modFn r.fn fun x => { x with qdisc := min (x.qdisc + 1) 0xFFFF }) := by
  simp [State.priAnswer, h, hq]

/-! ### Resets of functions (R115, R116) -/

section FunctionLevelReset

variable {s : State} (h0 : s.ctl.here.unit ≠ 0) (h64 : s.ctl.here.unit < 64)
include h0 h64

/-- The first step of the reset of a holding: its page request indices are quarantined and its threads leave. -/
theorem happens_functionLevelReset_start (hl : s.live s.ctl.here.unit = true) (hr : (s.hold s.ctl.here.unit).reset = 0) :
    Happens .functionLevelReset s
      (((s.requarantine s.ctl.here.unit).preempt s.ctl.here.unit).modHold s.ctl.here.unit fun v => { v with reset := 1 }) := by
  refine happens_of rfl ?_
  simp [Nat.not_lt.mpr (le_totalVFs h64), h0, hl, hr]

/-- Once its threads have left, its work, state and keys go, and it waits for the resets of its cells where some are pending. -/
theorem happens_functionLevelReset_wipe (hl : s.live s.ctl.here.unit = true) (hr : (s.hold s.ctl.here.unit).reset = 1)
    (hs : s.slotsOf s.ctl.here.unit = []) :
    let n := s.ctl.here.unit
    let t := ((s.wipe n).resetCells (s.hword n 0x90) n).modFn n fun f => { f with chain := {} }
    Happens .functionLevelReset s
      (if t.cellsPending (t.hword n 0x90) then t.modHold n fun v => { v with reset := 4 } else t.flrDone n) := by
  refine happens_of rfl ?_
  simp [Nat.not_lt.mpr (le_totalVFs h64), h0, hl, hr, hs]

/-- The crier has carried the resets of its cells: admission opens (R154). -/
theorem happens_functionLevelReset_done (hl : s.live s.ctl.here.unit = true) (hr : (s.hold s.ctl.here.unit).reset = 4)
    (hc : s.cellsPending (s.hword s.ctl.here.unit 0x90) = false) :
    Happens .functionLevelReset s (s.flrDone s.ctl.here.unit) := by
  refine happens_of rfl ?_
  simp [Nat.not_lt.mpr (le_totalVFs h64), h0, hl, hr, hc]

/-- A function without a holding: its indices are quarantined and its chain is as new. -/
theorem happens_functionLevelReset_free (hl : s.live s.ctl.here.unit = false) :
    Happens .functionLevelReset s ((s.quarantine s.ctl.here.unit).modFn s.ctl.here.unit fun f => { f with chain := {} }) := by
  refine happens_of rfl ?_
  simp [Nat.not_lt.mpr (le_totalVFs h64), h0, hl]

end FunctionLevelReset

theorem happens_functionLevelReset_root {s : State} (h : s.ctl.here.unit = 0) : Happens .functionLevelReset s s.rootReset := by
  refine happens_of rfl ?_
  simp [h]

theorem happens_vfEnableClear_bit {s : State} (h : s.ctl.here.sub = 0) (hp : s.ctl.here.unit < 2) (hon : s.vfOn s.ctl.here.unit = true) :
    Happens .vfEnableClear s (s.vfClear s.ctl.here.unit) := by
  refine happens_of rfl ?_
  simp [h, hp, hon]

section VfEnableClear

variable {s : State} (h : s.ctl.here.sub ≠ 0)
include h

/-- No RGNOP is in progress on the holding: its threads leave. -/
theorem happens_vfEnableClear_leave (hr : (s.hold s.ctl.here.sub).reset = 2) (hb : s.busyWith s.ctl.here.sub = none) :
    Happens .vfEnableClear s (((s.requarantine s.ctl.here.sub).preempt s.ctl.here.sub).modHold s.ctl.here.sub fun v =>
      { v with reset := 3, busy := none }) := by
  refine happens_of rfl ?_
  simp [h, hr, hb]

/-- Its threads have left: it is destroyed. -/
theorem happens_vfEnableClear_wipe (hr : (s.hold s.ctl.here.sub).reset = 3) (hs : s.slotsOf s.ctl.here.sub = []) :
    Happens .vfEnableClear s (((s.wipe s.ctl.here.sub).openShares s.ctl.here.sub).modHold s.ctl.here.sub fun v =>
      { v with reset := 5 }) := by
  refine happens_of rfl ?_
  simp [h, hr, hs]

/-- The crier has carried the resets of its cells: it is gone (R154). -/
theorem happens_vfEnableClear_gone (hr : (s.hold s.ctl.here.sub).reset = 5)
    (hc : s.cellsPending (s.hword s.ctl.here.sub 0x90) = false) : Happens .vfEnableClear s (s.unmake s.ctl.here.sub) := by
  refine happens_of rfl ?_
  simp [h, hr, hc]

end VfEnableClear

/-! ### Completions and SPDM (R67, R91) -/

theorem happens_hostCompletion {s : State} {r : HostReq} (st : CplStatus) (d : List Byte) (hr : s.hi.reqs[s.ctl.here.pos]? = some r)
    (hp : r.port < 2) : Happens (.hostCompletion st d) s (s.complete r st d) := by
  refine happens_of rfl ?_
  simp [hr, hp]

/-- An answer is made at the place of its request. -/
theorem State.spdmAnswer_here (s : State) (c : BitVec 8) : (s.spdmAnswer c).2.ctl.here = s.ctl.here := by
  unfold State.spdmAnswer
  split <;> rfl

/-- A request of R91 gets its own response code, any other the code of an error. -/
theorem happens_spdmRequest {s : State} (c : BitVec 8) (hp : s.ctl.here.unit < 2) :
    Happens (.spdmRequest c) s ((s.spdmAnswer c).2.send
      (.spdm s.ctl.here.unit (if c ∈ spdmCodes then c &&& 0x7F else 0x7F) (s.spdmAnswer c).1)) := by
  refine happens_of rfl ((if_neg (Nat.not_le.mpr hp)).trans ?_)
  simp [State.spdmAnswer_here]

/-- The events of a function: window M, page responses, invalidations, resets, completions and SPDM. -/
theorem functionEvents : FunctionEvents := by
  intro s p h
  refine ⟨?windowM, windowM_served s, ?answered, ?quarantined, fun page size hp hh => happens_of rfl (if_neg (portFn_ok hp hh)),
    fun h0 h64 hl => ⟨happens_functionLevelReset_start h0 h64 hl, happens_functionLevelReset_wipe h0 h64 hl,
      happens_functionLevelReset_done h0 h64 hl⟩,
    happens_functionLevelReset_free, happens_functionLevelReset_root, happens_vfEnableClear_bit, happens_vfEnableClear_leave,
    happens_vfEnableClear_wipe, happens_vfEnableClear_gone, fun r st d hr hp => happens_hostCompletion st d hr hp, ?spdm⟩
  case windowM =>
    intro off len data n hp hh hn hmax hend t r later
    have hx : Happens (.windowMAccess off len data) s (t.comeM r) := happens_windowMAccess s hp hh hn hmax hend
    have hreads : t.behindWrite t.hi.reads.length p = s.behindWrite s.hi.reads.length p := by
      cases data <;> rfl
    rw [← hreads]
    refine ⟨fun hb => ?_, fun hb => ⟨fun u hu => ?_, fun u hu => ?_⟩⟩
    · rw [State.comeM_behind hb] at hx
      exact hx
    · rwa [State.comeM_served hb hu] at hx
    · rw [State.comeM_waits hb hu] at hx
      exact hx
  case answered =>
    intro r hr hq s1
    exact ⟨happens_of rfl (State.priAnswer_open _ hr hq), happens_of rfl (State.priAnswer_open _ hr hq),
      happens_of rfl (State.priAnswer_open _ hr hq)⟩
  case quarantined =>
    intro r hr hq i hi
    simp only [List.mem_cons, List.not_mem_nil, or_false] at hi
    rcases hi with rfl | rfl | rfl <;> exact happens_of rfl (State.priAnswer_quarantined _ hr hq)
  case spdm =>
    intro c hp
    exact ⟨(s.spdmAnswer c).1, happens_spdmRequest c hp, by rintro rfl; rfl, by rintro rfl; rfl⟩

/-- Settles O30: each event is enabled under its hypotheses and answers the state that the statement names. The answer of SPDM, the numbers
of root's registers, the retry of window M, a power limit out of its range and the reset of function 0 are the model's choices (log
entries 39, 70, 66, 37 and 38). -/
theorem registersAndFunctions : Obligations.RegistersAndFunctions := ⟨hostRegisters, functionEvents⟩

end Sys2Proof.Machine

/-! SUPPORT. The power unit (R10, R11, R14 to R21): what the steps of the Ranbor controller do to it, that no other step moves it, and
what reset leaves of it. -/

namespace Sys2Proof.Machine

open Sys2Proof.Claims

/-! ### Rules of the power unit -/

theorem State.modPw_eq (s : State) (f : Power → Power) : s.modPw f = withPw s (f s.pw) := rfl

@[simp] theorem withPw_pw (s : State) (p : Power) : (withPw s p).pw = p := rfl
@[simp] theorem withPw_withPw (s : State) (p q : Power) : withPw (withPw s p) q = withPw s q := rfl
@[simp] theorem withPw_self (s : State) : withPw s s.pw = s := rfl

theorem sequenced_eq_self {p : Power} (h : ¬(p.vaux = true ∧ p.pwrEn = true ∧ p.modRst = true ∧ p.mode = .stby ∧ p.seq = .idle)) :
    sequenced p = p := if_neg h

/-- In a legal state the sequence has begun wherever it can. -/
theorem sequenced_of_ok {p : Power} (h : p.seq = .idle ↔ ¬(p.vaux = true ∧ p.pwrEn = true ∧ p.modRst = true)) : sequenced p = p :=
  sequenced_eq_self fun ⟨hv, he, hm, _, hi⟩ => h.mp hi ⟨hv, he, hm⟩

theorem State.beginSeq_eq (s : State) : s.beginSeq = withPw s (sequenced s.pw) := by
  unfold State.beginSeq sequenced
  by_cases h : s.pw.vaux = true ∧ s.pw.pwrEn = true ∧ s.pw.modRst = true ∧ s.pw.mode = .stby ∧ s.pw.seq = .idle
  · rw [if_pos h, if_pos (by simp [Power.awake, h])]
    rfl
  · rw [if_neg h, if_neg (by simpa [Power.awake, and_assoc, and_left_comm] using h)]
    rfl

theorem ranbor_some (s : State) : ranbor (some s) = .next (withPw s (sequenced s.pw)) := by
  rw [← State.beginSeq_eq]
  rfl

/-- The form in which the steps of the controller are proved. -/
theorem exec_of_ranbor {i : Instr} {s t : State} {p : Power} {r : Option State} (hx : exec i s = ranbor r)
    (hr : r = some (withPw t p)) : exec i s = .next (withPw t (sequenced p)) := by
  rw [hx, hr, ranbor_some, withPw_withPw, withPw_pw]

/-- The same for a step after which no sequence can begin. -/
theorem exec_of_ranbor_self {i : Instr} {s t : State} {p : Power} {r : Option State} (hx : exec i s = ranbor r)
    (hr : r = some (withPw t p)) (h : sequenced p = p) : exec i s = .next (withPw t p) := by
  rw [exec_of_ranbor hx hr, h]

theorem State.powerDown_eq (s : State) (ev : List PowerEvent) :
    s.powerDown ev = withPw s.dark { s.dark.pw with mode := .stby, log := s.pw.log ++ ev } := rfl

theorem Power.railsOff_eq (p : Power) : p.railsOff = { p with
    rails := 0, pgood := false, released := false, seq := .idle, coldNext := true, clock := 0, below := 0, hot := false, overLim := false } := by
  simp [Power.railsOff, railsDown, Power.dropRail]

theorem State.dark_dark (s : State) : Dark s.dark.pw := by
  simp [State.dark, Power.railsOff_eq, Dark]

theorem Power.ownImage_eq (p : Power) : p.ownImage = if 2 ≤ p.strapBoot.toNat then .recovery else .flash := by
  unfold Power.ownImage
  generalize p.strapBoot = b
  revert b
  decide

/-! ### Signals (R10, R17, R20, R21) -/

section Signals

variable {s : State}

theorem exec_vauxPresent (h : s.pw.vaux = false) :
    exec .vauxPresent s = .next (withPw s (sequenced { s.pw with vaux := true, mode := .stby })) :=
  exec_of_ranbor rfl (if_neg (ne_true_of_eq_false h))

theorem exec_vauxAbsent (h : s.pw.vaux = true) :
    exec .vauxAbsent s = .next (withPw s.dark { s.dark.pw with limit := 10000, vaux := false, mode := .off }) :=
  exec_of_ranbor_self rfl (if_pos h) (sequenced_eq_self (by simp))

theorem exec_pwrEnHigh (h : s.pw.pwrEn = false) : exec .pwrEnHigh s = .next (withPw s (sequenced { s.pw with pwrEn := true })) :=
  exec_of_ranbor rfl (if_neg (ne_true_of_eq_false h))

theorem exec_pwrEnLow (h : s.pw.pwrEn = true) : exec .pwrEnLow s = .next (
    if s.pw.seq = .idle ∨ s.pw.modRst = false then withPw s { s.pw with pwrEn := false }
    else withPw s.dark { s.dark.pw with pwrEn := false, mode := .stby, log := s.pw.log ++ [.pwrEnLow s.pw.time] }) := by
  have hen : ¬(!s.pw.pwrEn) = true := by simp [h]
  have hq : (decide (s.pw.seq = .idle) || !s.pw.modRst) = true ↔ s.pw.seq = .idle ∨ s.pw.modRst = false := by simp
  split
  · next h => exact exec_of_ranbor_self rfl ((if_neg hen).trans (congrArg some (if_pos (hq.mpr h)))) (sequenced_eq_self (by simp))
  · next h =>
      exact exec_of_ranbor_self rfl ((if_neg hen).trans (congrArg some (if_neg (mt hq.mp h)))) (sequenced_eq_self (by simp))

theorem exec_modRstFall (h : s.pw.modRst = true) : exec .modRstFall s = .next (
    if s.pw.vaux then withPw s.dark { s.dark.pw with limit := 10000, modRst := false, mode := .stby }
    else withPw s { s.pw with limit := 10000, modRst := false }) := by
  have hrst : ¬(!s.pw.modRst) = true := by simp [h]
  have hlog (s : State) : s.powerDown [] = withPw s.dark { s.dark.pw with mode := .stby } := by
    rw [State.powerDown_eq, List.append_nil]
    rfl
  split
  · next hv =>
      exact exec_of_ranbor_self rfl ((if_neg hrst).trans (congrArg some ((if_pos hv).trans (hlog _)))) (sequenced_eq_self (by simp))
  · next hv => exact exec_of_ranbor_self rfl ((if_neg hrst).trans (congrArg some (if_neg hv))) (sequenced_eq_self (by simp))

theorem exec_modRstRise (pos : BitVec 3) (boot : BitVec 2) (cxla : Bool) (h : s.pw.modRst = false) :
    exec (.modRstRise pos boot cxla) s = .next
      (withPw s (sequenced { s.pw with modRst := true, strapPos := pos, strapBoot := boot, strapCxl := cxla })) :=
  exec_of_ranbor rfl (if_neg (ne_true_of_eq_false h))

end Signals

theorem powerSignals : PowerSignals := fun s =>
  ⟨exec_vauxPresent, exec_vauxAbsent, exec_pwrEnHigh, exec_pwrEnLow, exec_modRstFall, exec_modRstRise, s.dark_dark,
    rfl, rfl, rfl, rfl, rfl, rfl, rfl, rfl, rfl, rfl⟩

/-! ### Rails (R18 to R20, R36) -/

section Rails

variable {s : State}

theorem exec_ranborBoot (ok : Bool) (h : s.pw.seq = .boot) : exec (.ranborBoot ok) s = .next
    (if ok then withPw s { s.pw with seq := .rising, fw := if 2 ≤ s.pw.strapBoot.toNat then .recovery else .flash } else s) := by
  rw [← Power.ownImage_eq]
  have hboot : ¬s.pw.seq ≠ .boot := not_not_intro h
  cases ok
  · exact exec_of_ranbor_self (t := s) (p := s.pw) rfl (if_neg hboot) (sequenced_eq_self (by simp [h]))
  · exact exec_of_ranbor_self rfl (if_neg hboot) (sequenced_eq_self (by simp))

theorem exec_railWithinTolerance_next (h : s.pw.seq = .rising) (hr : s.pw.rails < 3) :
    exec .railWithinTolerance s = .next (withPw s { s.pw with rails := s.pw.rails + 1 }) :=
  exec_of_ranbor_self rfl ((if_neg (not_not_intro h)).trans (congrArg some (if_pos (Nat.succ_lt_succ hr)))) (sequenced_eq_self (by simp [h]))

theorem exec_railWithinTolerance_last (h : s.pw.seq = .rising) (hr : s.pw.rails = 3) :
    exec .railWithinTolerance s = .next
      { s with pw := { s.pw with rails := 4, pgood := true, released := true, seq := .done }, st := {} } := by
  have hlast : ¬s.pw.rails + 1 < 4 := by omega
  have h4 : s.pw.rails + 1 = 4 := by omega
  rw [← h4]
  exact exec_of_ranbor_self (t := { s with st := {} }) rfl ((if_neg (not_not_intro h)).trans (congrArg some (if_neg hlast)))
    (sequenced_eq_self (by simp))

theorem exec_railFault
    (h : s.ctl.here.sub < s.pw.rails ∨ (s.pw.seq = .rising ∧ s.ctl.here.sub = s.pw.rails ∧ s.ctl.here.sub < 4)) :
    exec .railFault s = .next
      (withPw s.dark (sequenced { s.dark.pw with mode := .stby, log := s.pw.log ++ [.railFault s.ctl.here.sub s.pw.time] })) := by
  have hc : (decide (s.ctl.here.sub < s.pw.rails) || (decide (s.pw.seq = .rising) && decide (s.ctl.here.sub = s.pw.rails) &&
      decide (s.ctl.here.sub < 4))) = true := by simpa [and_assoc] using h
  exact exec_of_ranbor rfl (if_pos hc)

end Rails

/-- A port whose PERST# is high may train once the dies are released, in a cold start from step 5 on (R18, R85). -/
theorem happens_hostPortLinkUp {s t : State} {w r : Nat} (hq : s.pw.seq = .done)
    (hst : s.st.state ≠ .running ∨ s.st.cold = false ∨ 5 ≤ s.st.step) (hm : portMode w r = true)
    (ht : (s.ctl.here.unit = 0 ∧ s.pw.perstA = true ∧ s.hi.upA = none ∧ t = { s with hi := { s.hi with upA := some (w, r) } }) ∨
      (s.ctl.here.unit = 1 ∧ s.pw.perstB = true ∧ s.hi.upB = none ∧ t = { s with hi := { s.hi with upB := some (w, r) } })) :
    Happens (.hostPortLinkUp w r) s t := by
  have hready : (decide (s.pw.seq = .done) && !(decide (s.st.state = .running) && s.st.cold && decide (s.st.step < 5)) &&
      portMode w r) = true := by
    simpa [hq, hm, Classical.or_iff_not_imp_left] using hst
  rcases ht with ⟨hu, hp, hup, rfl⟩ | ⟨hu, hp, hup, rfl⟩
  · exact happens_of rfl (by simp only [hu, hready, hp, hup]; rfl)
  · exact happens_of rfl (by simp only [hu, hready, hp, hup]; rfl)

section Perst

variable {s : State}

theorem exec_perstAssert_portA (hu : s.ctl.here.unit = 0) (h : s.pw.perstA = true) :
    exec .perstAssert s = .next (withPw (s.resetPort 0) { s.pw with perstA := false }) := by
  change execPerstAssert s = _
  simp [execPerstAssert, hu, h, eventPw, withPw]

theorem exec_perstAssert_portB (hu : s.ctl.here.unit = 1) (h : s.pw.perstB = true) :
    exec .perstAssert s = .next (withPw (s.resetPort 1) { s.pw with perstB := false }) := by
  change execPerstAssert s = _
  simp [execPerstAssert, hu, h, eventPw, withPw]

theorem exec_perstDeassert_portA (hu : s.ctl.here.unit = 0) (h : s.pw.perstA = false) :
    exec .perstDeassert s = .next (withPw s { s.pw with perstA := true }) := by
  change execPerstDeassert s = _
  simp [execPerstDeassert, hu, h, eventPw, withPw]

theorem exec_perstDeassert_portB (hu : s.ctl.here.unit = 1) (h : s.pw.perstB = false) :
    exec .perstDeassert s = .next (withPw s { s.pw with perstB := true }) := by
  change execPerstDeassert s = _
  simp [execPerstDeassert, hu, h, eventPw, withPw]

end Perst

theorem railsAndPorts : RailsAndPorts := fun _ =>
  ⟨exec_ranborBoot, exec_railWithinTolerance_next, exec_railWithinTolerance_last, exec_railFault, exec_perstAssert_portA,
    exec_perstAssert_portB, exec_perstDeassert_portA, exec_perstDeassert_portB, fun _ _ hq hst hm =>
      ⟨fun hu hp hup => happens_hostPortLinkUp hq hst hm (.inl ⟨hu, hp, hup, rfl⟩),
        fun hu hp hup => happens_hostPortLinkUp hq hst hm (.inr ⟨hu, hp, hup, rfl⟩)⟩⟩

/-- Settles O27, from the equation of each signal's and rail's step. The controller's time through MOD_RST# and the loss of VAUX, the whole
power-down path in one step and what PERST# leaves of a port are the model's choices (log entries 52, 50, 35 and 51). -/
theorem signalsRailsAndPorts : Obligations.SignalsRailsAndPorts := ⟨powerSignals, railsAndPorts⟩

/-! ### Measurements (R11, R14 to R16) -/

/-- The clock one step lower, never below 400 MHz; a stopped clock stays so (R11). -/
def clockDown (c : Nat) : Nat := if c = 0 then 0 else max (c - 50) 400
/-- The clock one step higher, never above 850 MHz; a stopped clock stays so (R11). -/
def clockUp (c : Nat) : Nat := if c = 0 then 0 else min (c + 50) 850

theorem Power.slower_eq (p : Power) : p.slower = { p with clock := clockDown p.clock } := by
  unfold Power.slower clockDown
  split
  · next h => rw [← h]
  · rfl

theorem Power.faster_eq (p : Power) : p.faster = { p with clock := clockUp p.clock } := by
  unfold Power.faster clockUp
  split
  · next h => rw [← h]
  · rfl

theorem Power.settle_eq (p : Power) : p.settle = { p with mode := modeAt p p.clock } := by
  obtain ⟨mode⟩ := p
  unfold Power.settle modeAt
  cases mode with
  | run =>
    simp only [true_or, if_true]
    split <;> rfl
  | cap =>
    simp only [or_true, if_true, ← Nat.not_lt, ite_not]
    split <;> rfl
  | stby | off => rfl

/-- In a legal state the mode goes with the clock already. -/
theorem modeAt_clock {p : Power} (h : PowerOk p) : modeAt p p.clock = p.mode := by
  obtain ⟨-, -, -, hrun, hcap, -⟩ := h
  unfold modeAt
  cases hm : p.mode with
  | run => simp [hrun hm]
  | cap => simp [hcap hm]
  | stby | off => rfl

theorem PowerOk.seq_idle_iff {p : Power} (h : PowerOk p) : p.seq = .idle ↔ ¬(p.vaux = true ∧ p.pwrEn = true ∧ p.modRst = true) := by
  obtain ⟨-, -, -, -, -, -, -, -, -, -, hidle⟩ := h
  exact hidle

/-- A soft error of memory does not reach the power unit. -/
theorem State.softError_pw (s : State) : s.softError.pw = s.pw := by
  have choose (s : State) (n : Nat) : (s.choose n).2.pw = s.pw := by
    unfold State.choose
    split <;> rfl
  unfold State.softError
  dsimp only
  split
  · rw [State.modFn_pw, choose, choose]
  · rw [choose, choose]
  · rw [choose, choose]
  · rw [choose]

section Measured

variable {p : Power} {w : Nat}

theorem Power.measured_above (h : p.limit < w) :
    p.measured w = { p with clock := clockDown p.clock, below := 0, overLim := p.overLim || decide (p.clock = 400) } := by
  rw [Power.measured, if_pos h, Power.slower_eq]

/-- At its floor the clock stays, and the alert is raised (R11). -/
theorem Power.measured_floor (h : p.limit < w) (hc : p.clock = 400) : p.measured w = { p with below := 0, overLim := true } := by
  have hd : clockDown p.clock = p.clock := by rw [hc]; rfl
  rw [Power.measured_above h, hd, decide_eq_true hc, Bool.or_true]

theorem Power.measured_lower (h : p.limit < w) (hc : p.clock ≠ 400) :
    p.measured w = { p with clock := clockDown p.clock, below := 0 } := by
  rw [Power.measured_above h, decide_eq_false hc, Bool.or_false]

theorem Power.measured_between (h : 95 * p.limit ≤ 100 * w) (hw : w ≤ p.limit) : p.measured w = { p with below := 0 } := by
  rw [Power.measured, if_neg (Nat.not_lt.mpr hw), if_neg (Nat.not_lt.mpr h)]

theorem Power.measured_below (h : 100 * w < 95 * p.limit) : p.measured w =
    if p.below < 9 then { p with below := p.below + 1 } else if p.hot then { p with below := 0 }
    else { p with clock := clockUp p.clock, below := 0, overLim := false } := by
  have hw : ¬p.limit < w := by omega
  rw [Power.measured, if_neg hw, if_pos h, Power.faster_eq]

end Measured

theorem exec_temperatureMeasurement_trip {s : State} (hawake : s.pw.awake = true) {c : Nat} (hr : 0 < s.pw.rails) (hc : 105 ≤ c) :
    exec (.temperatureMeasurement c) s = .next
      (withPw s.dark (sequenced { s.dark.pw with mode := .stby, log := s.pw.log ++ [.thermalTrip s.ctl.here.unit c s.pw.time] })) :=
  exec_of_ranbor rfl ((if_neg (by simp [hawake, Nat.ne_of_gt hr])).trans (if_pos hc))

section Measurements

variable {s : State} (hok : PowerOk s.pw)
include hok

/-- A power measurement takes the clock, the count and the alert where R11 says, and the mode follows the clock. -/
theorem exec_powerMeasurement (hawake : s.pw.awake = true) {w c b : Nat} {o : Bool}
    (hm : s.pw.measured w = { s.pw with clock := c, below := b, overLim := o }) : exec (.powerMeasurement w) s = .next
      (withPw s.softError { s.pw with time := s.pw.time + 1, clock := c, below := b, overLim := o, mode := modeAt s.pw c }) := by
  refine exec_of_ranbor_self rfl ((if_pos hawake).trans ?_) (sequenced_of_ok hok.seq_idle_iff)
  rw [State.modPw_eq, State.softError_pw, hm, Power.settle_eq]
  rfl

/-- The same where the clock stays. -/
theorem exec_powerMeasurement_sameClock (hawake : s.pw.awake = true) {w b : Nat} {o : Bool}
    (hm : s.pw.measured w = { s.pw with below := b, overLim := o }) : exec (.powerMeasurement w) s = .next
      (withPw s.softError { s.pw with time := s.pw.time + 1, below := b, overLim := o }) := by
  have h := exec_powerMeasurement hok hawake hm
  rwa [modeAt_clock hok] at h

theorem exec_temperatureMeasurement_hot (hawake : s.pw.awake = true) {c : Nat} (hr : 0 < s.pw.rails) (hc : 95 ≤ c) (hc' : c < 105) :
    exec (.temperatureMeasurement c) s = .next (withPw s { s.pw with
      clock := clockDown s.pw.clock, hot := true, hotDie := s.ctl.here.unit, mode := modeAt s.pw (clockDown s.pw.clock) }) := by
  refine exec_of_ranbor_self rfl ((if_neg ?_).trans ((if_neg (Nat.not_le.mpr hc')).trans ((if_pos hc).trans ?_)))
    (sequenced_of_ok hok.seq_idle_iff)
  · simp [hawake, Nat.ne_of_gt hr]
  · rw [State.modPw_eq, Power.slower_eq, Power.settle_eq]
    rfl

theorem exec_temperatureMeasurement_cool (hawake : s.pw.awake = true) {c : Nat} (hr : 0 < s.pw.rails) (hc : c < 95) :
    exec (.temperatureMeasurement c) s = .next (withPw s { s.pw with hot := false }) := by
  have hc' : c < 105 := by omega
  exact exec_of_ranbor_self rfl
    ((if_neg (by simp [hawake, Nat.ne_of_gt hr])).trans ((if_neg (Nat.not_le.mpr hc')).trans (if_neg (Nat.not_le.mpr hc))))
    (sequenced_of_ok hok.seq_idle_iff)

end Measurements

theorem alert_iff (p : Power) : p.alert = true ↔ p.hot = true ∨ p.overLim = true := by
  simp [Power.alert]

/-- Settles O28, from the clock that each measurement leaves and the mode that goes with it. -/
theorem powerAndTemperature : Obligations.PowerAndTemperature := by
  intro s hok hvaux hrst down up
  have hawake : s.pw.awake = true := by simp [Power.awake, hvaux, hrst]
  refine ⟨?power, fun c hr => ⟨fun hc => exec_temperatureMeasurement_trip hawake hr hc,
    fun hc hc' => exec_temperatureMeasurement_hot hok hawake hr hc hc',
    fun hc => exec_temperatureMeasurement_cool hok hawake hr hc⟩, alert_iff s.pw⟩
  intro w t
  refine ⟨?floor, ?lower, ?between, ?counted, ?held, ?raised⟩
  case floor => exact fun hw hc => exec_powerMeasurement_sameClock hok hawake (Power.measured_floor hw hc)
  case lower => exact fun hw hc => exec_powerMeasurement hok hawake (Power.measured_lower hw hc)
  case between => exact fun h hw => exec_powerMeasurement_sameClock hok hawake (Power.measured_between h hw)
  case counted => exact fun h hb => exec_powerMeasurement_sameClock hok hawake ((Power.measured_below h).trans (if_pos hb))
  case held =>
    intro h hb hhot
    exact exec_powerMeasurement_sameClock hok hawake
      ((Power.measured_below h).trans ((if_neg (Nat.not_lt.mpr hb)).trans (if_pos hhot)))
  case raised =>
    intro h hb hhot
    exact exec_powerMeasurement hok hawake
      ((Power.measured_below h).trans ((if_neg (Nat.not_lt.mpr hb)).trans (if_neg (ne_true_of_eq_false hhot))))

/-! ### Steps that are not the controller's (R10) -/

/-- What a step that is not the controller's can change of the power unit: the levels of PERST# (R18), the power limit (R11) and the
log (R60). -/
def OutsidePower (p q : Power) : Prop := ∃ a b limit log, q = { p with perstA := a, perstB := b, limit := limit, log := log }

theorem OutsidePower.refl (p : Power) : OutsidePower p p := ⟨p.perstA, p.perstB, p.limit, p.log, rfl⟩

/-- An event of the dies leaves the power unit as it is (R10). -/
theorem OutsidePower.of_event {s u t : State} {r : Option State} (h : event u r = .next t) (hu : u.pw = s.pw := by rfl) :
    OutsidePower s.pw t.pw := by
  rw [event_pw h, hu]
  exact .refl s.pw

theorem outsidePower_of_perst (p : Power) (a b : Bool) : OutsidePower p { p with perstA := a, perstB := b } :=
  ⟨a, b, p.limit, p.log, rfl⟩

theorem outsidePower_perstAssert {s t : State} (h : execPerstAssert s = .next t) : OutsidePower s.pw t.pw := by
  unfold execPerstAssert at h
  split at h
  · rw [eventPw_pw h]
    exact outsidePower_of_perst s.pw false s.pw.perstB
  · rw [eventPw_pw h]
    exact outsidePower_of_perst s.pw s.pw.perstA false
  · rw [event_pw h]
    exact .refl s.pw

theorem outsidePower_perstDeassert {s t : State} (h : execPerstDeassert s = .next t) : OutsidePower s.pw t.pw := by
  unfold execPerstDeassert at h
  split at h
  · rw [eventPw_pw h]
    exact outsidePower_of_perst s.pw true s.pw.perstB
  · rw [eventPw_pw h]
    exact outsidePower_of_perst s.pw s.pw.perstA true
  · rw [event_pw h]
    exact .refl s.pw

theorem outsidePower_timelineAdvance {s t : State} (h : execTimelineAdvance s = .next t) : OutsidePower s.pw t.pw := by
  unfold execTimelineAdvance at h
  split at h
  · exact .of_event h
  · exact .of_event h

theorem outsidePower_registerWrite {target : RegTarget} {size : Nat} {v : Word} {s t : State}
    (h : execRegisterWrite target size v s = .next t) : OutsidePower s.pw t.pw := by
  rw [eventPw_pw h]
  split
  · exact ⟨s.pw.perstA, s.pw.perstB, v.toNat, s.pw.log, rfl⟩
  · exact .refl s.pw

theorem outsidePower_bisnpTimeout {s t : State} (h : execBisnpTimeout s = .next t) : OutsidePower s.pw t.pw := by
  rw [eventPw_pw h]
  exact ⟨s.pw.perstA, s.pw.perstB, s.pw.limit, _, rfl⟩

/-- A step that is neither a word nor the controller's is an event of the dies, which leaves the power unit, or one of the four that reach
its signals, its limit or its log. -/
theorem exec_event_outsidePower {i : Instr} {s t : State} (hw : encOf i = none) (hp : powerEvent i = false) (hx : exec i s = .next t) :
    OutsidePower s.pw t.pw := by
  cases i with
  | perstAssert => exact outsidePower_perstAssert hx
  | perstDeassert => exact outsidePower_perstDeassert hx
  | registerWrite => exact outsidePower_registerWrite hx
  | bisnpTimeout => exact outsidePower_bisnpTimeout hx
  | vauxPresent | vauxAbsent | pwrEnHigh | pwrEnLow | modRstFall | modRstRise | ranborBoot | railWithinTolerance | railFault
  | powerMeasurement | temperatureMeasurement | pllLock | capabilityTableBuild => cases hp
  | startWarm => exact .of_event (show execStartWarm s = _ from hx)
  | startCold => exact .of_event (show execStartCold s = _ from hx)
  | bridgeTraining ok => exact .of_event (show execBridgeTraining ok s = _ from hx)
  | dramTraining ok => exact .of_event (show execDramTraining ok s = _ from hx)
  | fullScrub ok => exact .of_event (show execFullScrub ok s = _ from hx)
  | phyEqualisation links => exact .of_event (show execPhyEqualisation links s = _ from hx)
  | firmwareVerification rsa slh version minimum => exact .of_event (show execFirmwareVerification rsa slh version minimum s = _ from hx)
  | fwgo value => exact .of_event (show execFwgo value s = _ from hx)
  | fwgoTimeout => exact .of_event (show execFwgoTimeout s = _ from hx)
  | startReset => exact .of_event (show execStartReset s = _ from hx)
  | ctailWrite value => exact .of_event (show execCtailWrite value s = _ from hx)
  | cheadWrite value => exact .of_event (show execCheadWrite value s = _ from hx)
  | go => exact .of_event (show execGo s = _ from hx)
  | pageRequestQuarantineClear value => exact .of_event (show execPageRequestQuarantineClear value s = _ from hx)
  | hdmRegionWrite value => exact .of_event (show execHdmRegionWrite value s = _ from hx)
  | rst => exact .of_event (show execRst s = _ from hx)
  | recordFetch => exact .of_event (show execRecordFetch s = _ from hx)
  | launch => exact .of_event (show execLaunch s = _ from hx)
  | copyh => exact .of_event (show execCopyh s = _ from hx)
  | signal => exact .of_event (show execSignal s = _ from hx)
  | resync => exact .of_event (show execResync s = _ from hx)
  | feature => exact .of_event (show execFeature s = _ from hx)
  | recordComplete => exact .of_event (show execRecordComplete s = _ from hx)
  | mirrorWrite => exact .of_event (show execMirrorWrite s = _ from hx)
  | functionLevelReset => exact .of_event (show execFunctionLevelReset s = _ from hx)
  | vfEnableClear => exact .of_event (show execVfEnableClear s = _ from hx)
  | windowMAccess off len data => exact .of_event (show execWindowMAccess off len data s = _ from hx)
  | priSuccess => exact .of_event (show execPriSuccess s = _ from hx)
  | priInvalidRequest => exact .of_event (show execPriInvalidRequest s = _ from hx)
  | priResponseFailure => exact .of_event (show execPriResponseFailure s = _ from hx)
  | atsInvalidateRequest page size => exact .of_event (show execAtsInvalidateRequest page size s = _ from hx)
  | spdmRequest code => exact .of_event (show execSpdmRequest code s = _ from hx)
  | cxlMemrd mv => exact .of_event (show execCxlMemrd mv s = _ from hx)
  | cxlMemwr mv data => exact .of_event (show execCxlMemwr mv data s = _ from hx)
  | birsp shared dirty => exact .of_event (show execBirsp shared dirty s = _ from hx)
  | biconflict => exact .of_event (show execBiconflict s = _ from hx)
  | hostWrite => exact .of_event (show execHostWrite s = _ from hx)
  | hostSnoop inval => exact .of_event (show execHostSnoop inval s = _ from hx)
  | kryasFlitReceive hdr payload crc msgs => exact .of_event (show execKryasFlitReceive hdr payload crc msgs s = _ from hx)
  | retrain lockLost => exact .of_event (show execRetrain lockLost s = _ from hx)
  | nonpostedTimeout => exact .of_event (show execNonpostedTimeout s = _ from hx)
  | peerRequest => exact .of_event (show execPeerRequest s = _ from hx)
  | peerFlush => exact .of_event (show execPeerFlush s = _ from hx)
  | rotaSlotStart rota => exact .of_event (show execRotaSlotStart rota s = _ from hx)
  | rotaMarkerArrival epoch late => exact .of_event (show execRotaMarkerArrival epoch late s = _ from hx)
  | flitHop => exact .of_event (show execFlitHop s = _ from hx)
  | tokenWindow => exact .of_event (show execTokenWindow s = _ from hx)
  | slicePortServe => exact .of_event (show execSlicePortServe s = _ from hx)
  | postBufferMove => exact .of_event (show execPostBufferMove s = _ from hx)
  | portQueuePerform => exact .of_event (show execPortQueuePerform s = _ from hx)
  | l1Eviction => exact .of_event (show execL1Eviction s = _ from hx)
  | enlist => exact .of_event (show execEnlist s = _ from hx)
  | poolMerge => exact .of_event (show execPoolMerge s = _ from hx)
  | issueCycle => exact .of_event (show execIssueCycle s = _ from hx)
  | slotFill => exact .of_event (show execSlotFill s = _ from hx)
  | dealTile => exact .of_event (show execDealTile s = _ from hx)
  | launchComplete => exact .of_event (show execLaunchComplete s = _ from hx)
  | migrationDeparture => exact .of_event (show execMigrationDeparture s = _ from hx)
  | stileArrival => exact .of_event (show execStileArrival s = _ from hx)
  | pagePark => exact .of_event (show execPagePark s = _ from hx)
  | pageArrival => exact .of_event (show execPageArrival s = _ from hx)
  | slotSpill => exact .of_event (show execSlotSpill s = _ from hx)
  | turnEnd => exact .of_event (show execTurnEnd s = _ from hx)
  | sliceEndBroadcast => exact .of_event (show execSliceEndBroadcast s = _ from hx)
  | drainAllowanceExpiry => exact .of_event (show execDrainAllowanceExpiry s = _ from hx)
  | userInterrupt => exact .of_event (show execUserInterrupt s = _ from hx)
  | remoteBankAnswer => exact .of_event (show execRemoteBankAnswer s = _ from hx)
  | parkedAccessWake => exact .of_event (show execParkedAccessWake s = _ from hx)
  | faultQueueRecordAdd => exact .of_event (show execFaultQueueRecordAdd s = _ from hx)
  | headStore => exact .of_event (show execHeadStore s = _ from hx)
  | partAccess => exact .of_event (show execPartAccess s = _ from hx)
  | crierMessage => exact .of_event (show execCrierMessage s = _ from hx)
  | matrixRecordAccept => exact .of_event (show execMatrixRecordAccept s = _ from hx)
  | matrixRecordStart => exact .of_event (show execMatrixRecordStart s = _ from hx)
  | zeroRec => exact .of_event (show execZeroRec s = _ from hx)
  | ldbRec => exact .of_event (show execLdbRec s = _ from hx)
  | mmaRec => exact .of_event (show execMmaRec s = _ from hx)
  | mmasRec => exact .of_event (show execMmasRec s = _ from hx)
  | drainRec => exact .of_event (show execDrainRec s = _ from hx)
  | ldaccRec => exact .of_event (show execLdaccRec s = _ from hx)
  | staccRec => exact .of_event (show execStaccRec s = _ from hx)
  | waitRec => exact .of_event (show execWaitRec s = _ from hx)
  | drainWake => exact .of_event (show execDrainWake s = _ from hx)
  | timelineAdvance => exact outsidePower_timelineAdvance hx
  | copyCommandAccept => exact .of_event (show execCopyCommandAccept s = _ from hx)
  | copySector => exact .of_event (show execCopySector s = _ from hx)
  | copyComplete => exact .of_event (show execCopyComplete s = _ from hx)
  | sfuServe => exact .of_event (show execSfuServe s = _ from hx)
  | barrierArrivalMessage => exact .of_event (show execBarrierArrivalMessage s = _ from hx)
  | barrierReleaseMessage => exact .of_event (show execBarrierReleaseMessage s = _ from hx)
  | queueHomeStep => exact .of_event (show execQueueHomeStep s = _ from hx)
  | idleLimit => exact .of_event (show execIdleLimit s = _ from hx)
  | hostCompletion status data => exact .of_event (show execHostCompletion status data s = _ from hx)
  | configSpaceWrite bit value => exact .of_event (show execConfigSpaceWrite bit value s = _ from hx)
  | linkTrainingDone result peer => exact .of_event (show execLinkTrainingDone result peer s = _ from hx)
  | hostPortLinkUp width rate => exact .of_event (show execHostPortLinkUp width rate s = _ from hx)
  | hostRegisterRead winB off size => exact .of_event (show execHostRegisterRead winB off size s = _ from hx)
  | _ => cases hw

/-- No step but the controller's moves the power unit (R10). -/
theorem exec_outsidePower {i : Instr} {s t : State} (hp : powerEvent i = false) (hx : exec i s = .next t) : OutsidePower s.pw t.pw := by
  cases hw : encOf i with
  | some e => exact exec_word_pw (by rw [hw]; rfl) hx ▸ .refl s.pw
  | none => exact exec_event_outsidePower hw hp hx

/-- Settles O57: a step that is not the controller's changes no more of the power unit than PERST#, the limit and the log. -/
theorem onlyTheController : Obligations.OnlyTheController := by
  intro i s t hp hx
  obtain ⟨a, b, limit, log, h⟩ := exec_outsidePower hp hx
  simp [h]

/-! ### Reset (R10, R11, R84, R85) -/

/-- Settles O58. That reset is the moment at which the rails are up and the cold start begins, and that no memory holds anything then, are the
model's choices (log entries 2, 3 and 9). -/
theorem afterReset : Obligations.AfterReset := by
  refine ⟨?_, rfl, rfl, rfl, rfl, by decide, rfl, rfl, fun core slot => ?_⟩
  · unfold PowerOk
    decide
  · rfl

/-! ### The invariant (R10, R11) -/

/-- Refutes O56: `PowerOk` holds of CAP with the clock stopped, where R10 has it at 400 to 800 MHz; a start at step 1 whose PLL locks then
starts the clock at 850 MHz and leaves the module in CAP, which `PowerOk` allows only below 850 MHz. -/
theorem not_powerInvariant : ¬ Obligations.PowerInvariant := by
  intro h
  let s : State := { State.reset with pw := { mode := .cap, clock := 0 }, ctl := { agenda := [⟨.pllLock true, ⟨0, 0, 0⟩⟩] } }
  have hok : PowerOk s.pw := by
    unfold PowerOk
    decide
  have hstep : step s = .next { State.reset with pw := { mode := .cap, clock := 850 }, st := { step := 2 } } := rfl
  obtain ⟨-, -, -, -, hcap, -⟩ := h _ _ hok hstep
  exact absurd (hcap rfl) (by decide)

end Sys2Proof.Machine

/-! SUPPORT. What root's instructions on keys, translations and rotas do (R36, R38, R464 to R466), and what PGVER does (R219 to R221,
R469). -/

namespace Sys2Proof.Machine

open Sys2Proof.Claims

/-! ### Keys, translations and rota tables (R464 to R466) -/

/-- A rota entry that names a holding that is not live. -/
def State.deadEntry (s : State) (e : BitVec 8) : Bool :=
  match entryOwner e with
  | some h => !s.live h
  | none => false

theorem State.deadEntry_eq_false {s : State} {e : BitVec 8} (h : ∀ h, entryOwner e = some h → s.live h = true) :
    s.deadEntry e = false := by
  unfold State.deadEntry
  split
  · next n hn => simp [h n hn]
  · rfl

theorem any_deadEntry {s : State} {t : List (BitVec 8)} (h : ∀ e ∈ t, ∀ h, entryOwner e = some h → s.live h = true) :
    t.any s.deadEntry = false :=
  List.any_eq_false.mpr fun e he => ne_true_of_eq_false (State.deadEntry_eq_false (h e he))

section RootTables

variable {f : Fields} {s s1 : State} (hfree : s.released s.core s.slotNo modulePlot = true)
include hfree

/-- A root instruction with an aligned block of 64 bytes within the memory loads the key that it reads there. -/
theorem completes_keyset (h : ready (.keyset f) s) (hal : (s.g f.a).toNat % 64 = 0) (hin : (s.g f.a).toNat + 64 ≤ dramSize)
    (hopen : rootOpen s (s.g f.a).toNat 64 = .ok s1) :
    let t := s1.l2Flush fun l => l.key = bits (s.g f.b).toNat 7 0
    let key := BitVec.ofNat 512 (leNat (s1.rootBytes (s.g f.a).toNat 64))
    Completes (.keyset f) f s
      { t with hd := { t.hd with keys := Tab.set none t.hd.keys (bits (s.g f.b).toNat 7 0) (some key) } } := by
  refine completes_of_body (show execKeyset f s = issue (.keyset f) s _ from rfl) rfl h ?_
  simp [release_ok hfree, hal, Nat.not_lt.mpr hin, hopen, bind, Except.bind]

theorem completes_keysetClear (h : ready (.keysetClear f) s) :
    Completes (.keysetClear f) f s (s.clearKey (bits (s.g f.b).toNat 7 0)) := by
  refine completes_of_body (show execKeysetClear f s = issue (.keysetClear f) s _ from rfl) rfl h ?_
  simp [release_ok hfree, bind, Except.bind]

/-- A shadow table whose entries name live holdings alone is written, unless its rota is armed (R38). -/
theorem completes_rota {r : RotaId} (h : ready (.rota f) s) (hr : rotaOf (s.g f.a).toNat = some r) (hm : r ≠ .master)
    (hal : (s.g f.b).toNat % 64 = 0) (hin : (s.g f.b).toNat + 64 ≤ dramSize) (hopen : rootOpen s (s.g f.b).toNat 64 = .ok s1)
    (hlive : ∀ e ∈ (s1.rootBytes (s.g f.b).toNat 64).map (· &&& 0xBF), ∀ h, entryOwner e = some h → s1.live h = true) :
    Completes (.rota f) f s (if (s1.rota (rotaKey r)).arm then s1 else s1.modRota (rotaKey r) fun v =>
      { v with shadow := Tab.setBytes [] 0 ((s1.rootBytes (s.g f.b).toNat 64).map (· &&& 0xBF)) }) := by
  have hany := any_deadEntry hlive
  refine completes_of_body (show execRota f s = issue (.rota f) s _ from rfl) rfl h ?_
  cases r with
  | master => exact absurd rfl hm
  | mesh | kryas | host =>
    simp only [release_ok hfree, hr, hal, Nat.not_lt.mpr hin, hopen, bind, Except.bind, ne_eq, not_true_eq_false, if_false]
    refine (if_neg (ne_true_of_eq_false hany)).trans ?_
    split <;> rfl

theorem completes_rotaCtl_master (h : ready (.rotaCtl f) s) (hr : rotaOf (s.g f.a).toNat = some .master) :
    Completes (.rotaCtl f) f s { s with net := { s.net with epoch := BitVec.ofNat 16 (s.g f.b).toNat } } := by
  refine completes_of_body (show execRotaCtl f s = issue (.rotaCtl f) s _ from rfl) rfl h ?_
  simp [release_ok hfree, hr, bind, Except.bind]

theorem completes_rotaCtl {r : RotaId} (h : ready (.rotaCtl f) s) (hr : rotaOf (s.g f.a).toNat = some r) (hm : r ≠ .master) :
    Completes (.rotaCtl f) f s (s.modRota (rotaKey r) fun x =>
      { x with arm := bit (s.g f.b).toNat 32, tepoch := BitVec.ofNat 16 (bits (s.g f.b).toNat 31 16) }) := by
  refine completes_of_body (show execRotaCtl f s = issue (.rotaCtl f) s _ from rfl) rfl h ?_
  cases r with
  | master => exact absurd rfl hm
  | mesh | kryas | host => simp [release_ok hfree, hr, bind, Except.bind]

end RootTables

/-- Only root names another holding than its own (R465). -/
theorem completes_tlbinv {f : Fields} {s : State} (h : ready (.tlbinv f) s) (hroot : bits f.imm.toNat 13 8 ≠ 0 → s.thr.root = true) :
    let h := if s.thr.root then bits f.imm.toNat 13 8 else s.thr.hold
    let all := f.imm.getLsbD 0
    let mva := (s.g f.a).toNat
    let s1 := (s.tlbDrop fun t => t.hold = h && (all || (bits t.entry.toNat 4 1 ≠ 0 && t.tag = tlbTag t.level mva))).reissueQ h
    s1.accessOpen h = false → Completes (.tlbinv f) f s (s1.walkAgain h fun a => all || s1.onePage h a mva) := by
  intro n all mva s1 hopen
  refine completes_of_body (show execTlbinv f s = issue (.tlbinv f) s _ from rfl) rfl h
    ((if_neg ?_).trans (if_neg (ne_true_of_eq_false hopen)))
  simpa using hroot

/-- KEYSET, TLBINV and ROTA. -/
theorem keysAndRotas : KeysAndRotas := fun _ _ =>
  ⟨fun _ h hfree hal hin hopen => completes_keyset hfree h hal hin hopen,
    fun h hfree => completes_keysetClear hfree h,
    fun h hroot => completes_tlbinv h hroot,
    fun _ _ h hfree hr hm hal hin hopen hlive => completes_rota hfree h hr hm hal hin hopen hlive,
    fun h hfree => ⟨fun hr => completes_rotaCtl_master hfree h hr, fun _ hr hm => completes_rotaCtl hfree h hr hm⟩⟩

/-! ### Page moves (R219 to R221, R469) -/

/-- What the arm of a page asks of its leaf, and the state in which it has found it (R219). -/
structure Armable (f : Fields) (s : State) (at_ : Nat) (e : Word) (s1 : State) : Prop where
  aligned : (s.g f.a).toNat % 65536 = 0
  inSpace : (s.g f.a).toNat < 2 ^ 57
  walked : bits (s.g f.a).toNat 56 52 ≠ 0x1F
  found : s.walkNow s.asker (s.g f.a).toNat 4 3 (s.hword s.thr.hold 0x40) = (.ok (0, at_, e), s1)
  leaf : s1.leafOk s.thr.hold 0 (s.g f.a).toNat {} e = true
  device : bits e.toNat 29 28 = 0
  outside : s1.inHdm (bits e.toNat 63 34 * 65536) = false
  free : s1.armed (bits e.toNat 63 34 * 65536) = false

/-- The arm takes a move slot for the page that it has found, or answers 1 where none is free (R219, R469). -/
def State.armMove (s : State) (f : Fields) (h page at_ : Nat) (e : Word) : State :=
  match s.freeMove h with
  | none => s.dst f.d 1
  | some i => ((s.settleFrame (bits e.toNat 63 34)).setMove h i (some ⟨page, at_, e, bits e.toNat 63 34, 0⟩)).dst f.d
      (BitVec.ofNat 64 (i * 256))

theorem State.armMove_full {s : State} {h : Nat} (hm : s.freeMove h = none) (f : Fields) (page at_ : Nat) (e : Word) :
    s.armMove f h page at_ e = s.dst f.d 1 := by simp [State.armMove, hm]

theorem State.armMove_free {s : State} {h i : Nat} (hm : s.freeMove h = some i) (f : Fields) (page at_ : Nat) (e : Word) :
    s.armMove f h page at_ e = ((s.settleFrame (bits e.toNat 63 34)).setMove h i
      (some ⟨page, at_, e, bits e.toNat 63 34, 0⟩)).dst f.d (BitVec.ofNat 64 (i * 256)) := by simp [State.armMove, hm]

theorem completes_pgverArm {f : Fields} {s s1 : State} {at_ : Nat} {e : Word} (h : ready (.pgverArm f) s) (ha : Armable f s at_ e s1) :
    Completes (.pgverArm f) f s (s1.armMove f s.thr.hold ((s.g f.a).toNat / 65536) at_ e) := by
  obtain ⟨hal, hin, hwin, hwalk, hleaf, hdev, hhdm, harm⟩ := ha
  refine completes_of_body (show execPgverArm f s = issue (.pgverArm f) s _ from rfl) rfl h ?_
  simp only [hal, if_neg (Nat.not_le.mpr hin), hwin, hwalk, hleaf, hdev, hhdm, harm]
  cases hm : s1.freeMove s.thr.hold with
  | none => simp [State.armMove_full hm]
  | some i => simp [State.armMove_free hm]

section Commit

variable {f : Fields} {s : State} (h : ready (.pgverCommit f) s) (hin : bits (s.gz f.b).toNat 29 0 * 65536 < dramSize)
  (hhdm : s.inHdm (bits (s.gz f.b).toNat 29 0 * 65536) = false)
include h hin hhdm

/-- A commit of no move answers 2. -/
theorem completes_pgverCommit_none (hm : s.move s.thr.hold (bits (s.g f.a).toNat 2 0) = none) :
    Completes (.pgverCommit f) f s (s.dst f.d 2) := by
  refine completes_of_body (show execPgverCommit f s = issue (.pgverCommit f) s _ from rfl) rfl h ?_
  simp [Nat.not_le.mpr hin, hhdm, hm]

variable {m : MoveSlot} {s0 : State} (hm : s.move s.thr.hold (bits (s.g f.a).toNat 2 0) = some m)
  (hg : s.hdmGate (some s.asker.who) m.leafAt 8 true s.thr.hold s.thr.rgn = (true, s0))
include hm hg

/-- The move takes place when nothing has written the page or its leaf since the arm. -/
theorem completes_pgverCommit_moved (hv : m.version = bits (s.g f.a).toNat 63 32) (hl : s0.rawWord m.leafAt = m.leaf)
    (ho : s0.inHdm (m.frame * 65536) = false) :
    let s1 := s0.setMove s.thr.hold (bits (s.g f.a).toNat 2 0) none
    Completes (.pgverCommit f) f s ((((s1.rawPut s.thr.hold s1.thr.rgn m.leafAt (BitVec.ofNat 64
      (bits m.leaf.toNat 33 0 + bits (s.gz f.b).toNat 29 0 * 2 ^ 34))).tlbDrop fun t => t.pa = m.leafAt).moveHeld
        m.frame (bits (s.gz f.b).toNat 29 0) s.thr.hold).dst f.d 0) := by
  refine completes_of_body (show execPgverCommit f s = issue (.pgverCommit f) s _ from rfl) rfl h ?_
  simp [Nat.not_le.mpr hin, hhdm, hm, hg, hv, hl, ho]

/-- Else it is given up, and the commit answers 2. -/
theorem completes_pgverCommit_lost
    (hx : m.version ≠ bits (s.g f.a).toNat 63 32 ∨ s0.rawWord m.leafAt ≠ m.leaf ∨ s0.inHdm (m.frame * 65536) = true) :
    Completes (.pgverCommit f) f s ((s0.setMove s.thr.hold (bits (s.g f.a).toNat 2 0) none).dst f.d 2) := by
  have hok : ¬(decide (m.version = bits (s.g f.a).toNat 63 32) && decide (s0.rawWord m.leafAt = m.leaf) &&
      !s0.inHdm (m.frame * 65536)) = true := by
    simpa [Classical.or_iff_not_imp_left] using hx
  refine completes_of_body (show execPgverCommit f s = issue (.pgverCommit f) s _ from rfl) rfl h ?_
  simp only [Nat.not_le.mpr hin, hhdm, hm, hg, if_neg hok]
  rfl

end Commit

/-- The four operations of PGVER. -/
theorem pageMoves : PageMoves := by
  intro f s n
  refine ⟨?arm, fun h => completes_of_body (show execPgverRead f s = issue (.pgverRead f) s _ from rfl) rfl h rfl, ?commit,
    fun h => completes_of_body (show execPgverFree f s = issue (.pgverFree f) s _ from rfl) rfl h rfl⟩
  case arm =>
    intro at_ e s1 h hal hin hwin hwalk frame hleaf hloc hhdm harm
    have ha : Armable f s at_ e s1 := ⟨hal, hin, hwin, hwalk, hleaf, hloc, hhdm, harm⟩
    have hx := completes_pgverArm h ha
    exact ⟨fun hm => by rwa [State.armMove_full hm] at hx, fun i hm => by rwa [State.armMove_free hm] at hx⟩
  case commit =>
    intro h k frame hin hhdm
    exact ⟨completes_pgverCommit_none h hin hhdm, fun m s0 hm hg =>
      ⟨completes_pgverCommit_moved h hin hhdm hm hg, completes_pgverCommit_lost h hin hhdm hm hg⟩⟩

/-- Settles O26: each instruction passes its checks under the hypotheses and ends in the state that the statement names. That ROTA with CTL
at the master sets the module epoch alone, and that a commit of a page that has come into the HDM-DB region answers 2, are the model's
choices (log entries 27 and 64). -/
theorem keysRotasAndPages : Obligations.KeysRotasAndPages := ⟨keysAndRotas, pageMoves⟩

end Sys2Proof.Machine

/-! SUPPORT. What the events of Kryas links, peers' requests, rotas and the mesh do (R22, R26 to R31, R34, R35, R37 to R42, R63, R71). -/

namespace Sys2Proof.Machine

open Sys2Proof.Claims

/-! ### Links that train and are reset (R30, R35) -/

@[simp] theorem State.link_modLink_same (s : State) (l : Nat) (f : Link → Link) : (s.modLink l f).link l = f (s.link l) :=
  Tab.get_set_same _ _ _ _

theorem happens_linkTrainingDone {s : State} (r : Trained) (p : BitVec 3) (h : (s.link s.ctl.here.unit).st = .train) :
    Happens (.linkTrainingDone r p) s (s.trained s.ctl.here.unit r p) := happens_of rfl (if_pos h)

theorem happens_retrain {s : State} {b : Bool} (hup : (s.link s.ctl.here.unit).st.up = true)
    (h : b = true ∨ 8 ≤ (s.link s.ctl.here.unit).nakRun) : Happens (.retrain b) s (s.retrain s.ctl.here.unit) :=
  happens_of rfl (if_pos (by simpa [hup] using h))

theorem happens_rst {s : State} (h : s.ctl.here.unit < 48) : Happens .rst s (s.resetLink s.ctl.here.unit) :=
  happens_of rfl (if_neg (Nat.not_le.mpr h))

/-- The state in which a link starts anew: one that is up has failed over its unacknowledged flits. -/
def State.handedOver (s : State) (l : Nat) : State := if (s.link l).st.up then s.failOver l else s

theorem State.handedOver_down {s : State} {l : Nat} (h : (s.link l).st.up = false) : s.handedOver l = s :=
  if_neg (ne_true_of_eq_false h)

theorem State.link_resetLink (s : State) (l : Nat) : (s.resetLink l).link l =
    (let k := (s.handedOver l).link l
     { st := .train, peer := k.peer, dropc := k.dropc, retc := k.retc, nakc := k.nakc, queue := k.queue, ptr := k.ptr, wire := k.wire
       rxFo := if k.st = .down || k.st = .train then k.rxFo else some k.rxGood }) :=
  State.link_modLink_same (s.handedOver l) l _

/-! ### Flits (R29 to R31) -/

/-- A link after the header of a good flit: acknowledgement, credit return and marker. -/
def State.headed (s : State) (l : Nat) (hdr : BitVec 96) : State :=
  s.modLink l fun k => ((k.ackNak hdr.toNat).credit hdr.toNat).markIn (bit hdr.toNat 70)

/-- The link owes its peer a NAK. -/
def State.nakBack (s : State) (l : Nat) : State := s.modLink l fun k => { k with nakDue := true }

/-- The SEQ of a flit's header. -/
def seqOf (hdr : BitVec 96) : BitVec 12 := BitVec.ofNat 12 (bits hdr.toNat 95 84)

section Flits

variable {s : State} {hdr : BitVec 96} {pay : List Byte} {crc : BitVec 32} {msgs : List LinkMsg}
  (hup : (s.link s.ctl.here.unit).st.up = true)
include hup

theorem happens_kryasFlitReceive_bad (hbad : flitGood hdr pay crc = false) : Happens (.kryasFlitReceive hdr pay crc msgs) s
    (s.modLink s.ctl.here.unit fun k => { k.markIn false with nakDue := true }) := by
  refine happens_of rfl ?_
  simp [hup, hbad]

variable (hgood : flitGood hdr pay crc = true)
include hgood

/-- A null flit is in order when it carries the last number that was accepted. -/
theorem happens_kryasFlitReceive_null (ht : bits hdr.toNat 60 58 = 0) :
    let t := s.headed s.ctl.here.unit hdr
    Happens (.kryasFlitReceive hdr pay crc msgs) s
      (if seqOf hdr = (t.link s.ctl.here.unit).rxGood then t else t.nakBack s.ctl.here.unit) := by
  refine happens_of rfl ?_
  simp [hup, hgood, ht, State.headed, State.nakBack, seqOf]

/-- A flit with messages is taken when it carries the next number. -/
theorem happens_kryasFlitReceive_next (ht : bits hdr.toNat 60 58 = 1)
    (hseq : seqOf hdr = ((s.headed s.ctl.here.unit hdr).link s.ctl.here.unit).rxGood + 1) : Happens (.kryasFlitReceive hdr pay crc msgs) s
    (((s.headed s.ctl.here.unit hdr).modLink s.ctl.here.unit fun k => { k with rxGood := seqOf hdr }).deliver s.ctl.here.unit
      hdr.toNat msgs) := by
  refine happens_of rfl ?_
  simp only [hup, hgood, ht]
  exact if_pos hseq

/-- Any other number is NAKed. -/
theorem happens_kryasFlitReceive_outOfOrder (ht : bits hdr.toNat 60 58 = 1)
    (hseq : seqOf hdr ≠ ((s.headed s.ctl.here.unit hdr).link s.ctl.here.unit).rxGood + 1) : Happens (.kryasFlitReceive hdr pay crc msgs) s
    ((s.headed s.ctl.here.unit hdr).nakBack s.ctl.here.unit) := by
  refine happens_of rfl ?_
  simp only [hup, hgood, ht]
  exact if_neg hseq

/-- A failover flit is judged by the numbers of the link that it names (R31). -/
theorem happens_kryasFlitReceive_failover (ht : bits hdr.toNat 60 58 = 2) {e : State}
    (he : (s.headed s.ctl.here.unit hdr).failoverIn s.ctl.here.unit (bits hdr.toNat 57 52) hdr.toNat (seqOf hdr) msgs = e) :
    Happens (.kryasFlitReceive hdr pay crc msgs) s e := by
  refine happens_of rfl ?_
  simp only [hup, hgood, ht]
  exact congrArg some he

end Flits

/-- A link takes a failover flit of another: its messages, and the credit that it owes back. -/
def State.takeFailover (s : State) (l o hdr : Nat) (seq : BitVec 12) (msgs : List LinkMsg) : State :=
  (msgs.foldl (fun (u : State) m => u.message l m) s).modLink l fun k => k.foCredit o hdr seq

/-- The next number of the link that the flit comes from. -/
theorem State.failoverIn_next {s : State} {o : Nat} {seq : BitVec 12} (h : seq = (s.link o).rxGood + 1) (l hdr : Nat)
    (msgs : List LinkMsg) : s.failoverIn l o hdr seq msgs =
      (s.modLink o fun k => { k with rxGood := seq }).takeFailover l o hdr seq msgs := if_pos h

/-- The next number after the last one accepted before that link was reset. -/
theorem State.failoverIn_before {s : State} {o : Nat} {seq : BitVec 12} (h : seq ≠ (s.link o).rxGood + 1)
    (hr : (s.link o).rxFo = some (seq - 1)) (l hdr : Nat) (msgs : List LinkMsg) : s.failoverIn l o hdr seq msgs =
      (s.modLink o fun k => { k with rxFo := some seq }).takeFailover l o hdr seq msgs :=
  (if_neg h).trans (if_pos hr)

/-! ### Peers (R31, R34, R63, R71) -/

/-- A request to a peer without a link that is up completes poisoned. -/
theorem happens_nonpostedTimeout {s : State} {r : HostReq} (hr : s.hi.reqs[s.ctl.here.pos]? = some r) (hp : 2 ≤ r.port)
    (hup : s.upLinks (r.port - 2) = []) : Happens .nonpostedTimeout s
      ({ s with net := { s.net with lost := s.net.lost.erase r.id } }.complete r .poisoned []) := by
  refine happens_of rfl ?_
  simp [hr, State.unreachable, hp, hup]

/-- A peer's request that has been tried is answered, unless it waits. -/
theorem State.peerTried_answered (s : State) (n : Nat) (q : PeerReq) (hold tag : Nat) {g : Got} (hg : g ≠ .waits) (u : State) :
    s.peerTried n q hold tag (g, u) = some ((u.takeReq n).respond q hold tag g) := by
  cases g with
  | waits => exact absurd rfl hg
  | data | denied => rfl

section Peers

variable {s : State} {q : PeerReq} (hq : s.net.peerReqs[s.ctl.here.pos]? = some q)
  (hb : s.behindPeer s.ctl.here.pos q.peer = false)
include hq hb

section Read

variable {tag src off len : Nat} {w : Nat} (hm : q.msg = .read tag w src off len)
include hm

theorem happens_peerRequest_read_ungranted (hg : s.grant q.peer src off len { r := true } = none) :
    Happens .peerRequest s ((s.takeReq s.ctl.here.pos).respond q 0 tag .denied) := by
  refine happens_of rfl ?_
  simp [hq, hb, hm, hg]

theorem happens_peerRequest_read {h a : Nat} {g : Got} {u : State} (hg : s.grant q.peer src off len { r := true } = some (h, a))
    (hr : s.agentRead (2 + q.peer) h a len = (g, u)) (hw : g ≠ .waits) :
    Happens .peerRequest s ((u.takeReq s.ctl.here.pos).respond q h tag g) := by
  refine happens_of rfl ?_
  simp [hq, hb, hm, hg, hr, State.peerTried_answered _ _ _ _ _ hw]

end Read

section Write

variable {w src off : Nat} {d : List Byte} {chk : List Nat} {rgn : Nat} {addr : Word} (hm : q.msg = .write w src off d chk rgn addr)
include hm

theorem happens_peerRequest_write_ungranted (hg : s.grant q.peer src off d.length { w := true } = none) :
    Happens .peerRequest s ((s.takeReq s.ctl.here.pos).queueMsg q.link 0 1 (.denied src rgn addr)) := by
  refine happens_of rfl ?_
  simp [hq, hb, hm, hg]

variable {h a : Nat} {u : State} (hg : s.grant q.peer src off d.length { w := true } = some (h, a))
include hg

theorem happens_peerRequest_write_done (hr : (s.nextNum (2 + q.peer)).2.agentWrite (2 + q.peer) (s.nextNum (2 + q.peer)).1 h a d
    (checksBad d chk) = (.done, u)) : Happens .peerRequest s (u.takeReq s.ctl.here.pos) := by
  refine happens_of rfl ?_
  simp [hq, hb, hm, hg, hr]

theorem happens_peerRequest_write_denied (hr : (s.nextNum (2 + q.peer)).2.agentWrite (2 + q.peer) (s.nextNum (2 + q.peer)).1 h a d
    (checksBad d chk) = (.denied, u)) :
    Happens .peerRequest s ((u.takeReq s.ctl.here.pos).queueMsg q.link h 1 (.denied src rgn addr)) := by
  refine happens_of rfl ?_
  simp [hq, hb, hm, hg, hr]

end Write

section Atomic

variable {tag w src fn off len : Nat} {x y : BitVec 128} {chk : List Nat} (hm : q.msg = .atomic tag w src fn off len x y chk)
include hm

theorem happens_peerRequest_atomic_ungranted (hg : s.grant q.peer src off len atomNeed = none) :
    Happens .peerRequest s ((s.takeReq s.ctl.here.pos).respond q 0 tag .denied) := by
  refine happens_of rfl ?_
  simp [hq, hb, hm, hg]

variable {h a : Nat} (hg : s.grant q.peer src off len atomNeed = some (h, a))
include hg

/-- An atomic whose operands do not match their check values is answered with poison (R71). -/
theorem happens_peerRequest_atomic_poisoned (hc : checksBad (operandBeat x y) chk = true) :
    Happens .peerRequest s ((s.takeReq s.ctl.here.pos).respond q h tag (.data (List.replicate len 0) true)) := by
  refine happens_of rfl ?_
  simp [hq, hb, hm, hg, hc]

theorem happens_peerRequest_atomic {g : Got} {u : State} (hc : checksBad (operandBeat x y) chk = false)
    (hr : s.agentAtomic (2 + q.peer) h a len (peerOp fn len x y) = (g, u)) (hw : g ≠ .waits) :
    Happens .peerRequest s ((u.takeReq s.ctl.here.pos).respond q h tag g) := by
  refine happens_of rfl ?_
  simp [hq, hb, hm, hg, hc, hr, State.peerTried_answered _ _ _ _ _ hw]

end Atomic

/-- A flush is answered when no write of the peer, and none that one of them has led to, is still to be applied (R63). -/
theorem happens_peerFlush {x : Nat} (hm : q.msg = .flush x) (hw : (s.hi.writes.any fun w => w.port = 2 + q.peer) = false)
    (ho : s.sending (· = .peer q.peer) = false) :
    Happens .peerFlush s ((s.takeReq s.ctl.here.pos).queueMsg q.link 0 1 (.flushDone s.pw.strapPos.toNat)) := by
  refine happens_of rfl ?_
  simp only [hq, hm, hb, hw, ho]
  rfl

end Peers

/-- Links, their flits and what peers ask. -/
theorem linksAndPeers : LinksAndPeers := by
  intro s l n
  refine ⟨fun r p => happens_linkTrainingDone r p, fun b => happens_retrain, ?reset, ?flit, fun r => happens_nonpostedTimeout,
    fun q tag w src off len hq hb hm => ⟨happens_peerRequest_read_ungranted hq hb hm, fun h a hg =>
      ⟨fun bs bad u hr => happens_peerRequest_read hq hb hm hg hr nofun, fun u hr => happens_peerRequest_read hq hb hm hg hr nofun⟩⟩,
    fun q w src off d chk rgn addr hq hb hm => ⟨happens_peerRequest_write_ungranted hq hb hm, fun h a hg =>
      ⟨fun u => happens_peerRequest_write_done hq hb hm hg, fun u => happens_peerRequest_write_denied hq hb hm hg⟩⟩,
    fun q tag w src fn off len x y chk hq hb hm => ⟨happens_peerRequest_atomic_ungranted hq hb hm,
      fun h a => happens_peerRequest_atomic_poisoned hq hb hm,
      fun h a bs bad u hg hc hr => happens_peerRequest_atomic hq hb hm hg hc hr nofun⟩,
    fun q x hq hm hw hb ho => happens_peerFlush hq hb hm hw ho⟩
  case reset =>
    intro hl k
    have hk : k = _ := s.link_resetLink l
    refine ⟨happens_rst hl, ?_⟩
    rw [hk]
    refine ⟨rfl, rfl, rfl, rfl, rfl, rfl, rfl, rfl, fun hdown => ?_⟩
    rw [State.handedOver_down hdown]
    exact ⟨rfl, rfl, rfl⟩
  case flit =>
    intro hdr pay crc msgs hup nak bad seq t
    exact ⟨happens_kryasFlitReceive_bad hup, happens_kryasFlitReceive_null hup,
      fun hgood ht => ⟨happens_kryasFlitReceive_next hup hgood ht, happens_kryasFlitReceive_outOfOrder hup hgood ht⟩,
      fun hgood ht => ⟨fun hseq => happens_kryasFlitReceive_failover hup hgood ht (State.failoverIn_next hseq _ _ _),
        fun hseq hfo => happens_kryasFlitReceive_failover hup hgood ht (State.failoverIn_before hseq hfo _ _ _)⟩⟩

/-! ### Slots and markers (R37 to R41) -/

theorem happens_rotaSlotStart_mesh (s : State) {core dir : Nat} (h : meshOutput core dir = true) :
    Happens (.rotaSlotStart (.mesh core dir)) s (s.slotStart (.mesh core dir) fun t r => t.meshSlot core dir r) :=
  happens_of rfl (if_pos h)

theorem happens_rotaSlotStart_kryas (s : State) {l : Nat} (hl : l < 48) (hup : (s.link l).st.up = true) :
    Happens (.rotaSlotStart (.kryas l)) s (s.slotStart (.kryas l) fun t r => t.kryasSlot l r) :=
  happens_of rfl (if_pos (by simp [hl, hup]))

theorem happens_rotaSlotStart_host (s : State) {p : Nat} (h : p < 2) :
    Happens (.rotaSlotStart (.host p)) s (s.slotStart (.host p) fun t r => t.hostSlot p r) :=
  happens_of rfl (if_pos h)

section Markers

variable {s : State} (hi : s.ctl.here.unit ≤ ioDie 1) (h0 : s.ctl.here.unit ≠ ioDie 0)
include hi h0

/-- I/O die 0, whose phase is the module's, takes no marker; any other router does (R41). -/
theorem takesMarkers : ¬(decide (s.ctl.here.unit = ioDie 0) || decide (ioDie 1 < s.ctl.here.unit)) = true := by
  simp [h0, hi]

/-- A marker that does not arrive ends the alignment. -/
theorem happens_rotaMarkerArrival_none (late : Int) : Happens (.rotaMarkerArrival none late) s
    (s.modRouter s.ctl.here.unit fun x => { x with aligned := false, inRow := 0 }) :=
  happens_of rfl (if_neg (takesMarkers hi h0))

/-- A marker within a cycle of its time: three in a row align the router, and the next slot 63 makes up for the cycle. -/
theorem happens_rotaMarkerArrival_near {late : Int} (hl : -1 ≤ late) (hr : late ≤ 1) :
    let i := s.ctl.here.unit
    Happens (.rotaMarkerArrival (some (s.refEpoch i)) late) s ((s.modRouter i fun x =>
      { epoch := s.refEpoch i, inRow := min (x.inRow + 1) 3, aligned := x.aligned || decide (3 ≤ x.inRow + 1) }).modOutputs i
        fun _ r => { r with adjust := late }) := by
  refine happens_of rfl ((if_neg (takesMarkers hi h0)).trans ?_)
  simp [hl, hr]

/-- A marker further off ends the alignment, and the outputs take their phase from it. -/
theorem happens_rotaMarkerArrival_far {late : Int} (h : late < -1 ∨ 1 < late) :
    let i := s.ctl.here.unit
    Happens (.rotaMarkerArrival (some (s.refEpoch i)) late) s ((s.modRouter i fun _ => { epoch := s.refEpoch i }).modOutputs i
      fun d r => { r with slot := hopDelay i d, adjust := 0 }) := by
  have hfar : ¬(decide (-1 ≤ late) && decide (late ≤ 1)) = true := by
    simp only [Bool.and_eq_true, decide_eq_true_eq]
    omega
  refine happens_of rfl ((if_neg (takesMarkers hi h0)).trans ?_)
  exact (if_neg (not_not_intro rfl)).trans (if_neg hfar)

end Markers

/-! ### Flits of the mesh (R22, R42) -/

section Mesh

variable {s : State} {f : MeshFlit} (hf : s.net.flits[s.ctl.here.pos]? = some f) (hmv : f.moving = true)
include hf hmv

/-- At its own core, or at an I/O die, a flit leaves the mesh. -/
theorem happens_flitHop_leaves (h : nextOut f.here f.dst = 4 ∨ 8192 ≤ f.here) :
    Happens .flitHop s { s with net := { s.net with flits := s.net.flits.eraseIdx s.ctl.here.pos } } := by
  refine happens_of rfl ?_
  simp [hf, hmv, h.symm]

/-- Elsewhere it is ready for its next slot, or waits in its holding's buffer. -/
theorem happens_flitHop_goesOn (ho : nextOut f.here f.dst ≠ 4) (hh : f.here < 8192) :
    let out := nextOut f.here f.dst
    let slot := (f.ready + hopDelay f.here out) % 64
    let taken := s.net.flits.any fun g => g.hold = f.hold && g.readyAt f.here out slot && !g.buffered
    let g : MeshFlit := { f with out := out, ready := slot, moving := false, buffered := taken || !s.slotFor f.here out slot f.hold }
    Happens .flitHop s { s with net := { s.net with flits := s.net.flits.set s.ctl.here.pos g } } := by
  refine happens_of rfl ?_
  simp [hf, hmv, ho, Nat.not_le.mpr hh]

end Mesh

/-- Rota slots, markers and the flits of the mesh. -/
theorem rotasAndMesh : RotasAndMesh := by
  intro s
  refine ⟨fun rota => ⟨?mesh, ?kryas, ?host⟩, fun hi h0 => ⟨fun late => happens_rotaMarkerArrival_none hi h0 late,
      fun late => happens_rotaMarkerArrival_near hi h0, fun late => happens_rotaMarkerArrival_far hi h0⟩,
    fun f hf hmv => ⟨happens_flitHop_leaves hf hmv, happens_flitHop_goesOn hf hmv⟩⟩
  case mesh =>
    rintro core dir rfl h
    exact happens_rotaSlotStart_mesh s h
  case kryas =>
    rintro l rfl hl hup
    exact happens_rotaSlotStart_kryas s hl hup
  case host =>
    rintro p rfl h
    exact happens_rotaSlotStart_host s h

/-- Settles O33: each event is enabled under its hypotheses and answers the state that the statement names. The NAK of a null flit out of
order, the limit of a grant, the order of failover flits over a reset, the error response to a peer's write and the capability table that a
swap of tables rebuilds are the model's choices (log entries 33, 53, 61, 63 and 67). -/
theorem linksAndRotas : Obligations.LinksAndRotas := ⟨linksAndPeers, rotasAndMesh⟩

end Sys2Proof.Machine

/-! SUPPORT. What RGNOP does to a holding with no other operation and no reset (R56, R106 to R114, R463, R487). -/

namespace Sys2Proof.Machine

open Sys2Proof.Claims

/-- An RGNOP of the present slot may start on its holding: the thread's earlier accesses are performed as a release at the module's plot
demands, the holding has no operation and no reset under way, and the block is aligned (R107, R116, R463). -/
structure MayStart (f : Fields) (s : State) : Prop where
  released : s.released s.core s.slotNo modulePlot = true
  idle : s.busyWith (hld s f) = none
  noReset : (s.hold (hld s f)).reset = 0
  aligned : blk s f % 256 = 0

/-- The operation of a holding is over, and RGNOP answers 0. -/
def State.rgnopDone (s : State) (f : Fields) (h : Nat) : State := (s.modHold h fun v => { v with busy := none }).dst f.d 0

/-- With nothing under way on the holding, RGNOP starts its operation. -/
theorem rgnop_start {f : Fields} {s : State} (hs : MayStart f s) (op : Nat) (start : State → Nat → Nat → M Fin)
    (go : State → Nat → Busy → M Fin) : rgnop op f s start go = start s (blk s f) (hld s f) := by
  obtain ⟨hrel, hidle, hreset, -⟩ := hs
  simp only [hld] at hidle hreset
  simp [rgnop, release_ok hrel, hidle, hreset, bind, Except.bind, blk, hld]

/-- An operation with no cell left to reset is over; DESTROY (4) first makes the holding FREE (R110, R154). -/
theorem finishCells_done {s : State} {mask : Nat} (hc : s.cellsPending mask = false) (f : Fields) (h op : Nat) :
    finishCells s f h op mask = .ok (.step ((if op = 4 then s.unmake h else s).rgnopDone f h)) :=
  if_neg (ne_true_of_eq_false hc)

/-! ### CREATE and SLICE (R106, R114) -/

/-- From FREE, a block that passes its checks and conflicts with no holding makes the holding; one of the ring also has holding 0's place, and
holding 0 a turn of 4,096 cycles or more (R114). -/
theorem makeHolding_done {f : Fields} {s s1 : State} {pa h op : Nat} {ring : Bool} (st : HState) (hop : op ≠ 4) (h0 : h ≠ 0)
    (hfree : s.live h = false) (hal : pa % 256 = 0) (hin : pa + 256 ≤ dramSize) (hopen : blockOpen s pa = .ok s1)
    (hok : blockOk (s1.blockAt pa) ring = true)
    (hring : ring = true → placeDiffers (s1.blockAt pa) (s1.hold 0).words = false ∧ 4096 ≤ bits (s1.hword 0 0x50) 31 0)
    (hconf : s1.conflict h (s1.blockAt pa) ring = false)
    (hcells : (s1.createDo h pa (s1.blockAt pa) st).cellsPending (wordIn (s1.blockAt pa) 0x90) = false) :
    makeHolding op st ring f s pa h = .ok (.step ((s1.createDo h pa (s1.blockAt pa) st).rgnopDone f h)) := by
  have hplace : (ring && (placeDiffers (s1.blockAt pa) (s1.hold 0).words || decide (bits (s1.hword 0 0x50) 31 0 < 4096))) = false := by
    cases ring with
    | false => rfl
    | true =>
      obtain ⟨hp, hturn⟩ := hring rfl
      simp [hp, hturn]
  simp [makeHolding, h0, hfree, hal, Nat.not_lt.mpr hin, hopen, hok, hplace, hconf, bind, Except.bind, finishCells_done hcells, hop]

/-! ### RESIZE (R108) -/

/-- With its threads gone, a RESIZE that the ring does not forbid takes effect (R112, R114). -/
theorem resizeEnd_done {f : Fields} {s1 s2 s3 : State} {h pa : Nat} {w : Tab Word}
    (hroot : h = 0 → s1.ringed = true → placeDiffers (s1.hold 0).words w = false)
    (hring : h ≠ 0 → s1.inRing h = true → placeDiffers w (s1.hold 0).words = false) (hopen : blockOpen s1 pa = .ok s2)
    (hfrz : frzOpen s2 h = .ok s3) (hcells : (s3.resizeDo h pa w).cellsPending (minus (s3.hword h 0x90) (wordIn w 0x90)) = false) :
    resizeEnd f s1 h pa w = .ok (.step ((s3.resizeDo h pa w).rgnopDone f h)) := by
  have hr : ¬(decide (h = 0) && s1.ringed && placeDiffers (s1.hold 0).words w) = true := by simpa using hroot
  have hm : ¬(decide (h ≠ 0) && s1.inRing h && placeDiffers w (s1.hold 0).words) = true := by simpa using hring
  unfold resizeEnd
  rw [if_neg hr, if_neg hm]
  simp [hopen, hfrz, bind, Except.bind, finishCells_done hcells]

/-! ### The operations -/

section Operations

variable {f : Fields} {s s1 : State} (hs : MayStart f s)
include hs

theorem completes_rgnopCreate (h : ready (.rgnopCreate f) s) (h0 : hld s f ≠ 0) (hfree : s.live (hld s f) = false)
    (hin : blk s f + 256 ≤ dramSize) (hopen : blockOpen s (blk s f) = .ok s1) :
    let given := s1.blockAt (blk s f)
    let t := s1.createDo (hld s f) (blk s f) given .active
    blockOk given false = true → s1.conflict (hld s f) given false = false → t.cellsPending (wordIn given 0x90) = false →
    Completes (.rgnopCreate f) f s (t.rgnopDone f (hld s f)) := fun hok hconf hcells =>
  completes_of_body (show execRgnopCreate f s = issue (.rgnopCreate f) s _ from rfl) rfl h
    ((rgnop_start hs _ _ _).trans (makeHolding_done .active (by decide) h0 hfree hs.aligned hin hopen hok nofun hconf hcells))

theorem completes_rgnopSlice (h : ready (.rgnopSlice f) s) (h0 : hld s f ≠ 0) (hfree : s.live (hld s f) = false)
    (hin : blk s f + 256 ≤ dramSize) (hopen : blockOpen s (blk s f) = .ok s1) :
    let given := s1.blockAt (blk s f)
    let t := s1.createDo (hld s f) (blk s f) given .sliced
    blockOk given true = true → placeDiffers given (s1.hold 0).words = false → 4096 ≤ bits (s1.hword 0 0x50) 31 0 →
    s1.conflict (hld s f) given true = false → t.cellsPending (wordIn given 0x90) = false →
    Completes (.rgnopSlice f) f s (t.rgnopDone f (hld s f)) := fun hok hplace hturn hconf hcells =>
  completes_of_body (show execRgnopSlice f s = issue (.rgnopSlice f) s _ from rfl) rfl h
    ((rgnop_start hs _ _ _).trans
      (makeHolding_done .sliced (by decide) h0 hfree hs.aligned hin hopen hok (fun _ => ⟨hplace, hturn⟩) hconf hcells))

theorem completes_rgnopResize {s2 s3 : State} (h : ready (.rgnopResize f) s)
    (hst : (s.hold (hld s f)).st = .active ∨ (s.hold (hld s f)).st = .frozen) (hin : blk s f + 256 ≤ dramSize)
    (hopen : blockOpen s (blk s f) = .ok s1) :
    let n := hld s f
    let pa := blk s f
    let given := s1.blockAt pa
    let w := keepWords (s.hold n).words given
    s1.resizeCode n given w = 0 → s1.resizeSpills n w = [] →
    (n = 0 → s1.ringed = true → placeDiffers (s1.hold 0).words w = false) →
    (n ≠ 0 → s1.inRing n = true → placeDiffers w (s1.hold 0).words = false) →
    blockOpen s1 pa = .ok s2 → frzOpen s2 n = .ok s3 →
    (s3.resizeDo n pa w).cellsPending (minus (s3.hword n 0x90) (wordIn w 0x90)) = false →
    Completes (.rgnopResize f) f s ((s3.resizeDo n pa w).rgnopDone f n) := by
  intro n pa given w hcode hspills hroot hring hopen1 hfrz hcells
  refine completes_of_body (show execRgnopResize f s = issue (.rgnopResize f) s _ from rfl) rfl h ((rgnop_start hs _ _ _).trans ?_)
  have hlive : ¬(decide ((s.hold n).st ≠ .active) && decide ((s.hold n).st ≠ .frozen)) = true := by
    simpa [Classical.or_iff_not_imp_left] using hst
  refine (if_neg hlive).trans ?_
  simp only [hs.aligned, Nat.not_lt.mpr hin, hopen, bind, Except.bind]
  simp only [given, w, n, pa] at hcode hspills
  simpa [hcode, hspills] using resizeEnd_done hroot hring hopen1 hfrz hcells

/-- A holding whose threads and engine contexts have stopped by the end of its turn is FROZEN at once (R109). -/
theorem completes_rgnopFreeze {s2 : State} (h : ready (.rgnopFreeze f) s)
    (hst : (s.hold (hld s f)).st = .active ∨ (s.hold (hld s f)).st = .sliced) (hfrz : frzOpen s (hld s f) = .ok s1)
    (hturn : (if s1.ringed then s1.turnReady else (true, s1)) = (true, s2)) :
    let n := hld s f
    let mine : Bool := s2.ringed && s2.inRing n && decide (s2.hd.turn = n)
    let s3 := ((s2.modHold n fun v => { v with st := .frozen, prev := v.st }).beginEnd n).writeFrz n
    let s4 := if mine then s3.startTurn else s3
    s4.slotsOf n = [] → s4.enginesIdle n = true → Completes (.rgnopFreeze f) f s (s4.dst f.d 0) := by
  intro n mine s3 s4 hslots hidle
  refine completes_of_body (show execRgnopFreeze f s = issue (.rgnopFreeze f) s _ from rfl) rfl h ((rgnop_start hs _ _ _).trans ?_)
  have hlive : ¬(decide ((s.hold n).st ≠ .active) && decide ((s.hold n).st ≠ .sliced)) = true := by
    simpa [Classical.or_iff_not_imp_left] using hst
  have hstill : (decide (s4.slotsOf n = []) && s4.enginesIdle n) = true := by simp [hslots, hidle]
  refine (if_neg hlive).trans ((if_neg (not_not_intro hs.aligned)).trans ?_)
  simp only [hfrz, bind, Except.bind, hturn]
  exact if_pos hstill

/-- A FROZEN holding goes back to the state that it had (R106, R113). -/
theorem completes_rgnopThaw (h : ready (.rgnopThaw f) s) (hfrozen : s.frozen (hld s f) = true) (hfrz : frzOpen s (hld s f) = .ok s1) :
    let n := hld s f
    let s2 := s1.modHold n fun v => { v with st := v.prev, prev := .free }
    let s3 := if s2.ringed && s2.inRing n && s2.frozen s2.hd.turn then s2.startTurn else s2
    Completes (.rgnopThaw f) f s (((if s3.halted n then s3 else s3.endStop n).writeFrz n).dst f.d 0) := by
  refine completes_of_body (show execRgnopThaw f s = issue (.rgnopThaw f) s _ from rfl) rfl h ((rgnop_start hs _ _ _).trans ?_)
  simp only [hfrozen, hs.aligned, hfrz, bind, Except.bind]
  rfl

/-- A holding none of whose threads is left in a slot is wiped and FREE (R110). -/
theorem completes_rgnopDestroy (h : ready (.rgnopDestroy f) s) (h0 : hld s f ≠ 0) (hlive : s.live (hld s f) = true) :
    let n := hld s f
    let s2 := (s.requarantine n).preempt n
    let s3 := (s2.wipe n).openShares n
    s2.slotsOf n = [] → s3.cellsPending (s2.hword n 0x90) = false → Completes (.rgnopDestroy f) f s ((s3.unmake n).rgnopDone f n) := by
  intro n s2 s3 hslots hcells
  refine completes_of_body (show execRgnopDestroy f s = issue (.rgnopDestroy f) s _ from rfl) rfl h ((rgnop_start hs _ _ _).trans ?_)
  have hmade : ¬(decide (n = 0) || !s.live n) = true := by simp [n, h0, hlive]
  exact (if_neg hmade).trans ((if_neg (not_not_intro hs.aligned)).trans ((if_pos hslots).trans (finishCells_done hcells f n 4)))

end Operations

/-- Settles O25: each operation passes its checks under the hypotheses and ends in the state that the statement names. -/
theorem regionOperations : Obligations.RegionOperations := by
  intro f s s1 h pa answer hrel hidle hreset hal
  have hs : MayStart f s := ⟨hrel, hidle, hreset, hal⟩
  exact ⟨completes_rgnopCreate hs, completes_rgnopSlice hs, fun _ _ => completes_rgnopResize hs, fun _ => completes_rgnopFreeze hs,
    completes_rgnopThaw hs, completes_rgnopDestroy hs⟩

end Sys2Proof.Machine

/-! SUPPORT. What the host's requests over CXL.mem, its answers to snoops, writes from outside at their homes and the host's snoops of its
own lines do (R55 to R62, R64, R71, R102). -/

namespace Sys2Proof.Machine

open Sys2Proof.Claims

/-! ### Requests over CXL.mem (R57) -/

section Requests

variable {s : State}

/-- The host's state of a half after it has read it. -/
def State.readHalf (s : State) (h : Nat) (mv : MetaValue) : State :=
  match mv with
  | .any => s.setHalf h 2
  | .shared => s.setHalf h 1
  | _ => s

theorem happens_cxlMemrd (mv : MetaValue) (hok : s.cxlOk s.ctl.here.unit = true) :
    let h := s.ctl.here.unit
    let a := (s.settleHalf h).hostHome h
    let t := (s.settleHalf h).l2In a (h / 2)
    Happens (.cxlMemrd mv) s (((t.send (.memData h (t.memBytes a (h * 64) 64)
      (t.beatBad a (h * 64) || t.beatBad a (h * 64 + 32)))).readHalf h mv).conflictServed h) := by
  refine happens_of rfl ((if_neg ?_).trans rfl)
  simp [hok]

/-- The host's state of a half after it has written it. -/
def State.wroteHalf (s : State) (h : Nat) (mv : MetaValue) : State :=
  match mv with
  | .invalid => s.setHalf h 0
  | .shared => s.setHalf h 1
  | _ => s

theorem happens_cxlMemwr (mv : MetaValue) (d : List (Option Byte)) (hok : s.cxlOk s.ctl.here.unit = true) :
    let h := s.ctl.here.unit
    Happens (.cxlMemwr mv d) s ((((s.hostHalf h d).send (.memDone h)).wroteHalf h mv).conflictServed h) := by
  refine happens_of rfl ((if_neg ?_).trans rfl)
  simp [hok]

end Requests

/-! ### Answers to snoops (R56, R59, R60) -/

section Snoops

variable {s : State}

/-- The answer that a snoop allows ends it, with the host's data when the half was dirty. -/
theorem happens_birsp {b : Bisnp} {shared : Bool} (dirty : Option (List Byte))
    (hb : (s.hi.snoops.find? fun b => b.half = s.ctl.here.unit) = some b) (hc : b.conflict = false)
    (hi : b.inval = true → shared = false) :
    let h := s.ctl.here.unit
    let t := match dirty with | some d => s.hostHalf h (d.map some) | none => s
    Happens (.birsp shared dirty) s
      ({ t with hi := { t.hi with snoops := t.hi.snoops.filter fun x => x.half ≠ h } }.setHalf h (if shared then 1 else 0)) := by
  have hfit : ¬(b.conflict || (b.inval && shared)) = true := by simpa [hc] using hi
  refine happens_of rfl ?_
  rw [hb]
  exact if_neg hfit

theorem happens_biconflict (h : (s.hi.snoops.any fun b => b.half = s.ctl.here.unit && !b.conflict) = true) :
    Happens .biconflict s { s with hi := { s.hi with
      snoops := s.hi.snoops.map fun (b : Bisnp) => if b.half = s.ctl.here.unit then { b with conflict := true } else b } } :=
  happens_of rfl (if_pos h)

theorem exec_bisnpTimeout (h : (s.hi.snoops.any fun b => b.half = s.ctl.here.unit) = true) :
    let n := s.ctl.here.unit
    exec .bisnpTimeout s = .next
      (withPw ((s.hi.waits.filter fun w => w.half = n).foldl (fun (t : State) w => t.snoopLost w)
          ({ s with hi := { s.hi with
            snoops := s.hi.snoops.filter fun b => b.half ≠ n
            waits := s.hi.waits.filter fun w => w.half ≠ n } }.setHalf n 0))
        { s.pw with log := s.pw.log ++ [.bisnpTimeout n s.pw.time] }) := by
  have hsnoop : ¬(!(s.hi.snoops.any fun b => b.half = s.ctl.here.unit)) = true := by simp [h]
  exact congrArg (eventPw _) (if_neg hsnoop)

end Snoops

/-! ### Writes from outside (R61, R62, R102) -/

/-- The write at position `n` has left the queue of writes. -/
def State.tookWrite (s : State) (n : Nat) : State := { s with hi := { s.hi with writes := s.hi.writes.eraseIdx n } }

/-- A write of device memory asks its home, which asks the host; one that has paid for its line, or is of a carve-out, asks the host
alone (R56, R101, R102, R191). -/
def State.writeGate (s : State) (w : HostWrite) (pa : Nat) (leaf : Leaf) : Bool × State :=
  if w.paid || w.port = carveSrc then s.hdmGate (some (.write w.port w.num pa)) pa w.data.length true w.hold 0
  else s.enter (.write w.port w.num pa) leaf.home pa w.data.length true w.hold 0

/-- A write that is the first of its half is performed where it leads. -/
theorem happens_hostWrite {s e : State} {w : HostWrite} (hw : s.hi.writes[s.ctl.here.pos]? = some w)
    (hfirst : ((s.hi.writes.take s.ctl.here.pos).any fun o => w.behind o) = false) (he : s.writeDo s.ctl.here.pos w = some e) :
    Happens .hostWrite s e := by
  refine happens_of rfl ?_
  simp only [hw, hfirst]
  exact he

section WriteDo

variable {s : State} {w : HostWrite} (n : Nat)

section Device

variable {pa : Nat} {leaf : Leaf} {s1 : State} (ht : w.tgt = .dev pa leaf)
include ht

theorem State.writeDo_dev (hg : s.writeGate w pa leaf = (true, s1)) :
    let t := (s1.tookWrite n).putRuns (atHome leaf w.hold 0 0) pa w.data w.poison
    s.writeDo n w = some (if w.port < 2 then t.writtenBy pa w.data.length (some (w.port, w.num)) else t) := by
  simp only [State.writeGate] at hg
  simp only [State.writeDo, ht, hg, State.tookWrite]

theorem State.writeDo_dev_waits (hg : s.writeGate w pa leaf = (false, s1)) (hs : s.stirred s1 = true) : s.writeDo n w = some s1 := by
  simp only [State.writeGate] at hg
  simp only [State.writeDo, ht, hg, hs, if_true]

end Device

section Bank

variable {core hold off : Nat} (ht : w.tgt = .bank core hold off)
include ht

theorem State.writeDo_bank_carve (hp : w.port = carveSrc) : s.writeDo n w =
    some (((s.tookWrite n).winPut core hold off (w.data.filterMap id)).winPoison core hold off w.poison) := by
  simp only [State.writeDo, ht, hp, if_true, State.tookWrite]

variable (hp : w.port ≠ carveSrc)
include hp

theorem State.writeDo_bank {acts : List (Nat × Nat)}
    (hu : s.unitLook core hold kST (winWords off (w.data.filterMap id).length) = .go acts) (hb : w.poison = false) :
    s.writeDo n w = some (((s.tookWrite n).unitWrite core hold off (w.data.filterMap id) acts 0 0).retag core hold acts) := by
  simp only [State.writeDo, ht, if_neg hp, hu, hb, State.tookWrite]
  rfl

theorem State.writeDo_bank_trap {c x : Nat}
    (hu : s.unitLook core hold kST (winWords off (w.data.filterMap id).length) = .trap c x) :
    s.writeDo n w = some ((s.tookWrite n).agentDrop w 0x20) := by
  simp only [State.writeDo, ht, if_neg hp, hu, State.tookWrite]

end Bank

section Host

variable {a : Nat} {leaf : Leaf} (ht : w.tgt = .host a leaf)
include ht

theorem State.writeDo_port (hl : leaf.tgt = 2) (hr : s.portRoom (s.hostPort w.hold a) w.hold = true) : s.writeDo n w =
    some (((s.tookWrite n).hostPut (s.hostPort w.hold a) w.hold a (w.data.filterMap id) w.poison none w.sender).wentOut w
      (some (s.hostPort w.hold a)) 0) := by
  simp [State.writeDo, ht, hl, hr, State.tookWrite]

theorem State.writeDo_peer (hl : leaf.tgt = 3) (hr : s.linkRoom (peerOf a) a w.hold = true) : s.writeDo n w =
    some (((s.tookWrite n).peerPut w.hold 0 0 a (w.data.filterMap id) w.poison none w.sender).wentOut w none (peerOf a)) := by
  simp [State.writeDo, ht, hl, hr, State.tookWrite]

theorem State.writeDo_hostLine (hl : leaf.tgt = 1) (hs : (s.hline (a / 64)).serves true = true) :
    let t := (s.tookWrite n).hlcPut a (w.data.filterMap id)
    s.writeDo n w = some (if w.poison then t.setHline (a / 64) { t.hline (a / 64) with bad := true } else t) := by
  simp [State.writeDo, ht, hl, hs, State.tookWrite]

end Host

end WriteDo

/-- A read of window M that waits, behind no write of its port, is tried again (R62). -/
theorem happens_hostWrite_read {s t : State} {r : HostRead} (hn : s.hi.writes.length ≤ s.ctl.here.pos)
    (hr : s.hi.reads[s.ctl.here.pos - s.hi.writes.length]? = some r)
    (hb : s.behindWrite (s.ctl.here.pos - s.hi.writes.length) r.port = false) (ht : s.windowM r = .ok t) :
    Happens .hostWrite s
      { t with hi := { t.hi with reads := t.hi.reads.eraseIdx (s.ctl.here.pos - s.hi.writes.length) } } := by
  refine happens_of rfl ?_
  simp [List.getElem?_eq_none hn, hr, State.readAgain, hb, ht]

/-! ### The host's snoops (R64, R65, R71) -/

theorem happens_hostSnoop {s : State} (inval : Bool) (hup : s.cxlUp = true) :
    let l := s.ctl.here.unit
    let v := s.hline l
    let t := s.send (.snoopResp l (if v.st = 3 then some (v.data, v.bad) else none))
    Happens (.hostSnoop inval) s (if inval || v.st = 0 then t.setHline l {} else t.setHline l { v with st := 1 }) := by
  intro l v t
  have hdown : ¬(!t.cxlUp) = true := by simp [show t.cxlUp = true from hup]
  refine happens_of (r := some _) ?_ rfl
  exact congrArg (eventPw s.pw) ((if_neg hdown).trans rfl)

/-- Settles O32: each event is enabled under its hypotheses and answers the state that the statement names. That a half whose BISnpData is
answered BIRspI becomes I, that a TRAP of a bank denies an agent's write, that HOST_WRITE tries a waiting access of window M again, and the
home at which a half stands for the host are the model's choices (log entries 56, 62, 66 and 74). -/
theorem hostCoherence : Obligations.HostCoherence := by
  intro s h n half
  refine ⟨?read, ?write, fun b shared dirty => happens_birsp dirty, happens_biconflict, exec_bisnpTimeout, ?outside,
    fun r t => happens_hostWrite_read, fun inval => happens_hostSnoop inval⟩
  case read => exact fun mv => happens_cxlMemrd mv
  case write => exact fun mv d => happens_cxlMemwr mv d
  case outside =>
    intro w hw hfirst took opened
    have hx : ∀ {e : State}, s.writeDo n w = some e → Happens .hostWrite s e := happens_hostWrite hw hfirst
    exact ⟨fun pa leaf s1 ht hg => hx (State.writeDo_dev n ht hg), fun pa leaf s1 ht hg hs => hx (State.writeDo_dev_waits n ht hg hs),
      fun core hold off ht hp => hx (State.writeDo_bank_carve n ht hp),
      fun core hold off acts ht hp hu hb => hx (State.writeDo_bank n ht hp hu hb),
      fun core hold off c x ht hp hu => hx (State.writeDo_bank_trap n ht hp hu),
      fun a leaf ht hl hr => hx (State.writeDo_port n ht hl hr), fun a leaf ht hl hr => hx (State.writeDo_peer n ht hl hr),
      fun a leaf ht hl hs => hx (State.writeDo_hostLine n ht hl hs)⟩

end Sys2Proof.Machine

/-! SUPPORT. A write of bytes inside one beat at its home: what it changes where every line of the slice has its 128 bytes (R70, R206), and
why that has to be asked of every line of the slice. -/

namespace Sys2Proof.Machine

open Sys2Proof.Claims

/-! ### A line as its home reads it (R206) -/

/-- The line that a slice holds under the key of an access. -/
def State.held (s : State) (a : AtHome) (line : Nat) : Option L2Line := (s.l2 a.home line).filter fun v => v.key = a.key

/-- The bytes of a line as its home reads them, in the slice or in the vault. -/
def State.lineRead (s : State) (a : AtHome) (line : Nat) : List Byte := (s.held a line).elim (s.lineBytes a.key line) (·.data)

/-- Beat `i` of a line fails its check as its home reads it, in the slice or in the vault. -/
def State.lineFails (s : State) (a : AtHome) (line i : Nat) : Bool :=
  (s.held a line).elim (s.lineBad a.key line i) fun v => v.bad.getD i false

theorem State.memBytes_eq (s : State) (a : AtHome) (pa n : Nat) :
    s.memBytes a pa n = ((s.lineRead a (pa / 128)).drop (pa % 128)).take n := by
  unfold State.memBytes State.lineRead State.held
  cases s.l2 a.home (pa / 128) with
  | none => rfl
  | some v => by_cases hk : v.key = a.key <;> simp [hk, Option.filter]

theorem State.eccAny_one (s : State) (pa : Nat) : s.eccAny pa 1 = Tab.get false s.mm.ecc (pa / 32) := by
  have h1 : (pa + 1 + 31) / 32 - pa / 32 = 1 := by omega
  simp [State.eccAny, h1]

theorem State.beatBad_eq (s : State) (a : AtHome) (pa : Nat) :
    s.beatBad a pa = (Tab.get false s.mm.ecc (pa / 32) || s.lineFails a (pa / 128) (pa % 128 / 32)) := by
  unfold State.beatBad State.lineFails State.held
  rw [State.eccAny_one]
  cases s.l2 a.home (pa / 128) with
  | none => rfl
  | some v => by_cases hk : v.key = a.key <;> simp [hk, Option.filter]

theorem State.held_eq {s : State} {a : AtHome} {line : Nat} {v : L2Line} (hv : s.l2 a.home line = some v) (hk : v.key = a.key) :
    s.held a line = some v := by simp [State.held, hv, hk]

/-! ### What the other lines of a slice leave alone -/

/-- The state `t` differs from `s` in the memories and in the choices that are left, and a line's vault and the errors are as they were. -/
structure Beside (s t : State) (line : Nat) : Prop where
  rest : ∃ m c, t = { s with mm := m, ctl := c }
  ecc : t.mm.ecc = s.mm.ecc
  mat : Tab.get none t.mm.mat line = Tab.get none s.mm.mat line
  dram : ∀ j < 128, Tab.get 0 t.mm.dram (line * 128 + j) = Tab.get 0 s.mm.dram (line * 128 + j)
  poison : ∀ i < 4, Tab.get false t.mm.poison (line * 4 + i) = Tab.get false s.mm.poison (line * 4 + i)

theorem Tab.bytes_congr {t u : Tab Byte} {a n : Nat} (h : ∀ j < n, Tab.get 0 t (a + j) = Tab.get 0 u (a + j)) :
    Tab.bytes t a n = Tab.bytes u a n := by
  induction n generalizing a with
  | zero => rfl
  | succ n ih =>
    have h0 := h 0 (Nat.succ_pos n)
    have hs : ∀ j < n, Tab.get 0 t (a + 1 + j) = Tab.get 0 u (a + 1 + j) := fun j hj => by
      have := h (1 + j) (by omega)
      rwa [← Nat.add_assoc] at this
    rw [Tab.bytes, Tab.bytes, ih hs]
    exact congrArg (· :: _) h0

namespace Beside

theorem refl (s : State) (line : Nat) : Beside s s line := ⟨⟨_, _, rfl⟩, rfl, rfl, fun _ _ => rfl, fun _ _ => rfl⟩

variable {s t u : State} {line : Nat}

theorem trans (h1 : Beside s t line) (h2 : Beside t u line) : Beside s u line := by
  obtain ⟨m1, c1, rfl⟩ := h1.rest
  obtain ⟨m2, c2, rfl⟩ := h2.rest
  exact ⟨⟨m2, c2, rfl⟩, h2.ecc.trans h1.ecc, h2.mat.trans h1.mat, fun j hj => (h2.dram j hj).trans (h1.dram j hj),
    fun i hi => (h2.poison i hi).trans (h1.poison i hi)⟩

/-- States with one memory and with the same parts beside the choices. -/
theorem of_mm (hr : ∃ m c, t = { s with mm := m, ctl := c }) (hm : t.mm = s.mm) : Beside s t line := by
  refine ⟨hr, ?_, ?_, fun _ _ => ?_, fun _ _ => ?_⟩ <;> rw [hm]

variable (h : Beside s t line)
include h

theorem fn (n : Nat) : t.fn n = s.fn n := by
  obtain ⟨m, c, rfl⟩ := h.rest
  rfl

theorem faults : t.sc.faults = s.sc.faults := by
  obtain ⟨m, c, rfl⟩ := h.rest
  rfl

theorem keyMat (k : Nat) : t.keyMat k = s.keyMat k := by
  obtain ⟨m, c, rfl⟩ := h.rest
  rfl

theorem eccAny (pa n : Nat) : t.eccAny pa n = s.eccAny pa n := by simp only [State.eccAny, h.ecc]

theorem badCode (pa n : Nat) : t.badCode pa n = s.badCode pa n := by simp only [State.badCode, h.eccAny]

theorem lineBytes (key : Nat) : t.lineBytes key line = s.lineBytes key line := by
  simp only [State.lineBytes, Tab.bytes_congr h.dram, h.mat, h.keyMat]

theorem lineBad (key : Nat) {i : Nat} (hi : i < 4) : t.lineBad key line i = s.lineBad key line i := by
  have hbeat : Tab.bytes t.mm.dram (line * 128 + 32 * i) 32 = Tab.bytes s.mm.dram (line * 128 + 32 * i) 32 :=
    Tab.bytes_congr fun j hj => by simpa only [Nat.add_assoc] using h.dram (32 * i + j) (by omega)
  simp only [State.lineBad, State.keyFits, h.poison i hi, h.lineBytes, h.mat, h.keyMat, hbeat]

end Beside

theorem Tab.get_foldl_set_other {α β : Type} [DecidableEq α] (d : α) (f : β → Nat) (b : β → α) {l : List β} {k : Nat}
    (h : ∀ i ∈ l, k ≠ f i) (t : Tab α) : Tab.get d (l.foldl (fun t i => Tab.set d t (f i) (b i)) t) k = Tab.get d t k := by
  induction l generalizing t with
  | nil => rfl
  | cons i l ih =>
    rw [List.foldl_cons, ih fun x hx => h x (List.mem_cons_of_mem i hx), Tab.get_set_other d t (b i) (h i List.mem_cons_self)]

theorem beside_burst (s : State) (n hold line : Nat) : Beside s (s.burst n hold) line :=
  ⟨⟨_, _, rfl⟩, rfl, rfl, fun _ _ => rfl, fun _ _ => rfl⟩

theorem beside_setL2 (s : State) (home n line : Nat) (v : Option L2Line) : Beside s (s.setL2 home n v) line :=
  ⟨⟨_, _, rfl⟩, rfl, rfl, fun _ _ => rfl, fun _ _ => rfl⟩

theorem beside_choose (s : State) (n line : Nat) : Beside s (s.choose n).2 line := by
  refine .of_mm ?_ (choose_mm s n)
  unfold State.choose
  split
  · exact ⟨_, _, rfl⟩
  · exact ⟨_, _, rfl⟩

/-- A line of at most 128 bytes goes to its vault without touching another's. -/
theorem beside_vaultPut (s : State) (key : Nat) {n line : Nat} {data : List Byte} (bad : List Bool) (hn : line ≠ n)
    (hd : data.length ≤ 128) : Beside s (s.vaultPut key n data bad) line := by
  refine ⟨⟨_, _, rfl⟩, rfl, Tab.get_set_other none _ _ hn, fun j hj => ?_, fun i hi => Tab.get_foldl_set_other false _ _ (fun k hk => ?_) _⟩
  · refine (Tab_get_setBytes _ _ _).trans (if_neg ?_)
    omega
  · have := List.mem_range.mp hk
    omega

/-- Every line that a slice holds has at most 128 bytes (R206). -/
def SliceLines (s : State) (home : Nat) : Prop := ∀ n v, s.l2 home n = some v → v.data.length ≤ 128

section Slice

variable {s : State} {home line : Nat} (hlen : SliceLines s home) (hout : s.l2 home line = none)
include hlen hout

theorem beside_l2Evict (n : Nat) : Beside s (s.l2Evict home n) line := by
  unfold State.l2Evict
  cases hv : s.l2 home n with
  | none => exact .refl s line
  | some v =>
    have hn : line ≠ n := by
      rintro rfl
      simp [hout] at hv
    have hgone := beside_setL2 s home n line none
    dsimp only
    split
    · exact (hgone.trans (beside_burst _ n v.hold line)).trans (beside_vaultPut _ v.key v.bad hn (hlen n v hv))
    · exact hgone

theorem beside_l2Room : Beside s (s.l2Room home) line := by
  have hchosen : ∀ k n, Beside s ((s.choose k).2.l2Evict home n) line := fun k n => by
    have hl2 : ∀ n, (s.choose k).2.l2 home n = s.l2 home n := fun n => by simp [State.l2]
    exact (beside_choose s k line).trans (beside_l2Evict (fun n v hv => hlen n v ((hl2 n).symm.trans hv)) ((hl2 line).trans hout) n)
  unfold State.l2Room
  dsimp only
  split
  · exact .refl s line
  · split
    · split
      · exact beside_choose s _ line
      · exact hchosen _ _
    · exact hchosen _ _

end Slice

/-! ### The line of an access in its slice -/

/-- In `t`, which has come from `s`, a slice holds the line of an access as its home read it in `s`. -/
structure Resident (s t : State) (a : AtHome) (line : Nat) (v : L2Line) : Prop where
  beside : Beside s t line
  l2 : t.l2 a.home line = some v
  key : v.key = a.key
  data : v.data = s.lineRead a line
  bad : v.bad = (List.range 4).map (s.lineFails a line)

theorem State.l2In_held {s : State} {a : AtHome} {line : Nat} {v : L2Line} (hv : s.l2 a.home line = some v) (hk : v.key = a.key) :
    s.l2In a line = s := by simp [State.l2In, hv, hk]

/-- A write inside a beat begins with the line in its slice. -/
theorem resident_l2In {s : State} {a : AtHome} {line : Nat} (hline : LineAt s a line) (hlen : SliceLines s a.home) :
    ∃ v, Resident s (s.l2In a line) a line v := by
  cases hv : s.l2 a.home line with
  | some v =>
    obtain ⟨hk, -, hbad⟩ := hline.2 v hv
    rw [State.l2In_held hv hk]
    refine ⟨v, .refl s line, hv, hk, ?_, List.ext_getElem (by simp [hbad]) fun i hi _ => ?_⟩
    · simp [State.lineRead, State.held_eq hv hk]
    · simp [State.lineFails, State.held_eq hv hk, hi]
  | none =>
    have hroom := beside_l2Room hlen hv
    have hburst := hroom.trans (beside_burst _ line a.hold line)
    have hheld : s.held a line = none := by simp [State.held, hv]
    have hin : s.l2In a line = State.l2In.fill a line s := by simp [State.l2In, hv]
    rw [hin]
    refine ⟨_, hburst.trans (beside_setL2 _ a.home line line _), l2_setL2_same _ _ _ _, rfl, ?_, List.map_congr_left fun i hi => ?_⟩
    · simp only [State.lineRead, hheld, Option.elim_none, hburst.lineBytes]
    · simp only [State.lineFails, hheld, Option.elim_none, hburst.lineBad a.key (List.mem_range.mp hi)]

theorem State.modL2_held {s : State} {a : AtHome} {line : Nat} {v : L2Line} (hv : s.l2 a.home line = some v) (hk : v.key = a.key)
    (f : L2Line → L2Line) : s.modL2 a line f = s.setL2 a.home line (some { f v with mod := true }) := by
  simp [State.modL2, State.l2In_held hv hk, hv]

theorem Resident.held {s t : State} {a : AtHome} {line : Nat} {v : L2Line} (hr : Resident s t a line v) : t.held a line = some v :=
  State.held_eq hr.l2 hr.key

theorem Resident.beatBad {s t : State} {a : AtHome} {pa : Nat} {v : L2Line} (hr : Resident s t a (pa / 128) v) :
    t.beatBad a pa = s.beatBad a pa := by
  have hi : pa % 128 / 32 < 4 := by omega
  simp [State.beatBad_eq, hr.beside.ecc, State.lineFails, hr.held, hr.bad, hi]

theorem mergeWord_getElem? {old data : List Byte} {off j : Nat} (h : off + data.length ≤ old.length) :
    (mergeWord old off data)[j]? = if off ≤ j ∧ j < off + data.length then data[j - off]? else old[j]? := by
  have hoff : min off old.length = off := by omega
  by_cases h1 : j < off
  · have hb : ¬(off ≤ j ∧ j < off + data.length) := by omega
    rw [if_neg hb, mergeWord, List.append_assoc, List.getElem?_append_left (by simpa [hoff] using h1), List.getElem?_take_of_lt h1]
  · by_cases h2 : j < off + data.length
    · rw [if_pos ⟨by omega, h2⟩, mergeWord, List.getElem?_append_left (by simp [hoff]; omega),
        List.getElem?_append_right (by simp [hoff]; omega)]
      simp [hoff]
    · have hb : ¬(off ≤ j ∧ j < off + data.length) := by omega
      rw [if_neg hb, mergeWord, List.getElem?_append_right (by simp [hoff]; omega), List.getElem?_drop]
      congr 1
      simp [hoff]
      omega

/-! ### What a write inside a beat does (R70, R169) -/

/-- The bytes fill a beat. -/
def fillsBeat (pa : Nat) (data : List Byte) : Bool := pa % 32 = 0 && data.length = 32

theorem fillsBeat_iff {pa : Nat} {data : List Byte} : fillsBeat pa data = true ↔ pa % 32 = 0 ∧ data.length = 32 := by simp [fillsBeat]

/-- The line of a write that is merged: the bytes are in it, and a beat that they fill is good. -/
def L2Line.merged (v : L2Line) (pa : Nat) (data : List Byte) : L2Line :=
  { v with
    data := mergeWord v.data (pa % 128) data
    bad := if fillsBeat pa data then v.bad.set (pa % 128 / 32) false else v.bad
    mod := true }

/-- The line of a write that is dropped: its beat is poisoned. -/
def L2Line.poisoned (v : L2Line) (pa : Nat) : L2Line := { v with bad := v.bad.set (pa % 128 / 32) true, mod := true }

theorem State.memBytes_of_held {t : State} {a : AtHome} {line : Nat} {w : L2Line} (h : t.held a line = some w) :
    t.memBytes a (line * 128) 128 = w.data.take 128 := by
  simp [State.memBytes_eq, State.lineRead, h]

/-- Beat `i` of a line is bad as its error and its check say. -/
theorem State.beatBad_beat (s : State) (a : AtHome) (line : Nat) {i : Nat} (hi : i < 4) :
    s.beatBad a (line * 128 + 32 * i) = (Tab.get false s.mm.ecc (line * 4 + i) || s.lineFails a line i) := by
  have hline : (line * 128 + 32 * i) / 128 = line := by omega
  have hbeat : (line * 128 + 32 * i) % 128 / 32 = i := by omega
  have hecc : (line * 128 + 32 * i) / 32 = line * 4 + i := by omega
  rw [State.beatBad_eq, hline, hbeat, hecc]

theorem State.held_setL2 (s : State) {a : AtHome} {line : Nat} {w : L2Line} (hk : w.key = a.key) :
    (s.setL2 a.home line (some w)).held a line = some w := State.held_eq (l2_setL2_same s a.home line (some w)) hk

/-- The state in which a write is merged: the write counts for moves and for acquires, and a beat that it fills has no error any more. -/
def State.readyToMerge (s : State) (pa : Nat) (data : List Byte) : State :=
  ((s.bump pa).writtenBy pa data.length none).eccClear pa (fillsBeat pa data)

theorem State.l2_readyToMerge (s : State) (pa : Nat) (data : List Byte) (home n : Nat) :
    (s.readyToMerge pa data).l2 home n = s.l2 home n := by
  unfold State.readyToMerge State.eccClear
  split <;> simp [State.l2, State.writtenBy, bump_mm]

theorem State.ecc_readyToMerge (s : State) (pa : Nat) (data : List Byte) :
    (s.readyToMerge pa data).mm.ecc = if fillsBeat pa data then Tab.set false s.mm.ecc (pa / 32) false else s.mm.ecc := by
  unfold State.readyToMerge State.eccClear
  split <;> simp [State.writtenBy, bump_mm]

section Write

variable {s : State} {a : AtHome} {pa : Nat} {data : List Byte} {v : L2Line} (hr : Resident s (s.l2In a (pa / 128)) a (pa / 128) v)
include hr

/-- A part of a beat that is bad is not written: the beat is poisoned, counted and recorded. -/
theorem memPut_drops (hpart : fillsBeat pa data = false) (hbad : s.beatBad a pa = true) :
    let t := s.memPut a pa data
    t.held a (pa / 128) = some (v.poisoned pa) ∧ t.mm.ecc = s.mm.ecc ∧ (t.fn a.hold).beatErr = (s.fn a.hold).beatErr + 1 ∧
    t.sc.faults = s.sc.faults ++ [dropRec a.hold a.rgn (s.badCode pa 1) a.addr] := by
  have hput : s.memPut a pa data =
      ((((s.l2In a (pa / 128)).setL2 a.home (pa / 128) (some (v.poisoned pa))).modFn a.hold fun f =>
        { f with beatErr := f.beatErr + 1 }).addFault (dropRec a.hold a.rgn (s.badCode pa 1) a.addr)) := by
    rw [← hr.beside.badCode]
    refine (if_pos ?_).trans ?_
    · rw [hr.beatBad, hbad]
      exact congrArg (fun b => !b && true) hpart
    · rw [State.setPoison, State.modL2_held hr.l2 hr.key]
      rfl
  rw [hput]
  refine ⟨State.held_setL2 _ hr.key, hr.beside.ecc, ?_, congrArg (· ++ _) hr.beside.faults⟩
  rw [← hr.beside.fn]
  simp [State.fn, State.modFn, State.setL2, State.addFault]

/-- Any other write is merged, and a beat that it fills has no error any more. -/
theorem memPut_merges (hgood : fillsBeat pa data = true ∨ s.beatBad a pa = false) :
    let t := s.memPut a pa data
    t.held a (pa / 128) = some (v.merged pa data) ∧
    t.mm.ecc = if fillsBeat pa data then Tab.set false s.mm.ecc (pa / 32) false else s.mm.ecc := by
  have hput : s.memPut a pa data =
      ((s.l2In a (pa / 128)).readyToMerge pa data).setL2 a.home (pa / 128) (some (v.merged pa data)) := by
    refine (if_neg ?_).trans (State.modL2_held ((State.l2_readyToMerge _ pa data _ _).trans hr.l2) hr.key _)
    rw [hr.beatBad]
    change ¬(!fillsBeat pa data && s.beatBad a pa) = true
    rcases hgood with h | h <;> simp [h]
  rw [hput]
  refine ⟨State.held_setL2 _ hr.key, ?_⟩
  rw [← hr.beside.ecc]
  exact State.ecc_readyToMerge _ pa data

end Write

/-! ### The clauses of R70 and R206 where every line has its length -/

section Beat

variable {s : State} {a : AtHome} {pa : Nat} {data : List Byte} (hline : LineAt s a (pa / 128)) (hlen : SliceLines s a.home)
include hline hlen

/-- A write that is not dropped changes exactly its bytes of its line. -/
theorem memBytes_memPut (hfit : pa % 32 + data.length ≤ 32) (hgood : fillsBeat pa data = true ∨ s.beatBad a pa = false) {j : Nat}
    (hj : j < 128) : ((s.memPut a pa data).memBytes a (pa / 128 * 128) 128)[j]? =
      if pa ≤ pa / 128 * 128 + j ∧ pa / 128 * 128 + j < pa + data.length then data[pa / 128 * 128 + j - pa]?
      else (s.memBytes a (pa / 128 * 128) 128)[j]? := by
  obtain ⟨v, hr⟩ := resident_l2In hline hlen
  obtain ⟨hheld, -⟩ := memPut_merges hr hgood
  have hold : s.memBytes a (pa / 128 * 128) 128 = v.data.take 128 := by simp [State.memBytes_eq, hr.data]
  have hsize : 128 ≤ v.data.length := by
    have h128 := hline.1
    rw [hold, List.length_take] at h128
    omega
  have hoff : pa / 128 * 128 + j - pa = j - pa % 128 := by omega
  have hrange : (pa ≤ pa / 128 * 128 + j ∧ pa / 128 * 128 + j < pa + data.length) ↔ pa % 128 ≤ j ∧ j < pa % 128 + data.length := by omega
  rw [State.memBytes_of_held hheld, hold, List.getElem?_take_of_lt hj, List.getElem?_take_of_lt hj, hoff]
  simp only [hrange]
  exact mergeWord_getElem? (by omega)

/-- A write that fills its beat leaves it good. -/
theorem beatBad_memPut_full (hfull : fillsBeat pa data = true) : (s.memPut a pa data).beatBad a pa = false := by
  obtain ⟨v, hr⟩ := resident_l2In hline hlen
  obtain ⟨hheld, hecc⟩ := memPut_merges hr (.inl hfull)
  have hi : pa % 128 / 32 < 4 := by omega
  simp [State.beatBad_eq, hecc, hfull, State.lineFails, hheld, L2Line.merged, hr.bad, hi]

/-- A part of a bad beat is dropped, and the beat is poisoned, counted and recorded. -/
theorem memPut_part_of_bad (hpart : fillsBeat pa data = false) (hbad : s.beatBad a pa = true) :
    let t := s.memPut a pa data
    t.memBytes a (pa / 128 * 128) 128 = s.memBytes a (pa / 128 * 128) 128 ∧ t.beatBad a pa = true ∧
    (t.fn a.hold).beatErr = (s.fn a.hold).beatErr + 1 ∧ t.sc.faults = s.sc.faults ++ [dropRec a.hold a.rgn (s.badCode pa 1) a.addr] := by
  obtain ⟨v, hr⟩ := resident_l2In hline hlen
  obtain ⟨hheld, hecc, herr, hfaults⟩ := memPut_drops hr hpart hbad
  have hi : pa % 128 / 32 < 4 := by omega
  refine ⟨?_, ?_, herr, hfaults⟩
  · rw [State.memBytes_of_held hheld]
    simp [State.memBytes_eq, L2Line.poisoned, hr.data]
  · simp [State.beatBad_eq, State.lineFails, hheld, L2Line.poisoned, hr.bad, hi]

/-- No other beat of the line changes whether it is good. -/
theorem beatBad_memPut_other {i : Nat} (hi : i < 4) (hne : i ≠ pa % 128 / 32) :
    (s.memPut a pa data).beatBad a (pa / 128 * 128 + 32 * i) = s.beatBad a (pa / 128 * 128 + 32 * i) := by
  obtain ⟨v, hr⟩ := resident_l2In hline hlen
  have hv : v.bad.getD i false = s.lineFails a (pa / 128) i := by simp [hr.bad, hi]
  rw [State.beatBad_beat _ a _ hi, State.beatBad_beat s a _ hi, ← hv]
  by_cases hgood : fillsBeat pa data = true ∨ s.beatBad a pa = false
  · obtain ⟨hheld, hecc⟩ := memPut_merges hr hgood
    have hother : pa / 128 * 4 + i ≠ pa / 32 := by omega
    rw [hecc]
    simp only [State.lineFails, hheld, Option.elim_some, L2Line.merged]
    split <;> simp [Tab.get_set_other false _ _ hother, List.getElem?_set_ne hne.symm]
  · obtain ⟨hheld, hecc, -⟩ := memPut_drops hr (by simpa using fun h => hgood (.inl h)) (by simpa using fun h => hgood (.inr h))
    simp [hecc, State.lineFails, hheld, L2Line.poisoned, List.getElem?_set_ne hne.symm]

end Beat

/-! ### The refutation -/

/-- Slice 0 holds line 0 alone, modified and with 129 bytes of 1, and gives up a line before it takes one in. -/
def longLineState : State :=
  { State.reset with mm := { l2 := [(0, some ⟨0, 0, true, List.replicate 129 1, []⟩)] }, ctl := { choices := [1] } }

/-- An access at slice 0. -/
def atSlice0 : AtHome := ⟨0, none, 0, 0, 0, 0⟩

theorem lineAt_longLineState : LineAt longLineState atSlice0 1 := by
  have hlen : (longLineState.memBytes atSlice0 (1 * 128) 128).length = 128 := by decide +kernel
  have hout : longLineState.l2 atSlice0.home 1 = none := by decide +kernel
  exact ⟨hlen, fun v hv => by simp [hout] at hv⟩

/-- Line 1 reads 0 in its first byte, and line 0 is written over it when its byte 1 is written. -/
theorem memBytes_longLineState : (longLineState.memBytes atSlice0 128 128)[0]? = some 0 ∧
    ((longLineState.memPut atSlice0 129 [0]).memBytes atSlice0 128 128)[0]? = some 1 := by decide +kernel

/-- Refutes O52: `LineAt` gives the line of the access its 128 bytes, and asks nothing of the other lines of the slice. One of 129 bytes
that the slice gives up for it overwrites its first byte in the vault, which the write does not name. Where no line of the slice has more
than 128 bytes, the clauses on the line hold (`memBytes_memPut`, `beatBad_memPut_full`, `memPut_part_of_bad`, `beatBad_memPut_other`);
what becomes there of an uncorrectable error is the model's choice (log entry 35). -/
theorem not_beatWrites : ¬ Obligations.BeatWrites := by
  intro h
  obtain ⟨hwrite, -⟩ := (h longLineState atSlice0 129 [0] (by decide) (by decide) (by decide)).1 lineAt_longLineState
  have hsame := hwrite (.inr (by decide +kernel)) 0 (by decide)
  obtain ⟨hbefore, hafter⟩ := memBytes_longLineState
  have hone : some (1 : Byte) = some 0 := hafter.symm.trans (hsame.trans hbefore)
  exact absurd hone (by decide)

end Sys2Proof.Machine

/-! SUPPORT. The start (R84 to R90, R92): what each of its steps answers, and what step 7 leaves of the part (R85, R87, R88, R481). -/

namespace Sys2Proof.Machine

open Sys2Proof.Claims

/-! ### Beginning a start (R84, R86, R87) -/

/-- A start of a part that is not done with its last one, or that must start cold, is cold (R86). -/
theorem State.beginStart_st (s : State) (cold : Bool) :
    (s.beginStart cold).st = { cold := cold || decide (s.st.state ≠ .done) || s.pw.coldNext } := by
  have hkind : (cold || decide (s.st.state = .running) || decide (s.st.state = .failed) || s.pw.coldNext) =
      (cold || decide (s.st.state ≠ .done) || s.pw.coldNext) := by
    cases s.st.state <;> simp
  unfold State.beginStart
  dsimp only
  rw [hkind]
  split <;> rfl

@[simp] theorem State.beginStart_mm (s : State) (cold : Bool) : (s.beginStart cold).mm = s.mm := by
  unfold State.beginStart
  dsimp only
  split <;> rfl

/-- A cold start takes both host ports down (R87). -/
theorem State.beginStart_ports {s : State} {cold : Bool} (h : (s.beginStart cold).st.cold = true) :
    (s.beginStart cold).hi.upA = none ∧ (s.beginStart cold).hi.upB = none := by
  unfold State.beginStart at h ⊢
  dsimp only at h ⊢
  split
  · exact ⟨rfl, rfl⟩
  · next hwarm =>
      rw [if_neg hwarm] at h
      exact absurd h hwarm

section Begin

variable {s : State} (hq : s.pw.seq = .done)
include hq

theorem exec_startWarm : exec .startWarm s = .next { s.beginStart false with pw := s.pw } := by
  have hx : exec .startWarm s = event s (if s.pw.seq = .done then some (s.beginStart false) else none) := rfl
  rw [hx, if_pos hq]
  rfl

theorem exec_startCold : exec .startCold s = .next { s.beginStart true with pw := s.pw } := by
  have hx : exec .startCold s = event s (if s.pw.seq = .done then some (s.beginStart true) else none) := rfl
  rw [hx, if_pos hq]
  rfl

end Begin

/-! ### The steps of a start (R85) -/

theorem State.atStep_iff {s : State} {n : Nat} : s.atStep n = true ↔ s.pw.seq = .done ∧ s.st.state = .running ∧ s.st.step = n := by
  simp [State.atStep, and_assoc]

theorem event_failStart (s : State) (code : BitVec 8) : event s (some (s.failStart code)) = .next (s.failStart code) := rfl

/-- The steps that have an outcome of their own fail with their codes. -/
theorem exec_step_fails {s : State} {i : Instr} {n : Nat} {code : BitVec 8}
    (hi : (i, n, code) ∈ ([(.pllLock false, 1, 0x01), (.bridgeTraining false, 2, 0x02), (.dramTraining false, 3, 0x03),
      (.fullScrub false, 4, 0x04), (.capabilityTableBuild false, 8, 0x09)] : List (Instr × Nat × BitVec 8)))
    (hn : s.atStep n = true) : exec i s = .next (s.failStart code) := by
  simp only [List.mem_cons, Prod.mk.injEq, List.not_mem_nil, or_false] at hi
  rcases hi with ⟨rfl, rfl, rfl⟩ | ⟨rfl, rfl, rfl⟩ | ⟨rfl, rfl, rfl⟩ | ⟨rfl, rfl, rfl⟩ | ⟨rfl, rfl, rfl⟩
  · change execPllLock false s = _
    simp [execPllLock, hn, event_failStart]
  · change execBridgeTraining false s = _
    simp [execBridgeTraining, hn, event_failStart]
  · change execDramTraining false s = _
    simp [execDramTraining, hn, event_failStart]
  · change execFullScrub false s = _
    simp [execFullScrub, hn, event_failStart]
  · change execCapabilityTableBuild false s = _
    simp [execCapabilityTableBuild, hn, event_failStart]

section Steps

variable {s : State}

theorem exec_pllLock (hn : s.atStep 1 = true) : exec (.pllLock true) s = .next
    { s with st := { s.st with step := 2 }, pw := { s.pw with clock := if s.pw.clock = 0 then 850 else s.pw.clock } } := by
  change execPllLock true s = _
  simp [execPllLock, hn, eventPw, State.modSt]

/-- A warm start goes from step 2 to step 6. -/
theorem happens_bridgeTraining (hn : s.atStep 2 = true) :
    Happens (.bridgeTraining true) s (if s.st.cold then { s with st := { s.st with step := 3 } } else s.enter6) :=
  happens_of rfl (by simp only [hn]; rfl)

theorem exec_dramTraining (hn : s.atStep 3 = true) : exec (.dramTraining true) s = .next { s with st := { s.st with step := 4 } } := by
  change execDramTraining true s = _
  simp [execDramTraining, hn, event, eventPw, State.modSt]

theorem exec_fullScrub (hn : s.atStep 4 = true) : exec (.fullScrub true) s = .next { s with
    st := { s.st with step := 5 }
    mm := { s.mm with dram := [], poison := [], ecc := [], mat := [], l2 := [], l1 := [], home := [], regs := [], byHost := [] }
    co := { s.co with spad := [], poison := [], ecc := [], tag := [], fe := [], treg := [], ibuf := [] }
    en := { s.en with acc := [], accHdr := [], appHdr := [], bpos := [] } } := by
  change execFullScrub true s = _
  simp [execFullScrub, hn, event, eventPw, State.modSt]

/-- Links that trained come up, and one that failed is in FAIL. -/
theorem happens_phyEqualisation {links : List (Nat × Trained × BitVec 3)} (hn : s.atStep 5 = true)
    (hl : (links.any fun x : Nat × Trained × BitVec 3 => 48 ≤ x.1) = false) :
    Happens (.phyEqualisation links) s
      (links.foldl (fun (s : State) x => match x.2.1 with
        | .failed => s.modLink x.1 fun k => { k with st := .fail }
        | r => s.trained x.1 r x.2.2) { s with net := { s.net with links := [] } }).enter6 :=
  happens_of rfl (if_neg (by simp [hn, hl]))

/-- Step 6 waits for the host's image where STRAP_BOOT is 01, and fails where port A is not up (R90). -/
theorem State.enter6_st (s : State) : s.enter6.st = (if s.pw.strapBoot ≠ 1 then { s.st with step := 6 }
    else if s.hi.upA.isNone then
      { s.st with step := 6, state := .failed, fcode := 0x0A, waiting := false, image := none, staging := [] }
    else { s.st with step := 6, waiting := true }) := by
  by_cases hb : s.pw.strapBoot ≠ 1
  · rw [if_pos hb]
    exact congrArg State.st (if_pos hb)
  · rw [if_neg hb]
    exact (congrArg State.st (if_neg hb)).trans (apply_ite State.st _ _ _)

/-- Step 6 accepts an image only when both signatures verify and its version is not below the minimum (R89). -/
theorem happens_firmwareVerification (rsa slh : Bool) (v m : BitVec 32) (hn : s.atStep 6 = true)
    (hw : s.st.waiting = false ∨ s.st.image.isSome = true) :
    Happens (.firmwareVerification rsa slh v m) s
      (if !rsa then s.failStart 0x06 else if !slh then s.failStart 0x07 else if v < m then s.failStart 0x08
       else { s with st := { s.st with
        step := 7
        fw := some (if s.pw.strapBoot = 1 then .host else if 2 ≤ s.pw.strapBoot.toNat then .recovery else .flash) } }) := by
  have hgo : ¬(!s.atStep 6 || (s.st.waiting && s.st.image.isNone)) = true := by
    rcases hw with hw | hw
    · simp [hn, hw]
    · simp [hn, Option.isSome_iff_ne_none.mp hw]
  rw [← Power.ownImage_eq]
  refine happens_of rfl ((if_neg hgo).trans ?_)
  cases rsa
  · rfl
  · cases slh
    · rfl
    · exact (apply_ite some _ _ _).symm

theorem happens_fwgoTimeout (hn : s.atStep 6 = true) (hw : s.st.waiting = true) (hi : s.st.image = none) :
    Happens .fwgoTimeout s (s.failStart 0x0A) :=
  happens_of rfl (if_pos (by simp [hn, hw, hi]))

/-- The last step builds the capability tables and lets the module run (R10, R92). -/
theorem exec_capabilityTableBuild (hn : s.atStep 8 = true) : exec (.capabilityTableBuild true) s = .next
    { (s.capBuild.endStart fun x => { x with state := .done }) with
      pw := { s.pw with
        coldNext := false
        mode := if s.pw.mode = .stby then (if s.pw.clock < 850 then .cap else .run) else s.pw.mode } } := by
  change execCapabilityTableBuild true s = _
  simp [execCapabilityTableBuild, hn, eventPw]

end Steps

theorem startSteps : StartSteps := by
  intro s step
  refine ⟨?begin, fun i c hi hn => exec_step_fails hi hn, ?next, fun _ hn hl => happens_phyEqualisation hn hl, s.enter6_st,
    fun rsa slh v m hn hw => happens_firmwareVerification rsa slh v m hn hw, fun v => happens_of rfl rfl,
    happens_fwgoTimeout, exec_capabilityTableBuild⟩
  case begin =>
    intro hq
    exact ⟨⟨_, exec_startWarm hq, rfl, s.beginStart_mm false, s.beginStart_st false, State.beginStart_ports⟩,
      ⟨_, exec_startCold hq, rfl, s.beginStart_mm true, s.beginStart_st true, State.beginStart_ports (by rw [State.beginStart_st]; rfl)⟩⟩
  case next =>
    intro hq hr
    have hat {n : Nat} (hn : s.st.step = n) : s.atStep n = true := State.atStep_iff.mpr ⟨hq, hr, hn⟩
    exact ⟨fun hn => exec_pllLock (hat hn), fun hn => happens_bridgeTraining (hat hn), fun hn => exec_dramTraining (hat hn),
      fun hn => exec_fullScrub (hat hn)⟩

/-! ### Every line leaves its slice (R87, R206) -/

theorem Tab.del_eq_filter {α : Type} (t : Tab α) (k : Nat) : Tab.del t k = t.filter fun p => p.1 ≠ k := by
  induction t with
  | nil => rfl
  | cons p t ih =>
    obtain ⟨k', v⟩ := p
    by_cases hk : k' = k
    · simp [Tab.del, hk, ih]
    · simp [Tab.del, hk, ih]

/-- A table reads its default only where it lists nothing, when no entry is the default. -/
theorem Tab.ne_key_of_get {α : Type} {d : α} {t : Tab α} {k : Nat} (ht : ∀ p ∈ t, p.2 ≠ d) (h : Tab.get d t k = d) :
    ∀ p ∈ t, p.1 ≠ k := by
  induction t with
  | nil => simp
  | cons p t ih =>
    obtain ⟨k', v⟩ := p
    have hv : v ≠ d := ht (k', v) List.mem_cons_self
    by_cases hk : k' = k
    · exact absurd (by simpa [Tab.get, hk] using h) hv
    · intro q hq
      rcases List.mem_cons.mp hq with rfl | hq
      · exact hk
      · exact ih (fun p hp => ht p (List.mem_cons_of_mem _ hp)) (by simpa [Tab.get, hk] using h) q hq

/-- A slice that gives up a line changes the memory alone. -/
theorem State.l2Evict_eq (s : State) (home line : Nat) : s.l2Evict home line = { s with mm := (s.l2Evict home line).mm } := by
  unfold State.l2Evict
  split
  · rfl
  · dsimp only
    split <;> rfl

/-- Every entry of the slices is a line. -/
def State.Lines (s : State) : Prop := ∀ p ∈ s.mm.l2, p.2 ≠ none

theorem State.l2_l2Evict {s : State} (h : s.Lines) (home line : Nat) :
    (s.l2Evict home line).mm.l2 = s.mm.l2.filter fun p => p.1 ≠ home * lineSpan + line := by
  unfold State.l2Evict
  split
  · next hout => exact (List.filter_eq_self.mpr fun p hp => decide_eq_true (Tab.ne_key_of_get h hout p hp)).symm
  · have hset : (s.setL2 home line none).mm.l2 = s.mm.l2.filter fun p => p.1 ≠ home * lineSpan + line :=
      Tab.del_eq_filter s.mm.l2 (home * lineSpan + line)
    dsimp only
    split
    · exact hset
    · exact hset

theorem State.Lines.l2Evict {s : State} (h : s.Lines) (home line : Nat) : (s.l2Evict home line).Lines := by
  intro p hp
  rw [State.l2_l2Evict h] at hp
  exact h p (List.mem_filter.mp hp).1

theorem State.l2_foldl_l2Evict (l : List (Nat × Option L2Line)) {s : State} (h : s.Lines) :
    (l.foldl (fun (s : State) q => s.l2Evict (q.1 / lineSpan) (q.1 % lineSpan)) s).mm.l2 =
      s.mm.l2.filter fun p => p.1 ∉ l.map (·.1) := by
  induction l generalizing s with
  | nil => exact (List.filter_eq_self.mpr fun _ _ => decide_eq_true List.not_mem_nil).symm
  | cons q l ih =>
    rw [List.foldl_cons, ih (h.l2Evict _ _), State.l2_l2Evict h, Nat.div_add_mod', List.filter_filter]
    refine List.filter_congr fun p _ => ?_
    rw [← Bool.decide_and, List.map_cons]
    exact decide_eq_decide.mpr (by rw [List.mem_cons, not_or, and_comm])

/-- Flushing every line leaves no entry. -/
theorem State.l2_l2Flush_all {s : State} (h : s.Lines) : (s.l2Flush fun _ => true).mm.l2 = [] := by
  unfold State.l2Flush
  rw [List.filter_eq_self.mpr ?_, State.l2_foldl_l2Evict _ h, List.filter_eq_nil_iff]
  · exact fun p hp => by simpa using ⟨p.2, hp⟩
  · rintro ⟨k, v⟩ hp
    obtain ⟨w, hw⟩ := Option.ne_none_iff_exists'.mp (h (k, v) hp)
    dsimp only at hw
    rw [hw]

theorem State.l2Flush_eq (s : State) (p : L2Line → Bool) : s.l2Flush p = { s with mm := (s.l2Flush p).mm } := by
  unfold State.l2Flush
  generalize s.mm.l2.filter _ = l
  induction l generalizing s with
  | nil => rfl
  | cons q l ih =>
    rw [List.foldl_cons, ih, State.l2Evict_eq]

theorem State.lines_l2Drop (s : State) (p : L2Line → Bool) : (s.l2Drop p).Lines := by
  intro q hq hnone
  obtain ⟨k, v⟩ := q
  subst hnone
  simpa using (List.mem_filter.mp hq).2

@[simp] theorem State.l2Flush_st (s : State) (p : L2Line → Bool) : (s.l2Flush p).st = s.st := by rw [State.l2Flush_eq]
@[simp] theorem State.l2Flush_net (s : State) (p : L2Line → Bool) : (s.l2Flush p).net = s.net := by rw [State.l2Flush_eq]
@[simp] theorem State.l2Drop_st (s : State) (p : L2Line → Bool) : (s.l2Drop p).st = s.st := rfl
@[simp] theorem State.l2Drop_net (s : State) (p : L2Line → Bool) : (s.l2Drop p).net = s.net := rfl

/-! ### What waits before the links (R87, R110) -/

@[simp] theorem State.noteDone_st (s : State) (n : Note) : (s.noteDone n).st = s.st := by
  unfold State.noteDone
  dsimp only
  split <;> rfl

@[simp] theorem State.dropFlits_st (s : State) (h : Nat) : (s.dropFlits h).st = s.st :=
  foldl_keeps State.st State.noteDone_st _ _

@[simp] theorem State.startFlits_st (s : State) : s.startFlits.st = s.st := by
  unfold State.startFlits
  dsimp only
  rw [foldl_keeps State.st State.dropFlits_st]

theorem State.startFlits_rotas (s : State) : s.startFlits.net.rotas = [] := by
  unfold State.startFlits
  rfl

theorem State.startFlits_epoch (s : State) : s.startFlits.net.epoch = 0 := by
  unfold State.startFlits
  rfl

/-! ### What the firmware writes (R88) -/

/-- No line is in a slice, no word at a home, and no move slot in use: what the part writes by physical address goes to the vaults alone. -/
structure Bare (s : State) : Prop where
  l2 : s.mm.l2 = []
  home : s.mm.home = []
  moves : ∀ h, (s.hold h).moves = []

/-- The state `t` differs from `s` at most in what the vaults hold. -/
def VaultsOnly (s t : State) : Prop :=
  ∃ d p e m, t = { s with mm := { s.mm with dram := d, poison := p, ecc := e, mat := m } }

theorem VaultsOnly.refl (s : State) : VaultsOnly s s := ⟨_, _, _, _, rfl⟩

theorem VaultsOnly.trans {s t u : State} (h1 : VaultsOnly s t) (h2 : VaultsOnly t u) : VaultsOnly s u := by
  obtain ⟨d1, p1, e1, m1, rfl⟩ := h1
  obtain ⟨d2, p2, e2, m2, rfl⟩ := h2
  exact ⟨d2, p2, e2, m2, rfl⟩

theorem VaultsOnly.modHold {s t : State} (h : VaultsOnly s t) (n : Nat) (f : Hold → Hold) : VaultsOnly (s.modHold n f) (t.modHold n f) := by
  obtain ⟨d, p, e, m, rfl⟩ := h
  exact ⟨d, p, e, m, rfl⟩

theorem VaultsOnly.bare {s t : State} (h : VaultsOnly s t) (hb : Bare s) : Bare t := by
  obtain ⟨d, p, e, m, rfl⟩ := h
  exact ⟨hb.l2, hb.home, hb.moves⟩

theorem VaultsOnly.hold {s t : State} (h : VaultsOnly s t) (n : Nat) : t.hold n = s.hold n := by
  obtain ⟨d, p, e, m, rfl⟩ := h
  rfl

theorem vaultsOnly_vaultPut (s : State) (key line : Nat) (data : List Byte) (bad : List Bool) : VaultsOnly s (s.vaultPut key line data bad) :=
  ⟨_, _, _, _, rfl⟩

theorem vaultsOnly_cleanBeats (s : State) (pa n : Nat) : VaultsOnly s (s.cleanBeats pa n) := ⟨_, _, _, _, rfl⟩

@[simp] theorem State.hold_modHold_same (s : State) (h : Nat) (f : Hold → Hold) : (s.modHold h f).hold h = f (s.hold h) :=
  Tab.get_set_same _ _ _ _

theorem State.hold_modHold_other (s : State) {h n : Nat} (f : Hold → Hold) (hn : n ≠ h) : (s.modHold h f).hold n = s.hold n :=
  Tab.get_set_other _ _ _ hn

theorem Bare.modHold {s : State} (hb : Bare s) (h : Nat) {f : Hold → Hold} (hf : ∀ v, (f v).moves = v.moves) : Bare (s.modHold h f) where
  l2 := hb.l2
  home := hb.home
  moves n := by
    by_cases hn : n = h
    · rw [hn, State.hold_modHold_same, hf]
      exact hb.moves h
    · rw [State.hold_modHold_other s f hn]
      exact hb.moves n

/-- The beats of a range are neither poisoned nor in error. -/
def CleanBeats (s : State) (pa n : Nat) : Prop :=
  ∀ b, pa ≤ 32 * b → 32 * b < pa + n → Tab.get false s.mm.poison b = false ∧ Tab.get false s.mm.ecc b = false

theorem Tab.get_filter_out {α : Type} (d : α) (t : Tab α) {keep : Nat × α → Bool} {k : Nat} (h : ∀ v, keep (k, v) = false) :
    Tab.get d (t.filter keep) k = d := by
  induction t with
  | nil => rfl
  | cons p t ih =>
    obtain ⟨k', v⟩ := p
    by_cases hk : k' = k
    · subst hk
      simpa [List.filter_cons, h v] using ih
    · by_cases hp : keep (k', v) = true
      · simpa [List.filter_cons, hp, Tab.get, hk] using ih
      · simpa [List.filter_cons, hp] using ih

theorem cleanBeats_cleanBeats (s : State) (pa n : Nat) : CleanBeats (s.cleanBeats pa n) pa n := by
  intro b hlo hhi
  exact ⟨Tab.get_filter_out false _ (by simp [hlo, hhi]), Tab.get_filter_out false _ (by simp [hlo, hhi])⟩

theorem State.bump_eq_self {s : State} (h : ∀ n, (s.hold n).moves = []) (pa : Nat) : s.bump pa = s := by
  unfold State.bump
  generalize List.range Config.holdings = l
  induction l with
  | nil => rfl
  | cons n l ih => rw [List.foldl_cons, if_pos (h n), ih]

theorem Bare.rawHome {s : State} (hb : Bare s) (w : Nat) : s.rawHome w = none := by
  simp [State.rawHome, hb.l2, hb.home]

/-- A word of a good beat is written in its vault. -/
theorem Bare.rawPut {s : State} (hb : Bare s) {pa : Nat} (hpoison : Tab.get false s.mm.poison (pa / 32) = false)
    (hecc : Tab.get false s.mm.ecc (pa / 32) = false) (hold rgn : Nat) (v : Word) :
    s.rawPut hold rgn pa v = { s with mm := { s.mm with dram := Tab.setBytes s.mm.dram (pa / 8 * 8) (leBytes 8 v.toNat) } } := by
  unfold State.rawPut
  simp [hb.rawHome, State.eccAny_one, hpoison, hecc, State.bump_eq_self hb.moves]

/-- Words put into clean beats. -/
theorem vaultsOnly_foldl_rawPut {pa n : Nat} (hal : pa % 32 = 0) (ws : List (Nat × Nat)) (hws : ∀ p ∈ ws, 8 * p.1 < n) {s : State} (hb : Bare s)
    (hc : CleanBeats s pa n) :
    VaultsOnly s (ws.foldl (fun (s : State) p => s.rawPut 0 0 (pa + 8 * p.1) (BitVec.ofNat 64 p.2)) s) := by
  induction ws generalizing s with
  | nil => exact VaultsOnly.refl s
  | cons p ws ih =>
    have hp : 8 * p.1 < n := hws p List.mem_cons_self
    obtain ⟨hpoison, hecc⟩ := hc ((pa + 8 * p.1) / 32) (by omega) (by omega)
    rw [List.foldl_cons, hb.rawPut hpoison hecc]
    have hone : VaultsOnly s { s with mm := { s.mm with
        dram := Tab.setBytes s.mm.dram ((pa + 8 * p.1) / 8 * 8) (leBytes 8 (BitVec.ofNat 64 p.2).toNat) } } := ⟨_, _, _, _, rfl⟩
    exact hone.trans (ih (fun q hq => hws q (List.mem_cons_of_mem p hq)) (hone.bare hb) hc)

theorem vaultsOnly_putTable {s : State} (hb : Bare s) {pa n : Nat} (hal : pa % 32 = 0) {ws : List (Nat × Nat)} (hws : ∀ p ∈ ws, 8 * p.1 < n) :
    VaultsOnly s (s.putTable pa n ws) := by
  have hclean : VaultsOnly s { s.cleanBeats pa n with mm := { (s.cleanBeats pa n).mm with
      dram := (s.cleanBeats pa n).mm.dram.filter fun c => !(pa ≤ c.1 && c.1 < pa + n) } } := ⟨_, _, _, _, rfl⟩
  exact hclean.trans (vaultsOnly_foldl_rawPut hal ws hws (hclean.bare hb) (cleanBeats_cleanBeats s pa n))

/-- A word that the firmware puts into DRAM, in a beat that it writes whole (R88). -/
theorem vaultsOnly_imageWord {s : State} (hb : Bare s) (p : Nat × Word) :
    VaultsOnly s (if p.1 % 8 = 0 && p.1 < dramSize then (s.cleanBeats (p.1 / 32 * 32) 32).rawPut 0 0 p.1 p.2 else s) := by
  split
  · have hclean := vaultsOnly_cleanBeats s (p.1 / 32 * 32) 32
    obtain ⟨hpoison, hecc⟩ := cleanBeats_cleanBeats s (p.1 / 32 * 32) 32 (p.1 / 32) (by omega) (by omega)
    rw [(hclean.bare hb).rawPut hpoison hecc]
    exact hclean.trans ⟨_, _, _, _, rfl⟩
  · exact VaultsOnly.refl s

theorem vaultsOnly_image (l : List (Nat × Word)) {s : State} (hb : Bare s) :
    VaultsOnly s (l.foldl (fun (s : State) p =>
      if p.1 % 8 = 0 && p.1 < dramSize then (s.cleanBeats (p.1 / 32 * 32) 32).rawPut 0 0 p.1 p.2 else s) s) := by
  induction l generalizing s with
  | nil => exact VaultsOnly.refl s
  | cons p l ih => exact (vaultsOnly_imageWord hb p).trans (ih ((vaultsOnly_imageWord hb p).bare hb))

/-- Holding 0 with the words of its block that the firmware writes, but for the page table's, and with the block's place. -/
def rootWords (v : Nat → Nat) (x : Hold) : Hold := { x with
  words := (rootPools v).foldl (fun t p => Tab.set 0 t p.1 (BitVec.ofNat 64 p.2))
    (firmwareWords.foldl (fun t o => Tab.set 0 t o (Config.rootWord o)) x.words)
  addr := some (2 ^ 35 + v 53 % 2 ^ 27 * 256) }

/-- Holding 0 with its page table at a page of DRAM. -/
def rootTableAt (root : Nat) (x : Hold) : Hold := { x with words := Tab.set 0 x.words 0x40 (BitVec.ofNat 64 (root * 16384)) }

/-- The upper table has 2,048 words, and the lower one 1,024, of which the firmware writes at most the last. -/
theorem vaultsOnly_rootTable {s : State} (hb : Bare s) (v : Nat → Nat) :
    ∃ root, VaultsOnly (s.modHold 0 (rootTableAt root)) (s.rootTable v) := by
  have hboth : ∀ root table i0 (leaf : Nat → Nat), i0 < 1017 → VaultsOnly (s.modHold 0 (rootTableAt root))
      (((s.putTable (root * 16384) 16384 [(v 2 % 2048, table * 8192 + 1)]).putTable (table * 8192) 8192
        ((List.range 8).map fun i => (i0 + i, leaf i))).modHold 0 (rootTableAt root)) := by
    intro root table i0 leaf hi0
    have hupper : VaultsOnly s (s.putTable (root * 16384) 16384 [(v 2 % 2048, table * 8192 + 1)]) :=
      vaultsOnly_putTable hb (by omega) fun p hp => by
        rw [List.mem_singleton.mp hp]
        dsimp only
        omega
    refine (hupper.trans (vaultsOnly_putTable (hupper.bare hb) (by omega) fun p hp => ?_)).modHold 0 _
    obtain ⟨i, hi, rfl⟩ := List.mem_map.mp hp
    have hi8 : i < 8 := List.mem_range.mp hi
    dsimp only
    omega
  exact ⟨_, hboth _ _ _ _ (Nat.mod_lt _ (by decide))⟩

/-- The firmware changes holding 0's block and its place, and otherwise what the vaults hold. -/
theorem vaultsOnly_firmware {s : State} (hb : Bare s) : ∃ v root,
    VaultsOnly ((({ s with ctl := { s.ctl with free := s.ctl.free + 1 } }).modHold 0 (rootWords v)).modHold 0 (rootTableAt root)) s.firmware := by
  have hb' : Bare { s with ctl := { s.ctl with free := s.ctl.free + 1 } } := ⟨hb.l2, hb.home, hb.moves⟩
  have himage := (vaultsOnly_image (Config.rootImage s.ctl.free) hb').modHold 0 (rootWords (Config.rootMap s.ctl.free))
  have hbare := himage.bare (hb'.modHold 0 fun _ => rfl)
  obtain ⟨root, htable⟩ := vaultsOnly_rootTable hbare (Config.rootMap s.ctl.free)
  refine ⟨Config.rootMap s.ctl.free, root, (himage.modHold 0 _).trans (htable.trans ?_)⟩
  unfold State.firmware
  dsimp only
  refine VaultsOnly.trans ?_ (vaultsOnly_vaultPut _ _ _ _ _)
  exact vaultsOnly_cleanBeats _ _ _

/-- The words of R481 stand where the firmware writes none. -/
theorem get_firmware_words {v : Nat → Nat} {root k : Nat} {x : Hold} (h : k ∉ firmwareWords) :
    Tab.get 0 (rootTableAt root (rootWords v x)).words k = Tab.get 0 x.words k := by
  have hk : k ≠ 0x40 := by rintro rfl; exact h (by decide)
  have hpools : ∀ p ∈ rootPools v, k ≠ p.1 := by
    intro p hp e
    have hin : p.1 ∈ [0x28, 0x30, 0x38, 0x80, 0x88] := List.mem_map_of_mem (f := fun p : Nat × Nat => p.1) hp
    have hall : ∀ o ∈ [0x28, 0x30, 0x38, 0x80, 0x88], o ∈ firmwareWords := by decide
    exact h (e ▸ hall p.1 hin)
  rw [rootTableAt, Tab.get_set_other 0 _ _ hk, rootWords, Tab.get_foldl_set_other 0 _ _ hpools,
    Tab.get_foldl_set_other 0 (fun o => o) _ fun o ho e => h (by rwa [e])]

/-! ### Step 7 (R85, R87, R88, R481) -/

/-- What step 7 leaves before the firmware writes, once the flits that wait and the lines of the slices are gone. -/
def State.newPart (s : State) : State :=
  let b := { s.freeKey.2 with
    hi := { s.hi with
      fns := [], rootRgn := 0, pageReqs := [], pageWait := [], arrived := [], stops := []
      writes := [], waits := [], bad := [], reads := [], got := []
      reqs := s.hi.reqs.map fun (r : HostReq) => { r with purpose := .dropped } }
    mm := { s.mm with l1 := [], home := [], regs := [], pools := [], portq := [], accs := [], tlb := [], vault := [], byHost := [] }
    co := {}
    en := {}
    ctl := { s.freeKey.2.ctl with issue := false } }.freshHolds
  { b with hd := { b.hd with keys := Tab.set none [] 0 (some s.freeKey.1) } }

/-- Nothing waits before the links for a holding but 0, and no line is in a slice. -/
def State.drained (s : State) : State := (s.startFlits.l2Drop fun v => v.hold ≠ 0).l2Flush fun _ => true

theorem State.drained_l2 (s : State) : s.drained.mm.l2 = [] := by
  unfold State.drained
  exact State.l2_l2Flush_all (State.lines_l2Drop _ _)

theorem State.drained_st (s : State) : s.drained.st = s.st := by
  unfold State.drained
  rw [State.l2Flush_st, State.l2Drop_st, State.startFlits_st]

theorem State.drained_net (s : State) : s.drained.net = s.startFlits.net := by
  unfold State.drained
  rw [State.l2Flush_net, State.l2Drop_net]

theorem exec_startReset {s : State} (hn : s.atStep 7 = true) :
    exec .startReset s = .next { (s.drained.newPart.firmware.modSt fun x => { x with step := 8 }) with pw := s.pw } := by
  have hgo : ¬(!s.atStep 7) = true := by simp [hn]
  have hdo : exec .startReset s = event s (if !s.atStep 7 then none else
      some (s.drained.newPart.firmware.modSt fun x => { x with step := 8 })) := by
    change execStartReset s = _
    unfold execStartReset State.drained
    generalize (s.startFlits.l2Drop fun v => v.hold ≠ 0).l2Flush (fun _ => true) = q
    rfl
  rw [hdo, if_neg hgo]
  rfl

theorem State.hold_newPart (s : State) (h : Nat) : s.newPart.hold h = if h = 0 then { st := .active, words := rootBlock } else {} := by
  have hget : Tab.get {} [(0, ({ st := .active, words := rootBlock } : Hold))] h =
      if h = 0 then { st := .active, words := rootBlock } else {} := by
    simp only [Tab.get, eq_comm]
  exact hget

theorem State.bare_newPart {s : State} (h : s.mm.l2 = []) : Bare s.newPart := by
  refine ⟨h, rfl, fun n => ?_⟩
  rw [State.hold_newPart]
  split <;> rfl

/-- Holding 0 after step 7. -/
def rootHold (v : Nat → Nat) (root : Nat) : Hold := rootTableAt root (rootWords v { st := .active, words := rootBlock })

theorem startReset : StartReset := by
  intro s hn
  have hx := exec_startReset hn
  have hl2 := s.drained_l2
  have hst := s.drained_st
  have hrotas := (congrArg Net.rotas s.drained_net).trans s.startFlits_rotas
  have hepoch := (congrArg Net.epoch s.drained_net).trans s.startFlits_epoch
  generalize s.drained = q at hx hl2 hst hrotas hepoch
  obtain ⟨v, root, hfw⟩ := vaultsOnly_firmware (State.bare_newPart hl2)
  have hroot : q.newPart.firmware.hold 0 = rootHold v root := by
    rw [hfw.hold, State.hold_modHold_same, State.hold_modHold_same]
    exact congrArg (fun x => rootTableAt root (rootWords v x)) (q.hold_newPart 0)
  have hfree : ∀ h, h ≠ 0 → q.newPart.firmware.hold h = {} := by
    intro h h0
    rw [hfw.hold, State.hold_modHold_other _ _ h0, State.hold_modHold_other _ _ h0]
    exact (q.hold_newPart h).trans (if_neg h0)
  have hword : ∀ k, k ∉ firmwareWords → q.newPart.firmware.hword 0 k = (Tab.get 0 rootBlock k).toNat := by
    intro k hk
    rw [State.hword, hroot]
    exact congrArg BitVec.toNat (get_firmware_words hk)
  obtain ⟨d, p, e, m, hf⟩ := hfw
  generalize q.newPart.firmware = u at hx hroot hfree hword hf
  refine ⟨_, hx, rfl, ?st, ?co, ?en, ?fns, ?rotas, ?epoch, ?l1, ?l2, ?home, ?pools, ?portq, ?tlb, ?sc, ?writes, congrArg Hold.st hroot,
    fun h h0 => congrArg Hold.st (hfree h h0), ?keys, hword 0x10 (by decide), hword 0x18 (by decide), hword 0x20 (by decide),
    hword 0x48 (by decide), hword 0x90 (by decide)⟩
  all_goals rw [hf]
  case st => exact congrArg (fun x : Start => { x with step := 8 }) hst
  case rotas => exact hrotas
  case epoch => exact hepoch
  case l2 => exact hl2
  all_goals rfl

/-- Settles O29, from the equation of each step of the start, and for step 7 from what is left before the firmware writes and from what the
firmware can change (`vaultsOnly_firmware`). That step 7 empties the registers of every function is the model's choice (log entry 86). -/
theorem startOfTheModule : Obligations.StartOfTheModule := ⟨startSteps, startReset⟩

end Sys2Proof.Machine

/-! SUPPORT. The host chain (R72 to R83): what each of its events answers. -/

namespace Sys2Proof.Machine

open Sys2Proof.Claims

/-! ### Fetching records (R73, R75, R79) -/

/-- A running chain may fetch (R75, R78, R83): the next record is there to be executed, nothing is asked for, no FEATURE record is open, and
fewer than 64 records are in execution. -/
structure Fetches (c : Chain) : Prop where
  run : c.run = true
  tail : c.next ≤ c.ctail
  asked : c.asked = none
  featuring : c.featuring = false
  room : (c.recs.filter fun r => !r.done).length < 64

theorem Fetches.not_held {c : Chain} (h : Fetches c) :
    ¬(!c.run || c.ctail < c.next || c.asked.isSome || c.featuring || 64 ≤ (c.recs.filter fun r => !r.done).length) = true := by
  have htail := Nat.not_lt.mpr h.tail
  have hroom := Nat.not_le.mpr h.room
  simp [h.run, htail, h.asked, h.featuring, hroom]

section Fetch

variable {s : State} {fn : Nat} {c : Chain} (hu : s.ctl.here.unit = fn) (hc : s.chainAt fn = c) (hf : Fetches c)
  (hnew : (c.recs.find? fun r => r.num = c.next) = none)
include hu hc hf hnew

/-- The pointer to the next record comes from the record before it. -/
theorem happens_recordFetch_next {p : Word} {d : List Byte} (hp : c.prev = some p) (hg : c.got = some (some d)) :
    Happens .recordFetch s ((s.modChain fn fun c => { c with got := none }).modChain fn fun c =>
        { c with chead := BitVec.ofNat 64 (leNat (d.take 8)), prev := none }) := by
  subst hu hc
  refine happens_of rfl ((if_neg hf.not_held).trans ?_)
  simp [hnew, hp, hg]

variable (hp : c.prev = none)
include hp

theorem happens_recordFetch_badPtr (hbad : ptrBad c.chead c.facc = true) :
    Happens .recordFetch s (s.chainStop fn c.next c.chead 0x02) := by
  subst hu hc
  refine happens_of rfl ((if_neg hf.not_held).trans ?_)
  simp [hnew, hp, hbad]

variable (hptr : ptrBad c.chead c.facc = false)
include hptr

theorem happens_recordFetch_got {d : List Byte} (hg : c.got = some (some d)) : Happens .recordFetch s
    ((s.modChain fn fun c => { c with got := none }).takeRecord fn d) := by
  subst hu hc
  refine happens_of rfl ((if_neg hf.not_held).trans ?_)
  simp [hnew, hp, hptr, hg]

/-- A fetch that was answered without the record stops the chain. -/
theorem happens_recordFetch_failed (hg : c.got = some none) : Happens .recordFetch s
    ((s.modChain fn fun c => { c with got := none }).chainStop fn c.next c.chead 0x03) := by
  subst hu hc
  refine happens_of rfl ((if_neg hf.not_held).trans ?_)
  simp [hnew, hp, hptr, hg]

variable (hg : c.got = none)
include hg

/-- A record at a host address is asked for. -/
theorem happens_recordFetch_host (hspace : bits c.chead.toNat 1 0 = 0)
    (htag : s.tagFree (s.hostPort fn (ptrAddr c.chead)) = true)
    (hroom : s.portRoom (s.hostPort fn (ptrAddr c.chead)) fn = true) :
    let s1 := s.modChain fn fun c => { c with asked := some s.ctl.nextId }
    let a := ptrAddr c.chead
    Happens .recordFetch s (s1.hostGet (s1.hostPort fn a) fn a 64 (.chain fn)) := by
  subst hu hc
  refine happens_of rfl ((if_neg hf.not_held).trans ?_)
  simp [hnew, hp, hptr, hg, hspace, htag, hroom]

/-- A record in the holding's memory is read through its page table. -/
theorem happens_recordFetch_mva {bs : List Byte} {t : State} (hspace : bits c.chead.toNat 1 0 = 1)
    (hr : s.agentRead (chainPort fn) fn (ptrAddr c.chead) 64 = (.data bs false, t)) :
    Happens .recordFetch s (t.takeRecord fn bs) := by
  subst hu hc
  refine happens_of rfl ((if_neg hf.not_held).trans ?_)
  simp [hnew, hp, hptr, hg, hspace, hr]

end Fetch

/-! ### FEATURE, LAUNCH and SIGNAL (R77, R83) -/

section Start

variable {s : State} {fn : Nat} (hu : s.ctl.here.unit = fn) {r : Rec}
include hu

theorem happens_feature (hr : s.startable 5 = some r) (ha : r.acted = false) : Happens .feature s
    (if (s.chainAt fn).first then (s.act fn r.num 0 false).modChain fn fun c => { c with facc := BitVec.ofNat 64 (r.word 2 % 16) }
     else s.recStop fn r 0x04) := by
  subst hu
  refine happens_of rfl ?_
  simp only [hr, Option.bind_some, ha, Bool.not_eq_true', Bool.false_eq_true, if_false]
  cases (s.chainAt s.ctl.here.unit).first <;> rfl

/-- A LAUNCH checks the region as SPAWN does, and starts to deal it or stops the chain. -/
theorem happens_launch {x : List Nat} {s0 : State} (hr : s.startable 1 = some r) (ha : r.acted = false)
    (hw : s.chainWrites fn (· < r.num) = false)
    (hsend : s.sending (fun x => match x with | .chain g k => g = fn && k < r.num | _ => false) = false)
    (hgate : s.regionGate (schedAsker fn (r.word 2)) (r.word 2) = (true, s0)) (hlive : s0.live fn = true)
    (hlook : s0.lookChain fn 15 (r.word 2) = .ok x) :
    let s1 := s0.markFrz fn (r.word 2)
    let k := s1.launchCheck fn (r.word 2) (.ok x) (r.word 4)
    Happens .launch s
      (if k.1 = 0 then
        (s1.launchStart fn (r.word 2) k.2 (r.word 3) (r.word 4) (s1.rootLaunch fn (r.word 2)) (some r.num)).act fn r.num s1.ctl.nextId false
      else s1.recStop fn r 0x05) := by
  subst hu
  intro s1 k
  have hk : (s0.markFrz s.ctl.here.unit (r.word 2)).launchCheck s.ctl.here.unit (r.word 2) (.ok x) (r.word 4) = k := rfl
  refine happens_of rfl ?_
  simp only [hr, Option.bind_some, ha, hw]
  refine (if_neg (Bool.eq_false_iff.mp hsend)).trans ?_
  simp only [hgate, hlive, hlook, if_true, hk]
  obtain ⟨code, sg⟩ := k
  cases code <;> rfl

end Start

section Signal

variable {s : State} {fn : Nat} (hu : s.ctl.here.unit = fn) {r : Rec} (hr : s.startable 3 = some r) (ha : r.acted = false)
include hu hr ha

theorem happens_signal_misaligned (hal : r.word 2 % 8 ≠ 0) : Happens .signal s (s.recStop fn r 0x06) := by
  subst hu
  refine happens_of rfl ?_
  simp [hr, ha, hal]

variable {t : State} (hal : r.word 2 % 8 = 0)
include hal

theorem happens_signal_denied (hok : s.spaceOk fn r.dsp (r.word 2) 8 { w := true } = (.denied, t)) :
    Happens .signal s (t.recStop fn r 0x06) := by
  subst hu
  refine happens_of rfl ?_
  simp [hr, ha, hal, hok]

theorem happens_signal {u : State} (hok : s.spaceOk fn r.dsp (r.word 2) 8 { w := true } = (.done, t))
    (hput : t.spacePut fn r.num r.dsp (r.word 2) (leBytes 8 (r.word 3)) false false = (.done, u)) :
    Happens .signal s (u.act fn r.num 0 false) := by
  subst hu
  refine happens_of rfl ?_
  simp [hr, ha, hal, hok, hput]

end Signal

/-! ### COPYH (R77, R79) -/

/-- A record whose pieces have all been taken by their space has written them. -/
theorem State.recWrite_done {s t u : State} {fn : Nat} {r : Rec} {a e : Nat} {l : List (List Byte × Bool)} (fin : Rec → Rec)
    (hok : s.spaceOk fn r.dsp (e - (r.pieces.map (·.1.length)).sum) (e - (e - (r.pieces.map (·.1.length)).sum)) { w := true } = (.done, t))
    (hput : t.putPieces fn r.num r.dsp (decide (a < e - (r.pieces.map (·.1.length)).sum)) r.pieces (e - (r.pieces.map (·.1.length)).sum) =
      (.done, l, u)) :
    s.recWrite fn r a e fin = some (u.modChainRec fn r.num fun x => fin { x with pieces := [] }) := by
  simp [State.recWrite, hok, hput]

section Copyh

variable {s : State} {fn : Nat} (hu : s.ctl.here.unit = fn) {r : Rec} (hr : s.startable 2 = some r)
include hu hr

theorem happens_copyh_length (ha : r.acted = false) (hn : r.word 4 = 0 ∨ 2 ^ 36 < r.word 4) :
    Happens .copyh s (s.recStop fn r 0x06) := by
  have hbad : (decide (r.word 4 = 0) || decide (2 ^ 36 < r.word 4)) = true := by simpa using hn
  subst hu
  refine happens_of rfl ?_
  simp only [hr, Option.bind_some, ha, Bool.not_false, if_true, hbad]

section Check

variable (ha : r.acted = false) (h0 : 0 < r.word 4) (hmax : r.word 4 ≤ 2 ^ 36)
include ha h0 hmax

theorem happens_copyh_denied {t : State} (hsrc : s.spaceOk fn r.ssp (r.word 2) (r.word 4) { r := true } = (.denied, t)) :
    Happens .copyh s (t.recStop fn r 0x06) := by
  have hlen : ¬(decide (r.word 4 = 0) || decide (2 ^ 36 < r.word 4)) = true := by simp; omega
  subst hu
  refine happens_of rfl ?_
  simp only [hr, Option.bind_some, ha, Bool.not_false, if_true, if_neg hlen, hsrc]

theorem happens_copyh_start {t u : State} (hsrc : s.spaceOk fn r.ssp (r.word 2) (r.word 4) { r := true } = (.done, t))
    (hdst : t.spaceOk fn r.dsp (r.word 3) (r.word 4) { w := true } = (.done, u)) :
    Happens .copyh s (u.act fn r.num 0 false) := by
  have hlen : ¬(decide (r.word 4 = 0) || decide (2 ^ 36 < r.word 4)) = true := by simp; omega
  subst hu
  refine happens_of rfl ?_
  simp only [hr, Option.bind_some, ha, Bool.not_false, if_true, if_neg hlen, hsrc, hdst]

end Check

section Read

variable (ha : r.acted = true) (hl : r.left < r.word 4) (hq : r.asked = false)
include ha hl hq

theorem happens_copyh_got {d : List Byte × Bool} (hb : r.buf = some d) : Happens .copyh s (s.copyhGot fn r d.1 d.2) := by
  subst hu
  refine happens_of rfl ?_
  simp [hr, ha, Nat.not_lt.mpr (Nat.le_of_lt hl), Nat.ne_of_gt hl, hq, hb]

variable (hb : r.buf = none)
include hb

theorem happens_copyh_ask (hs : r.ssp = 0) (htag : s.tagFree (s.hostPort fn (r.word 2 + r.left)) = true)
    (hroom : s.portRoom (s.hostPort fn (r.word 2 + r.left)) fn = true) :
    Happens .copyh s ((s.modChainRec fn r.num fun x => { x with asked := true }).hostGet
      (s.hostPort fn (r.word 2 + r.left)) fn (r.word 2 + r.left) r.piece (.copyh fn r.num r.left)) := by
  subst hu
  refine happens_of rfl ?_
  simp [hr, ha, Nat.not_lt.mpr (Nat.le_of_lt hl), Nat.ne_of_gt hl, hq, hb, hs, htag, hroom]

theorem happens_copyh_read {bs : List Byte} {bad : Bool} {t : State} (hs : r.ssp ≠ 0)
    (hread : s.agentRead (chainPort fn) fn (r.word 2 + r.left) r.piece (decide (r.left ≠ 0)) = (.data bs bad, t)) :
    Happens .copyh s (t.copyhGot fn r bs bad) := by
  subst hu
  refine happens_of rfl ?_
  simp only [hr, Option.bind_some, ha, hread]
  simp [Nat.not_lt.mpr (Nat.le_of_lt hl), Nat.ne_of_gt hl, hq, hb, hs]

end Read

/-- Once all is read the writes go out. -/
theorem happens_copyh_write {u : State} (ha : r.acted = true) (hl : r.left = r.word 4) (hq : r.asked = false)
    (hw : s.recWrite fn r (r.word 3) (r.word 3 + r.word 4) (fun x => { x with left := r.word 4 + 1 }) = some u) :
    Happens .copyh s u := by
  subst hu
  refine happens_of rfl ?_
  simp [hr, ha, hl, hq, hw]

end Copyh

/-! ### RESYNC (R94) -/

section Resync

variable {s : State} {fn : Nat} (hu : s.ctl.here.unit = fn) {r : Rec} (hr : s.startable 4 = some r)
include hu hr

theorem happens_resync_bad (ha : r.acted = false) (hbad : r.word 2 % 8 ≠ 0 ∨ r.word 3 < 8) : Happens .resync s (s.recStop fn r 0x06) := by
  subst hu
  refine happens_of rfl ?_
  simp [hr, ha, hbad]

/-- The record starts with the set as it stands, in pieces of 64 bytes. -/
theorem happens_resync_start {t : State} (ha : r.acted = false) (hal : r.word 2 % 8 = 0) (hn : 8 ≤ r.word 3)
    (hok : s.spaceOk fn r.dsp (r.word 2) (s.summaryBytes fn (r.word 3)).length { w := true } = (.done, t)) :
    let bs := s.summaryBytes fn (r.word 3)
    Happens .resync s ((t.act fn r.num bs.length false).modChainRec fn r.num fun x =>
      { x with pieces := (cut64 (bs.length + 1) (r.word 2) 0 bs.length).map fun p => ((bs.drop p.2.1).take p.2.2, false) }) := by
  subst hu
  refine happens_of rfl ?_
  simp [hr, ha, hal, Nat.not_lt.mpr hn, hok]

theorem happens_resync_write {u : State} (ha : r.acted = true) (hp : r.pieces ≠ [])
    (hw : s.recWrite fn r (r.word 2) (r.word 2 + r.left) id = some u) : Happens .resync s u := by
  subst hu
  refine happens_of rfl ?_
  simp [hr, ha, hp, hw]

end Resync

/-! ### Completion and the mirror (R77, R78, R80, R81) -/

theorem State.modChain_congr {s : State} {fn : Nat} {f g : Chain → Chain} (h : f (s.chainAt fn) = g (s.chainAt fn)) :
    s.modChain fn f = s.modChain fn g := by
  have hchain : f (s.fn fn).chain = g (s.fn fn).chain := h
  simp only [State.modChain, State.modFn, hchain]

section Over

variable {s : State} {fn : Nat} {c : Chain} (hu : s.ctl.here.unit = fn) (hc : s.chainAt fn = c) {r : Rec}
  (hr : (c.recs.find? fun r => r.num = s.ctl.here.pos) = some r) (hd : r.done = false) (ho : s.recordOver fn r = true)
  (hf : (s.net.flushes.any fun x => x.key = chainFlush fn r.num) = false)
include hu hc hr hd ho hf

/-- The peers that a record has written are asked before it completes (R63). -/
theorem happens_recordComplete_ask (hp : s.recPeers fn r.num ≠ []) : Happens .recordComplete s (s.askChain fn r.num) := by
  subst hu hc
  refine happens_of rfl ?_
  simp only [hr, Option.bind_some, hd, ho, hf]
  exact if_pos hp

/-- A SIGNAL sends its MSI-X, the timeline advances, and the mirror falls due. -/
theorem happens_recordComplete (hp : s.recPeers fn r.num = []) :
    let s1 := if r.type = 3 && r.flags.getLsbD 1 && c.facc.getLsbD 1 then s.send (.msix (s.hostPort fn 0) fn (bits (r.word 4) 15 0)) else s
    let recs := c.recs.map fun (x : Rec) => if x.num = r.num then { x with done := true } else x
    let n := advanceTl recs recs.length c.tlcur
    Happens .recordComplete s (s1.modChain fn fun x => { x with
      recs := recs.filter fun x => n < x.num
      tlcur := n
      mirror := if c.facc.getLsbD 0 && decide (c.tlmir.toNat / 8 ≠ 0) && decide (c.tlcur < n) then some n else x.mirror
      ports := x.ports.filter (n < ·.1) ++ (x.ports.find? (·.1 ≤ n)).toList }) := by
  subst hu hc
  intro s1 recs n
  refine happens_of rfl ?_
  simp only [hr, Option.bind_some, hd, ho, hf]
  refine (if_neg Bool.false_ne_true).trans ((if_neg (not_not_intro hp)).trans (congrArg some (State.modChain_congr ?_)))
  have hsame : s1.chainAt s.ctl.here.unit = s.chainAt s.ctl.here.unit := by
    simp only [s1]
    split <;> rfl
  rw [hsame]
  rfl

end Over

section Mirror

variable {s : State} {fn : Nat} {c : Chain} (hu : s.ctl.here.unit = fn) (hc : s.chainAt fn = c) {v : Nat} (hv : c.mirror = some v)
include hu hc hv

/-- Nothing is sent while TLMIR is 0. -/
theorem happens_mirrorWrite_off (ha : c.tlmir.toNat / 8 * 8 = 0) : Happens .mirrorWrite s (s.modChain fn fun c => { c with mirror := none }) := by
  subst hu hc
  refine happens_of rfl ?_
  simp only [hv, Option.bind_some, ha, if_true]

/-- The mirror is written by the port of the last posted write that it follows, and else by that of its own address. -/
theorem happens_mirrorWrite {p : Nat} (ha : c.tlmir.toNat / 8 * 8 ≠ 0)
    (hp : (c.ports.find? (·.1 ≤ v)).elim (s.hostPort fn (c.tlmir.toNat / 8 * 8)) (·.2) = p) (hroom : s.portRoom p fn = true) :
    Happens .mirrorWrite s ((s.modChain fn fun c => { c with mirror := none }).hostPut p fn (c.tlmir.toNat / 8 * 8) (leBytes 8 v) false) := by
  subst hu hc
  refine happens_of rfl ?_
  simp only [hv, Option.bind_some, ha, hp, hroom, if_true, if_false]

end Mirror

/-- Settles O31, from the equation of each event of a chain under its hypotheses. That CHEAD goes on naming a record until its NEXT is read,
that COPYH reads everything before it writes, that the mirror goes by the port of the last posted write it follows, and that the MSI-X of a
SIGNAL goes by the port of host address 0 are the model's choices (log entries 58, 68, 69 and 84). -/
theorem hostChain : Obligations.HostChain := by
  intro s fn c
  refine ⟨fun v => happens_of rfl rfl, fun v => happens_of rfl rfl, happens_of rfl rfl, ?fetch, fun r => happens_feature rfl,
    fun r x s0 => happens_launch rfl, ?signal, ?copyh, ?resync, ?ask, ?complete, ?mirror⟩
  case fetch =>
    intro hrun htail hasked hfeat hroom
    have hf : Fetches (s.chainAt s.ctl.here.unit) := ⟨hrun, htail, hasked, hfeat, hroom⟩
    exact ⟨fun p d hnew hp hg => happens_recordFetch_next rfl rfl hf hnew hp hg, fun hnew hp =>
      ⟨happens_recordFetch_badPtr rfl rfl hf hnew hp, fun hptr =>
        ⟨fun d => happens_recordFetch_got rfl rfl hf hnew hp hptr, happens_recordFetch_failed rfl rfl hf hnew hp hptr,
          happens_recordFetch_host rfl rfl hf hnew hp hptr, fun bs t hg => happens_recordFetch_mva rfl rfl hf hnew hp hptr hg⟩⟩⟩
  case signal =>
    exact fun r hr ha => ⟨happens_signal_misaligned rfl hr ha, fun t hal => happens_signal_denied rfl hr ha hal,
      fun t u hal => happens_signal rfl hr ha hal⟩
  case copyh =>
    intro r t u hr
    exact ⟨fun ha h0 hmax => happens_copyh_start rfl hr ha h0 hmax, happens_copyh_length rfl hr,
      fun ha h0 hmax => happens_copyh_denied rfl hr ha h0 hmax, fun ha hl hq =>
        ⟨fun d => happens_copyh_got rfl hr ha hl hq, happens_copyh_ask rfl hr ha hl hq, fun bs bad hb =>
          happens_copyh_read rfl hr ha hl hq hb⟩,
      fun l ha hl hq hok hput => happens_copyh_write rfl hr ha hl hq (State.recWrite_done _ hok hput)⟩
  case resync =>
    exact fun r hr => ⟨fun t => happens_resync_start rfl hr, happens_resync_bad rfl hr,
      fun t l u ha hp hok hput => happens_resync_write rfl hr ha hp (State.recWrite_done id hok hput)⟩
  case ask => exact fun r hr hd ho hf => happens_recordComplete_ask rfl rfl hr hd ho hf
  case complete => exact fun r hr hd ho hf => happens_recordComplete rfl rfl hr hd ho hf
  case mirror =>
    intro v hv s1 a
    refine ⟨happens_mirrorWrite_off rfl rfl hv, fun ha k p hp => happens_mirrorWrite rfl rfl hv ha ?_,
      fun ha hp => happens_mirrorWrite rfl rfl hv ha ?_⟩
    · exact congrArg (fun o : Option (Nat × Nat) => o.elim _ (·.2)) hp
    · exact congrArg (fun o : Option (Nat × Nat) => o.elim _ (·.2)) hp

end Sys2Proof.Machine

/-! SUPPORT. What the part's reads of memory keep: the place of the present step and the answered pages (R56, R206, R209, R487). -/

namespace Sys2Proof.Machine

open Sys2Proof.Claims

/-! ### What a read of the part keeps -/

/-- The place of the present step, and the frames whose page requests have been answered: what the part's reads of memory keep. -/
def State.kept (s : State) : Place × List (Nat × Nat) := (s.ctl.here, s.hi.arrived)

theorem State.here_of_kept {s t : State} (h : t.kept = s.kept) : t.ctl.here = s.ctl.here := congrArg Prod.fst h

theorem State.arrived_of_kept {s t : State} (h : t.kept = s.kept) : t.hi.arrived = s.hi.arrived := congrArg Prod.snd h

@[simp] theorem State.choose_kept (s : State) (n : Nat) : (s.choose n).2.kept = s.kept := by
  unfold State.choose
  split <;> rfl

@[simp] theorem State.burst_kept (s : State) (line hold : Nat) : (s.burst line hold).kept = s.kept := rfl
@[simp] theorem State.setL2_kept (s : State) (home line : Nat) (v : Option L2Line) : (s.setL2 home line v).kept = s.kept := rfl
@[simp] theorem State.modFn_kept (s : State) (h : Nat) (f : Fn → Fn) : (s.modFn h f).kept = s.kept := rfl
@[simp] theorem State.addFault_kept (s : State) (r : FaultRec) : (s.addFault r).kept = s.kept := rfl
@[simp] theorem State.writtenBy_kept (s : State) (pa n : Nat) (w : Option (Nat × Nat)) : (s.writtenBy pa n w).kept = s.kept := rfl
@[simp] theorem State.setPools_kept (s : State) (core : Nat) (l : List PoolEnt) : (s.setPools core l).kept = s.kept := rfl
@[simp] theorem State.setHome_kept (s : State) (home w : Nat) (v : HomeSt) : (s.setHome home w v).kept = s.kept := rfl

@[simp] theorem State.unwait_kept (s : State) (r : Option Req) : (s.unwait r).kept = s.kept := by
  unfold State.unwait
  split <;> rfl

@[simp] theorem State.forget_kept (s : State) (r : Req) : (s.forget r).kept = s.kept := State.unwait_kept s (some r)

@[simp] theorem State.l2Evict_kept (s : State) (home line : Nat) : (s.l2Evict home line).kept = s.kept := by
  rw [State.l2Evict_eq]
  rfl

@[simp] theorem State.l2Room_kept (s : State) (home : Nat) : (s.l2Room home).kept = s.kept := by
  unfold State.l2Room
  dsimp only
  split
  · rfl
  · split
    · split <;> simp
    · simp

@[simp] theorem State.l2In_kept (s : State) (a : AtHome) (line : Nat) : (s.l2In a line).kept = s.kept := by
  have hfill : ∀ s : State, (State.l2In.fill a line s).kept = s.kept := fun s => by simp [State.l2In.fill]
  unfold State.l2In
  split
  · split
    · rfl
    · simp [hfill]
  · exact hfill s

@[simp] theorem State.modL2_kept (s : State) (a : AtHome) (line : Nat) (f : L2Line → L2Line) :
    (s.modL2 a line f).kept = s.kept := by
  unfold State.modL2
  dsimp only
  split <;> simp

@[simp] theorem State.setPoison_kept (s : State) (a : AtHome) (pa : Nat) (b : Bool) : (s.setPoison a pa b).kept = s.kept :=
  State.modL2_kept s a _ _

@[simp] theorem State.bump_kept (s : State) (pa : Nat) : (s.bump pa).kept = s.kept := by
  unfold State.bump
  refine foldl_keeps State.kept (fun s h => ?_) _ s
  split <;> rfl

@[simp] theorem State.eccClear_kept (s : State) (pa : Nat) (full : Bool) : (s.eccClear pa full).kept = s.kept := by
  unfold State.eccClear
  split <;> rfl

@[simp] theorem State.memPut_kept (s : State) (a : AtHome) (pa : Nat) (data : List Byte) :
    (s.memPut a pa data).kept = s.kept := by
  unfold State.memPut
  dsimp only
  split
  · simp
  · simp

@[simp] theorem State.dropCopy_kept (s : State) (core w : Nat) : (s.dropCopy core w).kept = s.kept := by
  unfold State.dropCopy
  split
  · split <;> rfl
  · rfl

@[simp] theorem State.applyEnt_kept (s : State) (core : Nat) (e : PoolEnt) : (s.applyEnt core e).kept = s.kept := by
  simp [State.applyEnt]

@[simp] theorem State.pullCore_kept (s : State) (home w core : Nat) : (s.pullCore home w core).kept = s.kept := by
  unfold State.pullCore
  dsimp only
  rw [State.setPools_kept, foldl_keeps State.kept fun s e => State.applyEnt_kept s core e, State.forget_kept]

@[simp] theorem State.pull_kept (s : State) (home w : Nat) : (s.pull home w).kept = s.kept := by
  unfold State.pull
  split
  · exact foldl_keeps State.kept (fun s c => State.pullCore_kept s home w c) _ s
  · rfl

@[simp] theorem State.homeWord_kept (s : State) (a : AtHome) (w : Nat) : (s.homeWord a w).2.kept = s.kept := by
  unfold State.homeWord
  dsimp only
  split <;> simp

@[simp] theorem State.rawGet_kept (s : State) (pa : Nat) : (s.rawGet pa).2.kept = s.kept := by
  unfold State.rawGet
  split
  · exact State.homeWord_kept s _ _
  · rfl

@[simp] theorem State.waitHalf_kept (s : State) (who : Option Req) (half hold rgn : Nat) : (s.waitHalf who half hold rgn).kept = s.kept := by
  unfold State.waitHalf
  split
  · rfl
  · split <;> rfl

@[simp] theorem State.hdmGate_kept (s : State) (who : Option Req) (pa n : Nat) (write : Bool) (hold rgn : Nat) :
    (s.hdmGate who pa n write hold rgn).2.kept = s.kept := by
  unfold State.hdmGate
  split
  · rfl
  · split
    · exact State.unwait_kept s who
    · dsimp only
      split <;> exact State.waitHalf_kept s who _ hold rgn

@[simp] theorem State.gateWords_kept (s : State) (q : Asker) (l : List Nat) : (s.gateWords q l).2.kept = s.kept := by
  induction l generalizing s with
  | nil => rfl
  | cons pa l ih =>
    have hgate := State.hdmGate_kept s (some q.who) pa 8 false q.hold q.rgn
    unfold State.gateWords
    split
    · next s1 h =>
      rw [h] at hgate
      rw [ih, State.rawGet_kept, hgate]
    · next s1 h =>
      rw [h] at hgate
      rw [hgate]

@[simp] theorem State.partGate_kept (s : State) (q : Asker) (mva n : Nat) : (s.partGate q mva n).2.kept = s.kept := by
  have hroot : (s.rootReady q mva).2.kept = s.kept := State.gateWords_kept s q _
  unfold State.partGate
  split
  · rfl
  split
  · next s1 h => rwa [h] at hroot
  · next s1 h =>
    rw [h] at hroot
    split
    · split
      · split
        · next pa leaf _ =>
          have hgate := State.hdmGate_kept s1 (some q.who) pa (min n (65536 - mva % 65536)) false q.hold q.rgn
          dsimp only
          split
          · next s2 h2 =>
            rw [h2] at hgate
            rw [hgate, hroot]
          · next s2 h2 =>
            rw [h2] at hgate
            rw [foldl_keeps State.kept fun s w => State.pull_kept s _ w, hgate, hroot]
        · exact hroot
      · exact hroot
    · exact hroot

theorem State.chainGate_kept (s : State) (q : Asker) (n rgn : Nat) : (s.chainGate q n rgn).2.kept = s.kept := by
  induction n generalizing s rgn with
  | zero => rfl
  | succ n ih =>
    have hgate := State.partGate_kept s q rgn 256
    unfold State.chainGate
    split
    · rfl
    split
    · next s1 h => rwa [h] at hgate
    · next s1 h =>
      rw [h] at hgate
      split
      · exact hgate
      · rw [ih, hgate]

/-- A page that is ready has made the part write nothing. -/
theorem State.frameReady_kept {s t : State} {hold rgn mva n : Nat} (h : s.frameReady hold rgn mva n = (true, t)) :
    t.kept = s.kept := by
  have hgate := State.partGate_kept s ⟨.sched hold mva, hold, rgn⟩ mva n
  unfold State.frameReady at h
  split at h
  · cases h
  split at h
  · cases h
  · next s1 h1 =>
    rw [h1] at hgate
    split at h
    · cases h
      exact hgate
    · cases h

theorem State.exitReady_kept {s t : State} {hold rgn frame : Nat} (h : s.exitReady hold rgn frame = (true, t)) : t.kept = s.kept := by
  unfold State.exitReady at h
  split at h
  · cases h
  · next s1 h1 => exact (State.frameReady_kept h).trans (State.frameReady_kept h1)

theorem State.chainReady_kept {s t : State} {q : Asker} {rgn : Nat} (h : s.chainReady q rgn = (true, t)) : t.kept = s.kept := by
  have hgate := State.chainGate_kept s q 15 rgn
  unfold State.chainReady at h
  split at h
  · cases h
  · next s1 h1 =>
    rw [h1] at hgate
    split at h
    · exact (State.frameReady_kept h).trans hgate
    · cases h
      exact hgate

end Sys2Proof.Machine

/-! SUPPORT. What the events of the memory system do: post buffers, ports, tokens, pools, evictions, answers, wakes and the crier (R101, R152,
R183, R209 to R216, R256, R257, R313, R487). -/

namespace Sys2Proof.Machine

open Sys2Proof.Claims

/-! ### Post buffers and ports (R101, R256, R257) -/

/-- A store with no older one for its words goes to its cluster's port queue, and with its last part, on a KIND 10 page, leaves the
ordered stores. -/
theorem happens_postBufferMove {s : State} {e : PqEnt} (he : s.slot.post[s.ctl.here.pos]? = some e)
    (hfirst : blocked (s.slot.post.take s.ctl.here.pos) e = false) :
    let left := s.slot.post.eraseIdx s.ctl.here.pos
    let t := (s.modSlot fun v => { v with post := left }).toPort s.core e
    Happens .postBufferMove s (match e.store with
      | some k => if e.kind = 2 && left.all fun x => x.store ≠ some k then t.unorder t.core t.slotNo k else t
      | none => t) := by
  refine happens_of rfl ?_
  simp only [he, hfirst]
  rfl

theorem happens_portQueuePerform {s t : State} {e : PqEnt} (he : (s.portq s.ctl.here.unit)[s.ctl.here.pos]? = some e)
    (hfirst : blocked (((s.portq s.ctl.here.unit).take s.ctl.here.pos).filter fun o => o.who.core = e.who.core) e = false)
    (ht : s.performEnt s.ctl.here.unit e = some t) : Happens .portQueuePerform s t := by
  refine happens_of rfl ?_
  simp only [he, hfirst]
  exact ht

theorem happens_tokenWindow {s : State} (h : s.ctl.here.unit < 2048) : Happens .tokenWindow s (s.tokenWindow s.ctl.here.unit) :=
  happens_of rfl (if_pos h)

/-- A slice port has served a request of a holding, whose token has been taken. -/
def State.servedAt (t : State) (slice h : Nat) (q : TokenReq) : State :=
  { t with hd := { t.hd with tokenQ := t.hd.tokenQ.erase q, grants := t.hd.grants ++ [q], served := Tab.set 0 t.hd.served slice h } }

/-- The port serves the oldest request of the first holding that waits, where that has a token: an entry that is ready is performed. -/
theorem happens_slicePortServe {s t : State} {h : Nat} {rest : List Nat} {q : TokenReq} (hw : s.waiting s.ctl.here.unit = h :: rest)
    (hq : (s.hd.tokenQ.find? fun q => q.slice = s.ctl.here.unit && q.hold = h) = some q) (ht : s.token s.ctl.here.unit h = some t) :
    let x := t.servedAt s.ctl.here.unit h q
    Happens .slicePortServe s ((match x.reqEnt q.who with | some (k, e) => x.performEnt k e | none => none).getD x) := by
  refine happens_of rfl ?_
  simp only [hw, List.findSome?_cons, hq, ht]
  rfl

/-! ### Pools (R209, R212 to R216) -/

/-- An entry of a core's pool entries becomes another. -/
def State.updPool (s : State) (c : Nat) (e x : PoolEnt) : State := s.setPools c ((s.pools c).map fun y => if y = e then x else y)

section Enlist

variable {s t : State} {e : PoolEnt} (he : (s.pools s.ctl.here.unit)[s.ctl.here.pos]? = some e) (hne : e.enlisted = false)
  (hnr : e.refused = false) (hin : s.poolEnter s.ctl.here.unit e = (true, t))
include he hne hnr hin

/-- At an armed page the contribution is merged at once (R220). -/
theorem happens_enlist_armed (ha : t.armed (8 * e.word) = true) :
    Happens .enlist s (t.updPool s.ctl.here.unit e { e with due := true, refused := true }) := by
  refine happens_of rfl ?_
  simp [he, hne, hnr, hin, ha, State.updPool]

variable (ha : t.armed (8 * e.word) = false)
include ha

/-- A pooled word takes one more core, up to 8 of them (R214). -/
theorem happens_enlist_pool {p : List Nat} (hst : t.homeSt e.home e.word = .pool p) :
    Happens .enlist s (if 8 ≤ p.length then t.updPool s.ctl.here.unit e { e with due := true, refused := true }
      else (t.setHome e.home e.word (.pool (p ++ [s.ctl.here.unit]))).updPool s.ctl.here.unit e { e with enlisted := true }) := by
  refine happens_of rfl ?_
  simp only [he, hne, hnr, hin, ha, hst]
  exact (apply_ite some _ _ _).symm

/-- Any other word becomes pooled, and a registrant gives it up (R212). -/
theorem happens_enlist_first (hst : ∀ p, t.homeSt e.home e.word ≠ .pool p) :
    Happens .enlist s (((t.revoke e.home e.word).setHome e.home e.word (.pool [s.ctl.here.unit])).updPool s.ctl.here.unit e
      { e with enlisted := true }) := by
  refine happens_of rfl ?_
  simp only [he, hne, hnr, hin, ha]
  cases h : t.homeSt e.home e.word with
  | pool p => exact absurd h (hst p)
  | unreg => rfl
  | reg c => rfl

end Enlist

theorem State.revoke_unreg {t : State} {home w : Nat} (h : t.homeSt home w = .unreg) : t.revoke home w = t := by simp [State.revoke, h]

theorem State.revoke_reg {t : State} {home w c : Nat} (h : t.homeSt home w = .reg c) :
    t.revoke home w = (t.l1Evict c w).setHome home w .unreg := by simp [State.revoke, h]

section Merge

variable {s t : State} {e : PoolEnt} (he : (s.pools s.ctl.here.unit)[s.ctl.here.pos]? = some e) (hdue : e.due = true)
  (hans : e.enlisted = true ∨ e.refused = true) (hb : s.mergeBehind s.ctl.here.unit e = false)
  (hin : s.poolEnter s.ctl.here.unit e = (true, t))
include he hdue hans hb hin

omit he hin in
/-- The entry does not wait for its trigger, for the answer to its enlist, or for a store before it. -/
theorem State.merge_due : ¬(!e.due || !(e.enlisted || e.refused) || s.mergeBehind s.ctl.here.unit e) = true := by
  rcases hans with h | h <;> simp [hdue, h, hb]

/-- The merge of an enlisted core takes the core out of the pool (R213). -/
theorem happens_poolMerge_member {p : List Nat} (hst : t.homeSt e.home e.word = .pool p) (hp : p.contains s.ctl.here.unit = true) :
    let u := t.applyEnt s.ctl.here.unit e
    Happens .poolMerge s ((u.setPools s.ctl.here.unit ((u.pools s.ctl.here.unit).erase e)).setHome e.home e.word
      (if p.filter (· ≠ s.ctl.here.unit) = [] then .unreg else .pool (p.filter (· ≠ s.ctl.here.unit)))) := by
  refine happens_of rfl ?_
  simp only [he, if_neg (State.merge_due hdue hans hb), hin, hst]
  exact if_pos hp

/-- An entry whose core is in no pool of the word is applied once the word is settled (R209). -/
theorem happens_poolMerge_settled (hst : ∀ p, t.homeSt e.home e.word = .pool p → p.contains s.ctl.here.unit = false) :
    let u := t.settle e.home e.word
    Happens .poolMerge s ((u.setPools s.ctl.here.unit ((u.pools s.ctl.here.unit).erase e)).applyEnt s.ctl.here.unit e) := by
  refine happens_of rfl ?_
  simp only [he, if_neg (State.merge_due hdue hans hb), hin]
  cases h : t.homeSt e.home e.word with
  | pool p => exact if_neg (ne_true_of_eq_false (hst p h))
  | unreg => rfl
  | reg c => rfl

end Merge

/-! ### Evictions (R208, R210) -/

theorem State.l1Evict_copy {s : State} {core w : Nat} {l : L1Word} (hl : s.l1 core w = some l) (hr : l.reg = none) :
    s.l1Evict core w = s.setL1 core w none := by simp [State.l1Evict, hl, hr]

theorem State.l1Evict_registered {s : State} {core w : Nat} {l : L1Word} {a : AtHome} (hl : s.l1 core w = some l)
    (hr : l.reg = some a) (hst : (s.setL1 core w none).homeSt a.home w = .reg core) :
    s.l1Evict core w = ((s.setL1 core w none).memPut a (w * 8) (leBytes 8 l.val.toNat)).setHome a.home w .unreg := by
  simp [State.l1Evict, hl, hr, hst]

theorem happens_l1Eviction {s : State} {l : L1Word} (hl : s.l1 s.ctl.here.unit s.ctl.here.pos = some l) :
    Happens .l1Eviction s (s.l1Evict s.ctl.here.unit s.ctl.here.pos) :=
  happens_of rfl (if_pos (by rw [hl]; rfl))

/-! ### Answers and wakes (R183, R313, R424) -/

section Answers

variable {s : State} {a : Acc} (ha : s.acc s.ctl.here.pos = some a) (hleft : a.left = 0)
  (hacq : ∀ w, a.acq = some w → s.acqOpen w a.src = false)
include ha hleft hacq

omit ha in
/-- Every part of the access is answered, and its acquire waits for no host write. -/
theorem State.answer_due : ¬(decide (a.left ≠ 0) || (match a.acq with | some w => s.acqOpen w a.src | none => false)) = true := by
  cases h : a.acq with
  | none => simp [hleft]
  | some w => simp [hleft, hacq w h]

theorem happens_remoteBankAnswer (hm : a.more = none) : Happens .remoteBankAnswer s (s.answer s.ctl.here.pos a) := by
  refine happens_of rfl ?_
  simp only [ha]
  refine (if_neg (State.answer_due hleft hacq)).trans ?_
  rw [hm]

/-- A tile's header has returned, and the slot's stores before it have left the post buffer. -/
theorem happens_remoteBankAnswer_tile {who : Who} {ptr : Word} {num : Nat} {strong : Bool} (hm : a.more = some (who, ptr, num, strong))
    (hpost : ((s.slotAt a.core a.slot).post.any fun e => e.store.any (· ≤ num)) = false) :
    Happens .remoteBankAnswer s (s.tileRest s.ctl.here.pos a who ptr strong) := by
  refine happens_of rfl ?_
  simp only [ha]
  refine (if_neg (State.answer_due hleft hacq)).trans ?_
  rw [hm]
  exact if_neg (ne_true_of_eq_false hpost)

end Answers

theorem State.modSlot_congr {s : State} {f g : Slot → Slot} (h : f s.slot = g s.slot) : s.modSlot f = s.modSlot g :=
  congrArg s.setSlot h

/-- A slot whose parked access has been woken, as it looks up again with its instruction (R243, R416, R473). -/
def Slot.lookAgain (v : Slot) : Slot :=
  { v with
    park := none
    stalled := none
    busy := []
    busyAt := none
    resume := { addr := v.resume.addr, redirs := v.resume.redirs, own := v.resume.own, served := v.resume.served } }

theorem happens_parkedAccessWake {s : State} {p : Park} {g : Slot → Slot} (hp : s.slot.park = some p) (hw : p.woken = true)
    (hg : g s.slot = if s.slot.resume.again then s.slot.lookAgain else { s.slot with park := none, stalled := none }) :
    Happens .parkedAccessWake s (s.modSlot g) := by
  refine happens_of rfl ?_
  simp only [hp, hw]
  exact congrArg some (State.modSlot_congr hg.symm)

/-! ### Waiting accesses of the part, and the crier (R152, R487) -/

theorem happens_partAccess {s : State} {p : PartAcc} (hp : s.sc.parts[s.ctl.here.pos]? = some p)
    (hgo : s.resident p.hold p.mva = true ∨ s.canRequest p.hold = false) : Happens .partAccess s (s.partTry p) := by
  refine happens_of rfl ?_
  simp only [hp]
  exact if_pos (by simpa using hgo)

/-- A message reaches the replica of a cluster that has not seen it, and is over with the last of them. -/
theorem happens_crierMessage {s : State} {m : Cry} (hm : s.sc.crier[s.ctl.here.pos]? = some m) (hu : s.ctl.here.unit < 2048)
    (hseen : m.seen.contains s.ctl.here.unit = false) :
    let k := s.ctl.here.unit
    let n := s.ctl.here.pos
    let t := s.setReplica k m.cell (improve m.max (s.replica k m.cell) m.gen m.set m.value)
    let left := if m.seen.length = 2047 then t.sc.crier.eraseIdx n
      else (t.sc.crier.take n) ++ ({ m with seen := k :: m.seen } : Cry) :: t.sc.crier.drop (n + 1)
    Happens .crierMessage s { t with sc := { t.sc with crier := left } } := by
  have hgo : ¬(decide (2048 ≤ s.ctl.here.unit) || m.seen.contains s.ctl.here.unit) = true := by
    rw [hseen]
    simpa using hu
  refine happens_of rfl ?_
  simp only [hm]
  exact if_neg hgo

/-- Settles O34, from the equation of each event under its hypotheses. -/
theorem memoryEvents : Obligations.MemoryEvents := by
  intro s u n
  refine ⟨fun e => happens_postBufferMove, fun e t => happens_portQueuePerform, happens_tokenWindow, ?serve, ?enlist, ?merge, ?evict,
    ?answer, ?wake, fun p => happens_partAccess, fun m => happens_crierMessage⟩
  case serve =>
    intro h rest q t hw hq ht x
    have hserve : Happens .slicePortServe s ((match x.reqEnt q.who with | some (k, e) => x.performEnt k e | none => none).getD x) :=
      happens_slicePortServe hw hq ht
    refine ⟨fun k e y hr hy => ?_, fun hr => ?_⟩
    · simpa only [hr, hy, Option.getD_some] using hserve
    · simpa only [hr, Option.getD_none] using hserve
  case enlist =>
    intro e t he hne hnr hin upd
    refine ⟨happens_enlist_armed he hne hnr hin, fun ha p => happens_enlist_pool he hne hnr hin ha, fun ha hst => ?_, fun ha c hst => ?_⟩
    · have h := happens_enlist_first he hne hnr hin ha (by simp [hst])
      rwa [State.revoke_unreg hst] at h
    · have h := happens_enlist_first he hne hnr hin ha (by simp [hst])
      rwa [State.revoke_reg hst] at h
  case merge =>
    intro e t he hdue hans hb hin free
    exact ⟨fun p => happens_poolMerge_member he hdue hans hb hin, happens_poolMerge_settled he hdue hans hb hin⟩
  case evict =>
    intro w hw
    refine ⟨fun hr => ?_, fun a hr hst => ?_⟩
    · rw [← State.l1Evict_copy hw hr]
      exact happens_l1Eviction hw
    · rw [← State.l1Evict_registered hw hr hst]
      exact happens_l1Eviction hw
  case answer =>
    intro a ha hleft hacq
    exact ⟨happens_remoteBankAnswer ha hleft hacq, fun who ptr num strong => happens_remoteBankAnswer_tile ha hleft hacq⟩
  case wake =>
    intro p hp hw
    exact ⟨fun hr => happens_parkedAccessWake hp hw (by simp [hr]), fun hr => happens_parkedAccessWake hp hw (by simp [hr, Slot.lookAgain])⟩

end Sys2Proof.Machine

/-! SUPPORT. What the events of the scheduler do: the barrel, admission, dealing, turns, departures, parking, spills, arrivals and fault
queues (R113, R121, R123, R124, R126, R127, R130, R133, R134, R136 to R139, R168, R290, R468). -/

namespace Sys2Proof.Machine

open Sys2Proof.Claims

/-! ### The barrel, interrupts and idling (R127, R157, R168, R468) -/

section Cycle

variable {s s1 s2 : State} {v : Nat} (h1 : (s.upto 16 fun t k => (t.reap s.core k).haltOn s.core k) = s1) (hv : s1.cyc s.core % 16 = v)
  (h2 : (if (s1.slotAt s.core v).yld then s1.modSlotAt s.core v fun x => { x with yld := false } else s1) = s2)
include h1 hv h2

/-- Threads that have ended are freed, the slot that is visited is not yielded any more, and the slot that takes the cycle issues at
the next step. -/
theorem happens_issueCycle_issues {k : Nat} (hk : s2.pickSlot s.core v = some k) :
    Happens .issueCycle s { s2 with ctl := { s2.ctl with here := ⟨s.core, k, 0⟩, issue := true } } := by
  change execIssueCycle s = _
  simp only [execIssueCycle, h1, hv, h2, hk]
  rfl

/-- Where no slot takes the cycle, it idles. -/
theorem happens_issueCycle_idles (hk : s2.pickSlot s.core v = none) : Happens .issueCycle s (s2.endCycle s.core) := by
  change execIssueCycle s = _
  simp only [execIssueCycle, h1, hv, h2, hk]
  rfl

end Cycle

theorem happens_userInterrupt {s : State} {t : Thread} {b : Nat} (ht : s.slot.thr = some t) (hl : s.slot.leave = .stay)
    (hlate : s.slot.late = []) (hb : s.slot.atBoundary = true) (he : s.slot.eligible t = some b) :
    Happens .userInterrupt s (s.interrupt t b) := by
  refine happens_of rfl ?_
  simp [ht, hl, hlate, hb, he]

theorem happens_idleLimit {s : State} {c : Nat} (hi : s.slot.idling = true) (hc : s.slot.idleBy = some c) (hle : c ≤ s.cyc s.core) :
    Happens .idleLimit s (s.modSlot fun v => { v with idling := false, idleBy := none }) := by
  refine happens_of rfl ?_
  simp only [hi, hc]
  exact if_pos hle

/-! ### Admission (R126, R191) -/

theorem happens_slotFill_loading {s : State} {t : Thread} {i : Nat} (h : s.slot.loading = some (t, i)) :
    Happens .slotFill s (s.carveIn s.core s.slotNo t i) := by
  refine happens_of rfl ?_
  simp only [h]

theorem happens_slotFill {s : State} {h : Nat} {src : Source} {m : Nat} (hl : s.slot.loading = none) (ht : s.slot.thr = none)
    (ho : s.ownerNow s.core s.slotNo = some h) (hopen : s.openSlot s.core s.slotNo h = true)
    (hs : s.source s.core s.slotNo h = some (src, m)) : Happens .slotFill s (s.fill s.core s.slotNo h src m) := by
  refine happens_of rfl ?_
  simp [hl, ht, ho, hopen, hs]

/-! ### Launches and wakes (R123, R124, R290) -/

section Launches

variable {s : State} {l : Launch} (hl : (s.sc.launches.find? fun l => l.id = s.ctl.here.pos) = some l)
include hl

/-- The next tile of a launch becomes a sprig in a free frame. -/
theorem happens_dealTile {m : Nat} {s1 s2 s3 : State} (hstop : (s.hold l.hold).stopped = false) (hnext : l.next < gridTiles l.dims.toNat)
    (hchain : s.chainReady (schedAsker l.hold l.rgn) l.rgn = (true, s1)) (hframe : s1.takeFrame l.hold l.rgn = (some m, s2))
    (hexit : s2.exitReady l.hold l.rgn m = (true, s3)) :
    let tile := gridTile l.dims.toNat l.next
    let t := (s3.sprig l m l.entry [l.arg] none tile).enqueue l (dealCore l.plot.toNat l.dims.toNat tile) m
    Happens .dealTile s ({ t with sc := { t.sc with launches := t.sc.launches.map fun (x : Launch) =>
      if x.id = l.id then { x with next := x.next + 1 } else x } }.setNext l.hold l.rgn false (l.next + 1)) := by
  have hgo : ¬((s.hold l.hold).stopped || decide (gridTiles l.dims.toNat ≤ l.next)) = true := by simpa [hstop] using hnext
  refine happens_of rfl ?_
  simp only [hl, if_neg hgo, hchain, hframe, hexit]

/-- A launch whose tiles are dealt, whose sprigs have ended, and whose commands and stores are over is complete. -/
theorem happens_launchComplete {s1 : State} (hnext : gridTiles l.dims.toNat ≤ l.next) (halive : l.alive = 0)
    (hcmd : s.commandsOpen l.id = false) (hst : s.storesOpen l.id = false) (hframe : s.frameReady l.hold l.rgn l.rgn = (true, s1)) :
    let t := s1.setAct l.hold l.rgn false
    Happens .launchComplete s { t with sc := { t.sc with launches := t.sc.launches.filter fun x => x.id ≠ l.id } } := by
  have hgo : ¬(decide (l.next < gridTiles l.dims.toNat) || decide (l.alive ≠ 0) || s.commandsOpen l.id || s.storesOpen l.id) = true := by
    simpa [halive, hcmd, hst] using hnext
  refine happens_of rfl ?_
  simp only [hl, if_neg hgo, hframe]

end Launches

section Wakes

variable {s s1 : State} {w : WakeReq} (hw : s.en.wakes[s.ctl.here.pos]? = some w)
  (hgate : s.regionGate (schedAsker w.hold w.rgn) w.rgn = (true, s1))
include hw hgate

theorem happens_drainWake_judged (ha : w.arrived = false) : Happens .drainWake s (s1.wakeJudged s.ctl.here.pos w) := by
  refine happens_of rfl ?_
  simp [hw, hgate, ha]

theorem happens_drainWake_sprig {m : Nat} {s2 s3 : State} (ha : w.arrived = true) (hframe : s1.takeFrame w.hold w.rgn = (some m, s2))
    (hexit : s2.exitReady w.hold w.rgn m = (true, s3)) :
    Happens .drainWake s ({ s3 with en := { s3.en with wakes := s3.en.wakes.eraseIdx s.ctl.here.pos } }.wakeSprig
      w.hold w.rgn w.core m w.arg) := by
  refine happens_of rfl ?_
  simp only [hw, hgate, ha, hframe, hexit]
  rfl

end Wakes

/-! ### Turns and drains (R113, R139) -/

theorem happens_turnEnd {s s1 : State} (hready : s.turnReady = (true, s1)) (hring : s.ringed = true)
    (hpast : bits (s.hword s.hd.turn 0x50) 31 0 ≤ (2 ^ 64 + s.cyc s.turnCore - s.hd.turnAt) % 2 ^ 64) :
    Happens .turnEnd s (s1.beginEnd s.hd.turn).startTurn := by
  have hgo : ¬(!s.ringed || decide ((2 ^ 64 + s.cyc s.turnCore - s.hd.turnAt) % 2 ^ 64 < bits (s.hword s.hd.turn 0x50) 31 0)) = true := by
    simpa [hring] using hpast
  refine happens_of rfl ?_
  refine (if_neg hgo).trans ?_
  simp only [hready]

theorem happens_drainAllowanceExpiry {s : State} {c : Nat} {t : Thread} (hc : s.slot.drainBy = some c) (hle : c ≤ s.cyc s.core)
    (ht : s.slot.thr = some t) : Happens .drainAllowanceExpiry s
      ((s.modSlot fun v => { v with drainBy := none }).orderSpill (slotKey s.core s.slotNo)) := by
  refine happens_of rfl ?_
  simp only [hc]
  exact if_neg (by simpa [ht] using hle)

/-- The events of the scheduler. -/
theorem schedulerEvents : SchedulerEvents := by
  intro s n
  refine ⟨?cycle, fun t i => happens_slotFill_loading, fun h src m => happens_slotFill, fun t b => happens_userInterrupt,
    fun c => happens_idleLimit, fun l m s1 s2 s3 hl => happens_dealTile hl, fun l s1 hl => happens_launchComplete hl, ?wake,
    fun s1 => happens_turnEnd, ?broadcast, fun c t => happens_drainAllowanceExpiry⟩
  case cycle =>
    intro c s1 v s2
    split
    · next k hk => exact happens_issueCycle_issues (s1 := s1) (s2 := s2) (v := v) rfl rfl rfl hk
    · next hk => exact happens_issueCycle_idles (s1 := s1) (s2 := s2) (v := v) rfl rfl rfl hk
  case broadcast =>
    intro c h hend
    have hgo : ¬(!s.hd.ended.contains (h, c)) = true := by rw [hend]; exact Bool.false_ne_true
    refine happens_of rfl ((if_neg hgo).trans (congrArg some (congrArg (State.upto _ 16) (funext fun t => funext fun k => ?_))))
    cases (t.slotAt c k).thr <;> rfl
  case wake =>
    exact fun w s1 hw hgate => ⟨happens_drainWake_judged hw hgate, fun m s2 s3 => happens_drainWake_sprig hw hgate⟩

/-! ### Leaving a slot (R121, R126, R130, R133, R136 to R138) -/

section Leaving

variable {s : State} {t : Thread} (ht : s.slot.thr = some t)
include ht

/-- A migrant leaves its slot in a packet. -/
theorem happens_migrationDeparture {cl : Nat} {x : Bool} (hleave : s.slot.leave = .migrate cl x)
    (hlate : s.lateFirst s.core s.slotNo false = none) (hld : s.slot.ld = 0) (htl : s.slot.tl = 0)
    (hst : s.slot.drained = s.slot.issued) (hp : s.poolsClear s.core s.slotNo = true) :
    let v := s.vacate s.core s.slotNo
    Happens .migrationDeparture s { v with sc := { v.sc with
      flight := v.sc.flight ++ [{ cluster := cl, thr := { t.leaving with xmig := x }, uip := s.slot.uip }] } } := by
  refine happens_of rfl ?_
  simp only [ht, hleave, hlate]
  exact if_neg (by simp [hld, htl, hst, hp])

/-- A thread that waits for a page goes into its frame, and the page is requested. -/
theorem happens_pagePark {addr : Word} {mva : Nat} {w : Bool} {s1 s2 s3 : State} (hleave : s.slot.leave = .page addr mva w)
    (hlate : s.lateFirst s.core s.slotNo false = none) (hld : s.slot.ld = 0) (htl : s.slot.tl = 0)
    (hreq : s.canRequest t.hold = true) (hframe : s.frameReady t.hold t.rgn t.frame = (true, s1))
    (hcarve : s1.carveReady t = (true, s2)) (hout : s2.carveOut s.core s.slotNo t = (true, s3)) :
    Happens .pagePark s ((((s3.saveFrame s.core s.slotNo t.leaving .page (causeWord 0x15 addr) 0).vacate s.core s.slotNo).modFrame
      t.hold t.frame fun f => { f with addr := addr }).raisePage t.hold t.rgn mva w (.frame t.hold t.frame) (BitVec.ofNat 64 t.frame)) := by
  refine happens_of rfl ?_
  simp [ht, hleave, hlate, hld, htl, hreq, hframe, hcarve, hout]

/-- A thread that can be spilled is pinned or has no pool entries. -/
theorem State.canSpill_clear (h : s.canSpill s.core s.slotNo = true) : t.pinned = true ∨ s.poolsClear s.core s.slotNo = true := by
  have hslot : s.slotAt s.core s.slotNo = s.slot := rfl
  simp only [State.canSpill, hslot, ht, Bool.and_eq_true, Bool.or_eq_true] at h
  exact h.2

/-- A thread that is ordered out is spilled into its frame, and the frame joins a list (R108, R130). -/
theorem happens_slotSpill {s1 s2 s3 : State} (hleave : s.slot.leave = .spill)
    (hlate : s.lateFirst s.core s.slotNo true = none) (hcan : s.canSpill s.core s.slotNo = true)
    (hfirst : ((List.range s.slotNo).any fun j => s.canSpill s.core j) = false)
    (hframe : s.frameReady t.hold t.rgn t.frame = (true, s1))
    (hcarve : s1.carveReady t = (true, s2)) (hout : s2.carveOut s.core s.slotNo t = (true, s3)) :
    let r := if s.slotNo = s3.hmovs t.hold then s3.suspend s.core t.ctxid else (0, s3)
    let u := ((r.2.saveFrame s.core s.slotNo t.leaving .spill 0 r.1).vacate s.core s.slotNo).linkFrame t.hold t.rgn t.frame
    Happens .slotSpill s (if t.pinned || u.slotLost t.hold s.slotNo then
        { u with sc := { u.sc with resume := u.sc.resume ++ [(⟨t.hold, s.core, 0, t.frame⟩ : Listed)] } }
      else { u with sc := { u.sc with stile := u.sc.stile ++ [(⟨t.hold, clusterOf s.core, 0, t.frame⟩ : Listed)] } }) := by
  have hpool : (!t.pinned && !s.poolsClear s.core s.slotNo) = false := by
    rcases State.canSpill_clear ht hcan with h | h <;> simp [h]
  refine happens_of rfl ?_
  simp only [ht, hleave, hlate, hpool, hcan, hfirst, hframe, hcarve, hout]
  rfl

end Leaving

/-! ### Arrivals (R134, R136) -/

/-- An older migrant waits at its stile for the core that a packet would take. -/
def State.olderMigrant (s : State) (p : Packet) : Bool :=
  s.sc.stile.any fun e => e.hold = p.thr.hold && e.unit = p.cluster &&
    (s.migrantCore p.cluster p.thr.hold p.thr.launch p.thr.xmig =
      s.migrantCore p.cluster p.thr.hold (s.launchAt p.thr.hold e.mva) (e.sub = 1))

/-- A migrant takes a free slot of its cluster; its packet is the one at the place of the step, which reading its region's blocks
leaves. -/
theorem happens_stileArrival {s s1 : State} {p : Packet} {core slot : Nat} (hp : s.sc.flight[s.ctl.here.pos]? = some p)
    (hchain : s.chainReady (schedAsker p.thr.hold p.thr.rgn) p.thr.rgn = (true, s1))
    (hdoom : s1.doomed p.thr.hold p.thr.rgn p.thr.bnd p.thr.bound p.cluster = false)
    (hcore : s1.migrantCore p.cluster p.thr.hold p.thr.launch p.thr.xmig = some core)
    (hslot : s1.openIn core p.thr.hold p.thr.launch = some slot) (hfirst : s1.olderMigrant p = false) :
    Happens .stileArrival s (({ s1 with sc := { s1.sc with flight := s1.sc.flight.eraseIdx s.ctl.here.pos } } : State).seat core slot
      (s1.entering p.thr) p.uip) := by
  have hhere : s1.ctl.here = s.ctl.here := State.here_of_kept (State.chainReady_kept hchain)
  simp only [State.olderMigrant, hcore] at hfirst
  refine happens_of rfl ?_
  simp only [hp, hchain, hdoom, hcore, hslot, hfirst, hhere, Option.bind_some, Option.map_some]
  rfl

theorem happens_pageArrival {s : State} {h m : Nat} (ha : s.hi.arrived[s.ctl.here.pos]? = some (h, m)) :
    Happens .pageArrival s ({ s with hi := { s.hi with arrived := s.hi.arrived.eraseIdx s.ctl.here.pos } }.requeue h m) := by
  refine happens_of rfl ?_
  simp only [ha]

/-- What ends the stop of a parked thread need only agree on states with the same answered pages: reading the frame and the region's
block keeps those. -/
theorem State.pageStop_congr {s : State} {done done' : State → State} (h m : Nat) (w : Bool)
    (hd : ∀ t : State, t.hi.arrived = s.hi.arrived → done t = done' t) : s.pageStop h m w done = s.pageStop h m w done' := by
  unfold State.pageStop
  split
  · exact hd s rfl
  split
  · exact hd s rfl
  split
  · rfl
  · next s1 h1 => rw [hd s1 (State.arrived_of_kept (State.exitReady_kept h1))]

/-- A position behind the answered pages is one of a frame that stops (R50). -/
theorem happens_pageArrival_stop {s : State} {h m : Nat} {w : Bool} (hn : s.hi.arrived.length ≤ s.ctl.here.pos)
    (hs : s.hi.stops[s.ctl.here.pos - s.hi.arrived.length]? = some (h, m, w)) :
    Happens .pageArrival s (s.pageStop h m w fun t =>
      { t with hi := { t.hi with stops := t.hi.stops.eraseIdx (s.ctl.here.pos - t.hi.arrived.length) } }) := by
  refine happens_of rfl ?_
  simp only [List.getElem?_eq_none hn, hs, Option.map_some]
  exact congrArg some (State.pageStop_congr h m w fun t ht => by rw [ht])

/-! ### Fault queues (R121) -/

theorem happens_faultQueueRecordAdd {s t : State} {r : FaultRec} (hr : s.sc.faults[s.ctl.here.pos]? = some r)
    (hb : s.behind r s.ctl.here.pos = false) (ha : s.addRecord r = (.done, t)) :
    Happens .faultQueueRecordAdd s { t with sc := { t.sc with faults := t.sc.faults.erase r } } := by
  refine happens_of rfl ?_
  simp [hr, hb, ha]

theorem happens_headStore {s : State} :
    let l := s.sc.faults.filter fun r => r.type = 2 && r.hold = s.ctl.here.unit && s.recHdr r = s.ctl.here.pos
    l ≠ [] → Happens .headStore s (s.flushRing l) := fun h => happens_of rfl (if_neg h)

/-- Threads leave their slots and arrive at others, and fault records reach their queues. -/
theorem leavingAndArriving : LeavingAndArriving := by
  intro s c k n
  refine ⟨fun t cl x ht => happens_migrationDeparture ht, fun t addr mva w s1 s2 s3 ht => happens_pagePark ht,
    fun t s1 s2 s3 ht => happens_slotSpill ht,
    ?arrival, fun h m => happens_pageArrival, fun h m w => happens_pageArrival_stop, fun r t => happens_faultQueueRecordAdd,
    happens_headStore⟩
  case arrival =>
    exact fun p s1 core slot hp hchain hdoom hcore hslot hfirst => happens_stileArrival hp hchain hdoom hcore hslot hfirst

/-- Settles O35, from the equation of each event under its hypotheses. A migrant's packet and a stopped frame are taken off their lists after
the part has read blocks in memory, which keeps the place of the step and the answered pages that name their positions. -/
theorem schedulerAndMigration : Obligations.SchedulerAndMigration := ⟨schedulerEvents, leavingAndArriving⟩

end Sys2Proof.Machine

/-! SUPPORT. What taking a cause keeps of the thread and of memory, and the statement about exception entry (R140, R165 to R169). -/

namespace Sys2Proof.Machine

open Sys2Proof.Claims

/-! ### What the delivery of a cause keeps of a thread -/

/-- Registers below g24 have no bank, so that they depend on the table of the G registers alone (R166). -/
theorem Thread.gpr_low {t u : Thread} {n : Nat} (h : n < 24) (hg : u.g = t.g) : u.gpr n = t.gpr n := by
  simp only [Thread.gpr, if_pos h, hg]

/-- Neither delivery writes a register below g24, a predicate or REPC. -/
theorem State.take_keeps {s : State} {t : Thread} {c : Cause} (ht : s.slot.thr = some t) (hp : c.code ≠ 0x15)
    (h : t.trapsUser c = true ∨ t.s = false ∧ s.hword t.hold 0x78 ≠ 0) :
    (s.take c).thr.pred = t.pred ∧ (s.take c).thr.repc = t.repc ∧ ∀ n, n < 24 → (s.take c).thr.gpr n = t.gpr n := by
  cases hu : t.trapsUser c with
  | true =>
    rw [State.take_user ht hp hu]
    exact ⟨Thread.userTrap_pred .., Thread.userTrap_repc .., fun n hn => Thread.gpr_low hn (Thread.userTrap_g ..)⟩
  | false =>
    obtain ⟨hs, hv⟩ := h.resolve_left (by simp [hu])
    rw [State.take_super ht hp hu hs hv]
    exact ⟨Thread.superFault_pred .., Thread.superFault_repc .., fun n hn => Thread.gpr_low hn (Thread.superFault_g ..)⟩

/-! ### The stop -/

/-- What comes before the delivery of a cause keeps the thread of the present step. -/
theorem State.settleAt_thr {s : State} {t : Thread} (u : Thread) (c : Cause) (ht : s.slot.thr = some t) :
    (s.settleAt s.core s.slotNo u c).thr = t := by
  have hslot : (s.settleAt s.core s.slotNo u c).slot = s.slot.fresh := by
    have h := State.settleAt_slot s s.core s.slotNo u c
    simpa only [State.slot, State.core, State.slotNo, State.settleAt_ctl] using h
  unfold State.thr
  rw [hslot]
  exact congrArg (Option.getD · {}) ht

/-- What comes before the delivery of a cause changes no memory. -/
theorem State.settleAt_memory (s : State) (core slot : Nat) (u : Thread) (c : Cause) : SameMemory s (s.settleAt core slot u c) :=
  sameMemory_of (State.settleAt_mm ..) (State.settleAt_spad ..)

/-- A cause that no handler takes stops the thread: PAGE, a cause in S mode, and one without a supervisor vector (R140, R169). -/
theorem State.take_stops {s : State} {t : Thread} {c : Cause} (ht : s.slot.thr = some t)
    (h : c.code = 0x15 ∨ t.trapsUser c = false ∧ (t.s = true ∨ s.hword t.hold 0x78 = 0)) :
    s.take c = (s.settleAt s.core s.slotNo t c).stopThread s.core s.slotNo c := by
  rcases h with hp | ⟨hu, hs⟩
  · exact State.take_page ht hp
  · exact State.take_stop ht hu hs

/-- Settles O44: one equation of `take` for each of its three ends. A cause that is delivered to the user is one that `trapsUser` names
and that is not PAGE. -/
theorem exceptionEntry : Obligations.ExceptionEntry := by
  intro s t c ht user
  have huser : user = (decide (c.code ≠ 0x15) && t.trapsUser c) := by simp only [user, Thread.trapsUser, Bool.and_assoc]
  have htrue : user = true ↔ c.code ≠ 0x15 ∧ t.trapsUser c = true := by simp [huser]
  have hfalse (hu : user = false) (hp : c.code ≠ 0x15) : t.trapsUser c = false := by simpa [huser, hp] using hu
  refine ⟨fun hu => ?user, fun hu hp hs hv => State.take_super ht hp (hfalse hu hp) hs hv, fun h => ?kept, fun hu h => ?stop⟩
  case user =>
    obtain ⟨hp, htr⟩ := htrue.mp hu
    exact State.take_user ht hp htr
  case kept =>
    have hp : c.code ≠ 0x15 := h.elim (fun hu => (htrue.mp hu).1) And.left
    have hend : t.trapsUser c = true ∨ t.s = false ∧ s.hword t.hold 0x78 ≠ 0 := h.imp (fun hu => (htrue.mp hu).2) And.right
    exact ⟨State.take_memory ht hp hend, State.take_keeps ht hp hend⟩
  case stop =>
    refine ⟨_, State.settleAt_thr t c ht, State.settleAt_memory s s.core s.slotNo t c, State.take_stops ht ?_⟩
    by_cases hp : c.code = 0x15
    · exact .inl hp
    · exact .inr ⟨hfalse hu hp, h.resolve_left hp⟩

end Sys2Proof.Machine

/-! SUPPORT. What PREF, WBK and LINV do with a line (R132, R369, R370). -/

namespace Sys2Proof.Machine

open Sys2Proof.Claims

/-! ### PREF (R132, R369) -/

/-- A pinned thread, and one that is at home already, does not leave for a line's home. -/
theorem State.not_leavesFor {s : State} {home : Nat} (h : s.thr.pinned = true ∨ home = clusterOf s.core) :
    ¬(!s.thr.pinned && decide (home ≠ clusterOf s.core)) = true := by
  rcases h with h | h <;> simp [h]

section Pref

variable {f : Fields} {s s1 : State} {line : Nat} {leaf : Leaf} (hready : ready (.pref f) s = true)
include hready

/-- Without a line to fetch PREF only goes on. -/
theorem completes_pref_without_line (hq : s.quietLine (s.refM f) = (none, s1)) : Completes (.pref f) f s s1 := by
  refine completes_of_body (show execPref f s = _ from rfl) rfl hready ?_
  simp only [hq]

variable (hq : s.quietLine (s.refM f) = (some (line, leaf), s1))
include hq

/-- A roaming thread leaves for the line's home. -/
theorem exec_pref_roams (hp : s1.thr.pinned = false) (hh : leaf.home ≠ clusterOf s1.core) : exec (.pref f) s =
    .next { conclude f.yld s.core (leftM (s1.migrateTo leaf.home false)) with pw := s.pw } := by
  change execPref f s = _
  unfold execPref
  rw [issue_ready rfl hready]
  simp [hq, hp, hh]

variable (hstay : s1.thr.pinned = true ∨ leaf.home = clusterOf s1.core)
include hstay

/-- Words of a page of KIND 01 are never held in L1 (R208), so that PREF has nothing to fetch. -/
theorem completes_pref_uncached (hk : leaf.kind = 1) : Completes (.pref f) f s s1 := by
  refine completes_of_body (show execPref f s = _ from rfl) rfl hready ?_
  simp only [hq, if_neg (State.not_leavesFor hstay), if_pos hk]

variable {s2 : State} (hk : leaf.kind ≠ 1)
include hk

/-- PREF only asks for the line (R369): the environment may choose not to fetch it. -/
theorem completes_pref_skips (hc : s1.choose 2 = (0, s2)) : Completes (.pref f) f s s2 := by
  refine completes_of_body (show execPref f s = _ from rfl) rfl hready ?_
  simp only [hq, if_neg (State.not_leavesFor hstay), if_neg hk, hc]
  rfl

variable (hc : s1.choose 2 = (1, s2))
include hc

/-- The request takes a token and, with the host's state of the line, makes its words valid in L1. -/
theorem completes_pref_fetches {s3 : State} (ht : s2.token leaf.home s2.thr.hold = some s3)
    (hg : (s2.hdmGate none (line * 128) 128 false s2.thr.hold s2.thr.rgn).1 = true) :
    Completes (.pref f) f s (s3.prefLine (atHome leaf s2.thr.hold s2.thr.rgn (s2.refM f).word) s2.core line) := by
  have hgate : s2.hdmGate none (line * 128) 128 false s2.thr.hold s2.thr.rgn =
    (true, (s2.hdmGate none (line * 128) 128 false s2.thr.hold s2.thr.rgn).2) := Prod.ext hg rfl
  refine completes_of_body (show execPref f s = _ from rfl) rfl hready ?_
  simp only [hq, if_neg (State.not_leavesFor hstay), if_neg hk, hc, ht]
  rw [hgate]
  rfl

/-- Without a token, or without the host's state of the line, the request is given up. -/
theorem completes_pref_gives_up (h : s2.token leaf.home s2.thr.hold = none ∨
    (s2.hdmGate none (line * 128) 128 false s2.thr.hold s2.thr.rgn).1 = false) : Completes (.pref f) f s s2 := by
  refine completes_of_body (show execPref f s = _ from rfl) rfl hready ?_
  simp only [hq, if_neg (State.not_leavesFor hstay), if_neg hk, hc]
  rw [if_neg (by decide)]
  split
  · next ht hg => rw [ht, hg] at h; simp at h
  · rfl

end Pref

/-! ### WBK and LINV (R370) -/

/-- WBK goes on where R370 names no effect. -/
theorem completes_wbk_without_line {f : Fields} {s s1 : State} (hready : ready (.wbk f) s = true)
    (hl : lineCheck s (s.refM f) = .ok (none, s1)) : Completes (.wbk f) f s s1 := by
  refine completes_of_body (show execWbk f s = _ from rfl) rfl hready ?_
  simp only [hl, bind, Except.bind]

/-- WBK of a line is one store, which waits to be performed there. -/
theorem completes_wbk {f : Fields} {s s1 : State} {line : Nat} {leaf : Leaf} (hready : ready (.wbk f) s = true)
    (hl : lineCheck s (s.refM f) = .ok (some (line, leaf), s1)) (hst : s1.slot.issued - s1.slot.drained < 63) :
    let a := s1.newStore 1 none
    Completes (.wbk f) f s
      (a.2.toPost [a.2.entry none (some a.1) .wbk 0 (.dev (line * 128) leaf) (a.2.refM f).word 0]) := by
  refine completes_of_body (show execWbk f s = _ from rfl) rfl hready ?_
  simp only [hl, bind, Except.bind, stFull_ok hst]

/-- LINV goes on where R370 names no effect. -/
theorem completes_linv_without_line {f : Fields} {s s1 : State} (hready : ready (.linv f) s = true)
    (hl : lineCheck s (s.refM f) = .ok (none, s1)) : Completes (.linv f) f s s1 := by
  refine completes_of_body (show execLinv f s = _ from rfl) rfl hready ?_
  simp only [hl, bind, Except.bind]

/-- Dropping a core's copy of a word takes it out of L1 where it is there and not registered (R209). -/
theorem State.dropCopy_eq (s : State) (core w : Nat) :
    s.dropCopy core w = if (s.l1 core w).map (·.reg) = some none then s.setL1 core w none else s := by
  unfold State.dropCopy
  cases hl : s.l1 core w with
  | none => rfl
  | some l => cases hr : l.reg <;> simp [hr]

/-- LINV of a line drops the issuing core's copy of each of its words. -/
theorem completes_linv {f : Fields} {s s1 : State} {line : Nat} {leaf : Leaf} (hready : ready (.linv f) s = true)
    (hl : lineCheck s (s.refM f) = .ok (some (line, leaf), s1)) :
    Completes (.linv f) f s ((lineWords line).foldl (fun t w => t.dropCopy t.core w) s1) := by
  refine completes_of_body (show execLinv f s = _ from rfl) rfl hready ?_
  simp only [hl, bind, Except.bind]

/-- Settles O7, by the branches of the three instructions: the line's search, the thread's mode and the environment's choice for PREF, the
line's check for WBK and LINV. -/
theorem lineOperations : Obligations.LineOperations := by
  refine ⟨fun f s s1 => completes_pref_without_line, fun f s line leaf s1 hready hq =>
      ⟨exec_pref_roams hready hq, fun hstay => ⟨completes_pref_uncached hready hq hstay,
        fun s2 => completes_pref_skips hready hq hstay, fun s2 hk hc => ⟨fun s3 => completes_pref_fetches hready hq hstay hk hc,
          completes_pref_gives_up hready hq hstay hk hc⟩⟩⟩,
    fun f s s1 => completes_wbk_without_line, fun f s line leaf s1 => completes_wbk,
    fun f s s1 => completes_linv_without_line, fun f s line leaf s1 hready hl => ?_⟩
  have h := completes_linv hready hl
  simp only [State.dropCopy_eq] at h
  exact h

end Sys2Proof.Machine

/-! SUPPORT. What SPAWN, SPAWNB and WAKE do with a launch, and what the instructions about the thread of a slot do (R122, R145, R451 to R455,
R461, R462, R468). -/

namespace Sys2Proof.Machine

open Sys2Proof.Claims

/-! ### SPAWN, SPAWNB and WAKE (R122, R145, R451, R452, R455) -/

/-- The wait as a release at a region's plot lets go on where the release holds. -/
theorem releaseAt_ok {s : State} {rgn : Nat}
    (h : s.released s.core s.slotNo (BitVec.ofNat 64 (s.eff s.thr.hold rgn 0x10)) = true) : releaseAt s rgn = .ok s :=
  release_ok h

/-- The state in which SPAWNB and WAKE check a region: a block that was found has its FRZ written (R117, R122). -/
def Look.marked (look : Look) (s : State) (hold rgn : Nat) : State :=
  match look with
  | .ok _ => s.markFrz hold rgn
  | _ => s

section Spawn

variable {f : Fields} {s s1 : State} {look : Look} (hready : ready (.spawn f) s = true) (hld : s.slot.ld < 63)
include hready hld

/-- A pointer that names no region answers 3. -/
theorem completes_spawn_misnamed (h : (s.g f.a).toNat % 256 ≠ 0 ∨ 2 ^ 57 ≤ (s.g f.a).toNat) : Completes (.spawn f) f s (s.dst f.d 3) := by
  refine completes_of_body (show execSpawn f s = _ from rfl) rfl hready ?_
  simp only [ldFull_ok hld, bind, Except.bind]
  exact if_pos (by simpa using h)

/-- The block of a region that could be looked up has its FRZ written, and its check decides whether a launch starts. -/
theorem completes_spawn_checked (hal : (s.g f.a).toNat % 256 = 0) (hlt : (s.g f.a).toNat < 2 ^ 57)
    (hlook : lookRegion s (s.g f.a).toNat = .ok (look, s1))
    (hfree : s1.released s1.core s1.slotNo (BitVec.ofNat 64 (s1.eff s1.thr.hold (s.g f.a).toNat 0x10)) = true) :
    let rgn := (s.g f.a).toNat
    let s2 := s1.markFrz s.thr.hold rgn
    let c := s2.launchCheck s.thr.hold rgn look 0
    Completes (.spawn f) f s ((if c.1 = 0 then s2.launchStart s.thr.hold rgn c.2 (s.gz f.b).toNat 0 false none else s2).dst f.d
      (BitVec.ofNat 64 c.1)) := by
  have hgo : ¬(decide ((s.g f.a).toNat % 256 ≠ 0) || decide (2 ^ 57 ≤ (s.g f.a).toNat)) = true := by simpa [hal] using hlt
  refine completes_of_body (show execSpawn f s = _ from rfl) rfl hready ?_
  simp only [ldFull_ok hld, bind, Except.bind, if_neg hgo, hlook, releaseAt_ok hfree]

end Spawn

/-- The argument of a launch is 0 where B names none, else its register (R451). -/
theorem State.gz_toNat (s : State) (o : Operand) : (s.gz o).toNat = if o.cls = .Z then 0 else (s.g o).toNat := by
  unfold State.gz
  split <;> rfl

section Spawnb

variable {f : Fields} {s s0 s1 : State} {bs : List Byte} {look : Look} (hready : ready (.spawnb f) s = true) (hld : s.slot.ld < 63)
  (hrec : unitRd kLD { r := true } s (refOf (s.g f.a) 0) 64 64 = .ok (bs, s0))
  (hlook : lookRegion s0 (recordRgn bs s0.thr.rgn) = .ok (look, s1))
  (hfree : s1.released s1.core s1.slotNo (BitVec.ofNat 64 (s1.eff s1.thr.hold (recordRgn bs s0.thr.rgn) 0x10)) = true)
include hready hld hrec hlook hfree

/-- A bounded sprig is made in a free frame and pushed where the check answers 0. -/
theorem completes_spawnb_pushes {m : Nat} {s3 : State} :
    let h := s0.thr.hold
    let rgn := recordRgn bs s0.thr.rgn
    let s2 := look.marked s1 h rgn
    s2.spawnbCode h rgn bs look = 0 → newFrame s2 h rgn = .ok (m, s3) →
    Completes (.spawnb f) f s ((s3.spawnBounded h rgn s3.core m bs).dst f.d 0) := by
  intro h rgn s2 hc hm
  refine completes_of_body (show execSpawnb f s = _ from rfl) rfl hready ?_
  simp only [ldFull_ok hld, bind, Except.bind, hrec, hlook, releaseAt_ok hfree]
  refine (if_neg (not_not_intro hc)).trans ?_
  change (newFrame s2 h rgn >>= fun v => Except.ok (Fin.step ((v.2.spawnBounded h rgn v.2.core v.1 bs).dst f.d 0))) = _
  rw [hm]
  rfl

/-- Any other code is answered, and nothing is pushed. -/
theorem completes_spawnb_refuses :
    let h := s0.thr.hold
    let rgn := recordRgn bs s0.thr.rgn
    let s2 := look.marked s1 h rgn
    s2.spawnbCode h rgn bs look ≠ 0 →
    Completes (.spawnb f) f s (s2.dst f.d (BitVec.ofNat 64 (s2.spawnbCode h rgn bs look))) := by
  intro h rgn s2 hc
  refine completes_of_body (show execSpawnb f s = _ from rfl) rfl hready ?_
  simp only [ldFull_ok hld, bind, Except.bind, hrec, hlook, releaseAt_ok hfree]
  exact if_pos hc

end Spawnb

section Wake

variable {f : Fields} {s s1 : State} {look : Look} (hready : ready (.wake f) s = true) (hld : s.slot.ld < 63)
  (hlook : lookRegion s (s.g f.a).toNat = .ok (look, s1))
  (hfree : s1.released s1.core s1.slotNo (BitVec.ofNat 64 (s1.eff s1.thr.hold (s.g f.a).toNat 0x10)) = true)
include hready hld hlook hfree

/-- A sprig is made in a free frame and queued at the named core where the check answers 0. -/
theorem completes_wake_queues {m : Nat} {s3 : State} :
    let h := s.thr.hold
    let rgn := (s.g f.a).toNat
    let core := coreAt (bits (s.g f.b).toNat 6 0) (bits (s.g f.b).toNat 13 8)
    let s2 := look.marked s1 h rgn
    s2.wakeCode h rgn core look = 0 → newFrame s2 h rgn = .ok (m, s3) →
    Completes (.wake f) f s ((s3.wakeSprig h rgn core m (s.g1 f.b)).dst f.d 0) := by
  intro h rgn core s2 hc hm
  refine completes_of_body (show execWake f s = _ from rfl) rfl hready ?_
  simp only [ldFull_ok hld, bind, Except.bind, hlook, releaseAt_ok hfree]
  refine (if_neg (not_not_intro hc)).trans ?_
  change (newFrame s2 h rgn >>= fun v => Except.ok (Fin.step ((v.2.wakeSprig h rgn core v.1 (s.g1 f.b)).dst f.d 0))) = _
  rw [hm]
  rfl

/-- Any other code is answered, and nothing is queued. -/
theorem completes_wake_refuses :
    let h := s.thr.hold
    let rgn := (s.g f.a).toNat
    let core := coreAt (bits (s.g f.b).toNat 6 0) (bits (s.g f.b).toNat 13 8)
    let s2 := look.marked s1 h rgn
    s2.wakeCode h rgn core look ≠ 0 →
    Completes (.wake f) f s (s2.dst f.d (BitVec.ofNat 64 (s2.wakeCode h rgn core look))) := by
  intro h rgn core s2 hc
  refine completes_of_body (show execWake f s = _ from rfl) rfl hready ?_
  simp only [ldFull_ok hld, bind, Except.bind, hlook, releaseAt_ok hfree]
  exact if_pos hc

end Wake

/-- SPAWN, SPAWNB and WAKE. -/
theorem launchInstructions : LaunchInstructions := by
  intro f s look s1 hld h freed marked
  refine ⟨fun hready => ⟨completes_spawn_misnamed hready hld, ?spawn⟩, fun bs s0 hready hrec => ?spawnb, fun hready => ?wake⟩
  case spawn =>
    intro hal hlt hlook hfree s2 c
    have hdone := completes_spawn_checked hready hld hal hlt hlook hfree
    simp only [State.gz_toNat] at hdone
    refine ⟨fun hc => ?_, fun hc => ?_⟩
    · rwa [if_pos hc, hc] at hdone
    · rwa [if_neg hc] at hdone
  case spawnb =>
    intro h0 rgn hlook hfree s2 c
    exact ⟨fun m s3 => completes_spawnb_pushes hready hld hrec hlook hfree, completes_spawnb_refuses hready hld hrec hlook hfree⟩
  case wake =>
    intro rgn core hlook hfree s2 c
    exact ⟨fun m s3 => completes_wake_queues hready hld hlook hfree, completes_wake_refuses hready hld hlook hfree⟩

/-! ### Kill points (R453) -/

/-- A kill point lets a thread go on in a handler, and where it is not doomed. -/
theorem killPoint_passes {s : State} (h : s.thr.s = true ∨ s.thr.h = true ∨
    s.doomed s.thr.hold s.thr.rgn s.thr.bnd s.thr.bound (clusterOf s.core) = false) : killPoint s = .ok (.step s) := by
  have hgo : ¬(!s.thr.s && !s.thr.h && s.doomed s.thr.hold s.thr.rgn s.thr.bnd s.thr.bound (clusterOf s.core)) = true := by
    rcases h with h | h | h <;> simp [h]
  exact if_neg hgo

/-- A kill point ends a doomed thread outside handlers: what its slot keeps is given up, and the slot is freed once its counters are 0. -/
theorem killPoint_ends {s : State} (hs : s.thr.s = false) (hh : s.thr.h = false)
    (h : s.doomed s.thr.hold s.thr.rgn s.thr.bnd s.thr.bound (clusterOf s.core) = true) :
    killPoint s = .ok (.gone ((s.modSlot fun v => { v.fresh with leave := .kill, late := [], yld := false }).reap s.core s.slotNo)) :=
  if_pos (by simp [hs, hh, h])

/-- BOUND: the bound goes to the thread and to its frame, and the thread passes its kill point. -/
theorem completes_bound {f : Fields} {s s0 s8 s9 : State} {bound : Word} (hready : ready (.bound f) s = true)
    (hk : killReady s true = .ok s0) (hsrc : s0.src f.a 0 = (bound, s8))
    (hframe : s8.frameReady s8.thr.hold s8.thr.rgn s8.thr.frame = (true, s9)) :
    let s1 := s9.modThr fun t => { t with bound := bound, bnd := true }
    let s2 := s1.partWord s1.thr.hold s1.thr.rgn (s1.thr.frame + 0xE8) bound.toNat
    s2.thr.s = true ∨ s2.thr.h = true ∨
      s2.doomed s2.thr.hold s2.thr.rgn s2.thr.bnd s2.thr.bound (clusterOf s2.core) = false →
    Completes (.bound f) f s s2 := by
  intro s1 s2 hpass
  refine completes_of_body (show execBound f s = _ from rfl) rfl hready ?_
  simp only [hk, bind, Except.bind, hsrc, hframe]
  exact killPoint_passes hpass

section Kpoint

variable {f : Fields} {s s0 : State} (hready : ready (.kpoint f) s = true) (hk : killReady s s.thr.bnd = .ok s0)
include hready hk

/-- KPOINT of a thread that is not doomed, or in a handler, goes on. -/
theorem completes_kpoint (h : s0.thr.s = true ∨ s0.thr.h = true ∨
    s0.doomed s0.thr.hold s0.thr.rgn s0.thr.bnd s0.thr.bound (clusterOf s0.core) = false) : Completes (.kpoint f) f s s0 := by
  refine completes_of_body (show execKpoint f s = _ from rfl) rfl hready ?_
  simp only [hk, bind, Except.bind]
  exact killPoint_passes h

/-- KPOINT of a doomed thread outside handlers ends it. -/
theorem exec_kpoint_ends (hs : s0.thr.s = false) (hh : s0.thr.h = false)
    (h : s0.doomed s0.thr.hold s0.thr.rgn s0.thr.bnd s0.thr.bound (clusterOf s0.core) = true) : exec (.kpoint f) s = .next
    { conclude f.yld s.core (.ok (.gone ((s0.modSlot fun v => { v.fresh with leave := .kill, late := [], yld := false }).reap
      s0.core s0.slotNo))) with pw := s.pw } := by
  change execKpoint f s = _
  unfold execKpoint
  rw [issue_ready rfl hready]
  simp only [hk, bind, Except.bind, killPoint_ends hs hh h]

end Kpoint

/-! ### Roaming (R454) -/

/-- ROAM answers the old mode; a root sprig and a thread with a stack carve-out stay pinned (R480, R131; SPEC.md, log entry 25, the model's
choice for the root sprig). -/
theorem completes_roam {f : Fields} {s : State} (hready : ready (.roam f) s = true) :
    Completes (.roam f) f s ((s.dst f.d (if s.thr.roamBit then 1 else 0)).modThr fun t =>
      { t with roam := f.imm.getLsbD 0 && t.stkc = 0 && !t.root }) :=
  completes_of_body (show execRoam f s = _ from rfl) rfl hready rfl

section Migr

variable {f : Fields} {s : State} (hready : ready (.migr f) s = true)
  (hcov : (s.hplot s.thr.hold).covers (coreAt (bits (s.g f.a).toNat 6 0) (bits (s.g f.a).toNat 13 8)) = true)
  (hstk : s.thr.stkc = 0) (hs : s.thr.s = false) (hh : s.thr.h = false)
include hready hcov hstk hs hh

/-- A root sprig is always pinned (R480). That MIGR has no effect on it is the model's choice (SPEC.md, log entry 25). -/
theorem completes_migr_root (hr : s.thr.root = true) : Completes (.migr f) f s s := by
  refine completes_of_body (show execMigr f s = _ from rfl) rfl hready ?_
  simp [hcov, hstk, hs, hh, hr]

/-- Any other thread roams, and departs where the named core is in another cluster. -/
theorem completes_migr (hr : s.thr.root = false) :
    let c := coreAt (bits (s.g f.a).toNat 6 0) (bits (s.g f.a).toNat 13 8)
    let s1 := s.modThr fun t => { t with roam := true }
    Completes (.migr f) f s (if clusterOf c = clusterOf s1.core then s1 else s1.migrateTo (clusterOf c) false) := by
  intro c s1
  have hgo : ¬(!(s.hplot s.thr.hold).covers c || decide (s.thr.stkc ≠ 0) || s.thr.s || s.thr.h) = true := by
    simp [c, hcov, hstk, hs, hh]
  refine completes_of_body (show execMigr f s = _ from rfl) rfl hready ?_
  refine (if_neg hgo).trans ((if_neg (by simp [hr])).trans ?_)
  exact (apply_ite (fun e => Except.ok (Fin.step e)) _ s1 _).symm

end Migr

/-! ### SPILL, RESTO and IDLE (R461, R462, R468) -/

/-- The slot that SPILL names. -/
def State.spillSlot (s : State) (f : Fields) : Nat := if f.a.cls = .I then bits f.imm.toNat 3 0 else bits (s.g f.a).toNat 3 0

section Spill

variable {f : Fields} {s : State} (hready : ready (.spill f) s = true)
include hready

/-- SPILL that has ordered the thread of its slot out goes on once that thread has left. -/
theorem completes_spill_left (hsent : s.slot.sent = true) (hleft : (s.slotAt s.core (s.spillSlot f)).leave = .stay) :
    Completes (.spill f) f s s := by
  refine completes_of_body (show execSpill f s = _ from rfl) rfl hready ?_
  exact (if_pos hsent).trans (if_pos hleft)

/-- SPILL of an empty slot of the holding goes on at once. -/
theorem completes_spill_empty (hsent : s.slot.sent = false) (hown : s.ownerNow s.core (s.spillSlot f) = some s.thr.hold)
    (hother : s.spillSlot f ≠ s.slotNo) (hempty : (s.slotAt s.core (s.spillSlot f)).thr = none) : Completes (.spill f) f s s := by
  unfold State.spillSlot at hown hother hempty
  refine completes_of_body (show execSpill f s = _ from rfl) rfl hready ?_
  simp [hsent, hown, hother, hempty]

end Spill

theorem timelineM_ok {s : State} {w : Word} {t : Timeline} (h : s.timeline s.thr.hold (bits w.toNat 31 0) = .ok t) :
    timelineM s w = .ok t := by
  unfold timelineM
  rw [h]

/-- RESTO restarts the engine context that its timeline names, where it is not that of a host chain. -/
theorem completes_resto {f : Fields} {s : State} {t : Timeline} {w : Nat} (hw : w = bits (s.g f.a).toNat 31 0)
    (hready : ready (.resto f) s = true) (ht : s.timeline s.thr.hold w = .ok t) (hkind : bits w 31 30 ≠ 2) :
    Completes (.resto f) f s (s.restart (tlCtx w).1 (tlCtx w).2 fun t c => t.copyBytes (c.eng (tlCtx w).2) c) := by
  subst hw
  refine completes_of_body (show execResto f s = _ from rfl) rfl hready ?_
  simp only [timelineM_ok ht, bind, Except.bind, if_neg hkind]

/-- RESTO of a frame requeues it. -/
theorem completes_restoFrame {f : Fields} {s : State} (hready : ready (.restoFrame f) s = true) (hal : (s.g f.a).toNat % 256 = 0)
    (hpool : s.inPool s.thr.hold (s.g f.a).toNat = true) : Completes (.restoFrame f) f s (s.requeue s.thr.hold (s.g f.a).toNat) := by
  refine completes_of_body (show execRestoFrame f s = _ from rfl) rfl hready ?_
  simp [hal, hpool]

section Idle

variable {f : Fields} {s : State} (hready : ready (.idle f) s = true)
include hready

/-- IDLE ends at a pending interrupt, whether it has begun to idle or not. -/
theorem completes_idle_interrupt (h : s.slot.uipend ≠ 0) : Completes (.idle f) f s s := by
  have hpend : ¬s.slot.uipend = 0#8 := h
  refine completes_of_body (show execIdle f s = _ from rfl) rfl hready ?_
  cases hsent : s.slot.sent with
  | true => simp [hsent, hpend]
  | false => simp [hsent, hpend]

/-- IDLE that has begun ends when it is woken. -/
theorem completes_idle_woken (hsent : s.slot.sent = true) (h : s.slot.idling = false) : Completes (.idle f) f s s := by
  refine completes_of_body (show execIdle f s = _ from rfl) rfl hready ?_
  simp [hsent, h]

/-- IDLE that has begun ends at its limit. -/
theorem completes_idle_limit {c : Nat} (hsent : s.slot.sent = true) (hby : s.slot.idleBy = some c) (hc : c ≤ s.cyc s.core) :
    Completes (.idle f) f s s := by
  refine completes_of_body (show execIdle f s = _ from rfl) rfl hready ?_
  simp [hsent, hby, hc]

end Idle

/-- The instructions about the thread of a slot. -/
theorem threadInstructions : ThreadInstructions := by
  intro f s
  refine ⟨fun s0 s9 hready hk => completes_bound hready hk rfl,
    fun s0 hready hk => ⟨completes_kpoint hready hk, exec_kpoint_ends hready hk⟩, completes_roam,
    ?migr,
    fun hready => ⟨completes_spill_left hready, completes_spill_empty hready⟩, fun t w => completes_resto, completes_restoFrame, ?idle⟩
  case migr =>
    intro hready c hcov hstk hs hh s1
    exact ⟨completes_migr_root hready hcov hstk hs hh, completes_migr hready hcov hstk hs hh⟩
  case idle =>
    rintro hready (h | ⟨hsent, h | ⟨c, hby, hc⟩⟩)
    · exact completes_idle_interrupt hready h
    · exact completes_idle_woken hready hsent h
    · exact completes_idle_limit hready hsent hby hc

/-- Settles O24: LaunchInstructions by the checks of a region, ThreadInstructions by the kill point and each instruction's branches. -/
theorem launchesAndThreads : Obligations.LaunchesAndThreads := ⟨launchInstructions, threadInstructions⟩

end Sys2Proof.Machine

/-! SUPPORT. What an offer leaves of a cell and of the offering cluster's replica, and the three instructions on a cell of the thread's
holding (R143, R149 to R154, R382 to R385). -/

namespace Sys2Proof.Machine

open Sys2Proof.Claims

/-! ### The order of a sense (R143) -/

theorem better_irrefl (max : Bool) (a : Word) : better max a a = false := by
  cases max <;> simp [better, BitVec.slt]

/-- Of two values either one is better or they are equal. -/
theorem better_or_eq_of_not_better {max : Bool} {a b : Word} (h : better max a b = false) : better max b a = true ∨ b = a := by
  cases max with
  | false =>
    have hle : b.toInt ≤ a.toInt := by simpa [better, BitVec.slt] using h
    exact (Int.lt_or_eq_of_le hle).imp (by simp [better, BitVec.slt]) BitVec.eq_of_toInt_eq
  | true =>
    have hle : a.toInt ≤ b.toInt := by simpa [better, BitVec.slt] using h
    exact (Int.lt_or_eq_of_le hle).imp (by simp [better, BitVec.slt]) fun e => BitVec.eq_of_toInt_eq e.symm

/-! ### Cells and replicas (R149) -/

@[simp] theorem Cell.val_of_set {x : Cell} (h : x.set = true) : x.val = x.value := by simp [Cell.val, h]

@[simp] theorem State.cell_setCell_same (s : State) (c : Nat) (x : Cell) : (s.setCell c x).cell c = x :=
  Tab.get_set_same _ s.sc.cells c x

theorem State.cell_setCell_other (s : State) {c d : Nat} (x : Cell) (h : d ≠ c) : (s.setCell c x).cell d = s.cell d :=
  Tab.get_set_other _ s.sc.cells x h

@[simp] theorem State.cell_cry (s : State) (c d : Nat) : (s.cry c).cell d = s.cell d := rfl

@[simp] theorem State.cell_setReplica (s : State) (k c d : Nat) (r : Replica) : (s.setReplica k c r).cell d = s.cell d := rfl

@[simp] theorem State.replica_setReplica_same (s : State) (k c : Nat) (r : Replica) : (s.setReplica k c r).replica k c = r :=
  Tab.get_set_same _ s.sc.replicas (k * 64 + c) r

@[simp] theorem State.replica_setCell (s : State) (k c d : Nat) (x : Cell) : (s.setCell c x).replica k d = s.replica k d := rfl

@[simp] theorem State.replica_cry (s : State) (k c d : Nat) : (s.cry c).replica k d = s.replica k d := rfl

/-! ### A message at a replica (R152) -/

@[simp] theorem newer_self (g : BitVec 16) : newer g g = false := by simp [newer]

/-- A message of the replica's own generation is taken when it has a value and the replica has none, or a worse one. -/
theorem improve_own (max : Bool) (r : Replica) (set : Bool) (v : Word) : improve max r r.gen set v =
    if set = true ∧ (r.set = false ∨ better max v r.value = true) then { r with set := true, value := v } else r := by
  simp [improve]

@[simp] theorem improve_own_gen (max : Bool) (r : Replica) (set : Bool) (v : Word) : (improve max r r.gen set v).gen = r.gen := by
  rw [improve_own]
  split <;> rfl

/-- A message of its own generation leaves a replica with a value set, and its value the same or better. -/
theorem improve_own_of_set {max : Bool} {r : Replica} {set : Bool} {v : Word} (hr : r.set = true) :
    (improve max r r.gen set v).set = true ∧
    ((improve max r r.gen set v).value = r.value ∨ better max (improve max r r.gen set v).value r.value = true) := by
  rw [improve_own]
  split
  · next h => exact ⟨rfl, .inr (h.2.resolve_left (by simp [hr]))⟩
  · exact ⟨hr, .inl rfl⟩

/-- After a message of its own generation that has a value, a replica has one that the message's is not better than. -/
theorem improve_own_caught_up (max : Bool) (r : Replica) (v : Word) :
    (improve max r r.gen true v).set = true ∧ better max v (improve max r r.gen true v).value = false := by
  rw [improve_own]
  split
  · exact ⟨rfl, better_irrefl max v⟩
  · next h => simpa using h

/-- A message of another generation that is not newer is ignored. -/
theorem improve_old {max : Bool} {r : Replica} {gen : BitVec 16} {set : Bool} {v : Word} (hn : newer gen r.gen = false)
    (hne : gen ≠ r.gen) : improve max r gen set v = r := by simp [improve, hn, hne]

/-! ### An offer (R151) -/

/-- The cell after an offer of a value and a payload. -/
def Cell.offered (x : Cell) (v w : Word) : Cell :=
  if x.set = false ∨ better x.max v x.value = true then { x with value := v, payload := w, set := true } else x

@[simp] theorem Cell.offered_gen (x : Cell) (v w : Word) : (x.offered v w).gen = x.gen := by
  unfold Cell.offered
  split <;> rfl

@[simp] theorem Cell.offered_max (x : Cell) (v w : Word) : (x.offered v w).max = x.max := by
  unfold Cell.offered
  split <;> rfl

/-- After an offer a cell is set, whether the offer was taken or refused. -/
@[simp] theorem Cell.offered_set (x : Cell) (v w : Word) : (x.offered v w).set = true := by
  unfold Cell.offered
  split
  · rfl
  · next h => simpa using (not_or.mp h).1

/-- The cell is then no worse than the offer. -/
theorem Cell.offered_beats_offer (x : Cell) (v w : Word) : better x.max (x.offered v w).value v = true ∨ (x.offered v w).value = v := by
  unfold Cell.offered
  split
  · exact .inr rfl
  · next h => exact better_or_eq_of_not_better (by simpa using (not_or.mp h).2)

/-- A set cell is then no worse than it was. -/
theorem Cell.offered_beats_old {x : Cell} (v w : Word) (hset : x.set = true) :
    (x.offered v w).value = x.value ∨ better x.max (x.offered v w).value x.value = true := by
  unfold Cell.offered
  split
  · next h => exact .inr (h.resolve_left (by simp [hset]))
  · exact .inl rfl

/-- What an offer does: the home takes it or refuses it, and the offering cluster's replica hears the outcome. -/
theorem State.offer_eq (s : State) (c k : Nat) (v w : Word) : ∃ t : State,
    s.offer c k v w = t.setReplica k c
      (improve (s.cell c).max (s.replica k c) (s.cell c).gen true ((s.cell c).offered v w).value) ∧
    t.cell c = (s.cell c).offered v w ∧ ∀ d, d ≠ c → t.cell d = s.cell d := by
  by_cases h : (s.cell c).set = false ∨ better (s.cell c).max v (s.cell c).value = true
  · refine ⟨(s.setCell c ((s.cell c).offered v w)).cry c, ?_, by simp, fun d hd => by simp [State.cell_setCell_other s _ hd]⟩
    simp [State.offer, Cell.offered, h]
  · refine ⟨s, ?_, by simp [Cell.offered, h], fun _ _ => rfl⟩
    have hset : (s.cell c).set = true := by simpa using (not_or.mp h).1
    have hworse : better (s.cell c).max v (s.cell c).value = false := by simpa using (not_or.mp h).2
    simp [State.offer, Cell.offered, hset, hworse]

@[simp] theorem State.cell_offer_same (s : State) (c k : Nat) (v w : Word) : (s.offer c k v w).cell c = (s.cell c).offered v w := by
  obtain ⟨t, ht, hc, -⟩ := s.offer_eq c k v w
  rw [ht, State.cell_setReplica, hc]

theorem State.cell_offer_other (s : State) {c d : Nat} (k : Nat) (v w : Word) (h : d ≠ c) : (s.offer c k v w).cell d = s.cell d := by
  obtain ⟨t, ht, -, ho⟩ := s.offer_eq c k v w
  rw [ht, State.cell_setReplica, ho d h]

@[simp] theorem State.replica_offer (s : State) (c k : Nat) (v w : Word) : (s.offer c k v w).replica k c =
    improve (s.cell c).max (s.replica k c) (s.cell c).gen true ((s.cell c).offered v w).value := by
  obtain ⟨t, ht, -, -⟩ := s.offer_eq c k v w
  rw [ht, State.replica_setReplica_same]

/-- Settles O51, from the cell and the replica after an offer, and from what a message of a replica's own or of an earlier generation does. -/
theorem incumbentsImprove : Obligations.IncumbentsImprove := by
  refine ⟨fun s c k v w => ?_, fun max r set v => ⟨improve_own_of_set, improve_own_gen max r set v⟩, fun max r gen set v => improve_old⟩
  intro o n
  have hn : n = o.offered v w := s.cell_offer_same c k v w
  have hval : n.val = (o.offered v w).value := by rw [hn, Cell.val_of_set (Cell.offered_set o v w)]
  refine ⟨hn, ?_, fun hset => ?_, fun d hd => s.cell_offer_other k v w hd, fun hgen => ?_⟩
  · rw [hval]
    exact o.offered_beats_offer v w
  · rw [hval, Cell.val_of_set hset]
    exact Cell.offered_beats_old v w hset
  · obtain ⟨hs, hb⟩ := improve_own_caught_up o.max (s.replica k c) (o.offered v w).value
    rw [hval, State.replica_offer, ← hgen]
    exact ⟨improve_own_gen .., hs, hb⟩

/-! ### INCLD, INCOFR and INCSET (R382 to R385) -/

/-- A cell of the mask of the thread's holding (R150). -/
theorem ownCell_ok {s : State} {c : Nat} (h : bit (s.hword s.thr.hold 0x90) c = true) : ownCell s c = .ok () := if_pos h

section Cells

variable {f : Fields} {s : State} {c : Nat} (hc : c = bits f.imm.toNat 5 0) (hown : bit (s.hword s.thr.hold 0x90) c = true)
include hc hown

/-- INCLD reads the cell in its own step and acquires. That the reading and the acquire are one step is the model's choice (SPEC.md, log
entry 13). -/
theorem completes_incld (hready : ready (.incld f) s = true) (hrels : s.slot.rels = 0) (hld : s.slot.ld < 63) :
    let s1 := (s.acquire s.core).setG2 f.d.idx.toNat (s.cell c).val (s.cell c).pay
    Completes (.incld f) f s (if f.a.cls = .P then s1.setP f.a.idx.toNat (s.cell c).set else s1) := by
  subst hc
  refine completes_of_body (show execIncld f s = _ from rfl) rfl hready ?_
  simp only [ownCell_ok hown, acqReady_ok hrels, ldFull_ok hld, bind, Except.bind]

/-- INCOFR offers in its own step (SPEC.md, log entry 13, the model's choice), once the release holds, and returns the value before. -/
theorem completes_incofr (hready : ready (.incofr f) s = true) (hld : s.slot.ld < 63)
    (hrel : s.released s.core s.slotNo modulePlot = true) :
    let r := s.srcs f 0
    Completes (.incofr f) f s ((r.2.2.offer c (clusterOf r.2.2.core) r.1 r.2.1).dst f.d (r.2.2.cell c).val) := by
  subst hc
  refine completes_of_body (show execIncofr f s = _ from rfl) rfl hready ?_
  simp only [ownCell_ok hown, ldFull_ok hld, release_ok hrel, bind, Except.bind]

/-- INCSET resets the cell when it first issues, and stays. -/
theorem exec_incset_resets (hready : ready (.incset f) s = true) (hsent : s.slot.sent = false) : exec (.incset f) s = .next
    { conclude f.yld s.core (.error (.stay ((s.resetCell c (f.imm.getLsbD 8)).modSlot fun v => { v with sent := true }))) with
      pw := s.pw } := by
  subst hc
  change execIncset f s = _
  unfold execIncset
  rw [issue_ready rfl hready]
  simp only [ownCell_ok hown, hsent, bind, Except.bind]
  rfl

/-- INCSET that has reset its cell completes in a later issue, once the crier is done (SPEC.md, log entry 13, the model's choice). -/
theorem completes_incset (hready : ready (.incset f) s = true) (hsent : s.slot.sent = true) (hdone : s.resetPending c = false) :
    Completes (.incset f) f s s := by
  subst hc
  refine completes_of_body (show execIncset f s = _ from rfl) rfl hready ?_
  simp [ownCell_ok hown, hsent, hdone, bind, Except.bind]

end Cells

/-- Settles O10, from the branches of the three instructions. That INCLD and INCOFR act at the cell's home within their own step and INCSET
completes in a later issue is the model's choice (SPEC.md, log entry 13). -/
theorem incumbentInstructions : Obligations.IncumbentInstructions := by
  refine fun c => ⟨fun f s hready hc hown => completes_incld hc hown hready, fun f s hready hc hown => completes_incofr hc hown hready, ?_⟩
  exact fun f s hready hc hown => ⟨exec_incset_resets hc hown hready, completes_incset hc hown hready⟩

end Sys2Proof.Machine

/-! SUPPORT. The h registers: what they name in each mode, where an operand may not name them, and what entering and leaving S mode does to
their banks (R140, R166, R302, R467). -/

namespace Sys2Proof.Machine

/-! ### The bank that the mode names -/

/-- An h register is read in the bank of the mode (R166). -/
theorem Thread.gpr_h (t : Thread) (n : Nat) : t.gpr (24 + n) = Tab.get 0 (if t.s then t.hs else t.hu) n := by
  have hn : ¬ 24 + n < 24 := by omega
  simp only [Thread.gpr, if_neg hn, Nat.add_sub_cancel_left]
  split <;> rfl

/-- An h register is written in the bank of the mode (R166). -/
theorem Thread.setGpr_h (t : Thread) (n : Nat) (v : Word) :
    t.setGpr (24 + n) v = if t.s then { t with hs := Tab.set 0 t.hs n v } else { t with hu := Tab.set 0 t.hu n v } := by
  have hn : ¬ 24 + n < 24 := by omega
  simp only [Thread.setGpr, if_neg hn, Nat.add_sub_cancel_left]

/-- After entry into S mode every h register reads 0 (R166). -/
theorem Thread.superFault_gpr_h (t : Thread) (vec spc scause saddr : Word) (n : Nat) : (t.superFault vec spc scause saddr).gpr (24 + n) = 0 :=
  Thread.gpr_h ..

/-! ### Outside both modes -/

/-- Outside the handler modes class G ends at g23 (R166, R302). -/
theorem idxOk_user_G {o : Operand} (hG : o.cls = .G) (h : 24 ≤ o.idx.toNat) : idxOk false o = false := by
  simp [idxOk, hG, h]

/-- A field accepts only an index inside its class's range (R302). -/
theorem idxOk_of_opOk {hOK : Bool} {r : OpRule} {first : Bool} {o : Operand} (h : opOk hOK r first o = true) : idxOk hOK o = true :=
  (Bool.and_eq_true_iff.mp h).1

/-- An instruction that meets no ILLOPD has each of its fields in range (R302). -/
theorem idxOk_of_illopdOf_none {hOK : Bool} {i : Instr} {opc : Nat} {f : Fields} {sh : EncRule} (he : encOf i = some (opc, f, sh))
    (h : illopdOf hOK i = none) : idxOk hOK f.d = true ∧ idxOk hOK f.a = true ∧ idxOk hOK f.b = true := by
  simp only [illopdOf, he, Bool.not_eq_true'] at h
  split at h
  · contradiction
  next hd =>
    split at h
    · contradiction
    next ha =>
      split at h
      · contradiction
      next hb =>
        simp only [Bool.not_eq_false, Bool.and_eq_true] at hd ha hb
        exact ⟨idxOk_of_opOk hd, idxOk_of_opOk ha.1, idxOk_of_opOk hb.1⟩

/-! ### SRET -/

/-- The thread after an instruction that goes on at a PC of its own is the one of its effect, at that PC. -/
theorem State.finishAt_thr {e : State} {t : Thread} (f : Fields) (c : Nat) (pc : Word) (h : e.slot.thr = some t) :
    (e.finishAt f c pc).thr = { t with pc := pc } := by
  change (e.modSlot fun v => { v.done f.yld with thr := v.thr.map fun t => { t with pc := pc } }).thr = _
  rw [State.thr_modSlot, h]
  rfl

/-- An instruction that goes on at a PC of its own answers a state whose thread is the one of its effect, at that PC. -/
theorem Jumps.thr {i : Instr} {f : Fields} {s e : State} {pc : Word} {t : Thread} (h : Jumps i f s e pc) (ht : e.slot.thr = some t) :
    ∃ u, exec i s = .next u ∧ u.thr = { t with pc := pc } :=
  ⟨_, h, State.finishAt_thr f s.core pc ht⟩

/-- SRET in S mode leaves it and goes on at %spc (R140, R467). -/
theorem jumps_sret {f : Fields} {s : State} (hready : ready (.sret f) s = true) (hs : s.thr.s = true) :
    Jumps (.sret f) f s (s.modThr Thread.sret) s.thr.spc :=
  jumps_of_body (show execSret f s = _ from rfl) rfl hready (if_pos hs)

/-- Settles O43: the banks by the mode's branch of a read and of a write, the fault by the range of class G, the entry by its empty bank,
and SRET by the thread that it leaves. -/
theorem handlerRegisters : Obligations.HandlerRegisters := by
  refine ⟨fun t n v _ => ⟨Thread.gpr_h t n, Thread.setGpr_h t n v⟩, ?fault, ?entry, ?sret⟩
  case fault =>
    intro i opc f sh o he ho hG hidx hnone
    have hin : idxOk false o = true := by
      obtain ⟨hd, ha, hb⟩ := idxOk_of_illopdOf_none he hnone
      rcases ho with rfl | rfl | rfl
      · exact hd
      · exact ha
      · exact hb
    exact absurd hin (by simp [idxOk_user_G hG hidx])
  case entry =>
    intro s t c ht hp hu hs hv
    rw [State.take_super ht hp hu hs hv]
    exact ⟨rfl, fun n _ => Thread.superFault_gpr_h ..⟩
  case sret =>
    intro f s hready hs
    obtain ⟨u, hexec, hthr⟩ := (jumps_sret hready hs).thr (State.slot_thr_modThr s Thread.sret)
    exact ⟨u, hexec, (congrArg Thread.hs hthr).trans (Thread.sret_hs s.thr), (congrArg Thread.hu hthr).trans (Thread.sret_hu s.thr)⟩

end Sys2Proof.Machine

/-! SUPPORT. The generator of stochastic rounding: its shifts lose nothing, and a write of %rng never leaves it at 0 (R227, R348). -/

namespace Sys2Proof.Machine

/-! ### Exclusive or with a shift of the word itself -/

/-- The low `k` bits of `x ^^^ (x <<< k)` are those of `x`, and each other bit is told by it and the bit `k` places below. -/
theorem xor_shiftLeft_injective {w k : Nat} (hk : 0 < k) : Function.Injective fun x : BitVec w => x ^^^ (x <<< k) := by
  intro x y h
  have hbit : ∀ i, x.getLsbD i = y.getLsbD i := by
    intro i
    induction i using Nat.strong_induction_on with
    | _ i below =>
      have hi := congrArg (BitVec.getLsbD · i) h
      by_cases hik : i < k
      · simpa [hik] using hi
      · simpa [hik, below (i - k) (by omega)] using hi
  exact BitVec.eq_of_getLsbD_eq fun i _ => hbit i

/-- The top `k` bits of `x ^^^ (x >>> k)` are those of `x`, and each other bit is told by it and the bit `k` places above. -/
theorem xor_ushiftRight_injective {w k : Nat} (hk : 0 < k) : Function.Injective fun x : BitVec w => x ^^^ (x >>> k) := by
  intro x y h
  have hbit : ∀ n i, w - i = n → x.getLsbD i = y.getLsbD i := by
    intro n
    induction n using Nat.strong_induction_on with
    | _ n above =>
      intro i hn
      by_cases hiw : i < w
      · have hi := congrArg (BitVec.getLsbD · i) h
        simpa [above (w - (k + i)) (by omega) (k + i) rfl] using hi
      · rw [BitVec.getLsbD_of_ge x i (by omega), BitVec.getLsbD_of_ge y i (by omega)]
  exact BitVec.eq_of_getLsbD_eq fun i _ => hbit _ i rfl

/-! ### %rng -/

/-- The generator is one to one: each of its three shifts is (R227). -/
theorem rngNext_injective : Function.Injective rngNext :=
  (xor_shiftLeft_injective (k := 5) (by decide)).comp
    ((xor_ushiftRight_injective (k := 17) (by decide)).comp (xor_shiftLeft_injective (k := 13) (by decide)))

@[simp] theorem rngNext_zero : rngNext 0 = 0 := by decide

/-- Going on to the next instruction, or to the next iteration of a repeat, leaves %rng (R311). -/
@[simp] theorem Thread.rng_advance (t : Thread) : t.advance.rng = t.rng := by
  unfold Thread.advance
  split
  · rfl
  · split <;> rfl

/-- %rng after a write of a word: its low half, or 1 for a half of 0 (R348). -/
def rngWritten (v : Word) : BitVec 32 := if v.extractLsb' 0 32 = 0 then 1 else v.extractLsb' 0 32

theorem rngWritten_ne_zero (v : Word) : rngWritten v ≠ 0 := by
  unfold rngWritten
  split
  · decide
  · assumption

theorem State.setSpecial_rng (s : State) (hi : Bool) (v : Word) :
    s.setSpecial 27 hi v = s.modThr fun t => { t with rng := rngWritten v } := rfl

/-- MTS writes the special register that D names with its source (R348). -/
theorem completes_mts {f : Fields} {s : State} (hready : ready (.mts f) s = true) :
    Completes (.mts f) f s ((s.src f.a (simm f)).2.setSpecial f.d.idx.toNat (f.md.getLsbD 0) (s.src f.a (simm f)).1) :=
  completes_of_body (show execMts f s = _ from rfl) rfl hready rfl

/-- MTS to %rng answers a state whose thread has the written value in it (R348). -/
theorem exec_mts_rng {f : Fields} {s : State} (hready : ready (.mts f) s = true) (hd : f.d.idx.toNat = 27) :
    ∃ t, exec (.mts f) s = .next t ∧ t.thr.rng = rngWritten (s.src f.a (simm f)).1 := by
  have hdone := completes_mts hready
  rw [hd, State.setSpecial_rng] at hdone
  refine ⟨_, hdone, ?_⟩
  have hthr := State.finish_thr f s.core (State.slot_thr_modThr (s.src f.a (simm f)).2 fun t => { t with rng := rngWritten (s.src f.a (simm f)).1 })
  exact (congrArg Thread.rng hthr).trans (Thread.rng_advance _)

/-- Settles O47: the generator is a composition of three one-to-one maps, and MTS writes a value other than 0. -/
theorem stochasticDraw : Obligations.StochasticDraw := by
  refine ⟨fun x y h => rngNext_injective h, rngNext_zero, ?mts, fun t => rfl, fun x => rfl⟩
  case mts =>
    intro f s hready hd _
    obtain ⟨t, hexec, hrng⟩ := exec_mts_rng hready hd
    exact ⟨t, hexec, hrng ▸ rngWritten_ne_zero _⟩

end Sys2Proof.Machine

/-! SUPPORT. Tile arithmetic: the four instructions are one operation, and what it writes on good headers that combine (R239, R240, R431). -/

namespace Sys2Proof.Machine

open Sys2Proof.Claims

/-- A tile whose elements have exact values passes the check of its stream (R237). -/
theorem numsM_ok {s : State} {bs : List Byte} {xs : List ExtNum} (h : tileNums (hdrOf bs) bs = some xs) : numsM s bs = .ok xs := by
  simp [numsM, h]

/-- Each instruction of the table is the tile operation of its row (R431). -/
theorem exec_tileTable : ∀ p ∈ tileTable, ∀ f s, exec (p.1 f) s = tileOp (p.1 f) s p.2.1 p.2.2 := by
  intro p hp f s
  simp only [tileTable, List.mem_cons, List.not_mem_nil, or_false] at hp
  rcases hp with rfl | rfl | rfl | rfl
  · exact (show execTadd f s = _ from rfl)
  · exact (show execTmul f s = _ from rfl)
  · exact (show execTfma f s = _ from rfl)
  · exact (show execTmax f s = _ from rfl)

/-- Each instruction of the table has an encoding with the fields that it carries (R314). -/
theorem encOf_tileTable : ∀ p ∈ tileTable, ∀ f, ∃ opc sh, encOf (p.1 f) = some (opc, f, sh) := by
  intro p hp f
  simp only [tileTable, List.mem_cons, List.not_mem_nil, or_false] at hp
  rcases hp with rfl | rfl | rfl | rfl <;> exact ⟨_, _, rfl⟩

/-- Settles O21: each check of the tile operation passes by the hypothesis that speaks of it, so that its body ends in the write of the tile
and of the generator. -/
theorem tileArithmetic : Obligations.TileArithmetic := by
  dsimp only [Obligations.TileArithmetic]
  intro p hp f s s1 f1 f2 xa xb xc hready hown hgood hfmt1 hfmt2 hbn hbc hcn hcc hxa hxb hxc
  obtain ⟨opc, sh, henc⟩ := encOf_tileTable p hp f
  refine completes_of_body (exec_tileTable p hp f s) henc hready ?_
  simp only [bind, Except.bind, hown, hgood, hfmt1, hfmt2, hbn, hbc, hcn, hcc, numsM_ok hxa, numsM_ok hxb, numsM_ok hxc]
  simp only [ne_eq, not_true_eq_false, decide_false, Bool.or_self, Bool.false_eq_true, if_false]
  rfl

end Sys2Proof.Machine

/-! SUPPORT. When fences, WAITC and WAITTL go on, and what TLGET and TLGET.stat read (R267, R277 to R279, R387 to R390). -/

namespace Sys2Proof.Machine

open Sys2Proof.Claims

/-! ### Fences and counters (R267, R387, R388) -/

section Fence

variable {f : Fields} {s : State} (hready : ready (.fence f) s = true) (hplot : plotBad (s.g f.a) = false)
include hready hplot

/-- An acquiring fence goes on when no load and no release of the thread is outstanding. -/
theorem completes_fence_acquire (hord : mdOrd f.md = 1) (hrels : s.slot.rels = 0) (hld : s.slot.ld = 0) :
    Completes (.fence f) f s (s.acquire s.core) := by
  refine completes_of_body (show execFence f s = _ from rfl) rfl hready ?_
  simp only [checkPlot_ok hplot, acqReady_ok hrels, bind, Except.bind, if_pos hord]
  exact if_neg (not_not_intro hld)

/-- A releasing fence goes on when the thread's earlier accesses are performed at its plot. -/
theorem completes_fence_release (hord : mdOrd f.md = 2) (hfenced : s.fenced s.core s.slotNo (s.g f.a) = true) :
    Completes (.fence f) f s s := by
  refine completes_of_body (show execFence f s = _ from rfl) rfl hready ?_
  simp [checkPlot_ok hplot, bind, Except.bind, hord, hfenced]

/-- A full fence waits as the two others do, and acquires. -/
theorem completes_fence_full (hord : mdOrd f.md = 0) (hfenced : s.fenced s.core s.slotNo (s.g f.a) = true) (hrels : s.slot.rels = 0) :
    Completes (.fence f) f s (s.acquire s.core) := by
  refine completes_of_body (show execFence f s = _ from rfl) rfl hready ?_
  simp [checkPlot_ok hplot, acqReady_ok hrels, bind, Except.bind, hord, hfenced]

end Fence

/-- WAITC goes on when each counter of its mask is 0. -/
theorem completes_waitc {f : Fields} {s : State} (hready : ready (.waitc f) s = true) (hld : f.imm.getLsbD 0 = true → s.slot.ld = 0)
    (hst : f.imm.getLsbD 1 = true → s.slot.issued - s.slot.drained = 0) (hcp : f.imm.getLsbD 2 = true → s.slot.cp = 0)
    (htl : f.imm.getLsbD 3 = true → s.slot.tl = 0) : Completes (.waitc f) f s s := by
  refine completes_of_body (show execWaitc f s = _ from rfl) rfl hready (if_neg ?_)
  simp only [Bool.or_eq_true, Bool.and_eq_true, decide_eq_true_eq]
  rintro (((⟨hb, hne⟩ | ⟨hb, hne⟩) | ⟨hb, hne⟩) | ⟨hb, hne⟩)
  · exact hne (hld hb)
  · exact hne (hst hb)
  · exact hne (hcp hb)
  · exact hne (htl hb)

/-- FENCE and WAITC. -/
theorem fenceAndCounters : FenceAndCounters := fun _ _ =>
  ⟨fun hready hplot => ⟨completes_fence_acquire hready hplot, completes_fence_release hready hplot, completes_fence_full hready hplot⟩,
    completes_waitc⟩

/-! ### Timelines (R277 to R279, R389, R390) -/

section Timelines

variable {f : Fields} {s : State} {t : Timeline} (ht : s.timeline s.thr.hold (bits (s.g f.a).toNat 31 0) = .ok t)
include ht

/-- WAITTL acquires and goes on when its timeline has reached the value. -/
theorem completes_waittl_reached (hready : ready (.waittl f) s = true) (hplot : plotBad (s.g f.d) = false)
    (hle : (s.src f.b 0).1.toNat ≤ t.count) (hrels : s.slot.rels = 0) :
    let e := (s.src f.b 0).2.acquire s.core
    Completes (.waittl f) f s (if f.imm.getLsbD 5 then e.setP (bits f.imm.toNat 4 0) true else e) := by
  intro e
  refine completes_of_body (show execWaittl f s = _ from rfl) rfl hready ?_
  simp only [checkPlot_ok hplot, timelineM_ok ht, acqReady_ok hrels, bind, Except.bind, if_pos hle]
  rfl

/-- WAITTL goes on without an acquire when its timeline has stopped at the value or before it. -/
theorem completes_waittl_stopped (hready : ready (.waittl f) s = true) (hplot : plotBad (s.g f.d) = false)
    (hlt : t.count < (s.src f.b 0).1.toNat) (herr : t.err = true) (hcmd : t.ecmd ≤ (s.src f.b 0).1.toNat) :
    let e := (s.src f.b 0).2
    Completes (.waittl f) f s (if f.imm.getLsbD 5 then e.setP (bits f.imm.toNat 4 0) false else e) := by
  intro e
  have hstop : (t.err && decide (t.ecmd ≤ (s.src f.b 0).1.toNat)) = true := by simpa [herr] using hcmd
  refine completes_of_body (show execWaittl f s = _ from rfl) rfl hready ?_
  simp only [checkPlot_ok hplot, timelineM_ok ht, bind, Except.bind, if_neg (Nat.not_le.mpr hlt), if_pos hstop]
  rfl

theorem completes_tlget (hready : ready (.tlget f) s = true) : Completes (.tlget f) f s (s.dst f.d (BitVec.ofNat 64 t.count)) := by
  refine completes_of_body (show execTlget f s = _ from rfl) rfl hready ?_
  simp only [timelineM_ok ht, bind, Except.bind]

theorem completes_tlgetStat (hready : ready (.tlgetStat f) s = true) : Completes (.tlgetStat f) f s (s.dst f.d t.status) := by
  refine completes_of_body (show execTlgetStat f s = _ from rfl) rfl hready ?_
  simp only [timelineM_ok ht, bind, Except.bind]

end Timelines

/-- WAITTL, TLGET and TLGET.stat. -/
theorem timelineInstructions : TimelineInstructions := fun _ _ _ ht =>
  ⟨fun hready hplot => ⟨completes_waittl_reached ht hready hplot, completes_waittl_stopped ht hready hplot⟩, completes_tlget ht,
    completes_tlgetStat ht⟩

/-- Settles O11: FenceAndCounters by the orders of a fence and the counters of the mask, TimelineInstructions by how far the timeline is. -/
theorem fencesAndTimelines : Obligations.FencesAndTimelines := ⟨fenceAndCounters, timelineInstructions⟩

end Sys2Proof.Machine

/-! SUPPORT. What QPUSH, QPOP and the home of a queue do, and when MBPUT and MBTAKE go on (R188, R271, R391, R398 to R400). -/

namespace Sys2Proof.Machine

open Sys2Proof.Claims

/-! ### The issue of QPUSH and QPOP (R391, R399) -/

/-- The request of QPUSH or QPOP goes to the home of the header at an MVA, and its slot waits for it. -/
def State.sendQReq (s : State) (f : Fields) (push : Bool) (mva : Nat) (hdr : Tgt) : State :=
  let v := if push && f.d.cls = .G then s.g f.d else 0
  let d : Dst := if f.d.cls = .Q then .queue f.d.idx.toNat [] else .reg (s.thr.dstNo f.d.idx.toNat)
  let n := s.newId
  let q : QReq := ⟨n.2.core, n.2.slotNo, n.2.thr.hold, mva, hdr, push, v, n.2.slot.issued, none, d, n.1, f.yld⟩
  { n.2 with sc := { n.2.sc with qreqs := n.2.sc.qreqs ++ [q] } }.modSlot fun x => { x with sent := true }

/-- Where the header is in device memory, the request goes out and the slot is not ready. -/
theorem queueOp_sends {s s1 : State} {f : Fields} {push : Bool} {a pa m : Nat} {leaf : Leaf} (hsent : s.slot.sent = false)
    (hld : s.slot.ld < 63) (hrels : push = true ∨ s.slot.rels = 0) (hreach : reachM s s.who (s.refM f) 64 64 atomNeed = .ok (.mva a))
    (hparts : transParts s s.thr.hold (clusterOf s.core) a 64 atomNeed (s.refM f).word = .ok ([(.dev pa leaf, m)], s1))
    (hacq : s1.slot.acq = [] ∨ leaf.kind = 2) (hstays : roams s1 [(.dev pa leaf, m)] = none) :
    queueOp s f push = .error (.stay (s1.sendQReq f push a (.dev pa leaf))) := by
  have hpast : acqPast s1 (unordered [(.dev pa leaf, m)]) = .ok () :=
    acqPast_ok (hacq.imp_right fun h => by simp [unordered, Tgt.kind, Tgt.leaf?, h])
  unfold queueOp
  rw [if_neg (ne_true_of_eq_false hsent)]
  simp only [ldFull_ok hld, hreach, hparts, hpast, hstays, bind, Except.bind]
  cases push with
  | true => rfl
  | false =>
    rw [acqReady_ok (hrels.resolve_left Bool.false_ne_true)]
    rfl

theorem exec_queueTable : ∀ p ∈ queueTable, ∀ f s, exec (p.1 f) s = issue (p.1 f) s fun f s => queueOp s f p.2 := by
  simp only [queueTable, List.forall_mem_cons, List.not_mem_nil, false_implies, implies_true, and_true]
  exact ⟨fun f s => show execQpush f s = _ from rfl, fun f s => show execQpop f s = _ from rfl⟩

theorem encOf_queueTable : ∀ p ∈ queueTable, ∀ f, ∃ opc sh, encOf (p.1 f) = some (opc, f, sh) := by
  simp only [queueTable, List.forall_mem_cons, List.not_mem_nil, false_implies, implies_true, and_true]
  exact ⟨fun f => ⟨_, _, rfl⟩, fun f => ⟨_, _, rfl⟩⟩

/-! ### The home's step (R271, R399) -/

/-- The region in whose name the home acts for a request. -/
def State.qRgn (s : State) (q : QReq) : Nat := ((s.slotAt q.core q.slot).thr.map (·.rgn)).getD 0

/-- The slot of a request as it asks for a translation. -/
def State.qAsker (s : State) (q : QReq) : Asker := ⟨.queue q.core q.slot, q.hold, s.qRgn q⟩

/-- The MVA of the entry that a push writes or a pop takes. -/
def QHdr.entry (h : QHdr) (push : Bool) : Nat := h.rbase + 32 * ((if push then h.tail else h.head).toNat % (h.capm1 + 1))

/-- A push meets a full queue, or a pop an empty one. -/
def QHdr.shut (h : QHdr) (push : Bool) : Bool :=
  if push then h.capm1 < (h.tail - h.head).toNat else decide (h.tail = h.head)

theorem State.qPush_reg {s : State} {pos g : Nat} {q : QReq} (hdst : q.dst = .reg g) (h : QHdr) (at_ ent : AtHome) (pa ea : Nat) :
    s.qPush pos q h at_ ent pa ea =
      some (((((s.homeStore ent none ea (leBytes 8 q.value.toNat ++ leBytes 8 q.stamp ++
          leBytes 8 (coreX q.core + coreY q.core * 2 ^ 8 + q.slot * 2 ^ 16) ++ leBytes 8 0)).homeStore at_ none (pa + 24)
        (leBytes 8 (h.tail + 1).toNat)).setQReq pos none).passed q.core q.slot q.yld)) := by
  unfold State.qPush
  rw [hdst]
  rfl

/-- The value, the stamp and the producer's slot of an entry. -/
def qTaken (e : List Byte) : Word × Nat × Nat :=
  let src := leNat ((e.drop 16).take 8)
  (wordLe e, leNat ((e.drop 8).take 8), slotKey (coreAt (bits src 6 0) (bits src 13 8)) (bits src 19 16))

theorem State.qPop_reg {s t : State} {pos g : Nat} {q : QReq} (hdst : q.dst = .reg g) (h : QHdr) (at_ : AtHome) {ent : AtHome} (pa : Nat)
    {ea : Nat} {e : List Byte} (he : s.homeBytes ent ea 32 = (e, false, t)) :
    s.qPop pos q h at_ ent pa ea =
      (((t.homeStore at_ none (pa + 16) (leBytes 8 (h.head + 1).toNat)).setQReq pos (some { q with taken := some (qTaken e) })).passed
        q.core q.slot q.yld).modSlotAt q.core q.slot fun v =>
          { v with ld := v.ld + 1, acq := v.acq ++ [q.id], pendG := v.pendG ++ [idxNo g] } := by
  unfold State.qPop
  simp only [he, hdst]
  rfl

section Begin

variable {s s1 s2 s3 s4 s5 : State} {q : QReq} {pa ea g : Nat} {leaf el : Leaf} {h : QHdr} {hb : List Byte}
  (hdst : q.dst = .reg g) (hkey : (s.keyMat leaf.key).isSome = true)
  (hgate : s.hdmGate (some (.queue q.core q.slot)) pa 64 true q.hold (s.qRgn q) = (true, s1))
  (hread : s1.homeBytes (atHome leaf q.hold (s.qRgn q) (BitVec.ofNat 64 q.hdr)) pa 64 = (hb, false, s2)) (hhdr : qHdrOf hb = some h)
  (hwalks : s2.walksOpen (s.qAsker q) h.pages = (true, s3)) (hring : s3.ringBad q.hold h = false) (hopen : h.shut q.push = false)
  (htr : s3.translate (s.qAsker q) (clusterOf q.core) (h.entry q.push) { r := true, w := true } = (.ok (.dev ea el), s4))
  (hent : s4.hdmGate (some (.queue q.core q.slot)) ea 32 q.push q.hold (s.qRgn q) = (true, s5))
include hdst hkey hgate hread hhdr hwalks hring hopen htr hent

/-- Where the header can be read and the queue is not shut, the request comes to its entry. -/
theorem State.qBegin_enters (pos : Nat) :
    let at_ := atHome leaf q.hold (s.qRgn q) (BitVec.ofNat 64 q.hdr)
    let ent := atHome el q.hold (s.qRgn q) (BitVec.ofNat 64 (h.entry q.push))
    s.qBegin pos q pa leaf = if q.push then s5.qPush pos q h at_ ent pa ea else some (s5.qPop pos q h at_ ent pa ea) := by
  have hhas : ¬(s.keyMat leaf.key).isNone = true := by simpa [Option.isSome_iff_ne_none] using hkey
  simp only [State.qAsker, State.qRgn, QHdr.entry, QHdr.shut] at hgate hread hwalks hopen htr hent ⊢
  unfold State.qBegin
  simp only [if_neg hhas, hgate, hread, hhdr, hwalks, hring, State.qRoom, hdst, htr, hent, hopen, Bool.not_true, Bool.and_false,
    Bool.or_false, Bool.false_eq_true, if_false]

end Begin

theorem happens_queueHomeStep_begin {s t : State} {q : QReq} {pa : Nat} {leaf : Leaf} (hq : s.sc.qreqs[s.ctl.here.pos]? = some q)
    (htaken : q.taken = none) (hat : q.hdrAt = .dev pa leaf) (hbegin : s.qBegin s.ctl.here.pos q pa leaf = some t) :
    Happens .queueHomeStep s t := by
  refine happens_of rfl ?_
  simp only [hq, htaken, hat]
  exact hbegin

/-- A pop whose producer's stores have drained lands its value and acquires. -/
theorem happens_queueHomeStep_land {s : State} {q : QReq} {v : Word} {stamp prod : Nat} (hq : s.sc.qreqs[s.ctl.here.pos]? = some q)
    (htaken : q.taken = some (v, stamp, prod)) (hdrained : stamp ≤ (Tab.get {} s.co.slots prod).drained)
    (hlive : s.killing q.core q.slot = false) :
    let e := (s.setQReq s.ctl.here.pos none).land q.core q.slot q.hold q.dst ⟨8, false⟩ (some (leBytes 8 v.toNat))
    Happens .queueHomeStep s ((e.acquire q.core).modSlotAt q.core q.slot fun x =>
      { x with ld := x.ld - 1, acq := x.acq.filter (· ≠ q.id) }) := by
  refine happens_of rfl ?_
  simp only [hq, htaken, if_neg (Nat.not_lt.mpr hdrained), hlive]
  rfl

/-- QPUSH and QPOP. -/
theorem memoryQueues : MemoryQueues := by
  refine ⟨?send, ?begin, fun s q v stamp prod => happens_queueHomeStep_land⟩
  case send =>
    intro p hp f s a pa leaf m s1 hready hsent hld hrels hreach hparts hacq hstays v d n q
    obtain ⟨opc, sh, he⟩ := encOf_queueTable p hp f
    rw [exec_queueTable p hp f s, issue_ready he hready, queueOp_sends hsent hld hrels hreach hparts hacq hstays]
    rfl
  case begin =>
    intro s q pa leaf h ea el hb s1 s2 s3 s4 s5 g hq htaken hat hdst who rgn at_ hkey hgate hread hhdr hwalks hring k mva htr hent ent
    have henters (hopen : h.shut q.push = false) : s.qBegin s.ctl.here.pos q pa leaf =
        if q.push then s5.qPush s.ctl.here.pos q h at_ ent pa ea else some (s5.qPop s.ctl.here.pos q h at_ ent pa ea) :=
      State.qBegin_enters hdst hkey hgate hread hhdr hwalks hring hopen htr hent s.ctl.here.pos
    refine ⟨fun hpush hroom => ?push, fun e s6 hpop hsome he => ?pop⟩
    case push =>
      refine happens_queueHomeStep_begin hq htaken hat ((henters (by simpa [QHdr.shut, hpush] using hroom)).trans ?_)
      exact (if_pos hpush).trans (State.qPush_reg hdst h at_ ent pa ea)
    case pop =>
      refine happens_queueHomeStep_begin hq htaken hat ((henters (by simpa [QHdr.shut, hpop] using hsome)).trans ?_)
      exact (if_neg (ne_true_of_eq_false hpop)).trans (congrArg some (State.qPop_reg hdst h at_ pa he))

/-! ### Mailboxes (R188, R400) -/

@[simp] theorem State.pin_core (s : State) : s.pin.core = s.core := rfl
@[simp] theorem State.pin_hcAt (s : State) (core hold : Nat) : s.pin.hcAt core hold = s.hcAt core hold := rfl

@[simp] theorem State.pin_gpr (s : State) (n : Nat) : s.pin.thr.gpr n = s.thr.gpr n := by
  rw [State.pin, State.thr_modThr]
  rfl

theorem State.foldl_setG_core (l : List Nat) (n : Nat → Nat) (v : Nat → Word) (s : State) :
    (l.foldl (fun (t : State) k => t.setG (n k) (v k)) s).core = s.core :=
  foldl_keeps (step := fun (t : State) k => t.setG (n k) (v k)) State.core (fun _ _ => rfl) l s

/-- MBPUT goes on at an empty mailbox, in its turn, when every earlier access of the thread is performed at module scope. -/
theorem completes_mbput {f : Fields} {s : State} (hready : ready (.mbput f) s = true) :
    let n := bits f.imm.toNat 2 0
    let h := s.thr.hold
    Tab.get false (s.hcAt s.core h).mbFull n = false → s.mboxTurn (2 * n) = true →
    s.released s.core s.slotNo modulePlot = true →
    Completes (.mbput f) f s ((s.pin.modHc s.core h fun c => { c with
      mb := Tab.setBytes c.mb (64 * n) ((List.range 8).flatMap fun k => leBytes 8 (s.thr.gpr (f.a.idx.toNat + k)).toNat)
      mbFull := Tab.set false c.mbFull n true }).raiseMail s.core h) := by
  intro n h hempty hturn hreleased
  refine completes_of_body (show execMbput f s = _ from rfl) rfl hready ?_
  have hgo : ¬(Tab.get false (s.hcAt s.core h).mbFull n || !s.mboxTurn (2 * n)) = true := by simp [hempty, hturn]
  have hperf : ¬(!s.released s.core s.slotNo modulePlot) = true := by simp [hreleased]
  refine (if_neg hgo).trans ((if_neg hperf).trans ?_)
  simp only [State.pin_gpr]
  rfl

/-- MBTAKE goes on at a full mailbox, in its turn, and acquires. -/
theorem completes_mbtake {f : Fields} {s : State} (hready : ready (.mbtake f) s = true) :
    let n := bits f.imm.toNat 2 0
    let h := s.thr.hold
    Tab.get false (s.hcAt s.core h).mbFull n = true → s.mboxTurn (2 * n + 1) = true → s.slot.rels = 0 →
    Completes (.mbtake f) f s
      (((List.range 8).foldl (fun (t : State) k =>
        t.setG (f.d.idx.toNat + k) (wordLe ((Tab.bytes (s.hcAt s.core h).mb (64 * n) 64).drop (8 * k))))
        (s.pin.modHc s.core h fun c => { c with mbFull := Tab.set false c.mbFull n false })).acquire s.core) := by
  intro n h hfull hturn hrels
  refine completes_of_body (show execMbtake f s = _ from rfl) rfl hready ?_
  have hgo : ¬(!Tab.get false (s.hcAt s.core h).mbFull n || !s.mboxTurn (2 * n + 1) || decide (s.slot.rels ≠ 0)) = true := by
    simp [hfull, hturn, hrels]
  refine (if_neg hgo).trans ?_
  simp only [State.pin_hcAt, State.pin_core, State.foldl_setG_core]
  rfl

/-- Settles O14: MemoryQueues by the issue and the home's step, Mailboxes by the turn at a mailbox. -/
theorem queuesAndMailboxes : Obligations.QueuesAndMailboxes :=
  ⟨memoryQueues, fun _ _ => ⟨completes_mbput, completes_mbtake⟩⟩

end Sys2Proof.Machine

/-! SUPPORT. What the events of the matrix and copy engines do, and a place by which a record of one cluster runs as if it stood in another
(R269, R277, R279 to R282, R291, R439). -/

namespace Sys2Proof.Machine

open Sys2Proof.Claims

/-! ### Matrix records (R280 to R282, R439) -/

/-- The place of the present step names the engine context with this key. -/
def State.AtCtx (s : State) (key : Nat) : Prop := s.ctl.here.unit * 4 + s.ctl.here.sub = key

theorem happens_matrixRecordAccept {s t : State} (h : s.mxAccept s.ctl.here.unit s.ctl.here.sub = some t) : Happens .matrixRecordAccept s t :=
  happens_of rfl h

/-- A context whose queue has room accepts its oldest waiting record. -/
theorem State.mxAccept_isSome {s : State} {k c : Nat} {r : MxRec} {rest : List MxRec} (hw : (s.mctx (k * 4 + c)).wait = r :: rest)
    (hroom : (s.mctx (k * 4 + c)).queue.length < 64) : (s.mxAccept k c).isSome = true := by
  unfold State.mxAccept
  simp only [hw, if_neg (Nat.not_le.mpr hroom), Option.isSome_some]

/-- The first context in turn that has a record which may start has one of these started. -/
theorem happens_matrixRecordStart {s s1 : State} {c i : Nat}
    (hc : (((List.range 4).map fun i => (Tab.get 0 s.en.served s.ctl.here.unit + i) % 4).find? fun c =>
      s.mxReady s.ctl.here.unit c ≠ []) = some c)
    (hi : s.choose (s.mxReady s.ctl.here.unit c).length = (i, s1)) :
    let t := { s1 with en := { s1.en with served := Tab.set 0 s1.en.served s.ctl.here.unit ((c + 1) % 4) } }
    Happens .matrixRecordStart s (t.newId.2.modRec (s.ctl.here.unit * 4 + c) ((s.mxReady s.ctl.here.unit c).getD i 0) fun r =>
      { r with running := true, begun := t.newId.1 }) := by
  refine happens_of rfl ?_
  simp only [hc, hi]

/-- The running records of a type of a context that neither a stop nor a stall holds back. -/
def State.runnable (s : State) (key ty : Nat) : List MxRec :=
  let m := s.mctx key
  m.queue.filter fun r => r.running && decide (recType r.bytes = ty) && m.stall = none && !(m.err && m.ecmd ≤ r.num) &&
    (m.waits = none || m.waits = some r.num)

section Run

variable {s t : State} {key ty : Nat} {r : MxRec} {run : Eng → MxRec → State → E State} (hkey : s.AtCtx key)
  (hr : (s.runnable key ty)[s.ctl.here.pos]? = some r)
include hkey hr

/-- A record waits for one that started before it on its tile, in the cluster of its context's key. -/
theorem State.runRec_waits (hfirst : s.startedBefore (key / 4) r = true) : s.runRec (· = ty) run = none := by
  subst hkey
  unfold State.runnable at hr
  unfold State.runRec
  simp only [hr]
  exact if_pos hfirst

/-- Otherwise it takes its effect and leaves the queue. -/
theorem State.runRec_runs (hfirst : s.startedBefore (key / 4) r = false)
    (hrun : run (r.eng key) r (s.engWaits (r.eng key) none) = .ok t) :
    s.runRec (· = ty) run =
      some ((t.dropEng (r.eng key)).modMctx key fun c => { c with queue := c.queue.filter fun e => e.num ≠ r.num }) := by
  subst hkey
  unfold State.runnable at hr
  unfold State.runRec
  simp only [hr]
  rw [if_neg (ne_true_of_eq_false hfirst), hrun]

end Run

theorem exec_recordTable : ∀ p ∈ recordTable, ∀ s, exec p.1 s = event s (s.runRec (· = p.2.1) p.2.2) := by
  simp only [recordTable, List.forall_mem_cons, List.not_mem_nil, false_implies, implies_true, and_true]
  exact ⟨fun s => rfl, fun s => rfl, fun s => rfl, fun s => rfl, fun s => rfl, fun s => rfl, fun s => rfl, fun s => rfl⟩

/-- Where the place names one of the cluster's four contexts, a started record takes its effect and leaves the queue. -/
theorem happens_record {p : Instr × Nat × (Eng → MxRec → State → E State)} (hp : p ∈ recordTable) {s t : State} {key : Nat} {r : MxRec}
    (hkey : s.AtCtx key) (hsub : s.ctl.here.sub < 4) (hr : (s.runnable key p.2.1)[s.ctl.here.pos]? = some r)
    (hfirst : s.startedBefore s.ctl.here.unit r = false) (hrun : p.2.2 (r.eng key) r (s.engWaits (r.eng key) none) = .ok t) :
    Happens p.1 s ((t.dropEng (r.eng key)).modMctx key fun c => { c with queue := c.queue.filter fun e => e.num ≠ r.num }) := by
  have hcluster : key / 4 = s.ctl.here.unit := by
    unfold State.AtCtx at hkey
    omega
  exact happens_of (exec_recordTable p hp s) (State.runRec_runs hkey hr (hcluster ▸ hfirst) hrun)

/-! ### Copies (R291) -/

section Copies

variable {s : State} {key : Nat} {c : CopyCmd} {rest : List CopyCmd} (hkey : s.AtCtx key)
include hkey

/-- A CPYG that raises OUTB is accepted as its walk allows. -/
theorem happens_copyCommandAccept_gather {t : State} (hw : (s.cctx key).wait = c :: rest) (hg : (c.kind = .gather && c.ob) = true)
    (ht : s.gatherAccept key c = some t) : Happens .copyCommandAccept s t := by
  subst hkey
  refine happens_of rfl ?_
  simp only [hw, hg, if_true]
  exact ht

/-- A context whose queue has room accepts any other command. -/
theorem happens_copyCommandAccept (hw : (s.cctx key).wait = c :: rest) (hroom : (s.cctx key).queue.length < 16)
    (hg : (c.kind = .gather && c.ob) = false) :
    let t := (s.modCctx key fun x =>
      { x with wait := rest, last := x.last + 1, queue := x.queue ++ [{ c with num := x.last + 1 }] }).modSlotAt (key / 4) c.slot fun v =>
        { v with cp := v.cp - 1 }
    Happens .copyCommandAccept s
      (if c.ob then t.updObj (key / 4) c.hold c.boff c.rgn (BarObj.outAdd (t.copyBytes (c.eng key) c)) else t) := by
  subst hkey
  refine happens_of rfl ?_
  simp only [hw, hg, State.copyAccept, if_neg (Nat.not_le.mpr hroom)]
  rfl

section Running

variable (hq : (s.cctx key).queue = c :: rest) (hruns : (s.cctx key).runs = true)
include hq hruns

/-- The next sector of the oldest command is done, once the slot's stores before the command have drained. -/
theorem happens_copySector {t : State}
    (hmore : (s.cctx key).pos < s.copySectors (c.eng key) c (s.cctx key).walk ∨ (c.kind = .gather ∧ (s.cctx key).walk = []))
    (hdrained : c.drainTo ≤ (s.slotAt (key / 4) c.slot).drained)
    (hrun : runSector (c.eng key) c (s.cctx key).pos s = .ok t) :
    Happens .copySector s (t.modCctx key fun y =>
      { y with
        pos := y.pos + 1
        walk := if c.kind = .gather then y.walk else []
        got := []
        unit := 0
        units := []
        paid := 0
        used := 0 }) := by
  subst hkey
  refine happens_of rfl ?_
  simp only [hq]
  rw [if_neg (by simpa [hruns, hdrained, or_iff_not_imp_left] using hmore), hrun]

section Complete

variable (hdone : s.copySectors (c.eng key) c (s.cctx key).walk ≤ (s.cctx key).pos)
  (hwalk : c.kind = .gather → (s.cctx key).walk ≠ []) (hflush : s.engFlushing false key = false)
  (hsend : s.sending (· = .eng false key) = false)
include hdone hwalk hflush hsend

/-- A copy that has written to peers asks them for a flush. -/
theorem happens_copyComplete_flush (hp : (s.cctx key).peers ≠ []) :
    Happens .copyComplete s (s.askEng false key (s.cctx key).peers) := by
  subst hkey
  refine happens_of rfl ?_
  simp only [hq]
  rw [if_neg (by simpa [hruns, hdone, hflush, hsend] using hwalk), if_pos hp]

/-- A copy whose peers have its writes completes. -/
theorem happens_copyComplete (hp : (s.cctx key).peers = []) :
    let y := s.cctx key
    let s1 := if y.owed = 0 then s else s.updObj (key / 4) c.hold c.boff c.rgn (BarObj.outSub y.owed)
    let t := s1.modCctx key fun y =>
      { y with queue := rest, pos := 0, walk := [], got := [], unit := 0, units := [], paid := 0, used := 0, owed := 0 }
    Happens .copyComplete s (if c.irq then t.raiseCopy c.hold c.ctxid else t) := by
  subst hkey
  refine happens_of rfl ?_
  simp only [hq]
  rw [if_neg (by simpa [hruns, hdone, hflush, hsend] using hwalk), if_neg (not_not_intro hp)]

end Complete

end Running

end Copies

/-! ### Timelines (R269, R277) -/

section Timelines

variable {s : State} {key : Nat} (hkey : s.AtCtx key)
include hkey

/-- A matrix timeline advances over all that has completed, once its writes have left and peers have them. -/
theorem happens_timelineAdvance_matrix (hpos : s.ctl.here.pos = 1) (hsend : s.sending (· = .eng true key) = false)
    (hlt : (s.mctx key).count < doneTo (s.mctx key).last ((s.mctx key).queue.map (·.num))) (hflush : s.engFlushing true key = false) :
    let m := s.mctx key
    Happens .timelineAdvance s (if m.peers = [] then s.modMctx key fun x => { x with count := doneTo m.last (m.queue.map (·.num)) }
      else s.askEng true key m.peers) := by
  subst hkey
  refine happens_of (if_pos hpos) ?_
  rw [if_neg (by simpa [hsend, hflush] using hlt), ite_not]
  exact (apply_ite some _ _ _).symm

/-- So does a copy timeline. -/
theorem happens_timelineAdvance_copy (hpos : s.ctl.here.pos ≠ 1) (hsend : s.sending (· = .eng false key) = false)
    (hlt : (s.cctx key).count < doneTo (s.cctx key).last ((s.cctx key).queue.map (·.num))) (hflush : s.engFlushing false key = false) :
    let y := s.cctx key
    Happens .timelineAdvance s (if y.peers = [] then s.modCctx key fun x => { x with count := doneTo y.last (y.queue.map (·.num)) }
      else s.askEng false key y.peers) := by
  subst hkey
  refine happens_of (if_neg hpos) ?_
  rw [if_neg (by simpa [hsend, hflush] using hlt), ite_not]
  exact (apply_ite some _ _ _).symm

end Timelines

/-! ### The refutation -/

/-- A running ZERO of accumulator tile 0, which started as number `begun`. -/
def runningZero (begun : Nat) : MxRec :=
  { num := 1, bytes := [], hdrA := 0, hdrB := 0, hdrC := 0, ldb := 0, mode := 0, nsat := false, seed := 0, order := 0, core := 0, slot := 0,
    hold := 0, rgn := 0, launch := 0, ctxid := 0, part := 0, dst := .none, drainTo := 0, sg := [], stkc := 0, sovf := 0, running := true,
    begun := begun, pos := 0, buf := [] }

/-- Contexts 0 and 1 of cluster 1 (keys 4 and 5) each run a ZERO of tile 0, that of context 1 the earlier; the present step's place names
context 4 of cluster 0, whose key is 4 too. -/
def strayPlace : State :=
  { State.reset with
    en := { mx := [(4, { last := 1, queue := [runningZero 1] }), (5, { last := 1, queue := [runningZero 0] })] }
    ctl := { here := ⟨0, 4, 0⟩ } }

theorem runnable_strayPlace : (strayPlace.runnable 4 0)[strayPlace.ctl.here.pos]? = some (runningZero 1) := by decide +kernel

/-- The record at the place waits for the earlier one of its own cluster. -/
theorem exec_zeroRec_strayPlace : exec .zeroRec strayPlace = .fault .notEnabled := by
  have hkey : strayPlace.AtCtx 4 := rfl
  have hearlier : strayPlace.startedBefore (4 / 4) (runningZero 1) = true := by decide +kernel
  have hwaits : strayPlace.runRec (· = 0) runZero = none := State.runRec_waits hkey runnable_strayPlace hearlier
  exact congrArg (event strayPlace) hwaits

/-- Refutes O36: its clause on records takes the place's `unit` as the cluster, and bounds `sub` nowhere. A place with `sub` = 4 names a
context of the next cluster, by whose key the record still waits for one that started before it on its tile. Where `sub` names one of the
four contexts the clause holds (`happens_record`), and the other clauses hold everywhere (`happens_matrixRecordAccept`,
`State.mxAccept_isSome`, `happens_matrixRecordStart`, `happens_copyCommandAccept_gather`, `happens_copyCommandAccept`,
`happens_copySector`, `happens_copyComplete_flush`, `happens_copyComplete`, `happens_timelineAdvance_matrix`,
`happens_timelineAdvance_copy`). -/
theorem not_engineEvents : ¬ Obligations.EngineEvents := by
  intro h
  obtain ⟨-, -, -, hrecord, -⟩ := h strayPlace
  have hfirst : strayPlace.startedBefore strayPlace.ctl.here.unit (runningZero 1) = false := by decide +kernel
  have hruns := hrecord (.zeroRec, 0, runZero) (by simp [recordTable]) (runningZero 1) _ runnable_strayPlace hfirst rfl
  have hboth := exec_zeroRec_strayPlace.symm.trans hruns
  cases hboth

end Sys2Proof.Machine

/-! SUPPORT. The encoder and the decoder are each other's inverse on valid encodings (R299 to R302, R314 to R316): an opcode and its fields
build one instruction, a word is its opcode and its fields, and 12 bytes are one word. -/

namespace Sys2Proof.Machine

/-! ### Opcodes that several instructions share -/

theorem build_tlget (f : Fields) :
    build 0x73 f = if f.fn.toNat = 0 then some (.tlget f) else if f.fn.toNat = 1 then some (.tlgetStat f) else none := rfl
theorem build_resto (f : Fields) : build 0xF1 f = if f.imm.toNat % 2 = 0 then some (.resto f) else some (.restoFrame f) := rfl
theorem build_rgnop (f : Fields) :
    build 0xF2 f = if f.fn.toNat = 0 then some (.rgnopCreate f) else if f.fn.toNat = 1 then some (.rgnopResize f)
      else if f.fn.toNat = 2 then some (.rgnopFreeze f) else if f.fn.toNat = 3 then some (.rgnopThaw f)
      else if f.fn.toNat = 4 then some (.rgnopDestroy f) else if f.fn.toNat = 5 then some (.rgnopSlice f) else none := rfl
theorem build_keyset (f : Fields) : build 0xF3 f = if f.imm.toNat % 2 = 0 then some (.keyset f) else some (.keysetClear f) := rfl
theorem build_rota (f : Fields) : build 0xF5 f = if f.imm.toNat % 2 = 0 then some (.rota f) else some (.rotaCtl f) := rfl
theorem build_pgver (f : Fields) :
    build 0xF9 f = if f.imm.toNat % 4 = 0 then some (.pgverArm f) else if f.imm.toNat % 4 = 1 then some (.pgverRead f)
      else if f.imm.toNat % 4 = 2 then some (.pgverCommit f) else some (.pgverFree f) := rfl

/-- An instruction whose FN and IMM are accepted is the one that its opcode and its fields build: rows that share an opcode differ in the FN or
the low bits of IMM that they accept (R314). -/
theorem build_of_encOf {i : Instr} {opc : Nat} {f : Fields} {sh : EncRule} (he : encOf i = some (opc, f, sh))
    (hi : illopOf i = false) : build opc f = some i := by
  simp only [illopOf, he, Bool.or_eq_false_iff, Bool.not_eq_false'] at hi
  obtain ⟨⟨hfn, -⟩, himm⟩ := hi
  cases i
  case tlget | tlgetStat | rgnopCreate | rgnopResize | rgnopFreeze | rgnopThaw | rgnopDestroy | rgnopSlice =>
    cases he
    have hfn := List.mem_singleton.mp (List.contains_iff_mem.mp hfn)
    simp [build_tlget, build_rgnop, hfn]
  case resto | restoFrame | keyset | keysetClear | rota | rotaCtl | pgverArm | pgverRead | pgverCommit | pgverFree =>
    cases he
    have himm := of_decide_eq_true himm
    simp [build_resto, build_keyset, build_rota, build_pgver, himm]
  all_goals cases he <;> rfl

/-- An opcode has 8 bits (R299). -/
theorem encOf_lt {i : Instr} {opc : Nat} {f : Fields} {sh : EncRule} (he : encOf i = some (opc, f, sh)) : opc < 256 := by
  cases i <;> cases he <;> decide

/-- What an opcode and fields build has that opcode and those fields in the tables. -/
theorem encOf_of_build {i : Instr} {opc : Nat} {f : Fields} (ho : opc < 256) (hb : build opc f = some i) :
    ∃ sh, encOf i = some (opc, f, sh) := by
  by_cases hs : opc = 0x73 ∨ opc = 0xF1 ∨ opc = 0xF2 ∨ opc = 0xF3 ∨ opc = 0xF5 ∨ opc = 0xF9
  · rcases hs with rfl | rfl | rfl | rfl | rfl | rfl
    all_goals
      simp only [build_tlget, build_resto, build_rgnop, build_keyset, build_rota, build_pgver] at hb
      split_ifs at hb <;> cases hb <;> exact ⟨_, rfl⟩
  · interval_cases opc
    all_goals simp at hs
    all_goals cases hb <;> exact ⟨_, rfl⟩

/-! ### The word and its fields (R299, R302) -/

theorem Cls.ofCode_code (c : Cls) : Cls.ofCode c.code = c := by cases c <;> rfl

theorem Cls.code_ofCode (b : BitVec 3) : (Cls.ofCode b).code = b := by revert b; decide

theorem Operand.ofBits_bits (o : Operand) : Operand.ofBits o.bits = o := by
  obtain ⟨c, n⟩ := o
  simp only [Operand.bits, Operand.ofBits, BitVec.extractLsb'_append_eq_left, BitVec.extractLsb'_append_eq_right, Cls.ofCode_code]

theorem Operand.bits_ofBits (b : BitVec 10) : (Operand.ofBits b).bits = b := by
  simp only [Operand.bits, Operand.ofBits, Cls.code_ofCode]
  exact (BitVec.extractLsb'_append_extractLsb'_eq_extractLsb' rfl).trans BitVec.extractLsb'_eq_self

theorem opcOf_packWord {opc : Nat} {f : Fields} (h : opc < 256) : opcOf (packWord opc f) = opc := by
  unfold opcOf packWord
  simp only [BitVec.extractLsb'_append_eq_of_le, Nat.reduceLeDiff, Nat.reduceSub, BitVec.extractLsb'_eq_self]
  simp
  omega

/-- The width of `packWord` as the sum of the widths of its parts, by which the lemmas on `++` apply. -/
theorem fieldsOf_eq (w : BitVec (8 + 4 + (1 + 5 + 1 + 1 + 6) + 10 + 10 + 10 + 8 + 32)) :
    fieldsOf w =
      { fn := w.extractLsb' 84 4, neg := w.getLsbD 83, grd := w.extractLsb' 78 5, yld := w.getLsbD 77, nt := w.getLsbD 76,
        hint := w.extractLsb' 70 6, d := Operand.ofBits (w.extractLsb' 60 10), a := Operand.ofBits (w.extractLsb' 50 10),
        b := Operand.ofBits (w.extractLsb' 40 10), md := w.extractLsb' 32 8, imm := w.extractLsb' 0 32 } := rfl

theorem fieldsOf_packWord (opc : Nat) (f : Fields) : fieldsOf (packWord opc f) = f := by
  obtain ⟨fn, neg, grd, yld, nt, hint, d, a, b, md, imm⟩ := f
  refine (fieldsOf_eq (BitVec.ofNat 8 opc ++ fn ++ (BitVec.ofBool neg ++ grd ++ BitVec.ofBool yld ++ BitVec.ofBool nt ++ hint) ++
    d.bits ++ a.bits ++ b.bits ++ md ++ imm)).trans ?_
  simp (disch := decide) only [BitVec.extractLsb'_append_eq_of_le, BitVec.extractLsb'_append_eq_of_add_le,
    BitVec.getLsbD_append, Nat.reduceLT, Nat.reduceSub, Nat.sub_self, if_true, if_false]
  simp [Operand.ofBits_bits]

theorem packWord_fieldsOf (w : BitVec 96) : packWord (opcOf w) (fieldsOf w) = w := by
  have hbit (n : Nat) : BitVec.ofBool (w.getLsbD n) = w.extractLsb' n 1 := by
    rw [BitVec.getLsbD_eq_extractLsb']
    generalize w.extractLsb' n 1 = b
    revert b
    decide
  simp only [packWord, fieldsOf, opcOf, Fields.guardBits, Operand.bits_ofBits, hbit, BitVec.ofNat_toNat, BitVec.setWidth_eq,
    BitVec.extractLsb'_append_extractLsb'_eq_extractLsb']
  exact BitVec.extractLsb'_eq_self

/-! ### The bytes of a word (R300) -/

theorem length_leBytes (n v : Nat) : (leBytes n v).length = n := by
  induction n generalizing v with
  | zero => rfl
  | succ n ih => simp [leBytes, ih]

theorem leNat_leBytes (n v : Nat) : leNat (leBytes n v) = v % 256 ^ n := by
  induction n generalizing v with
  | zero => simp [leBytes, leNat, Nat.mod_one]
  | succ n ih =>
    calc leNat (leBytes (n + 1) v) = v % 256 + 256 * (v / 256 % 256 ^ n) := by simp [leBytes, leNat, ih]
      _ = v % 256 ^ (n + 1) := by rw [pow_succ', Nat.mod_mul]

theorem wordOfBytes_bytesOfWord (w : BitVec 96) (rest : List Byte) : wordOfBytes (bytesOfWord w ++ rest) = w := by
  have htake : (bytesOfWord w ++ rest).take 12 = bytesOfWord w := List.take_left' (length_leBytes ..)
  rw [wordOfBytes, htake, bytesOfWord, leNat_leBytes]
  exact BitVec.eq_of_toNat_eq (by simpa using w.isLt)

/-- The first 12 bytes are the word that is decoded, and the others stay (R300). -/
theorem decodeBytes_bytesOfWord {w : BitVec 96} {i : Instr} (h : decode w = .ok i) (rest : List Byte) :
    decodeBytes (bytesOfWord w ++ rest) = .ok (i, rest) := by
  have hlen : (bytesOfWord w).length = 12 := length_leBytes ..
  simp [decodeBytes, hlen, wordOfBytes_bytesOfWord, h]

/-! ### Decoding and encoding -/

/-- The decoder accepts a word exactly when its opcode and fields build an instruction whose encoding is valid (R316). -/
theorem decode_eq_ok {w : BitVec 96} {i : Instr} :
    decode w = .ok i ↔ build (opcOf w) (fieldsOf w) = some i ∧ illopOf i = false ∧ illopdOf true i = none := by
  unfold decode
  cases hb : build (opcOf w) (fieldsOf w) with
  | none => simp
  | some j =>
    by_cases hi : illopOf j = true
    · simp only [hi, if_true, reduceCtorEq, Option.some.injEq, false_iff]
      rintro ⟨rfl, h, -⟩
      simp [hi] at h
    · cases hd : illopdOf true j with
      | none =>
        simp [hi, hd]
        rintro rfl
        exact ⟨by simpa using hi, hd⟩
      | some n =>
        simp [hi, hd]
        rintro rfl
        simp [hd]

theorem wellFormed_iff {i : Instr} :
    i.wellFormed = true ↔ (∃ opc f sh, encOf i = some (opc, f, sh)) ∧ illopOf i = false ∧ illopdOf true i = none := by
  simp only [Instr.wellFormed, Instr.isWord, Bool.and_eq_true, Bool.not_eq_true', Option.isNone_iff_eq_none, Option.isSome_iff_exists, Prod.exists, and_assoc]

theorem encode_eq {i : Instr} {opc : Nat} {f : Fields} {sh : EncRule} (he : encOf i = some (opc, f, sh)) :
    encode i = some (packWord opc f) := by simp [encode, he]

/-- Settles O53: the decoder takes the word apart into the opcode and the fields that made it, which build the instruction again. -/
theorem decodeOfEncode : Obligations.DecodeOfEncode := by
  intro i hi
  obtain ⟨⟨opc, f, sh, he⟩, hill, hilld⟩ := wellFormed_iff.mp hi
  have hword : build (opcOf (packWord opc f)) (fieldsOf (packWord opc f)) = some i := by
    rw [opcOf_packWord (encOf_lt he), fieldsOf_packWord, build_of_encOf he hill]
  have hdec := decode_eq_ok.mpr ⟨hword, hill, hilld⟩
  exact ⟨packWord opc f, encode_eq he, hdec, decodeBytes_bytesOfWord hdec⟩

/-- Settles O54: the instruction's table entry has the word's opcode and fields, and these make up the whole word. -/
theorem encodeOfDecode : Obligations.EncodeOfDecode := by
  intro w i h
  obtain ⟨hb, hill, hilld⟩ := decode_eq_ok.mp h
  obtain ⟨sh, he⟩ := encOf_of_build (BitVec.isLt _) hb
  exact ⟨wellFormed_iff.mpr ⟨⟨_, _, sh, he⟩, hill, hilld⟩, (encode_eq he).trans (by rw [packWord_fieldsOf])⟩

/-- Settles O55: the decoder is run on each word. -/
theorem decodeWords : Obligations.DecodeWords := by
  unfold Obligations.DecodeWords
  decide +kernel

end Sys2Proof.Machine

/-! SUPPORT. The results of the scalar instructions: each family of a table is one operation with the value of its row (R339 to R359, R456 to
R459). -/

namespace Sys2Proof.Machine

open Sys2Proof.Claims

/-! ### Integer instructions (R339 to R346) -/

/-- The low six bits as a remainder. -/
theorem bits_five_zero (n : Nat) : bits n 5 0 = n % 64 := by simp [bits]

theorem sextR_eq (md : BitVec 8) (a b : Word) :
    sextR md a b = extend true (if b.toNat % 64 = 0 then 64 else b.toNat % 64) (a.toNat : Nat) := by
  simp only [sextR, extBits, bits_five_zero]

theorem zextR_eq (md : BitVec 8) (a b : Word) :
    zextR md a b = extend false (if b.toNat % 64 = 0 then 64 else b.toNat % 64) (a.toNat : Nat) := by
  simp only [zextR, extBits, bits_five_zero]

/-- Each instruction of the table is the integer operation with the formula of its row. -/
theorem exec_intTable : ∀ p ∈ intTable, ∀ f s, exec (p.1 f) s = intOp (p.1 f) s p.2 := by
  intro p hp f s
  fin_cases hp
  -- The table's rows for SEXT and ZEXT, whose width is read modulo 64.
  pick_goal 27
  · exact congrArg (intOp (.sext f) s) (funext fun md => funext fun a => funext fun b => sextR_eq md a b)
  pick_goal 27
  · exact congrArg (intOp (.zext f) s) (funext fun md => funext fun a => funext fun b => zextR_eq md a b)
  all_goals rfl

theorem encOf_intTable : ∀ p ∈ intTable, ∀ f, ∃ opc sh, encOf (p.1 f) = some (opc, f, sh) := by
  intro p hp f
  fin_cases hp <;> exact ⟨_, _, rfl⟩

theorem integerResult : IntegerResult := by
  intro p hp f s h
  obtain ⟨opc, sh, henc⟩ := encOf_intTable p hp f
  exact completes_of_body (exec_intTable p hp f s) henc h rfl

/-! ### Fields, selection and special registers (R343 to R348) -/

theorem fieldAndSpecialResult : FieldAndSpecialResult :=
  ⟨fun f s h => completes_of_body (show execBfi f s = _ from rfl) rfl h rfl,
    fun f s h => completes_of_body (show execMovhi f s = _ from rfl) rfl h rfl,
    fun f s h => completes_of_body (show execSel f s = _ from rfl) rfl h rfl,
    fun f s h => completes_of_body (show execAddsh f s = _ from rfl) rfl h rfl,
    fun f s h => completes_of_body (show execMfs f s = _ from rfl) rfl h rfl,
    fun f s h => completes_of_body (show execMts f s = _ from rfl) rfl h rfl⟩

/-- Settles O1: one lemma for the instructions of one shape, and the body of each of the others. -/
theorem integerAndMoveResult : Obligations.IntegerAndMoveResult := ⟨integerResult, fieldAndSpecialResult⟩

/-! ### Floating instructions (R350 to R354, R456, R458) -/

theorem exec_floatTable : ∀ p ∈ floatTable, ∀ f s, exec (p.1 f) s = floatOp (p.1 f) s p.2 := by
  intro p hp f s
  fin_cases hp <;> rfl

theorem encOf_floatTable : ∀ p ∈ floatTable, ∀ f, ∃ opc sh, encOf (p.1 f) = some (opc, f, sh) := by
  intro p hp f
  fin_cases hp <;> exact ⟨_, _, rfl⟩

theorem floatResult : FloatResult := by
  refine ⟨fun p hp f s h => ?_, fun f s h => completes_of_body (show execFfma f s = _ from rfl) rfl h rfl, fun p hp f s h => ?_⟩
  · obtain ⟨opc, sh, henc⟩ := encOf_floatTable p hp f
    exact completes_of_body (exec_floatTable p hp f s) henc h rfl
  · fin_cases hp
    · exact completes_of_body (show execFmin f s = pickOp (.fmin f) s false from rfl) rfl h rfl
    · exact completes_of_body (show execFmax f s = pickOp (.fmax f) s true from rfl) rfl h rfl

theorem conversionResult : ConversionResult := by
  intro p hp f s h
  fin_cases hp
  · exact completes_of_body (show execFcvt f s = _ from rfl) rfl h rfl
  · exact completes_of_body (show execDcvt f s = _ from rfl) rfl h rfl

theorem exec_fp64Table : ∀ p ∈ fp64Table, ∀ f s, exec (p.1 f) s = fp64Op (p.1 f) s p.2 := by
  intro p hp f s
  fin_cases hp <;> rfl

theorem encOf_fp64Table : ∀ p ∈ fp64Table, ∀ f, ∃ opc sh, encOf (p.1 f) = some (opc, f, sh) := by
  intro p hp f
  fin_cases hp <;> exact ⟨_, _, rfl⟩

theorem doubleResult : DoubleResult := by
  intro p hp f s h
  obtain ⟨opc, sh, henc⟩ := encOf_fp64Table p hp f
  exact completes_of_body (exec_fp64Table p hp f s) henc h rfl

/-- Settles O2: one lemma for each shape of floating instruction. -/
theorem floatingResult : Obligations.FloatingResult := ⟨floatResult, conversionResult, doubleResult⟩

/-! ### Predicates (R356 to R359, R459) -/

/-- PLOG's function by FN (R358): the entry accepts FN 0 to 3, and the last row stands for every other code. -/
theorem plogR_eq (fn : BitVec 4) (md : BitVec 8) (a b : Bool) :
    plogR fn.toNat md a b =
      ((if fn = 0 then (a != md.getLsbD 0) && (b != md.getLsbD 1) else if fn = 1 then (a != md.getLsbD 0) || (b != md.getLsbD 1)
        else if fn = 2 then (a != md.getLsbD 0) != (b != md.getLsbD 1) else (a != md.getLsbD 0) && !(b != md.getLsbD 1)) != md.getLsbD 2) := by
  unfold plogR
  dsimp only
  generalize (a != md.getLsbD 0) = x
  generalize (b != md.getLsbD 1) = y
  generalize md.getLsbD 2 = z
  revert fn x y z
  decide

/-- Settles O3: the body of each comparison, of PLOG, PGET and PSET. -/
theorem predicateResult : Obligations.PredicateResult :=
  ⟨fun f s h => completes_of_body (show execCmp f s = _ from rfl) rfl h rfl,
    fun f s h => completes_of_body (show execCmpu f s = _ from rfl) rfl h rfl,
    fun f s h => completes_of_body (show execFcmp f s = _ from rfl) rfl h rfl,
    fun f s h => completes_of_body (show execDcmp f s = _ from rfl) rfl h rfl,
    fun f s h => completes_of_body (show execPlog f s = _ from rfl) rfl h
      (congrArg (fun v => Except.ok (Fin.step (s.setP f.d.idx.toNat v))) (plogR_eq f.fn f.md _ _)),
    fun f s h => completes_of_body (show execPget f s = _ from rfl) rfl h rfl,
    fun f s h => completes_of_body (show execPset f s = _ from rfl) rfl h rfl⟩

end Sys2Proof.Machine

/-! SUPPORT. The readings and results of the integer instructions as numbers (R339 to R341): at width 64 they are the operations of bit
vectors, and at every width the borderline operands give the results of R341. -/

namespace Sys2Proof.Machine

open Sys2Proof.Claims

/-! ### Width 64 -/

/-- MOD 0 reads and writes whole words. -/
theorem uAt_zero (x : Word) : uAt 0 x = x.toNat := Nat.mod_eq_of_lt x.isLt

theorem sAt_zero (x : Word) : sAt 0 x = x.toInt := by
  have hx : x.toNat % 2 ^ 64 = x.toNat := Nat.mod_eq_of_lt x.isLt
  show sgnNat 64 x.toNat = x.toInt
  rw [sgnNat, hx, BitVec.toInt_eq_toNat_cond]
  split_ifs <;> first | rfl | omega

theorem iAt_zero (x : Word) : iAt 0 x = x.toNat := congrArg Nat.cast (uAt_zero x)

theorem intResult_zero (r : Int) : intResult 0 r = BitVec.ofInt 64 r := by
  show BitVec.ofNat 64 (r % (2 ^ 64 : Nat)).toNat = BitVec.ofInt 64 r
  exact BitVec.eq_of_toNat_eq (by simp; omega)

theorem shAmt_zero (b : Word) : shAmt 0 b = b.toNat % 64 := congrArg (· % 64) (uAt_zero b)

theorem addR_zero (a b : Word) : addR 0 a b = a + b := by
  rw [addR, iAt_zero, iAt_zero, intResult_zero, BitVec.ofInt_add]
  simp

theorem subR_zero (a b : Word) : subR 0 a b = a - b := by
  rw [subR, iAt_zero, iAt_zero, intResult_zero, Int.sub_eq_add_neg, BitVec.ofInt_add, BitVec.ofInt_neg, BitVec.sub_eq_add_neg]
  simp

theorem mulR_zero (a b : Word) : mulR 0 a b = a * b := by
  rw [mulR, iAt_zero, iAt_zero, intResult_zero, BitVec.ofInt_mul]
  simp

theorem andR_zero (a b : Word) : andR 0 a b = a &&& b := by
  rw [andR, uAt_zero, uAt_zero, intResult_zero, ← BitVec.toNat_and]
  simp

theorem orR_zero (a b : Word) : orR 0 a b = a ||| b := by
  rw [orR, uAt_zero, uAt_zero, intResult_zero, ← BitVec.toNat_or]
  simp

theorem xorR_zero (a b : Word) : xorR 0 a b = a ^^^ b := by
  rw [xorR, uAt_zero, uAt_zero, intResult_zero, ← BitVec.toNat_xor]
  simp

theorem andnR_zero (a b : Word) : andnR 0 a b = a &&& ~~~b := by
  rw [andnR, intResult_zero, BitVec.ofInt_natCast, BitVec.ofNat_toNat, BitVec.setWidth_eq]

theorem shlR_zero (a b : Word) : shlR 0 a b = a <<< (b.toNat % 64) := by
  rw [shlR, uAt_zero, shAmt_zero, intResult_zero, BitVec.ofInt_natCast]
  exact BitVec.eq_of_toNat_eq (by simp [Nat.shiftLeft_eq])

theorem shrR_zero (a b : Word) : shrR 0 a b = a >>> (b.toNat % 64) := by
  rw [shrR, uAt_zero, shAmt_zero, intResult_zero, BitVec.ofInt_natCast, ← Nat.shiftRight_eq_div_pow, ← BitVec.toNat_ushiftRight,
    BitVec.ofNat_toNat, BitVec.setWidth_eq]

theorem sarR_zero (a b : Word) : sarR 0 a b = a.sshiftRight (b.toNat % 64) := by
  rw [sarR, sAt_zero, shAmt_zero, intResult_zero, ← Int.shiftRight_eq_div_pow, ← BitVec.toInt_sshiftRight, BitVec.ofInt_toInt]

theorem rotlR_zero (a b : Word) : rotlR 0 a b = a.rotateLeft (b.toNat % 64) := by
  have hlt : b.toNat % 64 < 64 := Nat.mod_lt _ (by decide)
  have hw : szBits (mdSz 0) = 64 := rfl
  rw [rotlR, uAt_zero, shAmt_zero, hw, intResult_zero, BitVec.ofInt_natCast, BitVec.rotateLeft_def]
  generalize b.toNat % 64 = k at hlt
  have hapart : (a <<< k) &&& (a >>> (64 - k)) = 0#64 := by
    ext i hi
    simp only [BitVec.getElem_and, BitVec.getElem_shiftLeft, BitVec.getElem_ushiftRight, BitVec.getElem_zero, Bool.and_eq_false_iff]
    by_cases hik : i < k
    · simp [hik]
    · exact .inr (BitVec.getLsbD_of_ge _ _ (by omega))
  rw [Nat.mod_eq_of_lt hlt, ← BitVec.add_eq_or_of_and_eq_zero _ _ hapart]
  apply BitVec.eq_of_toNat_eq
  simp [Nat.shiftLeft_eq, Nat.shiftRight_eq_div_pow]

theorem divuR_zero (a b : Word) : divuR 0 a b = if b = 0 then BitVec.allOnes 64 else a / b := by
  rw [divuR, uAt_zero, uAt_zero, intResult_zero]
  by_cases hb : b = 0
  · subst hb; rfl
  · rw [if_neg (by simpa [BitVec.toNat_eq] using hb), if_neg hb, ← BitVec.toNat_udiv, BitVec.ofInt_natCast, BitVec.ofNat_toNat, BitVec.setWidth_eq]

theorem remuR_zero (a b : Word) : remuR 0 a b = if b = 0 then a else a % b := by
  rw [remuR, uAt_zero, uAt_zero, intResult_zero]
  by_cases hb : b = 0
  · simp [hb]
  · rw [if_neg (by simpa [BitVec.toNat_eq] using hb), if_neg hb, ← BitVec.toNat_umod, BitVec.ofInt_natCast, BitVec.ofNat_toNat, BitVec.setWidth_eq]

theorem minuR_zero (a b : Word) : minuR 0 a b = if a ≤ b then a else b := by
  rw [minuR, uAt_zero, uAt_zero, intResult_zero]
  simp only [BitVec.le_def, Nat.min_def, BitVec.ofInt_natCast]
  split_ifs <;> simp

theorem maxuR_zero (a b : Word) : maxuR 0 a b = if a ≤ b then b else a := by
  rw [maxuR, uAt_zero, uAt_zero, intResult_zero]
  simp only [BitVec.le_def, Nat.max_def, BitVec.ofInt_natCast]
  split_ifs <;> simp

theorem minR_zero (a b : Word) : minR 0 a b = if a.sle b then a else b := by
  rw [minR, sAt_zero, sAt_zero, intResult_zero]
  simp only [BitVec.sle_iff_toInt_le]
  split_ifs <;> exact BitVec.ofInt_toInt

theorem maxR_zero (a b : Word) : maxR 0 a b = if a.sle b then b else a := by
  rw [maxR, sAt_zero, sAt_zero, intResult_zero]
  simp only [BitVec.sle_iff_toInt_le]
  split_ifs <;> exact BitVec.ofInt_toInt

theorem mulhuR_zero (a b : Word) : mulhuR 0 a b = (a.zeroExtend 128 * b.zeroExtend 128).extractLsb' 64 64 := by
  have hlt : a.toNat * b.toNat < 2 ^ 128 := by
    have := Nat.mul_lt_mul'' a.isLt b.isLt
    omega
  rw [mulhuR, uAt_zero, uAt_zero, intResult_zero, BitVec.ofInt_natCast]
  apply BitVec.eq_of_toNat_eq
  have ha : a.toNat % 2 ^ 128 = a.toNat := Nat.mod_eq_of_lt (by omega)
  have hb : b.toNat % 2 ^ 128 = b.toNat := Nat.mod_eq_of_lt (by omega)
  rw [BitVec.extractLsb'_toNat, BitVec.toNat_mul, BitVec.toNat_setWidth, BitVec.toNat_setWidth, ha, hb, Nat.mod_eq_of_lt hlt,
    BitVec.toNat_ofNat, Nat.shiftRight_eq_div_pow]
  rfl

/-- The upper word of an integer in 128 bits. -/
theorem extractLsb'_ofInt_high (x : Int) : (BitVec.ofInt 128 x).extractLsb' 64 64 = BitVec.ofInt 64 (x / (2 ^ 64 : Nat)) := by
  apply BitVec.eq_of_toNat_eq
  rw [BitVec.extractLsb'_toNat, BitVec.toNat_ofInt, BitVec.toNat_ofInt, Nat.shiftRight_eq_div_pow]
  omega

theorem mulhR_zero (a b : Word) : mulhR 0 a b = (a.signExtend 128 * b.signExtend 128).extractLsb' 64 64 := by
  have hmul : a.signExtend 128 * b.signExtend 128 = BitVec.ofInt 128 (a.toInt * b.toInt) := (BitVec.ofInt_mul ..).symm
  rw [mulhR, sAt_zero, sAt_zero, intResult_zero, hmul, extractLsb'_ofInt_high]
  rfl

theorem movR_zero (a b : Word) : movR 0 a b = a := (intResult_zero a.toNat).trans (by simp)

/-- Each instruction of the table is an integer instruction whose formula is, with MOD 0, the operation of its row. -/
theorem exec_wordTable : ∀ p ∈ wordTable, ∃ r : BitVec 8 → Word → Word → Word, (∀ a b, r 0 a b = p.2 a b) ∧
    ∀ f, (∃ opc sh, encOf (p.1 f) = some (opc, f, sh)) ∧ ∀ s, exec (p.1 f) s = intOp (p.1 f) s r := by
  intro p hp
  fin_cases hp
  · exact ⟨_, addR_zero, fun f => ⟨⟨_, _, rfl⟩, fun s => rfl⟩⟩
  · exact ⟨_, subR_zero, fun f => ⟨⟨_, _, rfl⟩, fun s => rfl⟩⟩
  · exact ⟨_, mulR_zero, fun f => ⟨⟨_, _, rfl⟩, fun s => rfl⟩⟩
  · exact ⟨_, andR_zero, fun f => ⟨⟨_, _, rfl⟩, fun s => rfl⟩⟩
  · exact ⟨_, orR_zero, fun f => ⟨⟨_, _, rfl⟩, fun s => rfl⟩⟩
  · exact ⟨_, xorR_zero, fun f => ⟨⟨_, _, rfl⟩, fun s => rfl⟩⟩
  · exact ⟨_, andnR_zero, fun f => ⟨⟨_, _, rfl⟩, fun s => rfl⟩⟩
  · exact ⟨_, shlR_zero, fun f => ⟨⟨_, _, rfl⟩, fun s => rfl⟩⟩
  · exact ⟨_, shrR_zero, fun f => ⟨⟨_, _, rfl⟩, fun s => rfl⟩⟩
  · exact ⟨_, sarR_zero, fun f => ⟨⟨_, _, rfl⟩, fun s => rfl⟩⟩
  · exact ⟨_, rotlR_zero, fun f => ⟨⟨_, _, rfl⟩, fun s => rfl⟩⟩
  · exact ⟨_, divuR_zero, fun f => ⟨⟨_, _, rfl⟩, fun s => rfl⟩⟩
  · exact ⟨_, remuR_zero, fun f => ⟨⟨_, _, rfl⟩, fun s => rfl⟩⟩
  · exact ⟨_, minuR_zero, fun f => ⟨⟨_, _, rfl⟩, fun s => rfl⟩⟩
  · exact ⟨_, maxuR_zero, fun f => ⟨⟨_, _, rfl⟩, fun s => rfl⟩⟩
  · exact ⟨_, minR_zero, fun f => ⟨⟨_, _, rfl⟩, fun s => rfl⟩⟩
  · exact ⟨_, maxR_zero, fun f => ⟨⟨_, _, rfl⟩, fun s => rfl⟩⟩
  · exact ⟨_, mulhuR_zero, fun f => ⟨⟨_, _, rfl⟩, fun s => rfl⟩⟩
  · exact ⟨_, mulhR_zero, fun f => ⟨⟨_, _, rfl⟩, fun s => rfl⟩⟩
  · exact ⟨_, movR_zero, fun f => ⟨⟨_, _, rfl⟩, fun s => rfl⟩⟩

/-- An integer instruction completes with its formula's value. -/
theorem completes_intOp {p : Form} {r : BitVec 8 → Word → Word → Word} {opc : Nat} {sh : EncRule} {f : Fields} {s : State} {v : Word}
    (hx : exec (p f) s = intOp (p f) s r) (he : encOf (p f) = some (opc, f, sh)) (h : ready (p f) s = true)
    (hv : r f.md (s.srcs f (f.imm.signExtend 64)).1 (s.srcs f (f.imm.signExtend 64)).2.1 = v) :
    Completes (p f) f s ((s.srcs f (f.imm.signExtend 64)).2.2.dst f.d v) := by
  subst hv
  exact completes_of_body hx he h rfl

/-- Settles O46: with MOD 0 the formula of each row is its operation on bit vectors. -/
theorem wholeWordArithmetic : Obligations.WholeWordArithmetic := by
  intro p hp f s h hmd
  obtain ⟨r, hr, hexec⟩ := exec_wordTable p hp
  obtain ⟨⟨opc, sh, henc⟩, hx⟩ := hexec f
  exact completes_intOp (hx s) henc h (by rw [hmd, hr])

/-! ### Results at a width -/

/-- The width of SZ is one of four. -/
theorem szBits_cases (sz : Nat) : szBits sz = 64 ∨ szBits sz = 32 ∨ szBits sz = 16 ∨ szBits sz = 8 := by
  unfold szBits
  split <;> simp

theorem szBits_pos (sz : Nat) : 0 < szBits sz := by
  rcases szBits_cases sz with h | h | h | h <;> omega

/-- The extension depends on the low bits alone (R339). -/
theorem extend_congr (sgn : Bool) {w : Nat} {x y : Int} (h : x % (2 ^ w : Nat) = y % (2 ^ w : Nat)) : extend sgn w x = extend sgn w y := by
  simp only [extend, h]

/-- The two readings of a word agree in its low bits. -/
theorem sgnNat_emod (w n : Nat) : sgnNat w n % (2 ^ w : Nat) = (n % 2 ^ w : Nat) := by
  unfold sgnNat
  split_ifs
  · exact_mod_cast Nat.mod_mod ..
  · rw [Int.sub_emod_right]
    exact_mod_cast Nat.mod_mod ..

theorem sAt_emod (md : BitVec 8) (x : Word) : sAt md x % (2 ^ szBits (mdSz md) : Nat) = uAt md x := sgnNat_emod ..

theorem sAt_eq_zero_of_uAt {md : BitVec 8} {x : Word} (h : uAt md x = 0) : sAt md x = 0 := by
  have hpos := Nat.two_pow_pos (szBits (mdSz md) - 1)
  unfold uAt at h
  simp [sAt, sgnNat, h]

/-- Without SAT a result is its low bits, extended (R339). -/
theorem intResult_of_noSat {md : BitVec 8} (h : mdSat md = false) (x : Int) :
    intResult md x = extend (mdSgn md) (szBits (mdSz md)) x := by simp [intResult, h]

/-- MOD below 8 has SAT at 0 (R308). -/
theorem mdSat_of_lt : ∀ md : BitVec 8, md.toNat < 8 → mdSat md = false := by decide

/-- A ready instruction has a MOD that its entry accepts (R316). -/
theorem ready_modOk {i : Instr} {opc : Nat} {f : Fields} {sh : EncRule} {s : State} (he : encOf i = some (opc, f, sh))
    (h : ready i s = true) : modOk sh.md f = true := by
  have ht := ready_thread h
  unfold ready at h
  rw [he, ht] at h
  simp only [Bool.and_eq_true, Bool.not_eq_true', illopOf, he, Bool.or_eq_false_iff, Bool.not_eq_false'] at h
  tauto

/-! ### Borderline operands (R341) -/

theorem noSat_of_ready {i : Instr} {opc : Nat} {f : Fields} {sh : EncRule} {s : State} (he : encOf i = some (opc, f, sh))
    (hsh : sh.md = .intNoSat) (h : ready i s = true) : mdSat f.md = false := by
  have hmd := ready_modOk he h
  rw [hsh] at hmd
  exact mdSat_of_lt _ (of_decide_eq_true hmd)

/-- The highest unsigned value is -1 in the low bits. -/
theorem extend_ones (sgn : Bool) (w : Nat) : extend sgn w (-1) = extend sgn w ((2 ^ w : Nat) - 1) := by
  refine extend_congr sgn ?_
  rw [← Int.add_emod_right (-1)]
  congr 1

section Borderline

variable {md : BitVec 8} {a b : Word}

theorem divR_by_zero (hs : mdSat md = false) (hb : uAt md b = 0) :
    divR md a b = extend (mdSgn md) (szBits (mdSz md)) ((2 ^ szBits (mdSz md) : Nat) - 1) := by
  rw [divR, if_pos (sAt_eq_zero_of_uAt hb), intResult_of_noSat hs, extend_ones]

theorem divuR_by_zero (hs : mdSat md = false) (hb : uAt md b = 0) :
    divuR md a b = extend (mdSgn md) (szBits (mdSz md)) ((2 ^ szBits (mdSz md) : Nat) - 1) := by
  rw [divuR, if_pos hb, intResult_of_noSat hs, extend_ones]

theorem remR_by_zero (hs : mdSat md = false) (hb : uAt md b = 0) :
    remR md a b = extend (mdSgn md) (szBits (mdSz md)) (uAt md a) := by
  rw [remR, if_pos (sAt_eq_zero_of_uAt hb), intResult_of_noSat hs]
  refine extend_congr _ ?_
  rw [sAt_emod, uAt]
  exact_mod_cast (Nat.mod_mod ..).symm

theorem remuR_by_zero (hs : mdSat md = false) (hb : uAt md b = 0) :
    remuR md a b = extend (mdSgn md) (szBits (mdSz md)) (uAt md a) := by
  rw [remuR, if_pos hb, intResult_of_noSat hs]

/-- The lowest number and its negation agree in the low bits. -/
theorem extend_top (sgn : Bool) {w : Nat} (hw : 0 < w) :
    extend sgn w (2 ^ (w - 1) : Nat) = extend sgn w (-((2 ^ (w - 1) : Nat) : Int)) := by
  have hpow : 2 ^ w = 2 * 2 ^ (w - 1) := by rw [← pow_succ', Nat.sub_add_cancel hw]
  refine extend_congr sgn ?_
  rw [← Int.add_emod_right (-((2 ^ (w - 1) : Nat) : Int))]
  congr 1
  omega

theorem divR_lowest (hs : mdSat md = false) (ha : sAt md a = -((2 ^ (szBits (mdSz md) - 1) : Nat) : Int)) (hb : sAt md b = -1) :
    divR md a b = extend (mdSgn md) (szBits (mdSz md)) (-((2 ^ (szBits (mdSz md) - 1) : Nat) : Int)) := by
  rw [divR, if_neg (by omega), intResult_of_noSat hs, ha, hb, ← extend_top _ (szBits_pos _)]
  simp

theorem remR_lowest (hs : mdSat md = false) (hb : sAt md b = -1) : remR md a b = extend (mdSgn md) (szBits (mdSz md)) 0 := by
  rw [remR, if_neg (by omega), intResult_of_noSat hs, hb]
  simp

theorem remR_of_ne (hs : mdSat md = false) (hb : sAt md b ≠ 0) :
    remR md a b = extend (mdSgn md) (szBits (mdSz md)) ((sAt md a).tmod (sAt md b)) := by
  rw [remR, if_neg hb, intResult_of_noSat hs]

theorem intResult_of_sat {x : Int} (hs : mdSat md = true) :
    intResult md x = extend (mdSgn md) (szBits (mdSz md)) (clampTo (mdSgn md) (szBits (mdSz md)) x) := by simp [intResult, hs]

theorem absR_lowest (ha : sAt md a = -((2 ^ (szBits (mdSz md) - 1) : Nat) : Int)) :
    absR md a b = extend (mdSgn md) (szBits (mdSz md)) (if mdSat md = false then -((2 ^ (szBits (mdSz md) - 1) : Nat) : Int)
      else if mdSgn md then (2 ^ (szBits (mdSz md) - 1) : Nat) - 1 else (2 ^ (szBits (mdSz md) - 1) : Nat)) := by
  have hw := szBits_pos (mdSz md)
  have hpow : 2 ^ szBits (mdSz md) = 2 * 2 ^ (szBits (mdSz md) - 1) := by rw [← pow_succ', Nat.sub_add_cancel hw]
  rw [absR, ha, Int.natAbs_neg, Int.natAbs_natCast]
  by_cases hs : mdSat md = false
  · rw [if_pos hs, intResult_of_noSat hs, extend_top _ hw]
  · have htop := Nat.two_pow_pos (szBits (mdSz md) - 1)
    rw [if_neg hs, intResult_of_sat (by simpa using hs)]
    congr 1
    simp only [clampTo, clampInt]
    split_ifs <;> omega

/-- The clamp of an unsigned result. -/
theorem intResult_unsigned_sat {x : Int} (hs : mdSat md = true) (hu : mdSgn md = false) :
    intResult md x = extend (mdSgn md) (szBits (mdSz md))
      (if x < 0 then 0 else if (2 ^ szBits (mdSz md) : Nat) ≤ x then (2 ^ szBits (mdSz md) : Nat) - 1 else x) := by
  rw [intResult_of_sat hs, hu]
  congr 1
  simp only [clampTo, Bool.false_eq_true, if_false, clampInt]
  split_ifs <;> omega

theorem iAt_unsigned (hu : mdSgn md = false) (x : Word) : iAt md x = uAt md x := by simp [iAt, hu]

/-- The product of two words 65536 at width 32 with SGN and SAT. -/
theorem mulR_sat_word (ha : uAt 0x0D a = 65536) (hb : uAt 0x0D b = 65536) : mulR 0x0D a b = extend true 32 2147483647 := by
  have hread {x : Word} (hx : uAt 0x0D x = 65536) : iAt 0x0D x = 65536 := by
    have hx : x.toNat % 2 ^ 32 = 65536 := hx
    show sgnNat 32 x.toNat = 65536
    rw [sgnNat, hx]
    rfl
  rw [mulR, hread ha, hread hb]
  rfl

end Borderline

theorem ctzNat_zero (w : Nat) : ctzNat 0 w = w := by
  induction w with
  | zero => rfl
  | succ w ih => simp [ctzNat, ih]

/-- Settles O45: each clause is the formula of one instruction, whose value at the borderline operand agrees with the stated one in its low
bits, or is clamped to it. -/
theorem borderlineOperands : Obligations.BorderlineOperands := by
  intro f s w r gives top
  refine ⟨?divZero, ?remZero, fun h ha hb => ?_, fun h _ hb => ?_, fun h ha hb => ?remNeg, fun h ha hb => ?_, fun h => ?_, fun h => ?_,
    fun h => ?_, fun h => ?_, ?countZero, fun h ha => ?_, ?clamped, fun h hs hu ha hb => ?_, fun h hmd ha hb => ?_, fun h hmd hb => ?_,
    fun h hmd hb => ?_⟩
  case divZero =>
    intro p hp h hb
    fin_cases hp
    · exact completes_intOp (show execDiv f s = _ from rfl) rfl h (divR_by_zero (noSat_of_ready rfl rfl h) hb)
    · exact completes_intOp (show execDivu f s = _ from rfl) rfl h (divuR_by_zero (noSat_of_ready rfl rfl h) hb)
  case remZero =>
    intro p hp h hb
    fin_cases hp
    · exact completes_intOp (show execRem f s = _ from rfl) rfl h (remR_by_zero (noSat_of_ready rfl rfl h) hb)
    · exact completes_intOp (show execRemu f s = _ from rfl) rfl h (remuR_by_zero (noSat_of_ready rfl rfl h) hb)
  · exact completes_intOp (show execDiv f s = _ from rfl) rfl h (divR_lowest (noSat_of_ready rfl rfl h) ha hb)
  · exact completes_intOp (show execRem f s = _ from rfl) rfl h (remR_lowest (noSat_of_ready rfl rfl h) hb)
  case remNeg =>
    refine ⟨(sAt f.md r.1).tdiv (sAt f.md r.2.1), (sAt f.md r.1).tmod (sAt f.md r.2.1),
      completes_intOp (show execRem f s = _ from rfl) rfl h (remR_of_ne (noSat_of_ready rfl rfl h) hb), ?_, ?_, ?_⟩
    · exact (Int.tdiv_mul_add_tmod ..).symm
    · rw [← Int.neg_neg (sAt f.md r.1), Int.neg_tmod]
      exact Int.neg_nonpos_of_nonneg (Int.tmod_nonneg _ (by omega))
    · rw [Int.natAbs_tmod]
      exact Nat.mod_lt _ (Int.natAbs_pos.mpr hb)
  · refine completes_intOp (show execRem f s = _ from rfl) rfl h ((remR_of_ne (noSat_of_ready rfl rfl h) (hb.trans_ne (by decide))).trans ?_)
    rw [ha, hb]
    rfl
  · exact completes_intOp (show execShl f s = _ from rfl) rfl h (intResult_of_noSat (noSat_of_ready rfl rfl h) _)
  · exact completes_intOp (show execShr f s = _ from rfl) rfl h (intResult_of_noSat (noSat_of_ready rfl rfl h) _)
  · exact completes_intOp (show execSar f s = _ from rfl) rfl h (intResult_of_noSat (noSat_of_ready rfl rfl h) _)
  · exact completes_intOp (show execRotl f s = _ from rfl) rfl h (intResult_of_noSat (noSat_of_ready rfl rfl h) _)
  case countZero =>
    intro p hp h ha
    fin_cases hp
    · refine completes_intOp (show execClz f s = _ from rfl) rfl h ((intResult_of_noSat (noSat_of_ready rfl rfl h) _).trans ?_)
      rw [ha]
      rfl
    · refine completes_intOp (show execCtz f s = _ from rfl) rfl h ((intResult_of_noSat (noSat_of_ready rfl rfl h) _).trans ?_)
      rw [ha, ctzNat_zero]
  · exact completes_intOp (show execAbs f s = _ from rfl) rfl h (absR_lowest ha)
  case clamped =>
    intro p hp h hs hu
    fin_cases hp
    · refine completes_intOp (show execAdd f s = _ from rfl) rfl h ?_
      rw [addR, iAt_unsigned hu, iAt_unsigned hu, intResult_unsigned_sat hs hu]
    · refine completes_intOp (show execSub f s = _ from rfl) rfl h ?_
      rw [subR, iAt_unsigned hu, iAt_unsigned hu, intResult_unsigned_sat hs hu]
  · refine completes_intOp (show execSub f s = _ from rfl) rfl h ?_
    rw [subR, iAt_unsigned hu, iAt_unsigned hu, ha, hb, intResult_unsigned_sat hs hu]
    rfl
  · refine completes_intOp (show execMul f s = _ from rfl) rfl h ?_
    show mulR f.md r.1 r.2.1 = extend (mdSgn f.md) (szBits (mdSz f.md)) 2147483647
    rw [hmd] at ha hb ⊢
    exact mulR_sat_word ha hb
  · refine completes_intOp (show execDivu f s = _ from rfl) rfl h ?_
    rw [hmd] at hb ⊢
    rw [divuR_by_zero rfl hb]
    rfl
  · refine completes_intOp (show execDivu f s = _ from rfl) rfl h ?_
    rw [hmd] at hb ⊢
    rw [divuR_by_zero rfl hb]
    rfl

end Sys2Proof.Machine

/-! SUPPORT. What the common checks answer (R171, R306, R315, R316), and the control instructions (R327 to R336, R467). -/

namespace Sys2Proof.Machine

open Sys2Proof.Claims

/-! ### The common checks -/

section Front

variable {i : Instr} {opc : Nat} {f : Fields} {sh : EncRule} {s : State} {t : Thread}

theorem front_illop (h : illopOf i = true) : front i opc f sh s t = raise s 0x01 := if_pos h

theorem front_illopd {n : Nat} (hi : illopOf i = false) (hd : illopdOf (t.s || t.h) i = some n) : front i opc f sh s t = raise s 0x02 n := by
  simp [front, hi, hd]

theorem front_skip (hi : illopOf i = false) (hd : illopdOf (t.s || t.h) i = none) (hg : t.prd f.grd.toNat = f.neg) :
    front i opc f sh s t = .ok false := by simp [front, hi, hd, hg]

/-- Past the encoding and the guard the checks of R315 come, in R171's order. -/
theorem front_reached (hi : illopOf i = false) (hd : illopdOf (t.s || t.h) i = none) (hg : (t.prd f.grd.toNat != f.neg) = true) :
    front i opc f sh s t =
      if privBad i t then raise s 0x03
      else if isCopy opc && s.slotNo ≠ s.hmovs t.hold then raise s 0x04
      else if needsFp64 opc f && coreNo s.core ≠ 0 then
        if t.pinned then raise s 0x05 else leftM (s.migrateTo (clusterOf s.core) true)
      else if !slotReady s.slot t.s opc f sh || (onUnit opc && s.unitHeld) then stay s
      else if opc = 0 then .ok true
      else match queuesReady s opc f with | .ok _ => .ok true | .error e => .error e := by
  have hg : ¬ t.prd f.grd.toNat = f.neg := by simpa using hg
  simp only [front, hi, hd, hg]
  rfl

end Front

theorem thr_of_isSome {s : State} (h : s.slot.thr.isSome = true) : s.slot.thr = some s.thr := by
  obtain ⟨t, ht⟩ := Option.isSome_iff_exists.mp h
  simp [State.thr, ht]

/-- A skipped instruction only goes on (R306). -/
theorem exec_skip {i : Instr} {opc : Nat} {f : Fields} {sh : EncRule} {s : State} (he : encOf i = some (opc, f, sh))
    (ht : s.slot.thr.isSome = true) (hi : illopOf i = false) (hd : illopdOf (s.thr.s || s.thr.h) i = none)
    (hg : s.thr.prd f.grd.toNat = f.neg) :
    exec i s = .next { (s.modSlot fun v => { v.done false with thr := v.thr.map Thread.advance }).endCycle s.core with pw := s.pw } := by
  obtain ⟨body, hb⟩ := exec_word i s (by rw [he]; rfl)
  rw [hb, issue_skip he (thr_of_isSome ht) (front_skip hi hd hg)]

/-- Settles O41: the checks of the encoding come before the guard, and a false guard makes the instruction advance. -/
theorem guardDecides : Obligations.GuardDecides := by
  refine ⟨fun i opc f sh s he ht => ⟨fun hi => ?_, fun n hi hd => ?_, fun hi hd hg => ?_⟩, fun t => rfl, fun t ht => ?_⟩
  · exact takes_of_front he (thr_of_isSome ht) (front_illop hi)
  · exact takes_of_front he (thr_of_isSome ht) (front_illopd hi hd)
  · exact exec_skip he ht hi hd (by simpa using hg)
  · simp [Thread.advance, ht]

/-! ### Branches (R330 to R332) -/

theorem branch_some {s : State} {base pc : Word} {disp : Int} (h : target base disp = some pc) : branch s base disp = .ok (.goto s pc) := by
  simp [branch, h]

theorem branch_none {s : State} {base : Word} {disp : Int} (h : target base disp = none) :
    branch s base disp = raise s 0x10 0 (refOf base disp).word := by simp [branch, h]

/-- Settles O37: each clause is one case of the targets that the instruction forms; under a false guard it is skipped. -/
theorem branchesAndLoops : Obligations.BranchesAndLoops := by
  refine ⟨fun f s pc h ht => ?_, fun f s h ht => ?_, fun f s pc h ht => ?_, fun f s h ht => ?_,
    fun f s h => ⟨fun pc link ht hl => ?_, fun ht => ?_, fun pc ht hl => ?_⟩, fun f s h hn => ?_, fun f s pc h hn ht => ?_,
    fun f s h hn ht => ?_, ?guard⟩
  · exact jumps_of_body (show execBra f s = _ from rfl) rfl h (branch_some ht)
  · exact takes_of_body (show execBra f s = _ from rfl) rfl h (branch_none ht)
  · exact jumps_of_body (show execBrx f s = _ from rfl) rfl h (branch_some ht)
  · exact takes_of_body (show execBrx f s = _ from rfl) rfl h (branch_none ht)
  · exact jumps_of_body (show execCall f s = _ from rfl) rfl h (by simp only [ht, hl])
  · exact takes_of_body (show execCall f s = _ from rfl) rfl h (by simp only [ht]; rfl)
  · exact takes_of_body (show execCall f s = _ from rfl) rfl h (by simp only [ht, hl]; rfl)
  · exact completes_of_body (show execLoop f s = _ from rfl) rfl h (by simp only [hn, if_true])
  · exact jumps_of_body (show execLoop f s = _ from rfl) rfl h (by simp only [hn, ht, if_false])
  · exact takes_of_body (show execLoop f s = _ from rfl) rfl h (by simp only [hn, ht, if_false]; rfl)
  case guard =>
    intro p hp f s ht hi hd hg
    fin_cases hp <;> exact exec_skip rfl ht hi hd hg

/-! ### NOP, UIEN, TRET (R329, R335, R336) -/

/-- An instruction that its mode does not allow faults PRIV (R315, R335). -/
theorem takes_priv {i : Instr} {opc : Nat} {f : Fields} {sh : EncRule} {s : State} (he : encOf i = some (opc, f, sh))
    (h : reached i f s) (hp : privBad i s.thr = true) : Takes i s ⟨0x03, 0, 0, false, false, false⟩ s := by
  obtain ⟨ht, hi, hd, hg⟩ := h
  exact takes_of_front he (thr_of_isSome ht) ((front_reached hi hd hg).trans (if_pos hp))

/-- Settles O38: the body of each, and the check of TRET's mode. -/
theorem nopUienAndTret : Obligations.NopUienAndTret := by
  refine ⟨fun f s h => completes_of_body (show execNop f s = _ from rfl) rfl h rfl,
    fun f s h => completes_of_body (show execUien f s = _ from rfl) rfl h rfl,
    fun f s h => jumps_of_body (show execTret f s = _ from rfl) rfl h rfl, fun f s ht hi hd hg hm => ?_⟩
  refine takes_priv rfl ⟨ht, hi, hd, by simpa using hg⟩ ?_
  rcases hm with hm | hm <;> simp [privBad, hm]

/-! ### Privilege, slot and core (R315) -/

theorem front_copy {i : Instr} {opc : Nat} {f : Fields} {sh : EncRule} {s : State} (h : reached i f s) (hp : privBad i s.thr = false)
    (hc : isCopy opc = true) (hs : s.slotNo ≠ s.hmovs s.thr.hold) : front i opc f sh s s.thr = raise s 0x04 := by
  obtain ⟨-, hi, hd, hg⟩ := h
  simp [front_reached hi hd hg, hp, hc, hs]

theorem front_fp64 {i : Instr} {opc : Nat} {f : Fields} {sh : EncRule} {s : State} (h : reached i f s) (hp : privBad i s.thr = false)
    (hc : isCopy opc = false) (hn : needsFp64 opc f = true) (hk : coreNo s.core ≠ 0) :
    front i opc f sh s s.thr = if s.thr.pinned then raise s 0x05 else leftM (s.migrateTo (clusterOf s.core) true) := by
  obtain ⟨-, hi, hd, hg⟩ := h
  simp [front_reached hi hd hg, hp, hc, hn, hk]

/-- FP64 outside core 0 faults XABSENT in a pinned thread and migrates a roaming one (R135, R315). -/
theorem ends_fp64 {i : Instr} {opc : Nat} {f : Fields} {sh : EncRule} {s : State} (he : encOf i = some (opc, f, sh)) (h : reached i f s)
    (hp : privBad i s.thr = false) (hc : isCopy opc = false) (hn : needsFp64 opc f = true) (hk : coreNo s.core ≠ 0) :
    (s.thr.pinned = true → Takes i s ⟨0x05, 0, 0, false, false, false⟩ s) ∧
    (s.thr.pinned = false → exec i s = .next { conclude false s.core (leftM (s.migrateTo (clusterOf s.core) true)) with pw := s.pw }) := by
  have hfront := front_fp64 (sh := sh) h hp hc hn hk
  have ht := thr_of_isSome h.1
  refine ⟨fun hpin => takes_of_front he ht (hfront.trans (if_pos hpin)), fun hpin => ?_⟩
  obtain ⟨body, hb⟩ := exec_word i s (by rw [he]; rfl)
  rw [hb, issue_stop he ht (hfront.trans (if_neg (by simp [hpin])))]
  rfl

/-- A tile instruction is allowed in every mode. -/
theorem privBad_tile {i : Instr} {opc : Nat} {f : Fields} {sh : EncRule} {t : Thread} (he : encOf i = some (opc, f, sh))
    (hi : illopOf i = false) (ho : 0xB0 ≤ opc ∧ opc ≤ 0xBD) : privBad i t = false := by
  have hb := build_of_encOf he hi
  clear he
  obtain ⟨hlo, hhi⟩ := ho
  interval_cases opc <;> cases hb <;> rfl

/-- Settles O42: the checks of R315 in their order, and those of a vector instruction after its shape records. -/
theorem privilegeAndPlace : Obligations.PrivilegeAndPlace := by
  refine ⟨fun p hp f s h hs hr => ?super, fun f s h hlo hhi hs hr => ?mts, fun p hp f s h hr => ?root, fun p hp f s h hslot => ?copy,
    fun p hp f s h hk => ?fp64, fun f s0 s hs hx hk => ?shapes, fun i opc f sh s he ho hf h hk => ?tile⟩
  case super =>
    have hpriv : superOnly (p f) = true → privBad (p f) s.thr = true := fun hso => by simp [privBad, hso, hs, hr]
    fin_cases hp <;> exact takes_priv rfl h (hpriv rfl)
  case mts =>
    refine takes_priv rfl h ?_
    have hreg : sReg f.d.idx.toNat = true := by simp [sReg]; omega
    simp [privBad, hreg, hs, hr]
  case root =>
    have hpriv : rootOnly (p f) = true → privBad (p f) s.thr = true := fun hro => by simp [privBad, hro, hr]
    fin_cases hp <;> exact takes_priv rfl h (hpriv rfl)
  case copy =>
    fin_cases hp <;> exact takes_of_front rfl (thr_of_isSome h.1) (front_copy h rfl rfl hslot)
  case fp64 =>
    fin_cases hp <;> exact ends_fp64 rfl h rfl rfl rfl hk
  case shapes =>
    have hany : (decide (mdFmt f.md = 13) || hs.any fun h => h.efmt = 13) = true := by
      rcases hx with hx | ⟨h, hm, hx⟩
      · simp [hx]
      · simp only [Bool.or_eq_true, List.any_eq_true]
        exact .inr ⟨h, hm, by simpa using hx⟩
    simp [shapesOk, hany, hk]
  case tile =>
    have hcopy : isCopy opc = false := by simp [isCopy]; omega
    have hneeds : needsFp64 opc f = true := by simp [needsFp64, hf, ho]
    exact ends_fp64 he h (privBad_tile he h.2.1 ho) hcopy hneeds hk

/-! ### TRAP, SCALL and SRET (R334, R467) -/

/-- A ready instruction has an IMM that its entry accepts (R316). -/
theorem ready_immOk {i : Instr} {opc : Nat} {f : Fields} {sh : EncRule} {s : State} (he : encOf i = some (opc, f, sh))
    (h : ready i s = true) : immOk sh f = true := by
  have ht := ready_thread h
  unfold ready at h
  rw [he, ht] at h
  simp only [Bool.and_eq_true, Bool.not_eq_true', illopOf, he, Bool.or_eq_false_iff, Bool.not_eq_false'] at h
  tauto

/-- The code of TRAP and SCALL is 0x80 to 0xFF. -/
theorem trapCode_bounds {i : Instr} {opc : Nat} {f : Fields} {sh : EncRule} {s : State} (he : encOf i = some (opc, f, sh))
    (hsh : sh.imm = .trapCode) (h : ready i s = true) : 0x80 ≤ bits f.imm.toNat 7 0 ∧ bits f.imm.toNat 7 0 < 0x100 := by
  have himm := ready_immOk he h
  simp only [immOk, hsh, Bool.and_eq_true, decide_eq_true_eq] at himm
  simp [bits]
  omega

/-- YLD marks the slot and leaves its thread. -/
theorem State.yieldIf_slot_thr (s : State) (y : Bool) : (s.yieldIf y).slot.thr = s.slot.thr := by
  unfold State.yieldIf
  split
  · rw [State.slot_modSlot]
  · rfl

theorem State.yieldIf_hword (s : State) (y : Bool) (h off : Nat) : (s.yieldIf y).hword h off = s.hword h off := by
  unfold State.yieldIf
  split <;> rfl

theorem State.yieldIf_core (s : State) (y : Bool) : (s.yieldIf y).core = s.core := congrArg (·.here.unit) (s.yieldIf_ctl y)
theorem State.yieldIf_slotNo (s : State) (y : Bool) : (s.yieldIf y).slotNo = s.slotNo := congrArg (·.here.sub) (s.yieldIf_ctl y)

theorem takes_trap {f : Fields} {s : State} (h : ready (.trap f) s = true) :
    Takes (.trap f) s ⟨bits f.imm.toNat 7 0, 0, 0, false, true, false⟩ (s.yieldIf f.yld) :=
  takes_of_body (show execTrap f s = _ from rfl) rfl h rfl

/-- The cause registers of a code of one byte without SUB or INFO (R167). -/
theorem tcauseOf_code {c : Cause} (h : c.code < 0x100) (hi : c.info = 0) (hm : c.imp = false) : tcauseOf c false = BitVec.ofNat 64 c.code := by
  simp [tcauseOf, hi, hm, Nat.mod_eq_of_lt h]

theorem scauseOf_code {c : Cause} (h : c.code < 0x100) (hi : c.info = 0) (hm : c.imp = false) : scauseOf c = BitVec.ofNat 64 c.code := by
  simp [scauseOf, hi, hm, Nat.mod_eq_of_lt h]

/-- TRAP's cause is a user trap wherever a handler may run (R168). -/
theorem trapsUser_trap {t : Thread} {code : Nat} :
    t.trapsUser ⟨code, 0, 0, false, true, false⟩ = true ↔ t.s = false ∧ t.h = false ∧ t.utvec ≠ 0 := by
  simp [Thread.trapsUser, and_assoc]

/-- Settles O39: the three ends of taking the cause, which is a user trap wherever a handler may run. -/
theorem trapRaises : Obligations.TrapRaises := by
  intro f s h code quiet deliver
  obtain ⟨hlo, hhi⟩ := trapCode_bounds (sh := ⟨[0], .zero, .trapCode, .z, .z, .z, .none⟩) rfl rfl h
  have hpage : code ≠ 0x15 := by omega
  have htc := tcauseOf_code (c := ⟨code, 0, 0, false, true, false⟩) hhi rfl rfl
  have hsc := scauseOf_code (c := ⟨code, 0, 0, false, true, false⟩) hhi rfl rfl
  have htake := takes_trap h
  have heq := State.take_eq (s := s.yieldIf f.yld) ⟨code, 0, 0, false, true, false⟩ ((s.yieldIf_slot_thr f.yld).trans (ready_thread h))
  unfold Takes at htake
  rw [heq, State.yieldIf_core, State.yieldIf_slotNo, State.yieldIf_hword, if_neg hpage] at htake
  refine ⟨fun hh hs hv => ?user, fun hu hs hv => ?super, fun hend => ?stop⟩
  case user =>
    rw [if_pos (trapsUser_trap.mpr ⟨hs, hh, hv⟩), htc] at htake
    exact htake
  case super =>
    rw [if_neg fun h => hu.elim (by simp [(trapsUser_trap.mp h).2.1]) (trapsUser_trap.mp h).2.2, if_neg (by simp [hs, hv]), hsc] at htake
    exact htake
  case stop =>
    have huser : ¬ s.thr.trapsUser ⟨code, 0, 0, false, true, false⟩ = true := fun h => by
      obtain ⟨hs, hh, hv⟩ := trapsUser_trap.mp h
      rcases hend with h | ⟨h | h, -⟩
      · exact absurd h (by simp [hs])
      · exact absurd h (by simp [hh])
      · exact hv h
    rw [if_neg huser, if_pos (by rcases hend with h | ⟨-, h⟩ <;> simp [h])] at htake
    exact htake

/-- A user or supervisor cause below 0x80 is none of SCALL's. -/
theorem trapsUser_call {t : Thread} {code : Nat} (h : 0x80 ≤ code) : t.trapsUser ⟨code, 0, 0, false, false, false⟩ = false := by
  have h1 : code ≠ 0x20 := by omega
  have h2 : code ≠ 0x21 := by omega
  simp [Thread.trapsUser, h1, h2]

theorem takes_scall {f : Fields} {s : State} (h : ready (.scall f) s = true) :
    Takes (.scall f) s ⟨bits f.imm.toNat 7 0, 0, 0, false, false, false⟩
      (if s.thr.s || s.hword s.thr.hold 0x78 = 0 then s.yieldIf f.yld
        else (s.yieldIf f.yld).modThr fun t => { t with pc := t.pc + 12 }) := by
  have hthr : (s.yieldIf f.yld).thr = s.thr := by simp only [State.thr, State.yieldIf_slot_thr]
  refine takes_of_body (show execScall f s = _ from rfl) rfl h ?_
  simp only [hthr, State.yieldIf_hword]
  split <;> rfl

/-- SRET with S = 0 faults PRIV: outside root by the common check, in root in its body (R315, R467). -/
theorem takes_sret_priv {f : Fields} {s : State} (h : reached (.sret f) f s) (hs : s.thr.s = false)
    (hready : s.thr.root = true → ready (.sret f) s = true) : Takes (.sret f) s ⟨0x03, 0, 0, false, false, false⟩ s := by
  cases hr : s.thr.root with
  | false => exact takes_priv rfl h (by simp [privBad, superOnly, hs, hr])
  | true => exact takes_of_body (show execSret f s = _ from rfl) rfl (hready hr) (if_neg (by simp [hs]))

/-- The operands that an encoding accepts (R302). -/
theorem opOk_of_illopdOf_none {hOK : Bool} {i : Instr} {opc : Nat} {f : Fields} {sh : EncRule} (he : encOf i = some (opc, f, sh))
    (h : illopdOf hOK i = none) :
    opOk hOK sh.d true f.d = true ∧ opOk hOK sh.a false f.a = true ∧ opOk hOK sh.b (f.a.cls = .I) f.b = true := by
  simp only [illopdOf, he] at h
  split_ifs at h with hd ha hb
  simp only [Bool.not_eq_true, Bool.not_eq_false', Bool.and_eq_true] at hd ha hb
  exact ⟨hd, ha.1, hb.1⟩

/-- A field that accepts class Z alone names no queue. -/
theorem cls_of_opOk_z {hOK first : Bool} {o : Operand} (h : opOk hOK .z first o = true) : o.cls = .Z := by
  cases hc : o.cls <;> simp [opOk, hc] at h ⊢

/-- An instruction without a queue operand waits for no queue. -/
theorem queuesFree_of_noQ {s : State} {opc : Nat} {f : Fields} (hd : f.d.cls ≠ .Q) (ha : f.a.cls ≠ .Q) (hb : f.b.cls ≠ .Q) :
    queuesFree s opc f = true := by simp [queuesFree, hd, ha, hb]

/-- SRET has no queue operand. -/
theorem queuesFree_sret {f : Fields} {hOK : Bool} (s : State) (h : illopdOf hOK (.sret f) = none) : queuesFree s 0xF7 f = true := by
  obtain ⟨hd, ha, hb⟩ := opOk_of_illopdOf_none (sh := ⟨[0], .zero, .zero, .z, .z, .z, .none⟩) rfl h
  exact queuesFree_of_noQ (by simp [cls_of_opOk_z hd]) (by simp [cls_of_opOk_z ha]) (by simp [cls_of_opOk_z hb])

/-- A supervisor fault that is delivered, as a state. -/
theorem State.take_super_eq {s : State} {t : Thread} {c : Cause} (ht : s.slot.thr = some t) (hp : c.code ≠ 0x15)
    (hu : t.trapsUser c = false) (hs : t.s = false) (hv : s.hword t.hold 0x78 ≠ 0) :
    s.take c = (s.settleAt s.core s.slotNo t c).modSlotAt s.core s.slotNo fun v =>
      { v with thr := some (t.superFault (BitVec.ofNat 64 (s.hword t.hold 0x78)) t.pc (scauseOf c) c.addr) } := by
  rw [State.take_eq c ht, if_neg hp, if_neg (by simp [hu]), if_neg (by simp [hs, hv])]

/-- Settles O40: SCALL takes its cause at the next instruction, or stops the thread that may not enter S mode; SRET by its body, and its
faults by the checks. -/
theorem systemCallAndReturn : Obligations.SystemCallAndReturn := by
  refine ⟨?call, fun f s ht hcode => ?illegal, fun f s h hs => jumps_sret h hs,
    fun f s ht hi hd hg hs hacq hleave hpark hsfu hpend hstrong => ?priv⟩
  case call =>
    intro f s h code cause y s1 entered
    obtain ⟨hlo, hhi⟩ := trapCode_bounds (sh := ⟨[0], .zero, .trapCode, .z, .z, .z, .none⟩) rfl rfl h
    have hpage : code ≠ 0x15 := by omega
    have hy : y.slot.thr = some s.thr := (s.yieldIf_slot_thr f.yld).trans (ready_thread h)
    have htake := takes_scall h
    refine ⟨fun hs hv => ?_, fun hend => ?_⟩
    · rw [if_neg (by simp [hs, hv])] at htake
      have hu : (y.modThr fun t => { t with pc := t.pc + 12 }).slot.thr = some { s.thr with pc := s.thr.pc + 12 } := by
        rw [State.slot_thr_modThr, State.thr, hy]
        rfl
      have hvec : (y.modThr fun t => { t with pc := t.pc + 12 }).hword s.thr.hold 0x78 = s.hword s.thr.hold 0x78 := s.yieldIf_hword f.yld _ _
      have heq := State.take_super_eq (c := cause) hu hpage (trapsUser_call hlo) hs (by rw [hvec]; exact hv)
      unfold Takes at htake
      have hcore : (y.modThr fun t => { t with pc := t.pc + 12 }).core = s.core := s.yieldIf_core f.yld
      have hslotNo : (y.modThr fun t => { t with pc := t.pc + 12 }).slotNo = s.slotNo := s.yieldIf_slotNo f.yld
      rw [heq, hvec, scauseOf_code hhi rfl rfl, hcore, hslotNo] at htake
      exact htake
    · rw [if_pos (by rcases hend with hs | hv <;> simp [*])] at htake
      have hend : s.thr.s = true ∨ (s.yieldIf f.yld).hword s.thr.hold 0x78 = 0 := by rwa [State.yieldIf_hword]
      unfold Takes at htake
      rw [State.take_stop hy (trapsUser_call hlo) hend, State.yieldIf_core, State.yieldIf_slotNo] at htake
      exact htake
  case illegal =>
    refine takes_of_front rfl (thr_of_isSome ht) (front_illop ?_)
    have himm : immOk ⟨[0], .zero, .trapCode, .z, .z, .z, .none⟩ f = false := by
      simp only [immOk, Bool.and_eq_false_iff, decide_eq_false_iff_not]
      simp [bits] at hcode
      omega
    have he : encOf (.scall f) = some (0xF6, f, ⟨[0], .zero, .trapCode, .z, .z, .z, .none⟩) := rfl
    simp [illopOf, he, himm]
  case priv =>
    refine takes_sret_priv ⟨ht, hi, hd, by simpa using hg⟩ hs fun hr => ?_
    have hq := queuesFree_sret s hd
    have he : encOf (.sret f) = some (0xF7, f, ⟨[0], .zero, .zero, .z, .z, .z, .none⟩) := rfl
    simp [ready, he, thr_of_isSome ht, hi, hd, hg, privBad, superOnly, rootOnly, hr, isCopy, needsFp64, slotReady, hleave, hpark, hsfu, pendHit, hpend,
      hstrong, hacq, onUnit, hq]

/-! ### REP and EXIT (R311, R312, R333) -/

theorem repeatStart : RepeatStart := by
  intro f s h n m
  by_cases hn : n < s.thr.repc
  · rw [if_pos hn]
    exact takes_of_body (show execRep f s = _ from rfl) rfl h (if_pos hn)
  · rw [if_neg hn]
    intro w s1 hw
    by_cases hb : repBad w m
    · rw [if_pos hb]
      refine takes_of_body (show execRep f s = _ from rfl) rfl h ((if_neg hn).trans ?_)
      simp only [hw, bind, Except.bind]
      exact if_pos hb
    · rw [if_neg hb]
      refine jumps_of_body (show execRep f s = _ from rfl) rfl h ((if_neg hn).trans ?_)
      simp only [hw, bind, Except.bind]
      exact if_neg hb

theorem exitRetires : ExitRetires := by
  intro f s s1 h hrel hset hld htl hready
  rw [show exec (.exit f) s = issue (.exit f) s _ from (show execExit f s = _ from rfl), issue_ready rfl h]
  simp only [release_ok hrel, bind, Except.bind, hset, hld, htl, hready]
  rfl

/-- Settles O4: REP by the two words that it may fault on, and EXIT by the waits that it has passed. -/
theorem repeatAndExit : Obligations.RepeatAndExit := ⟨repeatStart, exitRetires⟩

end Sys2Proof.Machine

/-! SUPPORT. What a fetch keeps, and the step at an open issue slot (R127, R300, R301). -/

namespace Sys2Proof.Machine

open Sys2Proof.Claims

/-! ### What translations and reads at homes keep -/

@[simp] theorem State.setL1_kept (s : State) (core w : Nat) (v : Option L1Word) : (s.setL1 core w v).kept = s.kept := rfl

@[simp] theorem State.l1Evict_kept (s : State) (core w : Nat) : (s.l1Evict core w).kept = s.kept := by
  unfold State.l1Evict
  split
  · rfl
  · dsimp only
    split
    · rfl
    · split <;> simp

@[simp] theorem State.revoke_kept (s : State) (home w : Nat) : (s.revoke home w).kept = s.kept := by
  unfold State.revoke
  split
  · simp
  · rfl

@[simp] theorem State.settle_kept (s : State) (home w : Nat) : (s.settle home w).kept = s.kept := by simp [State.settle]

@[simp] theorem State.rawPut_kept (s : State) (hold rgn pa : Nat) (v : Word) : (s.rawPut hold rgn pa v).kept = s.kept := by
  unfold State.rawPut
  dsimp only
  split
  · simp
  · split
    · rw [State.addFault_kept, State.modFn_kept]
      simp only [State.kept]
    · have hbump := State.bump_kept s pa
      simpa only [State.kept] using hbump

@[simp] theorem State.walkNow_kept (s : State) (q : Asker) (mva n l tbl : Nat) : (s.walkNow q mva n l tbl).2.kept = s.kept := by
  have hgate : (s.walkReady q mva n l tbl).2.kept = s.kept := State.gateWords_kept s q _
  unfold State.walkNow
  split <;> (rename_i h; rw [h] at hgate; exact hgate)

@[simp] theorem State.findLeaf_kept (s : State) (q : Asker) (k mva : Nat) : (s.findLeaf q k mva).2.kept = s.kept := by
  unfold State.findLeaf
  dsimp only
  split
  · split <;> simp
  · split
    · next l at_ e s1 h =>
      have hwalk := congrArg (fun x => x.2.kept) h
      simp only [State.walkNow_kept, State.choose_kept] at hwalk
      split
      · exact (State.choose_kept s1 2).trans hwalk.symm
      · exact (State.choose_kept s1 2).trans hwalk.symm
    · next x s1 h =>
      have hwalk := congrArg (fun x => x.2.kept) h
      simpa using hwalk.symm

@[simp] theorem State.useLeaf_kept (s : State) (q : Asker) (k mva : Nat) (need : Need) (l at_ : Nat) (e : Word) :
    (s.useLeaf q k mva need l at_ e).2.kept = s.kept := by
  have hgate := State.hdmGate_kept s (some q.who) at_ 8 true q.hold q.rgn
  unfold State.useLeaf
  dsimp only
  split
  · rfl
  split
  · rfl
  split
  · next s1 h => rwa [h] at hgate
  · next s1 h =>
    rw [h] at hgate
    split
    · exact (State.rawPut_kept ..).trans hgate
    · exact (State.rawPut_kept ..).trans hgate

@[simp] theorem State.translate_kept (s : State) (q : Asker) (k mva : Nat) (need : Need) : (s.translate q k mva need).2.kept = s.kept := by
  have hfind := State.findLeaf_kept s q k mva
  unfold State.translate
  split
  · next x s1 h => rwa [h] at hfind
  · next l at_ e s1 h =>
    rw [h] at hfind
    split
    · have hwalk := State.walkNow_kept s1 q mva 4 3 (s1.hword q.hold 0x40)
      split
      · next x s2 h2 => rw [h2] at hwalk; exact hwalk.trans hfind
      · next l2 at2 e2 s2 h2 => rw [h2] at hwalk; rw [State.useLeaf_kept]; exact hwalk.trans hfind
    · rw [State.useLeaf_kept, hfind]

@[simp] theorem State.homeBytes_kept (s : State) (a : AtHome) (pa n : Nat) : (s.homeBytes a pa n).2.2.kept = s.kept := by
  unfold State.homeBytes
  exact foldl_keeps (fun p : List Byte × Bool × State => p.2.2.kept) (fun p w => State.homeWord_kept p.2.2 _ _) _ _

/-! ### What a fetch keeps -/

/-- A sequence of two steps answers when both do. -/
theorem M.bind_eq_ok {α β : Type} {x : M α} {g : α → M β} {r : β} : (x >>= g) = .ok r ↔ ∃ a, x = .ok a ∧ g a = .ok r := by
  cases x <;> simp [bind, Except.bind]

theorem fetchOut_kept {s t : State} {pc : Word} {a n : Nat} {leaf : Leaf} {bs : List Byte} (h : fetchOut s pc a n leaf = .ok (bs, t)) :
    t = s := by
  unfold fetchOut at h
  dsimp only at h
  split at h
  · split at h
    · cases h
    split at h
    · cases h
    · cases h; rfl
  · split at h
    · cases h; rfl
    · cases h
    · split at h
      · cases h
      split at h <;> cases h

theorem walksReady_kept {s t : State} {addr : Word} {write : Bool} {l : List Nat} (h : walksReady s addr write l = .ok t) :
    t.kept = s.kept := by
  induction l generalizing s with
  | nil => cases h; rfl
  | cons a l ih =>
    obtain ⟨-, -, h⟩ := M.bind_eq_ok.mp h
    have hroot : (s.rootReady s.asker a).2.kept = s.kept := State.gateWords_kept s _ _
    split at h
    · exact ih h
    · split at h
      · next s1 h1 =>
        rw [h1] at hroot
        exact (ih h).trans hroot
      · cases h

theorem samePages_kept {s t : State} {a b : Nat} {addr : Word} {write : Bool} (h : samePages s a b addr write = .ok t) :
    t.kept = s.kept := by
  obtain ⟨s1, h1, h⟩ := M.bind_eq_ok.mp h
  have hwalks := walksReady_kept h1
  split at h
  · split at h
    · cases h
    · cases h; exact hwalks
  · cases h; exact hwalks

theorem fetchPiece_kept {s t : State} {pc : Word} {mva n : Nat} {bs : List Byte} (h : fetchPiece s pc mva n = .ok (bs, t)) :
    t.kept = s.kept := by
  obtain ⟨-, -, h⟩ := M.bind_eq_ok.mp h
  have htr := State.translate_kept s s.asker (clusterOf s.core) mva { x := true }
  split at h
  · next tgt s1 h1 =>
    rw [h1] at htr
    split at h
    · cases h
    split at h
    · cases h
    split at h
    · split at h
      · cases h
      · next s2 h2 =>
        have hgate := (congrArg (·.2.kept) h2).symm.trans (State.hdmGate_kept ..)
        dsimp only at h
        split at h
        · cases h
        · cases h
          rw [State.homeBytes_kept, hgate, htr]
    · obtain ⟨⟨b1, s2⟩, h2, h⟩ := M.bind_eq_ok.mp h
      cases fetchOut_kept h2
      dsimp only at h
      split at h
      · cases h; exact htr
      · obtain ⟨⟨b2, s3⟩, h3, h⟩ := M.bind_eq_ok.mp h
        cases fetchOut_kept h3
        cases h; exact htr
    · cases h
  · unfold pageOut at h
    split at h <;> cases h
  · cases h
  · cases h

/-- A place in the instruction buffer is left free of choice where there is none (R301). -/
theorem choose_if_kept (s : State) (b : Bool) : (if b then s.choose 2 else (1, s)).2.kept = s.kept := by
  cases b
  · rfl
  · exact State.choose_kept s 2

theorem State.dropGot_here (s : State) (r : Req) : (s.dropGot r).ctl.here = s.ctl.here := by rw [State.dropGot_ctl]

/-- A fetch that answers has kept the place of the present step. -/
theorem fetchAt_here {s t : State} {pc : Word} {w : BitVec 96} (h : fetchAt s pc = .ok (w, t)) : t.ctl.here = s.ctl.here := by
  unfold fetchAt at h
  split at h
  · cases h
  · split at h
    · cases h
    · simp only [Except.ok.injEq, Prod.mk.injEq] at h
      rw [← h.2]
  · dsimp only at h
    split at h
    · simp only [Except.ok.injEq, Prod.mk.injEq] at h
      rw [← h.2]
      exact State.here_of_kept (choose_if_kept s _)
    · split at h
      · obtain ⟨s1, h1, h⟩ := M.bind_eq_ok.mp h
        obtain ⟨⟨b1, s2⟩, h2, h⟩ := M.bind_eq_ok.mp h
        dsimp only at h
        obtain ⟨⟨b2, s3⟩, h3, h⟩ := M.bind_eq_ok.mp h
        simp only [Except.ok.injEq, Prod.mk.injEq] at h h1 h3
        rw [← h.2, ← h3.2]
        refine (State.dropGot_here s2 _).trans (State.here_of_kept ((fetchPiece_kept h2).trans ?_))
        rw [← h1]
        exact choose_if_kept s _
      · obtain ⟨s1, h1, h⟩ := M.bind_eq_ok.mp h
        obtain ⟨⟨b1, s2⟩, h2, h⟩ := M.bind_eq_ok.mp h
        dsimp only at h
        obtain ⟨⟨b2, s3⟩, h3, h⟩ := M.bind_eq_ok.mp h
        simp only [Except.ok.injEq, Prod.mk.injEq] at h
        rw [← h.2]
        refine (State.dropGot_here s3 _).trans (State.here_of_kept ((fetchPiece_kept h3).trans ((fetchPiece_kept h2).trans ?_)))
        rw [samePages_kept h1]
        exact choose_if_kept s _

/-! ### The step at an open issue slot -/

/-- What follows the fetch of a slot at an instruction boundary with nothing before its next instruction (R127, R311). -/
def afterFetch (s0 : State) (t : Thread) : M (BitVec 96 × State) → Next
  | .error e => .done (conclude false s0.core (.error e))
  | .ok (w, s) =>
    match decode w with
    | .error .illop => .done (conclude false s.core (raise s 0x01))
    | .error (.illopd i) | .ok i =>
      match t.rep with
      | none => .run i s
      | some r =>
        match stepInstr i r.mask ((r.n - t.repc) * r.step) with
        | .ok j => .run j (s.modSlot fun v => { v with disp := stepDisp i r.mask ((r.n - t.repc) * r.step) })
        | .error n => if skips i s.thr then .run i s else .done (conclude false s.core (raise s 0x02 n))

/-- A slot with a thread that stays, no late cause and no eligible interrupt fetches its next instruction. -/
theorem fetchIssue_eq {s : State} {t : Thread} (hthr : s.slot.thr = some t) (hleave : s.slot.leave = .stay) (hsfu : s.slot.sfu = false)
    (hlate : s.slot.late = []) (helig : s.slot.eligible t = none) :
    fetchIssue s = afterFetch s t (fetchAt s (if t.rep.isSome then t.pc + 12 else t.pc)) := by
  have hfirst : (if s.slot.atBoundary then firstLate s.slot.late else none) = none := by
    rw [hlate]
    exact ite_self none
  have hnone : (if s.slot.atBoundary then s.slot.eligible t else none) = none := by
    rw [helig]
    exact ite_self none
  unfold fetchIssue
  rw [hthr]
  dsimp only
  rw [hfirst, hnone, hleave, hsfu]
  rfl

/-- The step of an open slot runs the instruction that the fetch gives, with the power unit as it was (R10). -/
theorem step_of_run {s s' : State} {i : Instr} (hissue : s.ctl.issue = true)
    (hn : fetchIssue { s with ctl := { s.ctl with issue := false } } = .run i s') : step s = exec i { s' with pw := s.pw } := by
  unfold step nextIssue
  simp only [hissue, if_true, hn]

/-- The step of an open slot whose fetch gives no instruction ends there, with the power unit as it was (R10). -/
theorem step_of_done {s s' : State} (hissue : s.ctl.issue = true)
    (hn : fetchIssue { s with ctl := { s.ctl with issue := false } } = .done s') : step s = .next { s' with pw := s.pw } := by
  unfold step nextIssue
  simp only [hissue, if_true, hn]

/-- Settles O59, through what a fetch keeps: the core whose cycle ends at an invalid word is the one that fetched it. -/
theorem stepRunsTheWord : Obligations.StepRunsTheWord := by
  intro s t hissue hthr hleave hsfu hlate helig s0
  have hfetch : fetchIssue s0 = afterFetch s0 t (fetchAt s0 (if t.rep.isSome then t.pc + 12 else t.pc)) :=
    fetchIssue_eq hthr hleave hsfu hlate helig
  refine ⟨?_, ?_, ?_, ?_, ?_⟩
  · intro w s1 i hrep hw hi
    simp only [hrep, Option.isSome_none, Bool.false_eq_true, if_false, hw, afterFetch, hi] at hfetch
    exact step_of_run hissue hfetch
  · intro w s1 i hrep hw hi
    simp only [hrep, Option.isSome_none, Bool.false_eq_true, if_false, hw, afterFetch, hi] at hfetch
    exact step_of_run hissue hfetch
  · intro w s1 hrep hw hi
    simp only [hrep, Option.isSome_none, Bool.false_eq_true, if_false, hw, afterFetch, hi] at hfetch
    have hcore : s1.core = s0.core := congrArg Place.unit (fetchAt_here hw)
    rw [step_of_done hissue hfetch, ← hcore]
    rfl
  · intro w s1 i j r hrep hw hi d hj
    simp only [hrep, Option.isSome_some, if_true, hw, afterFetch, hi] at hfetch
    rw [show stepInstr i r.mask ((r.n - t.repc) * r.step) = .ok j from hj] at hfetch
    exact step_of_run hissue hfetch
  · intro core off hreach hbad
    have hhold : s0.thr.hold = t.hold := by
      show (s.slot.thr.getD {}).hold = t.hold
      rw [hthr]
      rfl
    unfold fetchAt
    simp only [hreach, hhold, hbad]
    rfl

end Sys2Proof.Machine

/-! SUPPORT. What the operations of an instruction leave alone (R159, R166, R326), and the frame of the scalar instructions. -/

namespace Sys2Proof.Machine

open Sys2Proof.Claims

/-! ### Threads that differ in some registers -/

/-- The thread `u` has the registers of `t`, except those in `R`, its predicates and its special registers. -/
structure Thread.Keeps (R : Nat → Prop) (t u : Thread) : Prop where
  gpr : ∀ n, n < 28 → ¬ R n → u.gpr n = t.gpr n
  pred : u.pred = t.pred
  specials : SameSpecials t u

theorem sameSpecials_refl (t : Thread) : SameSpecials t t := by simp [SameSpecials]

theorem SameSpecials.trans {t u v : Thread} (h : SameSpecials t u) (k : SameSpecials u v) : SameSpecials t v := by
  unfold SameSpecials at *
  simp_all

theorem Thread.gpr_setGpr_other (t : Thread) {n k : Nat} (v : Word) (h : n ≠ k) : (t.setGpr k v).gpr n = t.gpr n := by
  unfold Thread.setGpr
  split
  · simp only [Thread.gpr]
    split
    · exact Tab.get_set_other 0 t.g v h
    · rfl
  · next hk =>
    have hsub : ¬ n < 24 → n - 24 ≠ k - 24 := by omega
    split
    · next hs =>
      simp only [Thread.gpr, hs, if_true]
      split
      · rfl
      · next hn => exact Tab.get_set_other 0 t.hs v (hsub hn)
    · next hs =>
      simp only [Thread.gpr, hs]
      split
      · rfl
      · next hn => exact Tab.get_set_other 0 t.hu v (hsub hn)

namespace Thread.Keeps

variable {R : Nat → Prop} {t u v : Thread}

theorem refl (R : Nat → Prop) (t : Thread) : Keeps R t t := ⟨fun _ _ _ => rfl, rfl, sameSpecials_refl t⟩

theorem trans (h : Keeps R t u) (k : Keeps R u v) : Keeps R t v :=
  ⟨fun n hn hr => (k.gpr n hn hr).trans (h.gpr n hn hr), k.pred.trans h.pred, h.specials.trans k.specials⟩

theorem weaken {R' : Nat → Prop} (h : Keeps R t u) (hr : ∀ n, R n → R' n) : Keeps R' t u :=
  ⟨fun n hn hn' => h.gpr n hn fun hc => hn' (hr n hc), h.pred, h.specials⟩

/-- Pinning the thread keeps its registers (R131). -/
theorem roam (t : Thread) (b : Bool) : Keeps R t { t with roam := b } := ⟨fun _ _ _ => rfl, rfl, sameSpecials_refl t⟩

/-- So does a step of %rng (R227). -/
theorem rng (t : Thread) (x : BitVec 32) : Keeps R t { t with rng := x } := ⟨fun _ _ _ => rfl, rfl, sameSpecials_refl t⟩

theorem setGpr (t : Thread) (n : Nat) (v : Word) (h : R n) : Keeps R t (t.setGpr n v) := by
  refine ⟨fun m _ hm => t.gpr_setGpr_other v (fun hc => hm (hc ▸ h)), ?_, ?_⟩
  · unfold Thread.setGpr
    split
    · rfl
    · split <;> rfl
  · unfold Thread.setGpr
    split
    · exact sameSpecials_refl t
    · split <;> exact sameSpecials_refl t

theorem advance (t : Thread) : Keeps R t t.advance := by
  refine ⟨fun n _ _ => t.gpr_advance n, ?_, ?_⟩
  · unfold Thread.advance
    split
    · rfl
    · split <;> rfl
  · unfold Thread.advance
    split
    · exact sameSpecials_refl t
    · split <;> exact sameSpecials_refl t

end Thread.Keeps

/-- Two threads that differ at most in whether they roam (R131). -/
def Thread.SameButRoam (t u : Thread) : Prop := { u with roam := false } = { t with roam := false }

theorem Thread.SameButRoam.keeps {R : Nat → Prop} {t u : Thread} (h : t.SameButRoam u) : Keeps R t u := by
  have hmid : Keeps R t { u with roam := false } := by
    rw [h]
    exact .roam t false
  exact hmid.trans (.roam _ u.roam)

/-! ### States that differ in the slot of the present step and its queues -/

/-- The state `t` has the memories, the other slots and the place of the present step of `s`. -/
structure State.Local (s t : State) : Prop where
  mm : t.mm = s.mm
  spad : t.co.spad = s.co.spad
  here : t.ctl.here = s.ctl.here
  others : ∀ core slot, slotKey core slot ≠ slotKey s.core s.slotNo → t.slotAt core slot = s.slotAt core slot

namespace State.Local

variable {s t u : State}

theorem refl (s : State) : s.Local s := ⟨rfl, rfl, rfl, fun _ _ _ => rfl⟩

theorem core (h : s.Local t) : t.core = s.core := congrArg Place.unit h.here
theorem slotNo (h : s.Local t) : t.slotNo = s.slotNo := congrArg Place.sub h.here

theorem trans (h : s.Local t) (k : t.Local u) : s.Local u := by
  refine ⟨k.mm.trans h.mm, k.spad.trans h.spad, k.here.trans h.here, fun c n hk => ?_⟩
  rw [k.others c n (by rwa [h.core, h.slotNo]), h.others c n hk]

theorem modSlot (s : State) (f : Slot → Slot) : s.Local (s.modSlot f) :=
  ⟨rfl, rfl, rfl, fun _ _ hk => Tab.get_set_other ({} : Slot) s.co.slots (f s.slot) hk⟩

theorem modThr (s : State) (f : Thread → Thread) : s.Local (s.modThr f) := modSlot s fun v => { v with thr := some (f s.thr) }

theorem setQIn (s : State) (core hold q : Nat) (l : List QEnt) : s.Local (s.setQIn core hold q l) := by
  unfold State.setQIn
  split <;> exact ⟨rfl, rfl, rfl, fun _ _ _ => rfl⟩

theorem memory (h : s.Local t) : SameMemory s t := sameMemory_of h.mm h.spad

end State.Local

@[simp] theorem State.setQIn_thr (s : State) (core hold q : Nat) (l : List QEnt) : (s.setQIn core hold q l).thr = s.thr := by
  unfold State.setQIn
  split <;> rfl

/-! ### Sources, draws and destinations -/

theorem State.popQ_local (s : State) (core hold q : Nat) : s.Local (s.popQ core hold q).2 := by
  unfold State.popQ
  split
  · exact .setQIn s core hold q _
  · exact .refl s

@[simp] theorem State.popQ_thr (s : State) (core hold q : Nat) : (s.popQ core hold q).2.thr = s.thr := by
  unfold State.popQ
  split
  · exact State.setQIn_thr ..
  · rfl

theorem State.src_local (s : State) (o : Operand) (imm : Word) : s.Local (s.src o imm).2 := by
  unfold State.src
  split
  · exact .refl s
  · exact (State.Local.modThr s _).trans (State.popQ_local ..)
  · exact .refl s
  · exact .refl s

theorem State.src_thr (s : State) (o : Operand) (imm : Word) : s.thr.SameButRoam (s.src o imm).2.thr := by
  unfold State.src
  split
  · rfl
  · simp only [State.popQ_thr, State.pin, State.thr_modThr]
    rfl
  · rfl
  · rfl

theorem State.srcs_local (s : State) (f : Fields) (imm : Word) : s.Local (s.srcs f imm).2.2 :=
  (s.src_local f.a imm).trans ((s.src f.a imm).2.src_local f.b imm)

theorem State.srcs_thr (s : State) (f : Fields) (imm : Word) : s.thr.SameButRoam (s.srcs f imm).2.2.thr :=
  ((s.src f.a imm).2.src_thr f.b imm).trans (s.src_thr f.a imm)

theorem State.draw1_local (s : State) (rm : Rm) : s.Local (s.draw1 rm).2 := by
  unfold State.draw1
  split
  · exact State.Local.modThr s fun t => { t with rng := rngNext s.thr.rng }
  · exact .refl s

theorem State.draw1_thr (R : Nat → Prop) (s : State) (rm : Rm) : s.thr.Keeps R (s.draw1 rm).2.thr := by
  unfold State.draw1
  split
  · rw [State.thr_modThr]
    exact .rng s.thr _
  · exact .refl R s.thr

/-- The register that an operand names. -/
def namesReg (o : Operand) (n : Nat) : Prop := o.cls = .G ∧ o.idx.toNat = n

theorem State.dst_local (s : State) (o : Operand) (v : Word) : s.Local (s.dst o v) := by
  unfold State.dst
  split
  · exact .modThr s _
  · exact (State.Local.modThr s _).trans (State.Local.setQIn ..)
  · exact .refl s

theorem State.dst_thr (s : State) (o : Operand) (v : Word) : s.thr.Keeps (namesReg o) (s.dst o v).thr := by
  unfold State.dst
  split
  · next ho =>
    rw [State.thr_modThr]
    exact .setGpr s.thr _ v ⟨ho, rfl⟩
  · simp only [State.pushQ, State.setQOut, State.setQIn_thr, State.pin, State.thr_modThr]
    exact .roam s.thr false
  · exact .refl _ s.thr

theorem State.finish_local (s : State) (f : Fields) (core : Nat) : s.Local (s.finish f core) :=
  have hslot := State.Local.modSlot s fun v => { v.done f.yld with thr := v.thr.map Thread.advance }
  ⟨rfl, rfl, rfl, hslot.others⟩

theorem State.thr_finish (R : Nat → Prop) (s : State) (f : Fields) (core : Nat) : s.thr.Keeps R (s.finish f core).thr := by
  have hthr : (s.finish f core).thr = (s.slot.thr.map Thread.advance).getD {} :=
    State.thr_modSlot s fun v => { v.done f.yld with thr := v.thr.map Thread.advance }
  rw [hthr, State.thr]
  cases s.slot.thr with
  | none => exact .refl R _
  | some t => exact .advance t

/-! ### The frame of the instructions with a destination register -/

/-- The effect `e` of an instruction leaves all but the register that D names, %rng and the queues. -/
def RegisterEffect (f : Fields) (s e : State) : Prop := s.Local e ∧ s.thr.Keeps (namesReg f.d) e.thr

theorem RegisterEffect.trans {f : Fields} {s t e : State} (h : RegisterEffect f s t) (k : RegisterEffect f t e) : RegisterEffect f s e :=
  ⟨h.1.trans k.1, h.2.trans k.2⟩

theorem RegisterEffect.dst (f : Fields) (s : State) (v : Word) : RegisterEffect f s (s.dst f.d v) := ⟨s.dst_local f.d v, s.dst_thr f.d v⟩

theorem RegisterEffect.src (f : Fields) (s : State) (o : Operand) (imm : Word) : RegisterEffect f s (s.src o imm).2 :=
  ⟨s.src_local o imm, (s.src_thr o imm).keeps⟩

theorem RegisterEffect.srcs (f : Fields) (s : State) (imm : Word) : RegisterEffect f s (s.srcs f imm).2.2 :=
  ⟨s.srcs_local f imm, (s.srcs_thr f imm).keeps⟩

theorem RegisterEffect.draw1 (f : Fields) (s : State) (rm : Rm) : RegisterEffect f s (s.draw1 rm).2 :=
  ⟨s.draw1_local rm, s.draw1_thr _ rm⟩

theorem RegisterEffect.srcsDst (f : Fields) (s : State) (imm v : Word) : RegisterEffect f s ((s.srcs f imm).2.2.dst f.d v) :=
  (RegisterEffect.srcs f s imm).trans (.dst f _ v)

theorem RegisterEffect.roundDst (f : Fields) (s : State) (imm v : Word) (rm : Rm) :
    RegisterEffect f s (((s.srcs f imm).2.2.draw1 rm).2.dst f.d v) :=
  ((RegisterEffect.srcs f s imm).trans (.draw1 f _ rm)).trans (.dst f _ v)

/-- A conversion to an integer draws nothing (R354). -/
theorem RegisterEffect.drawUnless (f : Fields) (s : State) (b : Bool) (rm : Rm) :
    RegisterEffect f s (if b then (0, s) else s.draw1 rm).2 := by
  cases b
  · exact .draw1 f s rm
  · exact ⟨.refl s, .refl _ s.thr⟩

/-- The list of forms, put together from the tables of their results and the other forms. -/
theorem registerForms_eq : registerForms =
    (intTable.map Prod.fst).take 29 ++ (([.bfi] : List Form) ++ (((intTable.map Prod.fst).drop 29).take 1 ++ (([.movhi, .sel, .addsh] : List Form) ++
      ((intTable.map Prod.fst).drop 30 ++ (([.mfs, .nop, .pget] : List Form) ++ (floatTable.map Prod.fst ++
        (([.ffma, .fmin, .fmax, .fcvt] : List Form) ++ (fp64Table.map Prod.fst ++ ([.dcvt] : List Form))))))))) := rfl

/-- The forms by the tables of their results, and the others. -/
theorem registerForms_cases {p : Form} (hp : p ∈ registerForms) : p ∈ intTable.map Prod.fst ∨ p ∈ floatTable.map Prod.fst ∨
    p ∈ fp64Table.map Prod.fst ∨ p ∈ ([.bfi, .movhi, .sel, .addsh, .mfs, .nop, .pget] : List Form) ∨
    p ∈ ([.ffma, .fmin, .fmax, .fcvt, .dcvt] : List Form) := by
  rw [registerForms_eq] at hp
  simp only [List.mem_append] at hp
  rcases hp with h | h | h | h | h | h | h | h | h | h
  · exact .inl (List.mem_of_mem_take h)
  · exact .inr (.inr (.inr (.inl (by simp only [List.mem_cons, List.not_mem_nil, or_false] at h ⊢; tauto))))
  · exact .inl (List.mem_of_mem_drop (List.mem_of_mem_take h))
  · exact .inr (.inr (.inr (.inl (by simp only [List.mem_cons, List.not_mem_nil, or_false] at h ⊢; tauto))))
  · exact .inl (List.mem_of_mem_drop h)
  · exact .inr (.inr (.inr (.inl (by simp only [List.mem_cons, List.not_mem_nil, or_false] at h ⊢; tauto))))
  · exact .inr (.inl h)
  · exact .inr (.inr (.inr (.inr (by simp only [List.mem_cons, List.not_mem_nil, or_false] at h ⊢; tauto))))
  · exact .inr (.inr (.inl h))
  · exact .inr (.inr (.inr (.inr (by simp only [List.mem_cons, List.not_mem_nil, or_false] at h ⊢; tauto))))

theorem registerForm_completes {p : Form} (hp : p ∈ registerForms) (f : Fields) (s : State) (h : ready (p f) s = true) :
    ∃ e, Completes (p f) f s e ∧ RegisterEffect f s e := by
  obtain ⟨hbfi, hmovhi, hsel, haddsh, hmfs, -⟩ := fieldAndSpecialResult
  obtain ⟨hfloat, hffma, hpick⟩ := floatResult
  obtain ⟨-, -, -, -, -, hpget, -⟩ := predicateResult
  rcases registerForms_cases hp with hp | hp | hp | hp | hp
  · obtain ⟨q, hq, rfl⟩ := List.mem_map.mp hp
    exact ⟨_, integerResult q hq f s h, .srcsDst ..⟩
  · obtain ⟨q, hq, rfl⟩ := List.mem_map.mp hp
    exact ⟨_, hfloat q hq f s h, .roundDst ..⟩
  · obtain ⟨q, hq, rfl⟩ := List.mem_map.mp hp
    exact ⟨_, doubleResult q hq f s h, .roundDst ..⟩
  · fin_cases hp
    · exact ⟨_, hbfi f s h, .srcsDst ..⟩
    · exact ⟨_, hmovhi f s h, .dst ..⟩
    · exact ⟨_, hsel f s h, .srcsDst ..⟩
    · exact ⟨_, haddsh f s h, .srcsDst ..⟩
    · exact ⟨_, hmfs f s h, .dst ..⟩
    · exact ⟨s, completes_of_body (show execNop f s = _ from rfl) rfl h rfl, .refl s, .refl _ s.thr⟩
    · exact ⟨_, hpget f s h, .dst ..⟩
  · fin_cases hp
    · exact ⟨_, hffma f s h, .roundDst ..⟩
    · exact ⟨_, hpick _ (.head _) f s h, .srcsDst ..⟩
    · exact ⟨_, hpick _ (.tail _ (.head _)) f s h, .srcsDst ..⟩
    · exact ⟨_, conversionResult _ (.head _) f s h, ((RegisterEffect.src ..).trans (.drawUnless ..)).trans (.dst ..)⟩
    · exact ⟨_, conversionResult _ (.tail _ (.head _)) f s h, ((RegisterEffect.src ..).trans (.drawUnless ..)).trans (.dst ..)⟩

/-! ### The frame of the instructions with a destination predicate -/

@[simp] theorem Thread.gpr_setPrd (t : Thread) (k n : Nat) (b : Bool) : (t.setPrd k b).gpr n = t.gpr n := by
  unfold Thread.setPrd
  split
  · rfl
  · split <;> rfl

theorem sameSpecials_setPrd (t : Thread) (k : Nat) (b : Bool) : SameSpecials t (t.setPrd k b) := by
  unfold Thread.setPrd
  split
  · exact sameSpecials_refl t
  · split <;> exact sameSpecials_refl t

theorem Thread.prd_setPrd_other (t : Thread) {k n : Nat} (b : Bool) (h : n ≠ k) : (t.setPrd k b).prd n = t.prd n := by
  have hbit : (BitVec.twoPow 32 k).getLsbD n = false := by
    rw [BitVec.getLsbD_twoPow]
    simp [Ne.symm h]
  unfold Thread.setPrd
  split
  · rfl
  · cases b
    · simp only [Bool.false_eq_true, if_false, Thread.prd, BitVec.getLsbD_and, BitVec.getLsbD_not, hbit, Bool.not_false, Bool.and_true]
      by_cases hn : n < 32
      · simp [hn]
      · simp [hn, BitVec.getLsbD_of_ge t.pred n (by omega)]
    · simp only [if_true, Thread.prd, BitVec.getLsbD_or, hbit, Bool.or_false]

/-- The effect `e` of an instruction leaves all but the predicates in `P` and the queues. -/
def PredicateEffect (P : Nat → Prop) (s e : State) : Prop :=
  s.Local e ∧ (∀ n, n < 28 → e.thr.gpr n = s.thr.gpr n) ∧ (∀ n, n < 32 → ¬ P n → e.thr.prd n = s.thr.prd n) ∧
    SameSpecials s.thr e.thr ∧ e.thr.rng = s.thr.rng

theorem PredicateEffect.trans {P : Nat → Prop} {s t e : State} (h : PredicateEffect P s t) (k : PredicateEffect P t e) :
    PredicateEffect P s e := by
  obtain ⟨hl, hg, hp, hs, hr⟩ := h
  obtain ⟨kl, kg, kp, ks, kr⟩ := k
  exact ⟨hl.trans kl, fun n hn => (kg n hn).trans (hg n hn), fun n hn hP => (kp n hn hP).trans (hp n hn hP), hs.trans ks, kr.trans hr⟩

theorem PredicateEffect.of_sameButRoam {P : Nat → Prop} {s t : State} (hl : s.Local t) (h : s.thr.SameButRoam t.thr) : PredicateEffect P s t := by
  obtain ⟨hg, hp, hs⟩ := h.keeps (R := fun _ => False)
  have hr := congrArg Thread.rng h
  exact ⟨hl, fun n hn => hg n hn not_false, fun n _ _ => by simp only [Thread.prd, hp], hs, hr⟩

theorem PredicateEffect.setP (s : State) (k : Nat) (b : Bool) : PredicateEffect (· = k) s (s.setP k b) := by
  have hthr : (s.setP k b).thr = s.thr.setPrd k b := State.thr_modThr ..
  refine ⟨.modThr s _, fun n _ => ?_, fun n _ hn => ?_, ?_, ?_⟩
  · rw [hthr, Thread.gpr_setPrd]
  · rw [hthr, Thread.prd_setPrd_other s.thr b hn]
  · rw [hthr]
    exact sameSpecials_setPrd ..
  · rw [hthr, Thread.setPrd]
    split
    · rfl
    · split <;> rfl

theorem PredicateEffect.srcsSetP (s : State) (f : Fields) (imm : Word) (k : Nat) (b : Bool) :
    PredicateEffect (· = k) s ((s.srcs f imm).2.2.setP k b) :=
  (PredicateEffect.of_sameButRoam (s.srcs_local f imm) (s.srcs_thr f imm)).trans (.setP _ k b)

/-- PSET writes the predicates of its mask (R359). -/
theorem PredicateEffect.pset (s : State) (f : Fields) (v : BitVec 32) :
    PredicateEffect (fun n => f.imm.getLsbD n = true) s
      (s.modThr fun t => { t with pred := (t.pred &&& ~~~f.imm) ||| (v &&& f.imm) ||| 0x80000000 }) := by
  refine ⟨.modThr s _, fun n _ => ?_, fun n hn hP => ?_, ?_, ?_⟩
  · rw [State.thr_modThr]
    rfl
  · have htop : ∀ k < 32, (0x80000000#32).getLsbD k = decide (k = 31) := by decide
    have hbit : f.imm.getLsbD n = false := by simpa using hP
    simp only [State.thr_modThr, Thread.prd, BitVec.getLsbD_or, BitVec.getLsbD_and, BitVec.getLsbD_not, hbit]
    rw [show (0x80000000 : BitVec 32) = 0x80000000#32 from rfl, htop n hn]
    by_cases h31 : n = 31
    · simp [h31]
    · simp [h31, hn]
  · rw [State.thr_modThr]
    exact sameSpecials_refl s.thr
  · rw [State.thr_modThr]

/-- The predicates that an instruction with a destination predicate, or a mask of them, may write. -/
def writtenPred (f : Fields) (n : Nat) : Prop := if f.d.cls = .P then n = f.d.idx.toNat else f.imm.getLsbD n = true

/-- The operands of a ready instruction are of classes that its entry accepts (R302, R316). -/
theorem ready_opOk {i : Instr} {opc : Nat} {f : Fields} {sh : EncRule} {s : State} (he : encOf i = some (opc, f, sh))
    (h : ready i s = true) :
    ∃ hOK, opOk hOK sh.d true f.d = true ∧ opOk hOK sh.a false f.a = true ∧ opOk hOK sh.b (f.a.cls = .I) f.b = true := by
  have ht := ready_thread h
  unfold ready at h
  rw [he, ht] at h
  simp only [Bool.and_eq_true, Option.isNone_iff_eq_none] at h
  exact ⟨s.thr.s || s.thr.h, opOk_of_illopdOf_none he (by tauto)⟩

/-- A field that accepts class P alone names a predicate. -/
theorem cls_of_opOk_p {hOK first : Bool} {o : Operand} (h : opOk hOK .p first o = true) : o.cls = .P := by
  cases hc : o.cls <;> simp [opOk, hc] at h ⊢

theorem PredicateEffect.weaken {P P' : Nat → Prop} {s e : State} (h : PredicateEffect P s e) (hp : ∀ n, P n → P' n) : PredicateEffect P' s e := by
  obtain ⟨hl, hg, hk, hs, hr⟩ := h
  exact ⟨hl, hg, fun n hn hP => hk n hn fun hc => hP (hp n hc), hs, hr⟩

/-- An instruction with a destination predicate writes that alone. -/
theorem PredicateEffect.written {i : Instr} {opc : Nat} {f : Fields} {sh : EncRule} {s e : State} (he : encOf i = some (opc, f, sh))
    (hsh : sh.d = .p) (h : ready i s = true) (k : PredicateEffect (· = f.d.idx.toNat) s e) : PredicateEffect (writtenPred f) s e := by
  obtain ⟨hOK, hd, -⟩ := ready_opOk he h
  rw [hsh] at hd
  refine k.weaken fun n hn => ?_
  rw [writtenPred, if_pos (cls_of_opOk_p hd)]
  exact hn

theorem predicateForm_completes {p : Form} (hp : p ∈ predicateForms) (f : Fields) (s : State) (h : ready (p f) s = true) :
    ∃ e, Completes (p f) f s e ∧ PredicateEffect (writtenPred f) s e := by
  obtain ⟨hcmp, hcmpu, hfcmp, hdcmp, hplog, -, hpset⟩ := predicateResult
  fin_cases hp
  · exact ⟨_, hcmp f s h, .written rfl rfl h (.srcsSetP ..)⟩
  · exact ⟨_, hcmpu f s h, .written rfl rfl h (.srcsSetP ..)⟩
  · exact ⟨_, hfcmp f s h, .written rfl rfl h (.srcsSetP ..)⟩
  · exact ⟨_, hdcmp f s h, .written rfl rfl h (.srcsSetP ..)⟩
  · exact ⟨_, hplog f s h, .written rfl rfl h (.setP ..)⟩
  · obtain ⟨hOK, hd, -⟩ := ready_opOk (i := .pset f) (sh := ⟨[0], .zero, .any, .z, .gq, .z, .none⟩) rfl h
    refine ⟨_, hpset f s h, ?_⟩
    have hmask : ∀ n, f.imm.getLsbD n = true → writtenPred f n := fun n hn => by simpa [writtenPred, cls_of_opOk_z hd] using hn
    exact (PredicateEffect.of_sameButRoam (s.src_local f.a 0) (s.src_thr f.a 0)).trans ((PredicateEffect.pset _ f _).weaken hmask)

theorem State.rng_finish (s : State) (f : Fields) (core : Nat) : (s.finish f core).thr.rng = s.thr.rng := by
  have hthr : (s.finish f core).thr = (s.slot.thr.map Thread.advance).getD {} :=
    State.thr_modSlot s fun v => { v.done f.yld with thr := v.thr.map Thread.advance }
  rw [hthr, State.thr]
  cases s.slot.thr with
  | none => rfl
  | some t => exact Thread.rng_advance t

/-- The end of an instruction writes no register. -/
theorem PredicateEffect.finish (P : Nat → Prop) (s : State) (f : Fields) (core : Nat) : PredicateEffect P s (s.finish f core) := by
  obtain ⟨hg, hp, hs⟩ := s.thr_finish (fun _ => False) f core
  exact ⟨s.finish_local f core, fun n hn => hg n hn not_false, fun n _ _ => by simp only [Thread.prd, hp], hs, s.rng_finish f core⟩

/-- Settles O48: every instruction of the two lists completes with an effect made of sources, draws and its destination, each of which keeps
what the frame names, and so does the end of the instruction. -/
theorem scalarFrame : Obligations.ScalarFrame := by
  refine ⟨fun p hp f s t h hx => ?_, fun p hp f s t h hx => ?_⟩
  · obtain ⟨e, hc, hl, hk⟩ := registerForm_completes hp f s h
    cases hc.symm.trans hx
    obtain ⟨hg, hpred, hsp⟩ := hk.trans (e.thr_finish _ f s.core)
    have hlocal := hl.trans (e.finish_local f s.core)
    exact ⟨hg, hpred, hsp, hlocal.memory, hlocal.others⟩
  · obtain ⟨e, hc, he⟩ := predicateForm_completes hp f s h
    cases hc.symm.trans hx
    obtain ⟨hlocal, hg, hp, hs, hr⟩ := he.trans (.finish _ e f s.core)
    refine ⟨hg, fun n hn hw => hp n hn fun hc => ?_, hs, hr, hlocal.memory, hlocal.others⟩
    unfold writtenPred at hc
    split_ifs at hw hc
    · exact hw hc
    · simp [hw] at hc

end Sys2Proof.Machine

/-! SUPPORT. Loads, stores, tags and full/empty bits, atomics and pools: what each does where its unit lands (R255 to R265, R367 to R381). -/

namespace Sys2Proof.Machine

open Sys2Proof.Claims

/-! ### Loads -/

/-- An instruction of the load table completes as its load does. -/
theorem completes_load {p : LoadForm} (hp : p ∈ loadTable) {f : Fields} {s e : State} (h : ready (p.instr f) s = true)
    (ha : AcqOk s (p.acq s f))
    (hb : loadOp s f.d p.two (p.n f) (p.n f) (p.ext f) (p.ref s f) (p.acq s f) = .ok (.step e)) : Completes (p.instr f) f s e := by
  simp only [loadTable, List.mem_cons, List.not_mem_nil, or_false] at hp
  rcases hp with rfl | rfl | rfl
  · exact completes_of_body (exec_ld f s) rfl h hb
  · exact completes_of_body (exec_ldp f s) rfl h hb
  · refine completes_of_body (exec_ldacq f s) rfl h ?_
    simp only [checkPlot_ok ha.1, bind, Except.bind]
    exact hb

/-- A thread that may acquire has no release open. -/
theorem no_release_open {s : State} {acq : Option Word} (h : AcqOk s acq) : (acq.isSome && decide (s.slot.rels ≠ 0)) = false := by
  cases acq with
  | none => rfl
  | some w => simp [h.2]

section Load

variable {s s1 s2 : State} {o : Operand} {two : Bool} {n al k core off : Nat} {e : Ext} {r r' : Ref} {acq : Option Word}
  {parts : List (Tgt × Nat)}

theorem loadOp_far (hl : locate1 s kLD n al { r := true } r = .ok (.far core off, r', k, s1)) (ha : AcqOk s acq) (hld : s1.slot.ld < 63)
    (hb : s1.behindStore (.bank core s1.thr.hold off) n = false) :
    loadOp s o two n al e r acq =
      (let d := s1.dstOf o two
       let a := d.2.newAcc 1 n d.1 e acq
       let s2 := a.2.openAcq acq a.1
       .ok (.step (s2.sendParts a.1 PqOp.rd false [(.bank core s2.thr.hold off, 0, n)] r'.word k))) := by
  unfold loadOp
  simp only [no_release_open ha, Bool.false_eq_true, if_false, hl, bind, Except.bind, ldFull_ok hld, hb]

theorem loadOp_quick (hl : locate1 s kLD n al { r := true } r = .ok (.glob parts, r', k, s1)) (ha : AcqOk s acq) (hld : s1.slot.ld < 63)
    (hp : (parts.any fun (t, m) => s1.pooled t m) = false) {bs : List Byte} {src : List (Nat × Nat)}
    (hq : s1.quickAll (cutParts 8 parts 0) = (some (bs, src), s2)) (hopen : ∀ w, acq = some w → s2.acqOpen w src = false) :
    loadOp s o two n al e r acq = .ok (.step ((acquired s2 acq).dstNow o two e bs)) := by
  unfold loadOp
  cases acq with
  | none => simp only [Bool.false_and, Bool.false_eq_true, if_false, hl, bind, Except.bind, ldFull_ok hld, hp, hq, Option.isSome_none, acquired]
  | some w =>
    simp only [ha.2, ne_eq, not_true_eq_false, decide_false, Bool.and_false, Bool.false_eq_true, if_false, hl, bind, Except.bind,
      ldFull_ok hld, hp, hq, hopen w rfl, Option.isSome_some,
      if_true, acquired]

theorem loadOp_port (hl : locate1 s kLD n al { r := true } r = .ok (.glob parts, r', k, s1)) (ha : AcqOk s acq) (hld : s1.slot.ld < 63)
    (hp : (parts.any fun (t, m) => s1.pooled t m) = false) (hq : s1.quickAll (cutParts 8 parts 0) = (none, s2))
    (hb : (parts.any fun (t, m) => s2.behindStore t m) = false) :
    loadOp s o two n al e r acq =
      (let d := s2.dstOf o two
       let a := d.2.newAcc (cutParts 8 parts 0).length n d.1 e acq (unordered parts)
       let s3 := a.2.openAcq acq a.1
       .ok (.step (s3.sendParts a.1 PqOp.rd false (cutParts 8 parts 0) r'.word k))) := by
  unfold loadOp
  simp only [no_release_open ha, Bool.false_eq_true, if_false, hl, bind, Except.bind, ldFull_ok hld, hp, hq, hb]

end Load

theorem loadFromElsewhere : LoadFromElsewhere := by
  intro p hp f s hit r k s1 h hl ha _ hld
  refine ⟨?far, ?glob⟩
  case far =>
    rintro core off rfl hb
    exact completes_load hp h ha (loadOp_far hl ha hld hb)
  case glob =>
    rintro parts rfl hpool
    exact ⟨fun bs src s2 hq hopen => completes_load hp h ha (loadOp_quick hl ha hld hpool hq hopen),
      fun s2 hq hb => completes_load hp h ha (loadOp_port hl ha hld hpool hq hb)⟩

/-- Settles O5: the load at each place where its unit may land. -/
theorem loadsComplete : Obligations.LoadsComplete := ⟨loadFromOwnBank, loadFromElsewhere⟩

/-! ### Stores -/

theorem exec_st (f : Fields) (s : State) : exec (.st f) s = issue (.st f) s fun f s =>
    storeOp s f.d false (szBytes (mdSz f.md)) (szBytes (mdSz f.md)) (s.refM f) none := rfl

theorem exec_stp (f : Fields) (s : State) : exec (.stp f) s = issue (.stp f) s fun f s => storeOp s f.d true 16 16 (s.refM f) none := rfl

theorem exec_strel (f : Fields) (s : State) : exec (.strel f) s = issue (.strel f) s fun f s => (do
    checkPlot s (s.g f.b)
    storeOp s f.d false (szBytes (mdSz f.md)) (szBytes (mdSz f.md)) (s.refP f) (some (s.g f.b))) := rfl

/-- An instruction of the store table completes as its store does. -/
theorem completes_store {p : StoreForm} (hp : p ∈ storeTable) {f : Fields} {s e s1 : State} (h : ready (p.instr f) s = true)
    (hr : RelOk s1 (p.rel s f)) (hb : storeOp s f.d p.two (p.n f) (p.n f) (p.ref s f) (p.rel s f) = .ok (.step e)) :
    Completes (p.instr f) f s e := by
  simp only [storeTable, List.mem_cons, List.not_mem_nil, or_false] at hp
  rcases hp with rfl | rfl | rfl
  · exact completes_of_body (exec_st f s) rfl h hb
  · exact completes_of_body (exec_stp f s) rfl h hb
  · refine completes_of_body (exec_strel f s) rfl h ?_
    simp only [checkPlot_ok hr.1, bind, Except.bind]
    exact hb

section Store

variable {s s1 : State} {o : Operand} {two : Bool} {n al k core off : Nat} {r r' : Ref} {rel : Option Word}

theorem storeOp_here {acts : List (Nat × Nat)} (hl : locate1 s kST n al { w := true } r = .ok (.here off acts, r', k, s1)) (hr : RelOk s1 rel) :
    storeOp s o two n al r rel =
      (let d := s1.storeSrc o two n
       .ok (.step ((d.2.unitWrite d.2.core d.2.thr.hold off d.1 acts d.2.thr.rgn r'.word).retag d.2.core d.2.thr.hold acts))) := by
  unfold storeOp
  cases rel with
  | none => simp only [hl, bind, Except.bind]
  | some w => simp only [hl, bind, Except.bind, release_ok hr.2]

theorem storeOp_far (hl : locate1 s kST n al { w := true } r = .ok (.far core off, r', k, s1)) (hr : RelOk s1 rel)
    (hst : s1.slot.issued - s1.slot.drained < 63) :
    storeOp s o two n al r rel =
      (let d := s1.storeSrc o two n
       let a := d.2.newStore 1 (some core)
       let s2 := if rel.isSome then a.2.modSlot fun v => { v with rels := v.rels + 1 } else a.2
       .ok (.step (s2.toPost [{ s2.entry none (some a.1) (.wr d.1) 0 (.bank core s2.thr.hold off) r'.word k with rel := rel.isSome }]))) := by
  unfold storeOp
  cases rel with
  | none => simp only [hl, bind, Except.bind, stFull_ok hst, Option.isSome_none, Bool.false_eq_true, if_false]
  | some w => simp only [hl, bind, Except.bind, release_ok hr.2, stFull_ok hst, Option.isSome_some, if_true]

theorem storeOp_glob {parts : List (Tgt × Nat)} (hl : locate1 s kST n al { w := true } r = .ok (.glob parts, r', k, s1)) (hr : RelOk s1 rel)
    (hst : s1.slot.issued - s1.slot.drained < 63) (hp : (parts.any fun (t, m) => s1.pooled t m) = false) :
    storeOp s o two n al r rel =
      (let d := s1.storeSrc o two n
       let ps := cutParts 8 parts 0
       let a := d.2.newStore ps.length none
       let s2 := a.2.modSlot fun v => { v with
         strong := v.strong + (ps.filter fun (t, _, _) => t.kind = 1).length
         rels := v.rels + (if rel.isSome then ps.length else 0) }
       .ok (.step (s2.toPost (ps.map fun (t, off, m) =>
         { s2.entry none (some a.1) (.wr ((d.1.drop off).take m)) off t r'.word k with rel := rel.isSome })))) := by
  unfold storeOp
  cases rel with
  | none => simp only [hl, bind, Except.bind, stFull_ok hst, hp, Bool.false_eq_true, if_false, Option.isSome_none, Bool.false_eq_true, if_false]
  | some w => simp only [hl, bind, Except.bind, release_ok hr.2, stFull_ok hst, hp, Bool.false_eq_true, if_false, Option.isSome_some, if_true]

end Store

theorem storeToOwnBank : StoreToOwnBank := by
  intro p hp f s off acts r k s1 h hl hr hr1
  exact completes_store hp h hr (storeOp_here hl hr1)

theorem storeToElsewhere : StoreToElsewhere := by
  intro p hp f s hit r k s1 h hl hr hr1 hst
  refine ⟨?far, ?glob⟩
  case far =>
    rintro core off rfl
    exact completes_store hp h hr (storeOp_far hl hr1 hst)
  case glob =>
    rintro parts rfl hpool
    exact completes_store hp h hr (storeOp_glob hl hr1 hst hpool)

/-- Settles O6: the store at each place where its unit may land. -/
theorem storesComplete : Obligations.StoresComplete := ⟨storeToOwnBank, storeToElsewhere⟩


/-! ### Tags and full/empty bits -/

/-- The body of an instruction of the table of tag and full/empty instructions. -/
theorem exec_padTable : ∀ p ∈ padTable, ∀ f s,
    exec (p.instr f) s = issue (p.instr f) s fun f s => padOp s f (p.ref s f) p.n p.need (fun s => p.op s f) padHere := by
  intro p hp f s
  fin_cases hp <;> rfl

theorem encOf_padTable : ∀ p ∈ padTable, ∀ f, ∃ opc sh, encOf (p.instr f) = some (opc, f, sh) := by
  intro p hp f
  fin_cases hp <;> exact ⟨_, _, rfl⟩

theorem padOp_here {s : State} {f : Fields} {r : Ref} {n off : Nat} {need : Need} {op : State → PqOp × State}
    {now : State → Nat → PqOp → Word × State} (hp : padSpot s r n n need = .ok (s.core, off))
    (hb : busyPast s (winWords off n) = .ok ()) :
    padOp s f r n need op now =
      (let o := op s
       let a := now o.2.pin off o.1
       .ok (.step (if need.r then a.2.dst f.d a.1 else a.2))) := by
  unfold padOp
  simp only [hp, hb, bind, Except.bind, if_true]

theorem padOp_far {s : State} {f : Fields} {r : Ref} {n core off : Nat} {need : Need} {op : State → PqOp × State}
    {now : State → Nat → PqOp → Word × State} (hp : padSpot s r n n need = .ok (core, off)) (hc : core ≠ s.core)
    (hpin : s.thr.pinned = true ∨ clusterOf core = clusterOf s.core) (hld : s.slot.ld < 63)
    (hb : s.behindStore (.bank core s.thr.hold off) n = false) :
    padOp s f r n need op now =
      (let o := op s
       let d := if need.r then o.2.dstOf f.d false else (.none, o.2)
       let a := d.2.newAcc 1 8 d.1 ⟨8, false⟩ none false need.w
       .ok (.step (a.2.sendParts a.1 (fun _ => o.1) false [(.bank core a.2.thr.hold off, 0, n)] r.word 0))) := by
  have hstay : (!s.thr.pinned && decide (clusterOf core ≠ clusterOf s.core)) = false := by
    rcases hpin with h | h <;> simp [h]
  unfold padOp
  simp only [hp, bind, Except.bind, if_neg hc, hstay, ldFull_ok hld, hb, Bool.false_eq_true, if_false]

theorem tagAndFullEmpty : TagAndFullEmpty := by
  intro p hp f s core off h hpad
  obtain ⟨opc, sh, he⟩ := encOf_padTable p hp f
  refine ⟨?here, fun hc hpin hld hb => completes_of_body (exec_padTable p hp f s) he h (padOp_far hpad hc hpin hld hb)⟩
  case here =>
    rintro rfl hb
    exact completes_of_body (exec_padTable p hp f s) he h (padOp_here hpad hb)

/-! ### Atomics and pools -/

/-- The plots of ORD that a good plot word gives (R361). -/
theorem ordPlots_ok {s : State} {f : Fields} (ha : AcqOk s (acqOf s f)) (hr : RelOk s (relOf s f)) :
    ordPlots s f = .ok (acqOf s f, relOf s f) := by
  have hlt : mdOrd f.md < 4 := by
    exact Nat.mod_lt _ (by decide)
  unfold ordPlots
  dsimp only
  unfold acqOf relOf at *
  by_cases h0 : mdOrd f.md = 0
  · simp [h0]
  · have hgood : plotBad (s.thr.gpr (plotIdx f.imm)) = false := by
      by_cases h1 : mdOrd f.md % 2 = 1
      · rw [if_pos h1] at ha
        exact ha.1
      · rw [if_pos (by omega)] at hr
        exact hr.1
    simp only [if_neg h0, checkPlot_ok hgood, bind, Except.bind]

section Atomic

variable {s s1 : State} {o : Operand} {two : Bool} {n al k core off : Nat} {e : Ext} {r r' : Ref} {acq rel : Option Word}
  {op : State → PqOp × State} {hit : Hit}

/-- The reply of an atomic that goes to the memory port: its entry among the reads in flight, and its release among those that are open. -/
def atomicGoing (n : Nat) (e : Ext) (acq rel : Option Word) (free : Bool) (d : Dst × State) : Nat × State :=
  let a := d.2.newAcc 1 n d.1 e acq free true
  (a.1, (a.2.openAcq acq a.1).modSlot fun v => { v with rels := v.rels + (if rel.isSome then 1 else 0) })

theorem atomicOp_here {acts : List (Nat × Nat)}
    (hl : locate1 s kAT n al { r := true, w := true, a := true, soft := (op s).1.compares } r = .ok (.here off acts, r', k, s1))
    (ha : AcqOk s acq) (hr : RelOk s1 rel) (hb : s1.unitBad s1.core s1.thr.hold acts = false) :
    atomicOp s o two n al e r acq rel op =
      (let p := op s1
       let a := p.2.atomHere off n acts p.1 r'.word
       .ok (.step ((acquired a.2 acq).dstNow o two e a.1))) := by
  unfold atomicOp
  cases acq with
  | none =>
    cases rel with
    | none => simp [bind, Except.bind, hl, hb, acquired, atomNeed]
    | some w => simp [bind, Except.bind, hl, hb, acquired, release_ok hr.2, atomNeed]
  | some v =>
    cases rel with
    | none => simp [bind, Except.bind, hl, hb, acquired, acqReady_ok ha.2, atomNeed]
    | some w => simp [bind, Except.bind, hl, hb, acquired, acqReady_ok ha.2, release_ok hr.2, atomNeed]

theorem atomicOp_far
    (hl : locate1 s kAT n al { r := true, w := true, a := true, soft := (op s).1.compares } r = .ok (.far core off, r', k, s1))
    (ha : AcqOk s acq) (hr : RelOk s1 rel) (hld : s1.slot.ld < 63) (hb : s1.behindStore (.bank core s1.thr.hold off) n = false) :
    atomicOp s o two n al e r acq rel op =
      (let p := op s1
       let a := atomicGoing n e acq rel false (p.2.dstOf o two)
       .ok (.step (a.2.sendParts a.1 (fun _ => p.1) rel.isSome [(.bank core a.2.thr.hold off, 0, n)] r'.word k))) := by
  unfold atomicOp
  cases acq with
  | none =>
    cases rel with
    | none => simp [bind, Except.bind, hl, hb, ldFull_ok hld, atomicGoing, atomNeed]
    | some w => simp [bind, Except.bind, hl, hb, ldFull_ok hld, atomicGoing, release_ok hr.2, atomNeed]
  | some v =>
    cases rel with
    | none => simp [bind, Except.bind, hl, hb, ldFull_ok hld, atomicGoing, acqReady_ok ha.2, atomNeed]
    | some w => simp [bind, Except.bind, hl, hb, ldFull_ok hld, atomicGoing, acqReady_ok ha.2, release_ok hr.2, atomNeed]

theorem atomicOp_glob {parts : List (Tgt × Nat)}
    (hl : locate1 s kAT n al { r := true, w := true, a := true, soft := (op s).1.compares } r = .ok (.glob parts, r', k, s1))
    (ha : AcqOk s acq) (hr : RelOk s1 rel) (hns : (parts.any fun (t, _) => s1.nsBad s1.thr.hold t (op s1).1) = false)
    (hld : s1.slot.ld < 63) (hway : clearWay s1 parts = .ok ()) :
    atomicOp s o two n al e r acq rel op =
      (let p := op s1
       let a := atomicGoing n e acq rel (unordered parts) (p.2.dstOf o two)
       .ok (.step (a.2.sendParts a.1 (fun _ => p.1) rel.isSome (parts.map fun (t, m) => (t, 0, m)) r'.word k))) := by
  unfold atomicOp
  cases acq with
  | none =>
    cases rel with
    | none => simp only [bind, Except.bind, hl, hns, ldFull_ok hld, hway, atomicGoing, atomNeed, Option.isSome_none, Bool.false_eq_true, if_false]
    | some w =>
      simp only [bind, Except.bind, hl, hns, ldFull_ok hld, hway, atomicGoing, release_ok hr.2, atomNeed, Option.isSome_none, Bool.false_eq_true,
        if_false]
  | some v =>
    cases rel with
    | none =>
      simp only [bind, Except.bind, hl, hns, ldFull_ok hld, hway, atomicGoing, acqReady_ok ha.2, atomNeed, Option.isSome_some, if_true,
        Bool.false_eq_true, if_false]
    | some w =>
      simp only [bind, Except.bind, hl, hns, ldFull_ok hld, hway, atomicGoing, acqReady_ok ha.2, release_ok hr.2, atomNeed, Option.isSome_some,
        if_true, Bool.false_eq_true, if_false]

end Atomic

theorem exec_atom (f : Fields) (s : State) : exec (.atom f) s = issue (.atom f) s fun f s => (do
    let (acq, rel) ← ordPlots s f
    atomicOp s f.d false (szBytes (mdSz f.md)) (szBytes (mdSz f.md)) ⟨szBytes (mdSz f.md), mdSgn f.md⟩ (s.refV f) acq rel fun s =>
      (.atom f.fn.toNat (szBytes (mdSz f.md)) (s.src f.b 0).1, (s.src f.b 0).2)) := rfl

theorem exec_cas (f : Fields) (s : State) : exec (.cas f) s = issue (.cas f) s fun f s => (do
    let (acq, rel) ← ordPlots s f
    atomicOp s f.d false (szBytes (mdSz f.md)) (szBytes (mdSz f.md)) ⟨szBytes (mdSz f.md), mdSgn f.md⟩ (s.refV f) acq rel fun s =>
      (.cas (szBytes (mdSz f.md)) (s.g f.d) (s.src f.b 0).1, (s.src f.b 0).2)) := rfl

theorem exec_cas2 (f : Fields) (s : State) : exec (.cas2 f) s = issue (.cas2 f) s fun f s => (do
    let (acq, rel) ← ordPlots s f
    atomicOp s f.d true 16 16 ⟨8, false⟩ (s.refV f) acq rel fun s => (.cas2 (s.g f.d) (s.g1 f.d) (s.g f.b) (s.g1 f.b), s)) := rfl

/-- An instruction of the table of atomics completes as its atomic does. -/
theorem completes_atomic {p : AtomicForm} (hp : p ∈ atomicTable) {f : Fields} {s s1 e : State} {hit : Hit} {r : Ref} {k : Nat}
    (h : ready (p.instr f) s = true)
    (hl : locate1 s kAT (p.n f) (p.n f) { r := true, w := true, a := true, soft := (p.op s f).1.compares } (p.ref s f) = .ok (hit, r, k, s1))
    (hfit : p.fits s1 hit = true) (ha : AcqOk s (p.acq s f)) (hr : RelOk s (p.rel s f))
    (hb : atomicOp s (p.dst f) p.two (p.n f) (p.n f) (p.ext f) (p.ref s f) (p.acq s f) (p.rel s f) (fun s => p.op s f) = .ok (.step e)) :
    Completes (p.instr f) f s e := by
  simp only [atomicTable, List.mem_cons, List.not_mem_nil, or_false] at hp
  rcases hp with rfl | rfl | rfl | rfl
  · refine completes_of_body (exec_atom f s) rfl h ?_
    simp only [ordPlots_ok ha hr, bind, Except.bind]
    exact hb
  · refine completes_of_body (exec_cas f s) rfl h ?_
    simp only [ordPlots_ok ha hr, bind, Except.bind]
    exact hb
  · refine completes_of_body (exec_cas2 f s) rfl h ?_
    simp only [ordPlots_ok ha hr, bind, Except.bind]
    exact hb
  · refine completes_of_body (show execPool f s = _ from rfl) rfl h ?_
    have hl' : locate1 s kAT (szBytes (mdSz f.md)) (szBytes (mdSz f.md)) atomNeed (s.refM f) = .ok (hit, r, k, s1) := hl
    simp only [hl', bind, Except.bind]
    split
    · next pa leaf m =>
      have hpool : s1.poolable (.dev pa leaf) = false := by simpa [pools] using hfit
      rw [if_neg (by simp [hpool])]
      exact hb
    · exact hb

theorem atomicCompletes : AtomicCompletes := by
  intro p hp f s hit r k s1 h hl hfit ha ha1 hr hr1
  refine ⟨?here, ?far, ?glob⟩
  case here =>
    rintro off acts rfl hb
    exact completes_atomic hp h hl hfit ha hr (atomicOp_here (op := fun s => p.op s f) hl ha hr1 hb)
  case far =>
    rintro core off rfl hld hb
    exact completes_atomic hp h hl hfit ha hr (atomicOp_far (op := fun s => p.op s f) hl ha hr1 hld hb)
  case glob =>
    rintro parts rfl hns hld hway
    exact completes_atomic hp h hl hfit ha hr (atomicOp_glob (op := fun s => p.op s f) hl ha hr1 hns hld hway)

theorem poolCombines : PoolCombines := by
  intro f s pa leaf m r k s1 h n hl hpool hbehind hahead v
  have hl' : locate1 s kAT n n atomNeed (s.refM f) = .ok (.glob [(.dev pa leaf, m)], r, k, s1) := hl
  simp only [n] at hl' hbehind hahead
  refine ⟨fun e hfind hoff hop hsize => ?_, fun hfind hlen => ?_⟩
  · refine completes_of_body (show execPool f s = _ from rfl) rfl h ?_
    simp only [hl', bind, Except.bind, hpool, hbehind, hahead, poolOp, hfind, if_true, Bool.or_false, Bool.false_eq_true, if_false]
    rw [if_pos (by simp [hoff, hop, hsize, n])]
  · refine completes_of_body (show execPool f s = _ from rfl) rfl h ?_
    simp only [hl', bind, Except.bind, hpool, hbehind, hahead, poolOp, hfind, if_true, Bool.or_false, Bool.false_eq_true, if_false]
    rw [if_neg (by omega)]

theorem poolfCompletes : PoolfCompletes := by
  intro f s hit r k s1 h n hl v
  have hl' : locate1 s kAT (szBytes (mdSz f.md)) (szBytes (mdSz f.md)) atomNeed (s.refM f) = .ok (hit, r, k, s1) := hl
  refine ⟨?here, ?far, ?glob⟩
  case here =>
    rintro off acts rfl hb
    refine completes_of_body (show execPoolf f s = _ from rfl) rfl h ?_
    simp only [hl', bind, Except.bind, hb, Bool.false_eq_true, if_false]
    rfl
  case far =>
    rintro core off rfl hst
    refine completes_of_body (show execPoolf f s = _ from rfl) rfl h ?_
    simp only [hl', bind, Except.bind, stFull_ok hst]
    rfl
  case glob =>
    rintro parts rfl hns hst hpool
    refine completes_of_body (show execPoolf f s = _ from rfl) rfl h ?_
    simp only [n] at hns
    simp only [hl', bind, Except.bind, hns, stFull_ok hst, hpool, Bool.false_eq_true, if_false]
    rfl

/-- Settles O9: the atomic at each place where its unit may land, and the pool. -/
theorem atomicsAndPools : Obligations.AtomicsAndPools := ⟨atomicCompletes, poolCombines, poolfCompletes⟩

end Sys2Proof.Machine

/-! SUPPORT. Barriers of plots and barrier objects (R296, R297, R394 to R397). -/

namespace Sys2Proof.Machine

open Sys2Proof.Claims

/-! ### Plot barriers -/

theorem plotBarriers : PlotBarriers := by
  intro f s n h b
  refine ⟨?set, fun hready => ⟨fun hm => ?read, fun hm ha hr => ?arrive⟩, fun hready hdone hrels => ?wait⟩
  case set =>
    intro hready w m hw hkind hin hmask harr
    have hk : ¬ 2 ≤ plotKind w := by omega
    refine completes_of_body (show execBarset f s = _ from rfl) rfl hready ?_
    have hplace : ¬ (((plotKind w = 0 && (!(plotOf w.toNat).inside (s.hplot h) || !(plotOf w.toNat).covers s.core)) ||
        decide (m &&& ~~~(BitVec.ofNat 16 (s.hslots h)) ≠ 0)) = true) := by
      by_cases h0 : plotKind w = 0
      · simp [h0, (hin h0).1, (hin h0).2, hmask]
      · simp [h0, hmask]
    dsimp only
    rw [if_neg (by simpa [hk, w] using hw), if_neg hplace, if_neg (by simpa using harr)]
    rfl
  case read =>
    refine completes_of_body (show execBararr f s = _ from rfl) rfl hready ?_
    dsimp only
    rw [if_pos hm]
  case arrive =>
    have h0 : b.mask ≠ 0 := fun hc => by simp [hc] at hm
    refine completes_of_body (show execBararr f s = _ from rfl) rfl hready ?_
    dsimp only
    rw [if_neg h0, if_neg (by simpa [b, h, n] using hm), if_neg (by simpa using ha)]
    rw [show release s (s.bar s.core s.thr.hold (bits f.imm.toNat 2 0)).plot = .ok s from release_ok hr]
    rfl
  case wait =>
    refine completes_of_body (show execBarwt f s = _ from rfl) rfl hready ?_
    dsimp only
    rw [if_pos, acqReady_ok hrels]
    · rfl
    · split at hdone
      · next hz => simpa [hz] using hdone
      · next hz => simpa [hz] using hdone

theorem barrierMessages : BarrierMessages := by
  intro s m hmsg b hmask hplot hm s1
  have hb : s.bar m.core m.hold m.reg = b := rfl
  clear_value b
  have hmask' : m.mask ≠ 0 := hm ▸ hmask
  refine ⟨fun hr => happens_of rfl ?_, fun hr => happens_of rfl ?_⟩
  · simpa [State.barMessage, hmsg, hb, hr, hplot, hm, s1] using hmask'
  · simpa [State.barMessage, hmsg, hb, hr, hplot, hm, s1] using hmask'

/-- Settles O12: the bodies of the three instructions and of the two messages, with their checks met. -/
theorem barriersOfPlots : Obligations.BarriersOfPlots := ⟨plotBarriers, barrierMessages⟩

/-! ### Barrier objects -/

theorem objGood_ok {s : State} {off : Nat} (r : Ref) (h : s.winBad s.core s.thr.hold off = false) : objGood s off r = .ok () := by
  simp [objGood, h]

theorem barrierObjects : BarrierObjects := by
  intro f s off
  refine ⟨fun h ho => ?_, fun h hp ho hb hr => ?_, fun h ho hb => ?_, fun h hp ho hb hgo hrels => ?_⟩
  · refine completes_of_body (show execBoinit f s = _ from rfl) rfl h ?_
    simp only [ho, bind, Except.bind]
  · refine completes_of_body (show execBoarr f s = _ from rfl) rfl h ?_
    simp only [checkPlot_ok hp, ho, objGood_ok _ hb, release_ok hr, bind, Except.bind]
  · refine completes_of_body (show execBoexp f s = _ from rfl) rfl h ?_
    simp only [ho, objGood_ok _ hb, bind, Except.bind]
  · refine completes_of_body (show execBowt f s = _ from rfl) rfl h ?_
    simp only [checkPlot_ok hp, ho, objGood_ok _ hb, bind, Except.bind]
    rw [if_pos, acqReady_ok hrels]
    rcases hgo with hg | ⟨h1, h2, h3⟩
    · simp [hg]
    · simp [BarObj.idle, h1, h2, h3]

/-- The high part of an appended word, by places counted from the end of the low part. -/
theorem extractLsb'_append_high {v w : Nat} (x : BitVec v) (y : BitVec w) (start len : Nat) :
    (x ++ y).extractLsb' (w + start) len = x.extractLsb' start len := by
  rw [BitVec.extractLsb'_append_eq_of_le (Nat.le_add_right w start), Nat.add_sub_cancel_left]

/-- The low part of an appended word. -/
theorem extractLsb'_append_low {v w : Nat} (x : BitVec v) (y : BitVec w) : (x ++ y).extractLsb' 0 w = y := by
  rw [BitVec.extractLsb'_append_eq_of_add_le (by omega), BitVec.extractLsb'_eq_self]

/-- A barrier object is read back from its bytes (R296). -/
theorem barObj_ofBytes_bytes (o : BarObj) : BarObj.ofBytes o.bytes = o := by
  obtain ⟨gen, arr, rsv, inb, outb, arrinit, rsv2⟩ := o
  have hword : BitVec.ofNat 128 (leNat (BarObj.bytes ⟨gen, arr, rsv, inb, outb, arrinit, rsv2⟩)) =
      rsv2 ++ arrinit ++ outb ++ inb ++ rsv ++ arr ++ gen := by
    unfold BarObj.bytes
    rw [leNat_leBytes, show (256 ^ 16 : Nat) = 2 ^ 128 from rfl, Nat.mod_eq_of_lt (BitVec.isLt _), BitVec.ofNat_toNat]
    exact BitVec.setWidth_eq _
  have high {v w : Nat} (x : BitVec v) (y : BitVec w) := extractLsb'_append_high x y
  unfold BarObj.ofBytes
  simp only [hword, BarObj.mk.injEq]
  refine ⟨extractLsb'_append_low _ gen, ?_, ?_, ?_, ?_, ?_, ?_⟩
  · exact (high _ gen 0 16).trans (extractLsb'_append_low _ arr)
  · exact (high _ gen 16 12).trans ((high _ arr 0 12).trans (extractLsb'_append_low _ rsv))
  · exact (high _ gen 28 32).trans ((high _ arr 12 32).trans ((high _ rsv 0 32).trans (extractLsb'_append_low _ inb)))
  · exact (high _ gen 60 32).trans ((high _ arr 44 32).trans ((high _ rsv 32 32).trans ((high _ inb 0 32).trans
      (extractLsb'_append_low _ outb))))
  · exact (high _ gen 92 16).trans ((high _ arr 76 16).trans ((high _ rsv 64 16).trans ((high _ inb 32 16).trans ((high _ outb 0 16).trans
      (extractLsb'_append_low _ arrinit)))))
  · exact (high _ gen 108 16).trans ((high _ arr 92 16).trans ((high _ rsv 80 16).trans ((high _ inb 48 16).trans ((high _ outb 16 16).trans
      ((high _ arrinit 0 16).trans BitVec.extractLsb'_eq_self)))))

theorem phaseTest : PhaseTest := by
  intro o
  refine ⟨fun ⟨h1, h2, h3⟩ => ?_, fun h => ?_, barObj_ofBytes_bytes o⟩
  · rw [BarObj.test, if_pos (by simp [BarObj.idle, h1, h2, h3])]
  · rw [BarObj.test, if_neg (by simpa [BarObj.idle, and_assoc] using h)]

/-- Settles O13: the bodies of the four instructions, and the phase test by its cases. -/
theorem barriersInMemory : Obligations.BarriersInMemory := ⟨barrierObjects, phaseTest⟩

end Sys2Proof.Machine

/-! SUPPORT. What a write to a window changes, and the frames of stores, tags and full/empty bits on the own bank (R172, R367, R371, R375). -/

namespace Sys2Proof.Machine

open Sys2Proof.Claims

/-! ### Writes of the window -/

/-- The state `t` is `s` with some of the `n` bytes of a window from an offset written: nothing else but fault records, poison and error marks
differs. -/
structure State.Wrote (core hold off n : Nat) (s t : State) : Prop where
  mm : t.mm = s.mm
  hd : t.hd = s.hd
  ctl : t.ctl = s.ctl
  slots : t.co.slots = s.co.slots
  spad : ∀ key, (∀ i, i < n → key ≠ spadKey core (s.winPhys hold (off + i))) → Tab.get 0 t.co.spad key = Tab.get 0 s.co.spad key

namespace State.Wrote

variable {core hold off n : Nat} {s t u : State}

theorem refl (s : State) : Wrote core hold off n s s := ⟨rfl, rfl, rfl, rfl, fun _ _ => rfl⟩

theorem winPhys (h : Wrote core hold off n s t) (hold' off' : Nat) : t.winPhys hold' off' = s.winPhys hold' off' := by
  simp only [State.winPhys, State.hbanks, State.hword, State.hold, h.hd]

theorem trans (h : Wrote core hold off n s t) (k : Wrote core hold off n t u) : Wrote core hold off n s u := by
  refine ⟨k.mm.trans h.mm, k.hd.trans h.hd, k.ctl.trans h.ctl, k.slots.trans h.slots, fun key hk => ?_⟩
  rw [k.spad key (by simpa only [h.winPhys] using hk), h.spad key hk]

/-- A write inside a range is one of the range. -/
theorem widen {off' n' : Nat} (h : Wrote core hold off n s t) (hin : n = 0 ∨ off' ≤ off ∧ off + n ≤ off' + n') :
    Wrote core hold off' n' s t := by
  refine ⟨h.mm, h.hd, h.ctl, h.slots, fun key hk => h.spad key fun i hi => ?_⟩
  have := hk (off - off' + i) (by omega)
  rwa [show off' + (off - off' + i) = off + i by omega] at this

theorem thr (h : Wrote core hold off n s t) : t.thr = s.thr := by
  unfold State.thr State.slot State.slotAt State.core State.slotNo
  rw [h.ctl, h.slots]

end State.Wrote

theorem State.winPut_wrote (s : State) (core hold off : Nat) (data : List Byte) :
    State.Wrote core hold off data.length s (s.winPut core hold off data) :=
  ⟨rfl, rfl, rfl, rfl, fun _ hk => Tab.get_foldl_set_other 0 (fun i => spadKey core (s.winPhys hold (off + i))) (fun i => data.getD i 0)
    (fun i hi => hk i (List.mem_range.mp hi)) s.co.spad⟩

theorem State.winBeat_wrote (s : State) (core hold off : Nat) (data : List Byte) (rgn : Nat) (addr : Word) :
    State.Wrote core hold off data.length s (s.winBeat core hold off data rgn addr) := by
  have hput := s.winPut_wrote core hold off data
  unfold State.winBeat
  dsimp only
  split
  · exact ⟨rfl, rfl, rfl, rfl, fun _ _ => rfl⟩
  · split
    · exact ⟨rfl, rfl, rfl, rfl, hput.spad⟩
    · exact hput

theorem State.winWrite_wrote (fuel : Nat) (s : State) (core hold rgn : Nat) (addr : Word) (off : Nat) (data : List Byte) :
    State.Wrote core hold off data.length s (s.winWrite core hold rgn addr fuel off data) := by
  induction fuel generalizing s off data with
  | zero => exact .refl s
  | succ fuel ih =>
    unfold State.winWrite
    split
    · exact .refl s
    · next hne =>
      have hlen : data.length ≠ 0 := fun hc => hne (List.length_eq_zero_iff.mp hc)
      have hfirst := (s.winBeat_wrote core hold off (data.take (32 - off % 32)) rgn addr).widen (off' := off) (n' := data.length)
        (.inr ⟨le_rfl, by simp only [List.length_take]; omega⟩)
      refine hfirst.trans ((ih _ _ _).widen ?_)
      simp only [List.length_drop]
      omega

/-- A piece of a unit lies in the unit. -/
theorem splitWords_mem {fuel off : Nat} {data d : List Byte} {o : Nat} (h : (o, d) ∈ splitWords fuel off data) :
    off ≤ o ∧ o + d.length ≤ off + data.length := by
  induction fuel generalizing off data with
  | zero => cases h
  | succ fuel ih =>
    unfold splitWords at h
    split at h
    · cases h
    · rcases List.mem_cons.mp h with h | h
      · cases h
        simp only [List.length_take]
        omega
      · have hrest := ih h
        have hsome : (data.drop (8 - off % 8)).length ≠ 0 := fun hc => by
          rw [List.length_eq_zero_iff.mp hc] at h
          cases fuel <;> simp [splitWords] at h
        simp only [List.length_drop] at hrest hsome
        omega

theorem State.unitWrite_wrote (s : State) (core hold off : Nat) (data : List Byte) (acts : List (Nat × Nat)) (rgn : Nat) (addr : Word) :
    State.Wrote core hold off data.length s (s.unitWrite core hold off data acts rgn addr) := by
  unfold State.unitWrite
  split
  · refine List.foldlRecOn (motive := fun t => State.Wrote core hold off data.length s t) _ _ (.refl s) fun t ht p hp => ?_
    obtain ⟨o, d⟩ := p
    dsimp only
    split
    · exact ht
    · exact ht.trans ((t.winBeat_wrote core hold o d rgn addr).widen (.inr (splitWords_mem hp)))
  · exact s.winWrite_wrote (data.length + 1) core hold rgn addr off data

/-! ### Tags and wakings -/

/-- The state `t` is `s` with tags, full/empty bits and parkings changed: memory, the place of the present step and every thread are as before. -/
structure State.Retagged (s t : State) : Prop where
  mm : t.mm = s.mm
  spad : t.co.spad = s.co.spad
  ctl : t.ctl = s.ctl
  hd : t.hd = s.hd
  threads : ∀ core slot, (t.slotAt core slot).thr = (s.slotAt core slot).thr

namespace State.Retagged

variable {s t u : State}

theorem refl (s : State) : Retagged s s := ⟨rfl, rfl, rfl, rfl, fun _ _ => rfl⟩

theorem trans (h : Retagged s t) (k : Retagged t u) : Retagged s u :=
  ⟨k.mm.trans h.mm, k.spad.trans h.spad, k.ctl.trans h.ctl, k.hd.trans h.hd, fun c n => (k.threads c n).trans (h.threads c n)⟩

theorem foldl {α : Type} {f : State → α → State} (hf : ∀ s a, Retagged s (f s a)) (l : List α) (s : State) : Retagged s (l.foldl f s) :=
  List.foldlRecOn l f (motive := Retagged s) (.refl s) fun t ht a _ => ht.trans (hf t a)

/-- Changing how a slot is parked changes no thread. -/
theorem modSlotAt (s : State) (core slot : Nat) {f : Slot → Slot} (hf : ∀ v, (f v).thr = v.thr) : Retagged s (s.modSlotAt core slot f) := by
  refine ⟨rfl, rfl, rfl, rfl, fun c n => ?_⟩
  unfold State.modSlotAt State.setSlotAt State.slotAt
  by_cases hk : slotKey c n = slotKey core slot
  · rw [hk, Tab.get_set_same, hf]
  · rw [Tab.get_set_other _ _ _ hk]

theorem wakeIf (s : State) (core : Nat) (p : Slot → Park → Bool) : Retagged s (s.wakeIf core p) := by
  refine foldl (fun s k => ?_) _ s
  split
  · split
    · exact modSlotAt s core k fun _ => rfl
    · exact refl s
  · exact refl s

/-- Other tags and full/empty bits. -/
theorem tabs (s : State) (tag : Tab (BitVec 4)) (fe : Tab Bool) : Retagged s { s with co := { s.co with tag := tag, fe := fe } } :=
  ⟨rfl, rfl, rfl, rfl, fun _ _ => rfl⟩

theorem setTag (s : State) (core hold w : Nat) (x : BitVec 4) : Retagged s (s.setTag core hold w x) := by
  unfold State.setTag
  exact (tabs s (Tab.set 0 s.co.tag (tagKey core (s.winPhys hold (8 * w) / 8)) x) s.co.fe).trans (wakeIf _ core _)

theorem setFe (s : State) (core hold off : Nat) (b : Bool) : Retagged s (s.setFe core hold off b) := by
  have htabs := tabs s s.co.tag (Tab.set false s.co.fe (core * 4096 + s.winPhys hold off / 128) b)
  unfold State.setFe
  dsimp only
  split
  · exact htabs.trans (wakeIf _ core _)
  · exact htabs

theorem retag (s : State) (core hold : Nat) (acts : List (Nat × Nat)) : Retagged s (s.retag core hold acts) := by
  refine foldl (fun s a => ?_) acts s
  dsimp only
  split
  · exact setTag s core hold _ _
  · exact refl s

theorem thr (h : Retagged s t) : t.thr = s.thr := by
  unfold State.thr State.slot State.core State.slotNo
  rw [h.ctl, h.threads]

theorem memory (h : Retagged s t) : SameMemory s t := sameMemory_of h.mm h.spad

end State.Retagged

/-! ### The frame of a store to the own bank -/

theorem State.storeSrc_local (s : State) (o : Operand) (two : Bool) (n : Nat) : s.Local (s.storeSrc o two n).2 := by
  have h1 := s.src_local o 0
  unfold State.storeSrc
  dsimp only
  split
  · split
    · exact h1
    · exact h1.trans ((s.src o 0).2.src_local o 0)
  · exact h1

theorem State.storeSrc_thr (s : State) (o : Operand) (two : Bool) (n : Nat) : s.thr.SameButRoam (s.storeSrc o two n).2.thr := by
  have h1 := s.src_thr o 0
  unfold State.storeSrc
  dsimp only
  split
  · split
    · exact h1
    · exact ((s.src o 0).2.src_thr o 0).trans h1
  · exact h1

theorem State.src_hd (s : State) {o : Operand} (ho : o.cls ≠ .Q) (imm : Word) : (s.src o imm).2.hd = s.hd := by
  unfold State.src
  split
  · rfl
  · next hc => exact absurd hc ho
  · rfl
  · rfl

theorem State.storeSrc_hd (s : State) {o : Operand} (ho : o.cls ≠ .Q) (two : Bool) (n : Nat) : (s.storeSrc o two n).2.hd = s.hd := by
  have h1 := s.src_hd ho 0
  unfold State.storeSrc
  dsimp only
  split
  · split
    · exact h1
    · exact ((s.src o 0).2.src_hd ho 0).trans h1
  · exact h1

theorem State.length_storeSrc (s : State) (o : Operand) (two : Bool) (n : Nat) :
    (s.storeSrc o two n).1.length = if two then 16 else n := by
  unfold State.storeSrc
  dsimp only
  split <;> simp [length_leBytes]

/-- A pair is 16 bytes. -/
theorem storeTable_two {p : StoreForm} (hp : p ∈ storeTable) (f : Fields) (h : p.two = true) : p.n f = 16 := by
  simp only [storeTable, List.mem_cons, List.not_mem_nil, or_false] at hp
  rcases hp with rfl | rfl | rfl
  · cases h
  · rfl
  · cases h

theorem SlotsOnly.mm {s t : State} (h : SlotsOnly s t) : t.mm = s.mm := by
  obtain ⟨l, rfl⟩ := h.rest
  rfl

theorem State.memByte_congr {s t : State} (h : t.mm = s.mm) (pa : Nat) : t.memByte pa = s.memByte pa := by
  simp only [State.memByte, State.l1, h]

theorem State.winPhys_congr {s t : State} (h : t.hd = s.hd) (hold off : Nat) : t.winPhys hold off = s.winPhys hold off := by
  simp only [State.winPhys, State.hbanks, State.hword, State.hold, h]

theorem Thread.SameButRoam.hold {t u : Thread} (h : t.SameButRoam u) : u.hold = t.hold := by
  have heq : { u with roam := false } = { t with roam := false } := h
  have hh := congrArg Thread.hold heq
  exact hh

/-- Settles O49: the operands change no byte, the write changes those of its own translated offsets alone, and the retags and the end of the
instruction change tags and slots. -/
theorem storeFrame : Obligations.StoreFrame := by
  intro p hp f s off acts r k s1 t h hq hl hr hx
  have hs := locate1_here hl
  have hc := completes_store hp h hr (storeOp_here (o := f.d) (two := p.two) hl hr)
  cases hc.symm.trans hx
  have hsrc := s1.storeSrc_local f.d p.two (p.n f)
  have hroam : s.thr.SameButRoam (s1.storeSrc f.d p.two (p.n f)).2.thr := (s1.storeSrc_thr f.d p.two (p.n f)).trans hs.thr
  have hhd := (s1.storeSrc_hd hq p.two (p.n f)).trans hs.hd
  have hlen : (s1.storeSrc f.d p.two (p.n f)).1.length = p.n f := by
    rw [State.length_storeSrc]
    split
    · next h2 => exact (storeTable_two hp f h2).symm
    · rfl
  generalize s1.storeSrc f.d p.two (p.n f) = d at *
  have hwrote := d.2.unitWrite_wrote d.2.core d.2.thr.hold off d.1 acts d.2.thr.rgn r.word
  generalize d.2.unitWrite d.2.core d.2.thr.hold off d.1 acts d.2.thr.rgn r.word = u at *
  have htag := State.Retagged.retag u d.2.core d.2.thr.hold acts
  generalize u.retag d.2.core d.2.thr.hold acts = e at *
  have hkeep : s.thr.Keeps (fun _ => False) (e.finish f s.core).thr := by
    have he : e.thr = d.2.thr := htag.thr.trans hwrote.thr
    exact (hroam.keeps (R := fun _ => False)).trans (he ▸ e.thr_finish _ f s.core)
  obtain ⟨hg, hpred, hsp⟩ := hkeep
  refine ⟨fun core phys hkey => ?bank, fun pa => ?dev, fun n hn => hg n hn not_false, hpred, hsp⟩
  case bank =>
    show Tab.get 0 e.co.spad (spadKey core phys) = Tab.get 0 s.co.spad (spadKey core phys)
    rw [htag.spad, hwrote.spad _ fun i hi => ?_, hsrc.spad, hs.spad]
    rw [State.winPhys_congr hhd, hroam.hold, hsrc.core, hs.core]
    exact hkey i (hlen ▸ hi)
  case dev =>
    show e.memByte pa = s.memByte pa
    exact State.memByte_congr (htag.mm.trans (hwrote.mm.trans (hsrc.mm.trans hs.mm))) pa

/-! ### The frame of tags and full/empty bits -/

theorem State.padNow_retagged (s : State) (core hold off : Nat) (o : PqOp) : s.Retagged (s.padNow core hold off o).2 := by
  cases o <;> simp only [State.padNow]
  case tagst t => exact Retagged.setTag s core hold (off / 8) t
  case tagcas c t =>
    split
    · exact Retagged.setTag s core hold (off / 8) t
    · exact .refl s
  case feset => exact Retagged.setFe s core hold off true
  case feclr => exact Retagged.setFe s core hold off false
  all_goals exact .refl s

/-- A tag or full/empty operation reads its operands alone (R372, R375). -/
theorem padTable_op_local {p : PadForm} (hp : p ∈ padTable) (s : State) (f : Fields) :
    s.Local (p.op s f).2 ∧ s.thr.SameButRoam (p.op s f).2.thr := by
  simp only [padTable, List.mem_cons, List.not_mem_nil, or_false] at hp
  rcases hp with rfl | rfl | rfl | rfl | rfl | rfl
  · exact ⟨.refl s, rfl⟩
  · exact ⟨s.src_local f.d 0, s.src_thr f.d 0⟩
  · exact ⟨s.src_local f.b 0, s.src_thr f.b 0⟩
  · exact ⟨.refl s, rfl⟩
  · exact ⟨.refl s, rfl⟩
  · exact ⟨.refl s, rfl⟩

/-- An access either goes on or waits for the words of an earlier vector or tile instruction (R406). -/
theorem busyPast_cases (s : State) (ws : List Nat) : busyPast s ws = .ok () ∨ busyPast s ws = stay s := by
  unfold busyPast
  dsimp only
  split
  · exact .inr rfl
  · exact .inl rfl

theorem SameMemory.trans {s t u : State} (h : SameMemory s t) (k : SameMemory t u) : SameMemory s u :=
  ⟨fun pa => (k.1 pa).trans (h.1 pa), fun c phys => (k.2 c phys).trans (h.2 c phys)⟩

/-- The register of a tag or full/empty instruction that returns a value. -/
def padReg (p : PadForm) (f : Fields) (n : Nat) : Prop := p.need.r = true ∧ namesReg f.d n

/-- The effect of a tag or full/empty instruction on the own bank keeps memory, and the registers but its destination. -/
theorem padEffect {p : PadForm} (hp : p ∈ padTable) (f : Fields) (s : State) (off : Nat) :
    let o := p.op s f
    let a := padHere o.2.pin off o.1
    let e := if p.need.r then a.2.dst f.d a.1 else a.2
    SameMemory s e ∧ s.thr.Keeps (padReg p f) e.thr := by
  obtain ⟨hlocal, hroam⟩ := padTable_op_local hp s f
  have hpin : s.Local (p.op s f).2.pin := hlocal.trans (.modThr _ _)
  have hpinThr : s.thr.Keeps (padReg p f) (p.op s f).2.pin.thr := by
    rw [State.pin, State.thr_modThr]
    exact hroam.keeps.trans (.roam _ false)
  have hpad := (p.op s f).2.pin.padNow_retagged (p.op s f).2.pin.core (p.op s f).2.pin.thr.hold off (p.op s f).1
  intro o a e
  have hmem : SameMemory s a.2 := hpin.memory.trans hpad.memory
  have hthr : s.thr.Keeps (padReg p f) a.2.thr := hpad.thr ▸ hpinThr
  by_cases hr : p.need.r = true
  · simp only [e, if_pos hr]
    exact ⟨hmem.trans (a.2.dst_local f.d a.1).memory, hthr.trans ((a.2.dst_thr f.d a.1).weaken fun n hn => ⟨hr, hn⟩)⟩
  · simp only [e, if_neg hr]
    exact ⟨hmem, hthr⟩

/-- Changing how a slot stands keeps its thread. -/
theorem State.thr_modSlot_of_thr (s : State) {g : Slot → Slot} (hg : ∀ v, (g v).thr = v.thr) : (s.modSlot g).thr = s.thr := by
  rw [State.thr_modSlot, hg]
  rfl

theorem State.keeps_modSlot (R : Nat → Prop) (s : State) {g : Slot → Slot} (hg : ∀ v, (g v).thr = v.thr) : s.thr.Keeps R (s.modSlot g).thr := by
  rw [State.thr_modSlot_of_thr s hg]
  exact .refl R s.thr

/-- Settles O60: the operands, the operation at the bank and the destination each keep memory and what the frame names; an instruction that waits for
the words of another slot's changes its slot alone. -/
theorem tagFrame : Obligations.TagFrame := by
  intro p hp f s off t h hpad hx
  obtain ⟨opc, sh, he⟩ := encOf_padTable p hp f
  rcases busyPast_cases s (winWords off p.n) with hb | hb
  · have hc := completes_of_body (exec_padTable p hp f s) he h (padOp_here hpad hb)
    obtain ⟨hmem, hkeep⟩ := padEffect hp f s off
    cases hc.symm.trans hx
    obtain ⟨hg, hpred, hsp⟩ := hkeep.trans (State.thr_finish _ _ f s.core)
    exact ⟨hmem.trans (State.finish_local _ f s.core).memory, fun n hn hr => hg n hn fun hc => hr ⟨hc.1, hc.2.1, hc.2.2⟩, hpred, hsp⟩
  · have hbody : padOp s f (p.ref s f) p.n p.need (fun s => p.op s f) padHere = stay s := by
      unfold padOp
      simp only [hpad, hb, bind, Except.bind, if_true]
      rfl
    rw [exec_padTable p hp f s, issue_ready he h, hbody] at hx
    cases hx
    have hkeep : s.thr.Keeps (padReg p f) (s.modSlot fun v => { v with stalled := some (Tab.get 0 s.co.cyc s.core), unit := 0 }).thr :=
      State.keeps_modSlot _ s fun _ => rfl
    obtain ⟨hg, hpred, hsp⟩ := hkeep
    have hlocal := State.Local.modSlot s fun v => { v with stalled := some (Tab.get 0 s.co.cyc s.core), unit := 0 }
    exact ⟨hlocal.memory, fun n hn hr => hg n hn fun hc => hr ⟨hc.1, hc.2.1, hc.2.2⟩, hpred, hsp⟩

end Sys2Proof.Machine

/-! SUPPORT. Copy instructions: a command whose checks are met waits for its context (R246, R292 to R294, R443 to R449). -/

namespace Sys2Proof.Machine

open Sys2Proof.Claims

theorem ctxOk_ok {f : Fields} {s : State} (h : CopyOk f s) : ctxOk s f = .ok () := by simp [ctxOk, h.context]

theorem lenOk_ok {s : State} {r : Ref} {n : Nat} (h : n < 2 ^ 32) : lenOk s r n = .ok () := if_neg (by omega)

theorem enqueueCopy_ok {f : Fields} {s : State} (h : CopyOk f s) (kind : CopyKind) (dst src : Word) (len : Nat) (body : List Byte) :
    enqueueCopy s f kind dst src len body = .ok (.step (copied f kind dst src len body s)) := by
  unfold enqueueCopy
  rw [if_neg (by have := h.room; omega)]
  rfl

/-! ### Copies of bytes -/

/-- A word of four bits that is not 0 has a bit that is set. -/
theorem exists_bit_of_ne_zero (x : BitVec 4) (h : x ≠ 0) : ∃ q < 4, x.getLsbD q = true := by
  revert x
  decide

/-- A CPYM that its entry accepts names a quadrant (R308). -/
theorem cpym_mask {f : Fields} {s : State} (h : ready (.cpym f) s = true) : ∃ q < 4, (f.imm.extractLsb' 20 4).getLsbD q = true := by
  refine exists_bit_of_ne_zero _ fun hz => ?_
  have himm : immOk ⟨[0], .zero, .copyMask, .g, .g, .g, .none⟩ f = true := ready_immOk rfl h
  have hnat := congrArg BitVec.toNat hz
  simp only [BitVec.extractLsb'_toNat, Nat.shiftRight_eq_div_pow, BitVec.ofNat_eq_ofNat, BitVec.toNat_ofNat, Nat.zero_mod] at hnat
  simp only [immOk, copyOk, Bool.and_eq_true, decide_eq_true_eq] at himm
  omega

theorem popc_le (v n : Nat) : popc v n ≤ n := by
  induction n with
  | zero => exact le_rfl
  | succ n ih =>
    rw [popc]
    split <;> omega

theorem State.winSize_le (s : State) (hold : Nat) : s.winSize hold ≤ 2 ^ 19 := by
  have := popc_le (s.hbanks hold) 32
  unfold State.winSize
  omega

theorem copyLinear : CopyLinear := by
  intro f s hok src dst n
  refine ⟨fun h hn hsrc hdst => ?cpy, fun hs s1 h hread hw hok1 hm hrange => ?cpys, fun h hsrc hseg hquad => ?cpym⟩
  case cpy =>
    refine completes_of_body (show execCpy f s = _ from rfl) rfl h ?_
    simp only [bind, Except.bind, ctxOk_ok hok, hok.objects]
    rw [lenOk_ok hn, hsrc, hdst]
    exact enqueueCopy_ok hok ..
  case cpys =>
    refine completes_of_body (show execCpys f s = _ from rfl) rfl h ?_
    simp only [bind, Except.bind, ctxOk_ok hok, hread, if_neg (Nat.not_lt.mpr hw), hok1.objects]
    rw [lenOk_ok hm]
    by_cases hdir : f.imm.getLsbD 20 = true
    · rw [if_pos hdir] at hrange
      simp only [if_pos hdir, hrange.1, hrange.2]
      exact enqueueCopy_ok hok1 ..
    · rw [if_neg hdir] at hrange
      simp only [if_neg hdir, hrange.1, hrange.2]
      exact enqueueCopy_ok hok1 ..
  case cpym =>
    obtain ⟨q, hq, hbit⟩ := cpym_mask h
    have hn : n < 2 ^ 32 := by
      have := (hquad q hq hbit).2
      have := s.winSize_le s.thr.hold
      omega
    have hbad : ((List.range 4).filter fun q => (f.imm.extractLsb' 20 4).getLsbD q &&
        (!(s.hplot s.thr.hold).covers (coreOf (clusterOf s.core) q) || decide (s.winSize s.thr.hold < dst.off.toNat + n))) = [] := by
      rw [List.filter_eq_nil_iff]
      intro q hq
      by_cases hb : (f.imm.extractLsb' 20 4).getLsbD q = true
      · obtain ⟨hc, hfit⟩ := hquad q (List.mem_range.mp hq) hb
        simp [hc, Nat.not_lt.mpr hfit]
      · simp [hb]
    refine completes_of_body (show execCpym f s = _ from rfl) rfl h ?_
    simp only [bind, Except.bind, ctxOk_ok hok, hok.objects]
    rw [lenOk_ok hn, hsrc]
    dsimp only
    rw [if_neg (not_not.mpr hseg), hbad]
    exact enqueueCopy_ok hok ..

/-! ### Copies by tables, rows and indices -/

theorem copyIndexed : CopyIndexed := by
  intro f s hok
  refine ⟨fun bs s1 t h hid hent ht hr hc h2 h3 hok1 hal hrange => ?cpyt,
    fun bs s1 h hseg hread hok1 hfmt hw hz ha4 ha8 hav hrange => ?cpyg, fun hs bs s1 hix hok1 hin hrange => ⟨fun h => ?cpyx, fun h => ?cpya⟩⟩
  case cpyt =>
    refine completes_of_body (show execCpyt f s = _ from rfl) rfl h ?_
    simp only [bind, Except.bind, ctxOk_ok hok, if_neg hid, hent, ht, hok1.objects]
    rw [if_neg (by simp only [Bool.or_eq_true, decide_eq_true_eq]; omega), if_neg (not_not.mpr hal), hrange]
    exact enqueueCopy_ok hok1 ..
  case cpyg =>
    refine completes_of_body (show execCpyg f s = _ from rfl) rfl h ?_
    have hfirst : ¬ ((decide (63 < recW bs 0x20 8) || decide (fmtWidth (recW bs 0x20 8) < 8) || decide (recW bs 0x38 8 ≠ 0)) = true) := by
      simp only [Bool.or_eq_true, decide_eq_true_eq]
      omega
    simp only [bind, Except.bind, ctxOk_ok hok, if_neg (not_not.mpr hseg), hread, if_neg hfirst, if_neg (not_not.mpr ha4),
      if_neg (not_not.mpr ha8), if_neg (not_not.mpr hav), hok1.objects]
    by_cases hle : recW bs 0x18 4 ≤ recW bs 0x1C 4
    · simp only [if_pos hle, hrange hle]
      exact enqueueCopy_ok hok1 ..
    · simp only [if_neg hle]
      exact enqueueCopy_ok hok1 ..
  case cpyx =>
    refine completes_of_body (show execCpyx f s = _ from rfl) rfl h ?_
    simp only [bind, Except.bind, ctxOk_ok hok, hix, hok1.objects, hin, hrange]
    exact enqueueCopy_ok hok1 ..
  case cpya =>
    refine completes_of_body (show execCpya f s = _ from rfl) rfl h ?_
    simp only [bind, Except.bind, ctxOk_ok hok, hix, hok1.objects, hin, hrange]
    exact enqueueCopy_ok hok1 ..

/-- Settles O23: the checks of each copy instruction in their order, and the command that then waits. -/
theorem copiesQueued : Obligations.CopiesQueued := ⟨copyLinear, copyIndexed⟩

end Sys2Proof.Machine

/-! SUPPORT. Tile instructions whose operands are at hand (R237, R241, R422 to R432). -/

namespace Sys2Proof.Machine

open Sys2Proof.Claims

/-! ### Conversion and quantisation -/

theorem tileConversion : TileConversion := by
  intro f s s1 hin
  dsimp only
  obtain ⟨howned, hgood⟩ := hin
  refine ⟨fun xs h hkind hxs => ?cvt, fun h henc => ⟨fun hrel hkind => ?relabel, fun hrel hslay => ?transpose⟩⟩
  case cvt =>
    refine completes_of_body (show execTcvt f s = _ from rfl) rfl h ?_
    simp only [bind, Except.bind, howned, hgood, if_neg hkind, numsM_ok hxs]
    rfl
  case relabel =>
    refine completes_of_body (show execTtrn f s = _ from rfl) rfl h ?_
    simp only [bind, Except.bind, howned, hgood]
    rw [if_neg (by simp [henc, hrel, hkind]), if_pos hrel, if_pos hrel]
  case transpose =>
    refine completes_of_body (show execTtrn f s = _ from rfl) rfl h ?_
    simp only [bind, Except.bind, howned, hgood]
    simp only [hrel, henc, hslay, ne_eq, not_true_eq_false, decide_false, Bool.or_false, Bool.false_eq_true, if_false]

theorem tileQuantisation : TileQuantisation := by
  intro f s s1 hin
  dsimp only
  obtain ⟨howned, hgood⟩ := hin
  refine ⟨fun xs h hfl hkind hxs => ?quant, fun h => ⟨fun cs hdec henc hcs => ?decode, fun hdec hfmt henc hmaj => ?encode⟩⟩
  case quant =>
    refine completes_of_body (show execTqnt f s = _ from rfl) rfl h ?_
    simp only [bind, Except.bind, howned, hgood]
    rw [if_neg (by simp [hfl, hkind]), numsM_ok hxs]
    rfl
  case decode =>
    refine completes_of_body (show execTenc f s = _ from rfl) rfl h ?_
    simp only [bind, Except.bind, howned, hgood]
    rw [if_pos hdec, if_neg (by simp [henc]), hcs]
  case encode =>
    refine completes_of_body (show execTenc f s = _ from rfl) rfl h ?_
    simp only [bind, Except.bind, howned, hgood]
    rw [if_neg (by simp [hdec]), if_neg (by simp [hfmt, henc, hmaj])]
    simp only [Bool.and_eq_true, decide_eq_true_eq]
    split
    · rfl
    · rfl

/-- Settles O20: the bodies of the four instructions on tiles of the holding with good headers. -/
theorem tileConversionAndQuantisation : Obligations.TileConversionAndQuantisation := ⟨tileConversion, tileQuantisation⟩

/-! ### Tile registers -/

theorem tileRegisterResult : TileRegisterResult := by
  intro f s s1
  refine ⟨fun h ht hal => ⟨fun d off s2 hreach hread => ?ldHere, fun s2 hfar hread => ?ldFar⟩, fun s2 h ht hal hstore => ?st, fun h ht => ?hdr,
    fun h ht => ?set, fun h ht => ?chk, fun h ht => ?zero⟩
  case ldHere =>
    refine completes_of_body (show execTld f s = _ from rfl) rfl h ?_
    simp only [bind, Except.bind, ht, hal, hreach, if_true, hread]
  case ldFar =>
    refine completes_of_body (show execTld f s = _ from rfl) rfl h ?_
    simp only [bind, Except.bind, ht, hal]
    split
    · next core off hr =>
      by_cases hc : core = s1.core
      · exact absurd (hc ▸ hr) (hfar off)
      · simp only [if_neg hc, hread]
    · simp only [hread]
  case st =>
    refine completes_of_body (show execTst f s = _ from rfl) rfl h ?_
    simp only [bind, Except.bind, ht, hal, hstore]
  case hdr =>
    refine completes_of_body (show execThdr f s = _ from rfl) rfl h ?_
    simp only [bind, Except.bind, ht]
  case set =>
    refine completes_of_body (show execThset f s = _ from rfl) rfl h ?_
    simp only [bind, Except.bind, ht]
  case chk =>
    refine completes_of_body (show execTchk f s = _ from rfl) rfl h ?_
    simp only [bind, Except.bind, ht, tchkCode, apply_ite (BitVec.ofNat 64)]
    rfl
  case zero =>
    intro hd hchk hwf henc
    refine completes_of_body (show execTzero f s = _ from rfl) rfl h ?_
    have hstages : stages12 s1 [(hd, 0)] = .ok () := by simp [stages12, hchk, hwf]
    simp only [bind, Except.bind, ht]
    rw [show stages12 s1 [(if f.a.cls = .G then s1.pairHdr f.a else (s1.tile f.d).take 16, 0)] = .ok () from hstages]
    exact if_neg (not_not.mpr henc)

end Sys2Proof.Machine

/-! SUPPORT. A window of plain data in the middle of an instruction: what each of its units does there (R172, R178, R181, R182, R406). -/

namespace Sys2Proof.Machine

open Sys2Proof.Claims

/-- A step that answers, before the others. -/
theorem M.bind_ok {α β : Type} {x : M α} {g : α → M β} {a : α} {r : M β} (hx : x = .ok a) (hg : g a = r) : (x >>= g) = r := by
  rw [hx]
  exact hg

/-- A check that does not fail lets the rest go on. -/
theorem M.check_ok {α : Type} {c : Prop} [Decidable c] {x y r : M α} (hc : ¬ c) (hy : y = r) : (if c then x else y) = r := by
  rw [if_neg hc]
  exact hy

/-! ### Slots of the core other than the own one -/

theorem Tab.filter_put {α : Type} (t : Tab α) (k : Nat) (v : α) {p : Nat × α → Bool} (hp : ∀ v, p (k, v) = false) :
    (Tab.put t k v).filter p = t.filter p := by
  induction t with
  | nil => simp [Tab.put, hp]
  | cons q t ih =>
    obtain ⟨k', v'⟩ := q
    simp only [Tab.put]
    split
    · next e =>
      subst e
      simp [hp]
    · split
      · simp [hp]
      · rw [List.filter_cons, List.filter_cons, ih]

theorem Tab.filter_set {α : Type} [DecidableEq α] (d : α) (t : Tab α) (k : Nat) (v : α) {p : Nat × α → Bool} (hp : ∀ v, p (k, v) = false) :
    (Tab.set d t k v).filter p = t.filter p := by
  unfold Tab.set
  split
  · rw [Tab.del_eq_filter, List.filter_filter]
    refine List.filter_congr fun q _ => ?_
    obtain ⟨k', v'⟩ := q
    by_cases e : k' = k
    · simp [e, hp]
    · simp [e]
  · exact Tab.filter_put t k v hp

/-- The slots of the core of the present step other than its own. -/
def State.otherSlots (s : State) : Tab Slot := s.co.slots.filter fun p => p.1 / 16 = s.core && p.1 % 16 ≠ s.slotNo

theorem State.otherSlots_modSlot (s : State) (g : Slot → Slot) : (s.modSlot g).otherSlots = s.otherSlots := by
  refine Tab.filter_set ({} : Slot) s.co.slots (slotKey s.core s.slotNo) (g s.slot) fun v => ?_
  show (decide ((s.core * 16 + s.slotNo) / 16 = s.core) && decide ((s.core * 16 + s.slotNo) % 16 ≠ s.slotNo)) = false
  simp only [Bool.and_eq_false_iff, decide_eq_false_iff_not]
  omega

/-- What holds an access back looks at the other slots alone (R406). -/
theorem busyPast_quiet {s : State} (h : ∀ p ∈ s.otherSlots, p.2.busy = []) (ws : List Nat) : busyPast s ws = .ok () := by
  refine if_neg ?_
  rw [List.any_eq_true]
  rintro ⟨⟨k, v⟩, hmem, hv⟩
  simp only [Bool.and_eq_true, and_assoc] at hv
  obtain ⟨hcore, hslot, -, -, -, hbusy⟩ := hv
  rw [h (k, v) (List.mem_filter.mpr ⟨hmem, by rw [Bool.and_eq_true]; exact ⟨hcore, hslot⟩⟩)] at hbusy
  cases hbusy

/-- What the other slots hold (R186, R244). -/
theorem heldElse_eq (s : State) (keys : List Nat) : s.heldElse keys = s.otherSlots.any fun p =>
    (p.2.thr.any fun t => t.hold = s.thr.hold) && (p.2.holds.filter fun h => p.2.park.isNone || 16 ≤ h).any keys.contains := by
  unfold State.otherSlots State.heldElse
  rw [List.any_filter]
  congr 1
  funext p
  simp only [Bool.and_assoc]

/-! ### States in the middle of an instruction -/

/-- The slot `v` of the issuing thread in the middle of an instruction of `s` none of whose units has waited (R182, R183). -/
structure Slot.Going (s : State) (v : Slot) : Prop where
  live   : v.thr.isSome = true
  thr    : s.thr.SameButRoam (v.thr.getD {})
  acq    : v.acq = []
  acc    : v.resume.acc = none
  addr   : v.resume.addr = none
  unit   : v.resume.unit ≤ v.unit
  served : v.resume.served = s.slot.resume.served
  ld     : v.ld = s.slot.ld

/-- The state `t` differs from `s` in slots, in bytes of the banks with their check values, and in what the present step counts, alone. -/
def State.Bankwise (s t : State) : Prop :=
  ∃ l spad poison ecc ctl, t = { s with co := { s.co with slots := l, spad := spad, poison := poison, ecc := ecc }, ctl := ctl }

theorem State.Bankwise.trans {s t u : State} (h : s.Bankwise t) (k : t.Bankwise u) : s.Bankwise u := by
  obtain ⟨l, spad, poison, ecc, ctl, rfl⟩ := h
  obtain ⟨l', spad', poison', ecc', ctl', rfl⟩ := k
  exact ⟨l', spad', poison', ecc', ctl', rfl⟩

theorem State.bankwise_modSlot (s : State) (g : Slot → Slot) : s.Bankwise (s.modSlot g) := ⟨_, _, _, _, _, rfl⟩

/-- `t` is a state in the middle of an instruction of `s`, whose window holds the bytes `m`: it differs from `s` in slots, in bytes of
the banks and in identifiers alone. -/
structure Midst (s : State) (m : Nat → Byte) (t : State) : Prop where
  rest   : s.Bankwise t
  here   : t.ctl.here = s.ctl.here
  quiet  : t.ctl.choices = []
  others : t.otherSlots = s.otherSlots
  slot   : t.slot.Going s
  good   : ∀ off, t.winBad s.core s.thr.hold off = false
  bytes  : ∀ a < s.winSize s.thr.hold, winByte t a = m a

namespace Midst

variable {s t : State} {m : Nat → Byte}

theorem refl (h : PlainBank s) (hlive : s.slot.thr.isSome = true) : Midst s (winByte s) s := by
  obtain ⟨hres, hunit, hacq⟩ := h.fresh
  refine ⟨⟨_, _, _, _, _, rfl⟩, rfl, h.alone.1, rfl, ⟨hlive, rfl, hacq, ?_, ?_, ?_, rfl, rfl⟩, h.good, fun _ _ => rfl⟩
  all_goals rw [hres]
  exact Nat.zero_le _

section Reads

variable (h : Midst s m t)
include h

theorem core : t.core = s.core := congrArg Place.unit h.here
theorem slotNo : t.slotNo = s.slotNo := congrArg Place.sub h.here
theorem hd : t.hd = s.hd := by
  obtain ⟨_, _, _, _, _, rfl⟩ := h.rest
  rfl

theorem mm : t.mm = s.mm := by
  obtain ⟨_, _, _, _, _, rfl⟩ := h.rest
  rfl

theorem en : t.en = s.en := by
  obtain ⟨_, _, _, _, _, rfl⟩ := h.rest
  rfl

theorem hc : t.co.hc = s.co.hc := by
  obtain ⟨_, _, _, _, _, rfl⟩ := h.rest
  rfl

theorem sq : t.co.sq = s.co.sq := by
  obtain ⟨_, _, _, _, _, rfl⟩ := h.rest
  rfl

theorem treg : t.co.treg = s.co.treg := by
  obtain ⟨_, _, _, _, _, rfl⟩ := h.rest
  rfl

theorem sameThr : s.thr.SameButRoam t.thr := h.slot.thr
theorem thold : t.thr.hold = s.thr.hold := h.sameThr.hold
theorem winPhys (hold off : Nat) : t.winPhys hold off = s.winPhys hold off := State.winPhys_congr h.hd hold off

theorem winSize (hold : Nat) : t.winSize hold = s.winSize hold := by
  obtain ⟨_, _, _, _, _, rfl⟩ := h.rest
  rfl

theorem entryAt (core hold kind w : Nat) : t.entryAt core hold kind w = s.entryAt core hold kind w := by
  obtain ⟨_, _, _, _, _, rfl⟩ := h.rest
  rfl

theorem feOn (core hold w : Nat) : t.feOn core hold w = s.feOn core hold w := by
  obtain ⟨_, _, _, _, _, rfl⟩ := h.rest
  rfl

theorem feAt (core hold off : Nat) : t.feAt core hold off = s.feAt core hold off := by
  obtain ⟨_, _, _, _, _, rfl⟩ := h.rest
  rfl

theorem byte {a : Nat} (ha : a < s.winSize s.thr.hold) : Tab.get 0 t.co.spad (spadKey s.core (s.winPhys s.thr.hold a)) = m a := by
  rw [← h.bytes a ha]
  simp [winByte, State.winBytes, h.core, h.thold, h.winPhys]

/-- Every word answers RETURN, also where its line is looked at (R176, R185). -/
theorem unitLook (hs : PlainBank s) (kind : Nat) (ws : List Nat) :
    t.unitLook s.core s.thr.hold kind ws = .go (ws.map fun w => (w, 0)) := by
  have hfull : (ws.any fun w => t.feOn s.core s.thr.hold w && !t.feAt s.core s.thr.hold (8 * w)) = false := by
    rw [List.any_eq_false]
    intro w _ hw
    rw [Bool.and_eq_true, h.feOn, h.feAt] at hw
    rw [hs.full w hw.1] at hw
    exact absurd hw.2 (by simp)
  have hacts : (ws.map fun w => (w, t.entryAt s.core s.thr.hold kind w)) = ws.map fun w => (w, 0) :=
    List.map_congr_left fun w _ => by rw [h.entryAt, hs.entries]
  have hact : actOf 0 = 0 := rfl
  unfold State.unitLook
  rw [hfull, hacts]
  have hwait : ((ws.map fun w => (w, 0)).any fun p => actOf p.2 = 2) = false := by
    simp [List.any_map, hact]
  have hfind : ((ws.map fun w => (w, 0)).find? fun p => actOf p.2 = 4 || 6 ≤ actOf p.2 || (actOf p.2 = 3 && ws.length ≠ 1)) = none := by
    simp [List.find?_map, hact]
  simp only [Bool.and_false, Bool.false_eq_true, if_false]
  refine (if_neg ?_).trans ?_
  · simpa using hwait
  · rw [hfind]
    rcases ws with _ | ⟨w, _ | ⟨w', ws⟩⟩ <;> rfl

/-- Nothing of the core holds the units of the instruction back (R264, R406). -/
theorem busyPast (hs : PlainBank s) (ws : List Nat) : Machine.busyPast t ws = .ok () := by
  refine busyPast_quiet (fun p hp => ?_) ws
  rw [h.others] at hp
  obtain ⟨hmem, hp⟩ := List.mem_filter.mp hp
  simp only [Bool.and_eq_true, decide_eq_true_eq] at hp
  exact hs.alone.2 p hmem hp.1 hp.2

theorem acqPast (unord : Bool) : Machine.acqPast t unord = .ok () := acqPast_ok (by simp [h.slot.acq])

theorem heldElse (keys : List Nat) : t.heldElse keys = s.heldElse keys := by
  rw [heldElse_eq, heldElse_eq, h.others, h.thold]

theorem unitBad (acts : List (Nat × Nat)) : t.unitBad s.core s.thr.hold acts = false := by
  simp [State.unitBad, h.good]

end Reads

/-! ### Changes of the own slot -/

section Slots

variable (h : Midst s m t)
include h

theorem modSlot {g : Slot → Slot} (hg : (g t.slot).Going s) : Midst s m (t.modSlot g) := by
  have hslot : (t.modSlot g).slot.Going s := by rwa [State.slot_modSlot]
  refine ⟨h.rest.trans (t.bankwise_modSlot g), h.here, h.quiet, (t.otherSlots_modSlot g).trans h.others, hslot, h.good, fun a ha => ?_⟩
  rw [← h.bytes a ha]
  have hthr : (t.modSlot g).thr.hold = t.thr.hold := hslot.thr.hold.trans h.thold.symm
  unfold winByte
  rw [hthr]
  rfl

/-- The own slot changes in what no unit of the instruction depends on. -/
theorem modSlot_same {g : Slot → Slot} (hthr : ∀ v, (g v).thr = v.thr) (hacq : ∀ v, (g v).acq = v.acq) (hld : ∀ v, (g v).ld = v.ld)
    (hres : ∀ v, (g v).resume.acc = v.resume.acc ∧ (g v).resume.addr = v.resume.addr ∧ (g v).resume.served = v.resume.served ∧
      (g v).resume.unit = v.resume.unit) (hunit : ∀ v, v.unit ≤ (g v).unit) : Midst s m (t.modSlot g) := by
  obtain ⟨hlive, hsame, ha, hacc, haddr, hle, hserved, hl⟩ := h.slot
  obtain ⟨h1, h2, h3, h4⟩ := hres t.slot
  refine h.modSlot ⟨?_, ?_, ?_, h1.trans hacc, h2.trans haddr, ?_, h3.trans hserved, ?_⟩
  · rwa [hthr]
  · rwa [hthr]
  · rwa [hacq]
  · rw [h4]
    exact hle.trans (hunit _)
  · rwa [hld]

theorem pin : Midst s m t.pin := by
  obtain ⟨-, hsame, ha, hacc, haddr, hle, hserved, hl⟩ := h.slot
  exact h.modSlot (g := fun v => { v with thr := some { t.thr with roam := false } }) ⟨rfl, hsame, ha, hacc, haddr, hle, hserved, hl⟩

theorem newId : Midst s m t.newId.2 := by
  refine ⟨h.rest.trans ⟨_, _, _, _, _, rfl⟩, h.here, h.quiet, h.others, h.slot, h.good, h.bytes⟩

theorem holdOn (keys : List Nat) : Midst s m (t.holdOn keys) :=
  h.modSlot_same (fun _ => rfl) (fun _ => rfl) (fun _ => rfl) (fun _ => ⟨rfl, rfl, rfl, rfl⟩) fun _ => le_rfl

theorem destUnit : Midst s m t.destUnit :=
  h.modSlot_same (fun _ => rfl) (fun _ => rfl) (fun _ => rfl) (fun _ => ⟨rfl, rfl, rfl, rfl⟩) fun _ => le_rfl

theorem busyOn (vu : Bool) (ws : List Nat) : Midst s m (t.busyOn vu ws) := by
  unfold State.busyOn
  split
  · exact h
  · exact h.newId.modSlot_same (fun _ => rfl) (fun _ => rfl) (fun _ => rfl) (fun _ => ⟨rfl, rfl, rfl, rfl⟩) fun _ => le_rfl

theorem busyOff (ws : List Nat) : Midst s m (t.busyOff ws) := by
  unfold State.busyOff
  split
  · exact h
  · exact h.modSlot_same (fun _ => rfl) (fun _ => rfl) (fun _ => rfl) (fun _ => ⟨rfl, rfl, rfl, rfl⟩) fun _ => le_rfl

/-- No unit of the instruction has waited, so that the next one begins at its own pointer. -/
theorem startAt_eq (r : Ref) :
    t.startAt r = (r, 0, t.modSlot fun v => { v with resume := { v.resume with cur := (t.slot.unit, r.word) } }) := by
  have hnone : t.parkedAt (t.slot.unit, r.word) = none := by
    unfold State.parkedAt
    split <;> simp [h.slot.addr]
  simp [State.startAt, hnone]

theorem startAt (r : Ref) : Midst s m (t.startAt r).2.2 :=
  h.modSlot_same (g := fun v => { v with resume := { v.resume with cur := (t.slot.unit, r.word) } }) (fun _ => rfl) (fun _ => rfl) (fun _ => rfl)
    (fun _ => ⟨rfl, rfl, rfl, rfl⟩) fun _ => le_rfl

end Slots

/-! ### Units -/

end Midst

/-- `n` bytes from offset `off`. -/
def bytesAt (m : Nat → Byte) (off n : Nat) : List Byte := (List.range n).map fun i => m (off + i)

@[simp] theorem length_bytesAt (m : Nat → Byte) (off n : Nat) : (bytesAt m off n).length = n := by simp [bytesAt]

theorem bytesAt_add (m : Nat → Byte) (off n k : Nat) : bytesAt m off (n + k) = bytesAt m off n ++ bytesAt m (off + n) k := by
  simp [bytesAt, List.range_add, Nat.add_assoc]

theorem bytesAt_congr {m m' : Nat → Byte} {off n : Nat} (h : ∀ a, off ≤ a → a < off + n → m a = m' a) : bytesAt m off n = bytesAt m' off n :=
  List.map_congr_left fun _ hi => h _ (Nat.le_add_right _ _) (Nat.add_lt_add_left (List.mem_range.mp hi) _)

theorem State.winBytes_eq (s : State) (off n : Nat) : s.winBytes s.core s.thr.hold off n = bytesAt (winByte s) off n :=
  List.map_congr_left fun _ _ => by simp [winByte, State.winBytes]

/-- Entries that answer RETURN retag nothing, and nothing is dropped (R176, R177). -/
theorem State.retag_plain (s : State) (core hold : Nat) (ws : List Nat) : s.retag core hold (ws.map fun w => (w, 0)) = s := by
  unfold State.retag
  rw [List.foldl_map]
  exact foldl_keeps id (fun _ _ => rfl) ws s

theorem State.unit_busyOff (s : State) (ws : List Nat) : (s.busyOff ws).slot.unit = s.slot.unit := by
  unfold State.busyOff
  split
  · rfl
  · rw [State.slot_modSlot]

theorem State.unit_pin (s : State) : s.pin.slot.unit = s.slot.unit := by
  unfold State.pin State.modThr State.setThr
  rw [State.slot_modSlot]

theorem State.Wrote.slot {core hold off n : Nat} {s t : State} (h : State.Wrote core hold off n s t) : t.slot = s.slot := by
  unfold State.slot State.slotAt State.core State.slotNo
  rw [h.slots, h.ctl]

theorem dropped_plain (ws : List Nat) (w : Nat) : dropped (ws.map fun w => (w, 0)) w = false := by
  have hact : actOf 0 ≠ 5 := by decide
  simp [dropped, hact]

namespace Midst

variable {s t : State} {m : Nat → Byte}

/-- A pointer into segment 0 whose bytes lie in the window (R172). -/
theorem reach (h : Midst s m t) {r : Ref} {n al : Nat} (hin : InSeg0 s r n al) (hn : 0 < n) {need : Need} (hx : need.x = false) :
    t.reach t.who r n al need = .ok (.win s.core r.off.toNat) := by
  obtain ⟨hseg, hoff, hal, hend⟩ := hin
  have hsize := s.winSize_le s.thr.hold
  have hhold : t.who.hold = s.thr.hold := h.thold
  have hcore : t.who.core = s.core := h.core
  obtain ⟨o, ho⟩ := Int.eq_ofNat_of_zero_le hoff
  rw [ho] at hal hend
  have hmod : o % al = 0 := by exact_mod_cast hal
  have hlt : ¬ ((r.off < 0 || ((2 ^ 61 : Nat) : Int) ≤ r.off) = true) := by
    simp only [ho, Bool.or_eq_true, decide_eq_true_eq]
    omega
  unfold State.reach
  rw [if_neg hlt, if_pos hseg, hhold, h.winSize, hx, hcore, ho, Int.toNat_natCast, if_neg (by omega), if_neg Bool.false_ne_true,
    if_neg (not_not.mpr hmod), if_neg (by omega)]

/-- The bytes that a unit reads (R177). -/
theorem unitRead (h : Midst s m t) {off n : Nat} (hend : off + n ≤ s.winSize s.thr.hold) (ws : List Nat) :
    t.unitRead s.core s.thr.hold off n (ws.map fun w => (w, 0)) = bytesAt m off n := by
  refine List.map_congr_left fun i hi => ?_
  rw [List.mem_range] at hi
  rw [dropped_plain, if_neg Bool.false_ne_true, h.winPhys]
  exact h.byte (by omega)

/-- A unit of the own bank lands there at once (R178). -/
theorem locate (h : Midst s m t) (hs : PlainBank s) {r : Ref} {n al : Nat} (hin : InSeg0 s r n al) (hn : 0 < n) {need : Need}
    (hx : need.x = false) (kind : Nat) (move : Bool) (fuel redirs : Nat) :
    Machine.locate kind n al need move (fuel + 1) t r redirs =
      .ok (.here r.off.toNat ((winWords r.off.toNat (unitLen kind r.off.toNat n)).map fun w => (w, 0)), r, redirs, t.pin) := by
  have hp := h.pin
  have hcore : t.pin.core = s.core := hp.core
  rw [Machine.locate, reachM, h.reach hin hn hx]
  refine M.bind_ok rfl ?_
  dsimp only
  refine M.bind_ok (h.acqPast false) ?_
  rw [if_pos h.core.symm]
  refine M.bind_ok (hp.busyPast hs _) ?_
  rw [h.thold, hp.unitLook hs]

/-- A unit of the own bank reads the bytes of the window as they stand (R178). -/
theorem readFrom (h : Midst s m t) (hs : PlainBank s) {r : Ref} {n al : Nat} (hin : InSeg0 s r n al) (hn : 0 < n) {need : Need}
    (hx : need.x = false) {kind : Nat} (hk : unitLen kind r.off.toNat n = n) (redirs : Nat) :
    ∃ u, Machine.readFrom kind need t r redirs n al = .ok (bytesAt m r.off.toNat n, u) ∧ Midst s m u ∧
      t.slot.unit ≤ u.slot.unit := by
  have hp := h.pin
  refine ⟨_, ?_, hp.busyOff (winWords r.off.toNat n), ?_⟩
  · refine M.bind_ok (h.locate hs hin hn hx kind true 5 redirs) ?_
    dsimp only
    rw [hk, hp.core, hp.thold, hp.unitBad, State.retag_plain, if_neg Bool.false_ne_true, if_neg (Nat.lt_irrefl n)]
    rw [hp.unitRead (by have := hin.2.2.2; have := hin.2.1; omega)]
  · rw [State.unit_busyOff, State.unit_pin]

/-- A unit that answers is recorded, and nothing comes after it (R182, R406). -/
theorem unitOnce (h : Midst s m t) {k : State → M (List Byte × State)} {d : List Byte} {m' : Nat → Byte}
    (hk : ∀ u, Midst s m u → ∃ u', k u = .ok (d, u') ∧ Midst s m' u' ∧ u.slot.unit ≤ u'.slot.unit) :
    ∃ t', Machine.unitOnce t k = .ok (d, t') ∧ Midst s m' t' := by
  have hstart : Midst s m (t.modSlot fun v => { v with unit := t.slot.unit + 1 }) := by
    obtain ⟨hlive, hsame, ha, hacc, haddr, hle, hserved, hl⟩ := h.slot
    exact h.modSlot ⟨hlive, hsame, ha, hacc, haddr, Nat.le_succ_of_le hle, hserved, hl⟩
  have hunit : (t.modSlot fun v => { v with unit := t.slot.unit + 1 }).slot.unit = t.slot.unit + 1 := by rw [State.slot_modSlot]
  have hresume : (t.modSlot fun v => { v with unit := t.slot.unit + 1 }).slot.resume = t.slot.resume := by rw [State.slot_modSlot]
  obtain ⟨u, hu, hmid, hle⟩ := hk _ hstart
  have hend : Midst s m' (u.modSlot fun v => { v with resume := v.resume.next (t.slot.unit + 1) d }) := by
    obtain ⟨hlive, hsame, ha, hacc, haddr, -, hserved, hl⟩ := hmid.slot
    refine hmid.modSlot ⟨hlive, hsame, ha, rfl, ?_, ?_, hserved, hl⟩
    · show (if _ then none else u.slot.resume.addr) = none
      rw [haddr, ite_self]
    · exact hunit ▸ hle
  refine ⟨_, ?_, hend⟩
  unfold Machine.unitOnce
  dsimp only
  rw [hresume, if_neg (Nat.not_lt.mpr h.slot.unit), h.slot.acc, Option.isSome_none, if_neg Bool.false_ne_true]
  refine M.bind_ok hu ?_
  have hchoose : ∀ v : State, v.ctl.choices = [] → v.choose 2 = (0, v) := fun v hv => by simp [State.choose, hv]
  dsimp only
  rw [hchoose _ hend.quiet]
  rfl

/-- A unit that answers, with what comes after it. -/
theorem unitOnce_bind {β : Type} (φ : State → β) (h : Midst s m t) {k : State → M (List Byte × State)} {g : List Byte × State → M β} {d : List Byte}
    {m' m'' : Nat → Byte} (hk : ∀ u, Midst s m u → ∃ u', k u = .ok (d, u') ∧ Midst s m' u' ∧ u.slot.unit ≤ u'.slot.unit)
    (hg : ∀ u, Midst s m' u → ∃ v, g (d, u) = .ok (φ v) ∧ Midst s m'' v) :
    ∃ v, (Machine.unitOnce t k >>= g) = .ok (φ v) ∧ Midst s m'' v := by
  obtain ⟨u, hu, hmid⟩ := h.unitOnce hk
  obtain ⟨v, hv, hlast⟩ := hg u hmid
  exact ⟨v, M.bind_ok hu hv, hlast⟩

/-- A unit that reads returns the bytes of the window (R172, R182). -/
theorem unitRd (h : Midst s m t) (hs : PlainBank s) {r : Ref} {n al : Nat} (hin : InSeg0 s r n al) (hn : 0 < n) {need : Need}
    (hx : need.x = false) {kind : Nat} (hk : unitLen kind r.off.toNat n = n) :
    ∃ u, Machine.unitRd kind need t r n al = .ok (bytesAt m r.off.toNat n, u) ∧ Midst s m u := by
  unfold Machine.unitRd
  refine h.unitOnce_bind (fun u => (bytesAt m r.off.toNat n, u)) (d := bytesAt m r.off.toNat n) (fun v hv => ?_) fun u hu => ⟨u, ?_, hu⟩
  · obtain ⟨w, hw, hmid, hle⟩ := (hv.startAt r).readFrom hs hin hn hx hk 0
    rw [hv.startAt_eq] at hw hle ⊢
    rw [State.slot_modSlot] at hle
    exact ⟨w, hw, hmid, hle⟩
  · dsimp only
    rw [if_pos (length_bytesAt ..).ge]

end Midst

/-! ### Bytes of the window (R172) -/

/-- The owned bank of a rank is the one with so many owned banks below it. -/
theorem bitOfRank_popc (v : Nat) : ∀ n i k, popc v i + k < popc v (i + n) → ∃ j, bitOfRank v n i k = some j ∧ popc v j = popc v i + k
  | 0, i, k, h => absurd h (by rw [Nat.add_zero]; omega)
  | n + 1, i, k, h => by
    have hstep : popc v (i + 1) = popc v i + if bit v i then 1 else 0 := rfl
    have hsum : popc v (i + 1 + n) = popc v (i + (n + 1)) := by rw [Nat.add_right_comm, Nat.add_assoc]
    unfold bitOfRank
    split
    · next hbit =>
      rw [if_pos hbit] at hstep
      split
      · next hk => exact ⟨i, rfl, by omega⟩
      · next hk =>
        obtain ⟨j, hj, hp⟩ := bitOfRank_popc v n (i + 1) (k - 1) (by omega)
        exact ⟨j, hj, by omega⟩
    · next hbit =>
      rw [if_neg hbit] at hstep
      obtain ⟨j, hj, hp⟩ := bitOfRank_popc v n (i + 1) k (by omega)
      exact ⟨j, hj, by omega⟩

/-- Different bytes of the window are different bytes of the bank (R172). -/
theorem State.winPhys_inj (s : State) {hold a b : Nat} (ha : a < s.winSize hold) (hb : b < s.winSize hold)
    (h : s.winPhys hold a = s.winPhys hold b) : a = b := by
  have hrank : ∀ x, x < s.winSize hold → ∃ j, bitOfRank (s.hbanks hold) 32 0 (x / 16384) = some j ∧ popc (s.hbanks hold) j = x / 16384 := by
    intro x hx
    unfold State.winSize at hx
    have h0 : popc (s.hbanks hold) 0 = 0 := rfl
    obtain ⟨j, hj, hp⟩ := bitOfRank_popc (s.hbanks hold) 32 0 (x / 16384) (by rw [h0, Nat.zero_add, Nat.zero_add]; omega)
    exact ⟨j, hj, by omega⟩
  obtain ⟨i, hi, hpi⟩ := hrank a ha
  obtain ⟨j, hj, hpj⟩ := hrank b hb
  unfold State.winPhys at h
  rw [hi, hj, Option.getD_some, Option.getD_some] at h
  have hij : i = j := by omega
  rw [hij] at hpi
  omega

theorem Tab.get_foldl_set_mem {α β : Type} [DecidableEq α] (d : α) (f : β → Nat) (b : β → α) {l : List β} {i : β} (hi : i ∈ l)
    (hinj : ∀ j ∈ l, f j = f i → j = i) (t : Tab α) : Tab.get d (l.foldl (fun t i => Tab.set d t (f i) (b i)) t) (f i) = b i := by
  induction l generalizing t with
  | nil => cases hi
  | cons j l ih =>
    rw [List.foldl_cons]
    by_cases hmem : i ∈ l
    · exact ih hmem (fun k hk => hinj k (.tail _ hk)) _
    · obtain rfl : i = j := (List.mem_cons.mp hi).resolve_right hmem
      rw [Tab.get_foldl_set_other d f b (fun k hk he => hmem (hinj k (.tail _ hk) he.symm ▸ hk)), Tab.get_set_same]

/-- The bytes `m` with `d` over them from offset `off`. -/
def overlay (m : Nat → Byte) (off : Nat) (d : List Byte) (a : Nat) : Byte :=
  if off ≤ a ∧ a < off + d.length then d.getD (a - off) 0 else m a

theorem overlay_nil (m : Nat → Byte) (off : Nat) : overlay m off [] = m :=
  funext fun _ => if_neg fun h => absurd h.2 (Nat.not_lt.mpr h.1)

theorem overlay_append (m : Nat → Byte) (off : Nat) (d e : List Byte) :
    overlay (overlay m off d) (off + d.length) e = overlay m off (d ++ e) := by
  funext a
  unfold overlay
  rw [List.length_append]
  by_cases h1 : off + d.length ≤ a ∧ a < off + d.length + e.length
  · rw [if_pos h1, if_pos (by omega), List.getD_append_right _ _ _ _ (by omega)]
    congr 1
    omega
  · rw [if_neg h1]
    by_cases h2 : off ≤ a ∧ a < off + d.length
    · rw [if_pos h2, if_pos (by omega), List.getD_append _ _ _ _ (by omega)]
    · rw [if_neg h2, if_neg (by omega)]

namespace Midst

variable {s t : State} {m : Nat → Byte}

/-- Plain bytes of the window are written. -/
theorem winPut (h : Midst s m t) {off : Nat} {d : List Byte} (hend : off + d.length ≤ s.winSize s.thr.hold) :
    Midst s (overlay m off d) (t.winPut s.core s.thr.hold off d) := by
  refine ⟨h.rest.trans ⟨_, _, _, _, _, rfl⟩, h.here, h.quiet, h.others, h.slot, h.good, fun a ha => ?_⟩
  have hbyte : winByte (t.winPut s.core s.thr.hold off d) a =
      Tab.get 0 (t.winPut s.core s.thr.hold off d).co.spad (spadKey s.core (s.winPhys s.thr.hold a)) := by
    have hpos : winByte (t.winPut s.core s.thr.hold off d) a =
        Tab.get 0 (t.winPut s.core s.thr.hold off d).co.spad (spadKey t.core (t.winPhys t.thr.hold a)) := by
      simp only [winByte, State.winBytes, List.range_one, List.map_cons, List.headD_cons, Nat.add_zero]
      rfl
    rw [hpos, h.core, h.thold, h.winPhys]
  rw [hbyte]
  have hkey : ∀ b, b < s.winSize s.thr.hold → spadKey s.core (s.winPhys s.thr.hold b) = spadKey s.core (s.winPhys s.thr.hold a) → b = a :=
    fun b hb he => s.winPhys_inj hb ha (Nat.add_left_cancel he)
  have hput : (t.winPut s.core s.thr.hold off d).co.spad = (List.range d.length).foldl
      (fun x i => Tab.set 0 x (spadKey s.core (s.winPhys s.thr.hold (off + i))) (d.getD i 0)) t.co.spad := by
    simp only [State.winPut, h.winPhys]
  rw [hput]
  unfold overlay
  split
  · next hin =>
    obtain ⟨i, rfl⟩ : ∃ i, a = off + i := ⟨a - off, by omega⟩
    rw [Nat.add_sub_cancel_left]
    refine Tab.get_foldl_set_mem 0 (fun i => spadKey s.core (s.winPhys s.thr.hold (off + i))) (fun i => d.getD i 0)
      (List.mem_range.mpr (by omega)) (fun j hj he => ?_) _
    have := hkey (off + j) (by have := List.mem_range.mp hj; omega) he
    omega
  · next hout =>
    rw [Tab.get_foldl_set_other 0 (fun i => spadKey s.core (s.winPhys s.thr.hold (off + i))) (fun i => d.getD i 0), h.byte ha]
    intro i hi he
    have := hkey (off + i) (by have := List.mem_range.mp hi; omega) he.symm
    have := List.mem_range.mp hi
    omega

/-- A beat that is written whole has no error any more (R70). -/
theorem winClean (h : Midst s m t) (off : Nat) : Midst s m ((t.winPoison s.core s.thr.hold off false).winFixed s.core s.thr.hold off) := by
  refine ⟨h.rest.trans ⟨_, _, _, _, _, rfl⟩, h.here, h.quiet, h.others, h.slot, fun o => ?_, h.bytes⟩
  have hset : ∀ (x : Tab Bool) (k j : Nat), Tab.get false x j = false → Tab.get false (Tab.set false x k false) j = false := by
    intro x k j hx
    by_cases e : j = k
    · rw [e, Tab.get_set_same]
    · rw [Tab.get_set_other false x false e, hx]
  have hgood := h.good o
  simp only [State.winBad, State.winEcc, Bool.or_eq_false_iff] at hgood ⊢
  exact ⟨hset _ _ _ hgood.1, hset _ _ _ hgood.2⟩

/-- A beat of plain data is written without a fault (R70). -/
theorem winBeat (h : Midst s m t) {off : Nat} {d : List Byte} (hend : off + d.length ≤ s.winSize s.thr.hold) (rgn : Nat) (addr : Word) :
    Midst s (overlay m off d) (t.winBeat s.core s.thr.hold off d rgn addr) := by
  unfold State.winBeat
  dsimp only
  rw [h.good, Bool.and_false, if_neg Bool.false_ne_true]
  split
  · exact (h.winPut hend).winClean off
  · exact h.winPut hend

theorem winWrite (rgn : Nat) (addr : Word) : ∀ (fuel : Nat) {t : State} {m : Nat → Byte} (_ : Midst s m t) {off : Nat} {d : List Byte},
    d.length < fuel → off + d.length ≤ s.winSize s.thr.hold → Midst s (overlay m off d) (t.winWrite s.core s.thr.hold rgn addr fuel off d)
  | 0, _, _, _, _, _, hf, _ => absurd hf (Nat.not_lt_zero _)
  | fuel + 1, t, m, h, off, d, hf, hend => by
    unfold State.winWrite
    split
    · next hd =>
      rw [hd, overlay_nil]
      exact h
    · next hd =>
      have hpos : 0 < d.length := List.length_pos_iff.mpr hd
      dsimp only
      generalize hk : 32 - off % 32 = k
      have hlen : (d.take k).length = min k d.length := List.length_take ..
      have hbeat := h.winBeat (off := off) (d := d.take k) (by omega) rgn addr
      have hrest := winWrite rgn addr fuel hbeat (off := off + k) (d := d.drop k) (by rw [List.length_drop]; omega)
      by_cases hshort : k ≤ d.length
      · have hover := overlay_append m off (d.take k) (d.drop k)
        rw [hlen, Nat.min_eq_left hshort, List.take_append_drop] at hover
        rw [← hover]
        exact hrest (by rw [List.length_drop]; omega)
      · have hdrop : d.drop k = [] := List.drop_eq_nil_of_le (by omega)
        have htake : d.take k = d := List.take_of_length_le (by omega)
        rw [htake] at hbeat
        rw [hdrop, htake]
        cases fuel <;> simpa [State.winWrite] using hbeat

theorem unitWrite (h : Midst s m t) {off : Nat} {d : List Byte} (hend : off + d.length ≤ s.winSize s.thr.hold) (ws : List Nat) (rgn : Nat)
    (addr : Word) : Midst s (overlay m off d) (t.unitWrite s.core s.thr.hold off d (ws.map fun w => (w, 0)) rgn addr) := by
  have hact : ((ws.map fun w => (w, 0)).any fun p => actOf p.2 = 5) = false := by
    have hact : actOf 0 ≠ 5 := by decide
    simp [hact]
  unfold State.unitWrite
  refine (congrArg (Midst s _) (if_neg ?_)).mpr (winWrite rgn addr (d.length + 1) h (Nat.lt_succ_self _) hend)
  simpa using hact

theorem writeFrom (h : Midst s m t) (hs : PlainBank s) {r : Ref} {d : List Byte} {al : Nat} (hin : InSeg0 s r d.length al) (hn : d ≠ [])
    (hk : unitLen kVW r.off.toNat d.length = d.length) (redirs : Nat) :
    ∃ u, Machine.writeFrom t r redirs d al = .ok ([], u) ∧ Midst s (overlay m r.off.toNat d) u ∧ t.slot.unit ≤ u.slot.unit := by
  have hend : r.off.toNat + d.length ≤ s.winSize s.thr.hold := by
    obtain ⟨-, hoff, -, hend⟩ := hin
    omega
  have hp := h.pin
  have hw := hp.unitWrite hend (winWords r.off.toNat d.length) t.pin.thr.rgn r.word
  refine ⟨_, M.bind_ok (h.locate hs hin (List.length_pos_iff.mpr hn) rfl kVW true 5 redirs) ?_, hw.busyOff (winWords r.off.toNat d.length), ?_⟩
  · dsimp only
    rw [hk, hp.core, hp.thold, List.take_of_length_le le_rfl, State.retag_plain, if_neg (Nat.lt_irrefl _)]
  · rw [State.unit_busyOff, (State.unitWrite_wrote _ _ _ _ _ _ _ _).slot, State.unit_pin]

/-- A unit of the own bank writes its bytes there at once (R70, R182). -/
theorem unitWr (h : Midst s m t) (hs : PlainBank s) {r : Ref} {d : List Byte} {al : Nat} (hin : InSeg0 s r d.length al) (hn : d ≠ [])
    (hk : unitLen kVW r.off.toNat d.length = d.length) :
    ∃ u, Machine.unitWr t r d al = .ok u ∧ Midst s (overlay m r.off.toNat d) u := by
  have hpos : 0 < d.length := List.length_pos_iff.mpr hn
  have hend : r.off.toNat + d.length ≤ s.winSize s.thr.hold := by
    obtain ⟨-, hoff, -, hend⟩ := hin
    omega
  unfold Machine.unitWr
  refine h.unitOnce_bind (fun u => u) (d := []) (fun v hv => ?_) fun u hu => ⟨u, rfl, hu⟩
  obtain ⟨w, hw, hmid, hle⟩ := (hv.startAt r).writeFrom hs hin hn hk 0
  rw [hv.startAt_eq] at hw hle ⊢
  rw [State.slot_modSlot] at hle
  exact ⟨w, hw, hmid, hle⟩

theorem winBytes (h : Midst s m t) {off n : Nat} (hend : off + n ≤ s.winSize s.thr.hold) :
    t.winBytes s.core t.thr.hold off n = bytesAt m off n := by
  rw [← h.core, State.winBytes_eq]
  exact bytesAt_congr fun a _ ha => h.bytes a (by omega)

end Midst

end Sys2Proof.Machine

/-! SUPPORT. Table images, tiles and accumulators in a window of plain data (R373, R424, R441). -/

namespace Sys2Proof.Machine

open Sys2Proof.Claims

theorem Ref.add_off (r : Ref) {n : Nat} (h : 0 ≤ r.off) : (r.add n).off.toNat = r.off.toNat + n := by
  simp only [Ref.add]
  omega

theorem unitLen_line {kind off n : Nat} (h : off % 128 + n ≤ 128) : unitLen kind off n = n := by
  unfold unitLen
  split
  · omega
  · rfl

/-- A part of a range in the window that is aligned on its own. -/
theorem inSeg0_part {s : State} {r : Ref} {n al : Nat} (h : InSeg0 s r n al) {o k al' : Nat} (hend : o + k ≤ n)
    (hal : (r.off.toNat + o) % al' = 0) : InSeg0 s (r.add o) k al' := by
  obtain ⟨hseg, hoff, -, hsize⟩ := h
  obtain ⟨p, hp⟩ := Int.eq_ofNat_of_zero_le hoff
  rw [hp, Int.toNat_natCast] at hal
  refine ⟨hseg, ?_, ?_, ?_⟩
  · simp only [Ref.add]
    omega
  · simp only [Ref.add, hp]
    exact_mod_cast hal
  · simp only [Ref.add]
    omega

theorem inSeg0_first {s : State} {r : Ref} {n al : Nat} (h : InSeg0 s r n al) {k al' : Nat} (hend : k ≤ n) (hal : r.off.toNat % al' = 0) :
    InSeg0 s r k al' := by
  have := inSeg0_part h (o := 0) (k := k) (al' := al') (by omega) (by simpa using hal)
  simpa [Ref.add] using this

theorem inSeg0_aligned {s : State} {r : Ref} {n al : Nat} (h : InSeg0 s r n al) : r.off.toNat % al = 0 := by
  obtain ⟨-, hoff, hal, -⟩ := h
  obtain ⟨p, hp⟩ := Int.eq_ofNat_of_zero_le hoff
  rw [hp] at hal ⊢
  exact_mod_cast hal

namespace Midst

variable {s t : State} {m : Nat → Byte}

theorem addrOf (h : Midst s m t) {r : Ref} {n al : Nat} (hin : InSeg0 s r n al) (hn : 0 < n) : t.addrOf r = r.off.toNat := by
  unfold State.addrOf
  rw [h.reach (inSeg0_first hin (k := 1) hn (Nat.mod_one _)) Nat.one_pos rfl]

/-- No range of the window straddles its end (R172). -/
theorem wholeOk (h : Midst s m t) {r : Ref} {n al : Nat} (hin : InSeg0 s r n al) (hn : 0 < n) {need : Need} (hx : need.x = false) :
    Machine.wholeOk t r n al need = .ok t := by
  unfold Machine.wholeOk
  rw [h.reach hin hn hx, h.reach (inSeg0_first hin hn (inSeg0_aligned hin)) Nat.one_pos hx]

end Midst

/-- The middle of an instruction that begins. -/
theorem Midst.start {i : Instr} {s : State} (h : ready i s = true) (hs : PlainBank s) : Midst s (winByte s) s :=
  .refl hs (by rw [ready_thread h]; rfl)

/-- A state whose slot, banks and place are those in the middle of the instruction has its window. -/
theorem Midst.winByte_of {s t e : State} {m : Nat → Byte} (h : Midst s m t) (hspad : e.co.spad = t.co.spad) (hhd : e.hd = t.hd)
    (hcore : e.core = t.core) (hhold : e.thr.hold = t.thr.hold) {a : Nat} (ha : a < s.winSize s.thr.hold) : winByte e a = m a := by
  rw [← h.bytes a ha]
  simp [winByte, State.winBytes, hspad, hcore, hhold, State.winPhys_congr hhd]

/-! ### Table images (R373) -/

theorem State.hcAt_loadTable (s : State) (core hold k : Nat) (img : List Byte) : (s.loadTable core hold k img).hcAt core hold =
    { s.hcAt core hold with
      table := (List.range 128).foldl (fun tb i => Tab.set 0 tb (k * 256 + (1 - (s.hcAt core hold).bank k) * 128 + i)
        (BitVec.ofNat 16 (leNat ((img.drop (2 * i)).take 2)))) (s.hcAt core hold).table } := by
  unfold State.loadTable State.modHc
  exact Tab.get_set_same ..

theorem tblldInWindow {f : Fields} {s : State} (h : ready (.tblld f) s = true) (hs : PlainBank s) (hin : InSeg0 s (refOf (s.g f.a) 0) 256 16) :
    ∃ e, Completes (.tblld f) f s e ∧ (∀ a < s.winSize s.thr.hold, winByte e a = winByte s a) ∧
      e.hcAt s.core s.thr.hold = (s.loadTable s.core s.thr.hold (bits f.imm.toNat 1 0)
        (s.winBytes s.core s.thr.hold (refOf (s.g f.a) 0).off.toNat 256)).hcAt s.core s.thr.hold := by
  have hmid := Midst.start h hs
  have hal := inSeg0_aligned hin
  have haddr := hmid.addrOf hin (by omega)
  have hoff := hin.2.1
  generalize hr : refOf (s.g f.a) 0 = r at *
  obtain ⟨n, hn⟩ : ∃ n, n = 128 - r.off.toNat % 128 := ⟨_, rfl⟩
  obtain ⟨u1, hu1, h1⟩ := hmid.unitRd (r := r) (n := n) (al := 16) (need := { r := true }) (kind := kVR) hs (inSeg0_first hin (by omega) hal) (by omega) rfl (unitLen_line (by omega))
  obtain ⟨u2, hu2, h2⟩ := h1.unitRd (r := r.add n) (n := 128) (al := 16) (need := { r := true }) (kind := kVR) hs (inSeg0_part hin (by omega) (by omega)) (by omega) rfl
    (unitLen_line (by rw [r.add_off hoff]; omega))
  have hthird : ∃ u3, (n = 128 → u3 = u2) ∧ (n ≠ 128 → unitRd kVR { r := true } u2 (r.add ((n : Int) + 128)) (128 - n) 16 =
      .ok (bytesAt (winByte s) (r.off.toNat + n + 128) (128 - n), u3)) ∧ Midst s (winByte s) u3 := by
    by_cases hfull : n = 128
    · exact ⟨u2, fun _ => rfl, fun hpart => absurd hfull hpart, h2⟩
    · obtain ⟨u3, hu3, h3⟩ := h2.unitRd (r := r.add (n + 128 : Nat)) (n := 128 - n) (al := 16) (need := { r := true }) (kind := kVR) hs
        (inSeg0_part hin (by omega) (by omega)) (by omega) rfl (unitLen_line (by rw [r.add_off hoff]; omega))
      rw [r.add_off hoff, ← Nat.add_assoc] at hu3
      exact ⟨u3, fun hfull' => absurd hfull' hfull, fun _ => hu3, h3⟩
  obtain ⟨u3, hfull, hpart, h3⟩ := hthird
  subst hr
  refine ⟨u3.pin.loadTable u3.core u3.thr.hold (bits f.imm.toNat 1 0) (bytesAt (winByte s) (refOf (s.g f.a) 0).off.toNat n ++
    bytesAt (winByte s) ((refOf (s.g f.a) 0).add n).off.toNat 128 ++ bytesAt (winByte s) ((refOf (s.g f.a) 0).off.toNat + n + 128) (128 - n)),
    completes_of_body (show execTblld f s = _ from rfl) rfl h ?_, fun a ha => ?_, ?_⟩
  · dsimp only
    rw [haddr, ← hn]
    refine M.bind_ok (hmid.wholeOk hin (by omega) rfl) (M.bind_ok hu1 (M.bind_ok hu2 ?_))
    split
    · next hn128 =>
      rw [hfull hn128, show bytesAt (winByte s) ((refOf (s.g f.a) 0).off.toNat + n + 128) (128 - n) = [] by rw [hn128]; rfl]
      rfl
    · next hn128 => exact M.bind_ok (hpart hn128) rfl
  · exact h3.pin.winByte_of rfl rfl rfl rfl ha
  · have hbytes : bytesAt (winByte s) (refOf (s.g f.a) 0).off.toNat n ++ bytesAt (winByte s) ((refOf (s.g f.a) 0).add n).off.toNat 128 ++
        bytesAt (winByte s) ((refOf (s.g f.a) 0).off.toNat + n + 128) (128 - n) =
        s.winBytes s.core s.thr.hold (refOf (s.g f.a) 0).off.toNat 256 := by
      rw [State.winBytes_eq, Ref.add_off _ hoff, ← bytesAt_add, Nat.add_assoc, ← bytesAt_add]
      congr 1
      omega
    rw [hbytes, h3.core, h3.thold, State.hcAt_loadTable, State.hcAt_loadTable]
    simp only [State.hcAt, h3.pin.hc]

theorem State.hold_pin (s : State) : s.pin.thr.hold = s.thr.hold := by simp [State.pin]

theorem actionTables : ActionTables := by
  refine ⟨fun f s h hs hin => tblldInWindow h hs hin, fun f s s0 d1 s1 d2 s2 h hw hu1 hu2 => ?_, fun f s h =>
    completes_of_body (show execTswap f s = _ from rfl) rfl h rfl⟩
  refine ⟨fun hn => ?_, fun d3 s3 hn hu3 => ?_⟩
  · refine completes_of_body (show execTblld f s = _ from rfl) rfl h (M.bind_ok hw (M.bind_ok hu1 (M.bind_ok hu2 ?_)))
    refine (if_pos hn).trans ?_
    show Except.ok (Fin.step (s2.pin.loadTable s2.core s2.thr.hold (bits f.imm.toNat 1 0) (d1 ++ d2 ++ []))) = _
    rw [List.append_nil, State.hold_pin]
    rfl
  · refine completes_of_body (show execTblld f s = _ from rfl) rfl h (M.bind_ok hw (M.bind_ok hu1 (M.bind_ok hu2 ?_)))
    refine (if_neg hn).trans (M.bind_ok hu3 ?_)
    rw [State.hold_pin]
    rfl

/-- Settles O8: the tag and full/empty instructions act at the bank or at the port; a table image is read in units that do not cross a line. -/
theorem tagsAndTables : Obligations.TagsAndTables := ⟨tagAndFullEmpty, actionTables⟩

end Sys2Proof.Machine

/-! SUPPORT. Tiles and accumulators in a window of plain data, and the appends of matrix records (R280, R281, R424, R440, R441). -/

namespace Sys2Proof.Machine

open Sys2Proof.Claims

/-! ### Reads and writes line by line (R181) -/

namespace Midst

variable {s : State} {r : Ref} {N al : Nat}

theorem readUnits (hs : PlainBank s) (hin : InSeg0 s r N al) (hal : r.off.toNat % 16 = 0) {m : Nat → Byte} : ∀ (fuel o n : Nat) {t : State},
    Midst s m t → o + n ≤ N → n ≤ 128 * fuel - (r.off.toNat + o) % 128 →
    ∃ u, Machine.readUnits r (lineCuts fuel r.off.toNat o n) t = .ok (bytesAt m (r.off.toNat + o) n, u) ∧ Midst s m u
  | 0, o, n, t, h, _, hf => by
    obtain rfl : n = 0 := by omega
    exact ⟨t, rfl, h⟩
  | fuel + 1, o, n, t, h, hend, hf => by
    unfold lineCuts
    split
    · next hn =>
      subst hn
      exact ⟨t, rfl, h⟩
    · next hn =>
      dsimp only
      generalize hk : min n (128 - (r.off.toNat + o) % 128) = k
      have hoff := Ref.add_off r (n := o) hin.2.1
      obtain ⟨u, hu, hmid⟩ := h.unitRd (r := r.add o) (n := k) (al := if o = 0 then 16 else 1) (need := { r := true }) (kind := kVR) hs
        (inSeg0_part hin (by omega) (by split <;> omega)) (by omega) rfl (unitLen_line (by rw [hoff]; omega))
      obtain ⟨v, hv, hlast⟩ := readUnits hs hin hal fuel (o + k) (n - k) hmid (by omega) (by omega)
      refine ⟨v, M.bind_ok hu (M.bind_ok hv ?_), hlast⟩
      have hn : n = k + (n - k) := by omega
      rw [hn, bytesAt_add, hoff, Nat.add_assoc, ← hn]

theorem writeUnits (hs : PlainBank s) (hin : InSeg0 s r N al) {m : Nat → Byte} {d : List Byte} (hd : d.length = N) :
    ∀ (fuel o n : Nat) {t : State}, Midst s (overlay m r.off.toNat (d.take o)) t → o + n ≤ N → n ≤ 128 * fuel - (r.off.toNat + o) % 128 →
    ∃ u, Machine.writeUnits r d al (lineCuts fuel r.off.toNat o n) t = .ok u ∧ Midst s (overlay m r.off.toNat (d.take (o + n))) u
  | 0, o, n, t, h, _, hf => by
    obtain rfl : n = 0 := by omega
    exact ⟨t, rfl, h⟩
  | fuel + 1, o, n, t, h, hend, hf => by
    unfold lineCuts
    split
    · next hn =>
      subst hn
      exact ⟨t, rfl, h⟩
    · next hn =>
      dsimp only
      generalize hk : min n (128 - (r.off.toNat + o) % 128) = k
      have hoff := Ref.add_off r (n := o) hin.2.1
      have hlen : ((d.drop o).take k).length = k := by
        rw [List.length_take, List.length_drop]
        omega
      have halign : (r.off.toNat + o) % (if o = 0 then al else 1) = 0 := by
        split
        · next ho => rw [ho, Nat.add_zero, inSeg0_aligned hin]
        · exact Nat.mod_one _
      obtain ⟨u, hu, hmid⟩ := h.unitWr (r := r.add o) (d := (d.drop o).take k) (al := if o = 0 then al else 1) hs
        (by rw [hlen]; exact inSeg0_part hin (by omega) halign) (List.ne_nil_of_length_pos (by omega))
        (by rw [hlen, hoff]; exact unitLen_line (by omega))
      have hover := overlay_append m r.off.toNat (d.take o) ((d.drop o).take k)
      rw [List.length_take, Nat.min_eq_left (by omega), ← List.take_add, ← hoff] at hover
      rw [hover] at hmid
      obtain ⟨v, hv, hlast⟩ := writeUnits hs hin hd fuel (o + k) (n - k) hmid (by omega) (by omega)
      refine ⟨v, M.bind_ok hu hv, ?_⟩
      rwa [show o + k + (n - k) = o + n by omega] at hlast

/-- A store of many bytes in the window writes them there (R424). -/
theorem bulkStore (hs : PlainBank s) {m : Nat → Byte} {t : State} (h : Midst s m t) {d : List Byte} (hin : InSeg0 s r d.length al)
    (hpos : 0 < d.length) (hmax : d.length ≤ 4112) : ∃ u, Machine.bulkStore t r d al = .ok u ∧ Midst s (overlay m r.off.toNat d) u := by
  have hbusy := h.busyOn true (winWords r.off.toNat d.length)
  obtain ⟨u, hu, hmid⟩ := writeUnits hs hin (m := m) (d := d) rfl 40 0 d.length (by rwa [List.take_zero, overlay_nil]) (by omega) (by omega)
  rw [Nat.zero_add, List.take_length] at hmid
  refine ⟨u, M.bind_ok (h.wholeOk hin hpos rfl) ?_, hmid⟩
  rw [h.addrOf hin hpos, h.reach (inSeg0_first hin (k := 1) hpos (Nat.mod_one _)) Nat.one_pos rfl]
  dsimp only
  rw [if_pos h.core.symm]
  exact hu

end Midst

theorem Midst.stored {s t e : State} {off : Nat} {d : List Byte} (h : Midst s (overlay (winByte s) off d) t)
    (he : ∀ a < s.winSize s.thr.hold, winByte e a = winByte t a) : Stored s e off d :=
  fun a ha => (he a ha).trans (h.bytes a ha)

/-! ### Tiles (R424) -/

theorem Tab.bytes_setBytes (t : Tab Byte) (a : Nat) (bs : List Byte) : Tab.bytes (Tab.setBytes t a bs) a bs.length = bs := by
  induction bs generalizing t a with
  | nil => rfl
  | cons b bs ih =>
    rw [List.length_cons, Tab.bytes, Tab.setBytes, ih, Tab_get_setBytes_lt bs (Nat.lt_succ_self a), Tab.get_set_same]

/-- A tile register holds the bytes that are written to it, and zeros behind them (R422). -/
theorem State.tileAt_setTile (s : State) (core k : Nat) {bs : List Byte} (h : bs.length ≤ 4112) :
    (s.setTile core k bs).tileAt core k = bs ++ List.replicate (4112 - bs.length) 0 := by
  have hfill : (bs ++ List.replicate 4112 0).take 4112 = bs ++ List.replicate (4112 - bs.length) (0 : Byte) := by
    rw [List.take_append, List.take_of_length_le h, List.take_replicate, Nat.min_eq_left (Nat.sub_le ..)]
  have hlen : (bs ++ List.replicate (4112 - bs.length) (0 : Byte)).length = 4112 := by
    rw [List.length_append, List.length_replicate]
    omega
  have hput := Tab.bytes_setBytes s.co.treg ((core * 16 + k) * 4112) (bs ++ List.replicate (4112 - bs.length) 0)
  rw [hlen] at hput
  unfold State.tileAt State.setTile
  rw [hfill]
  exact hput

theorem length_tileAt (s : State) (core k : Nat) : (s.tileAt core k).length = 4112 := by
  have hlen : ∀ (t : Tab Byte) (n a : Nat), (Tab.bytes t a n).length = n := by
    intro t n
    induction n with
    | zero => exact fun _ => rfl
    | succ n ih => exact fun a => congrArg (· + 1) (ih (a + 1))
  exact hlen _ _ _

theorem Hdr.len_range (h : Hdr) : 16 ≤ h.len ∧ h.len ≤ 4112 := by
  unfold Hdr.len
  omega

/-- The header lies in the first 16 bytes (R231). -/
theorem hdrOf_bytesAt (m : Nat → Byte) (off : Nat) {n : Nat} (h : 16 ≤ n) : hdrOf (bytesAt m off n) = hdrOf (bytesAt m off 16) := by
  obtain ⟨k, rfl⟩ := Nat.exists_eq_add_of_le h
  unfold hdrOf
  rw [bytesAt_add, List.take_append_of_le_length (by simp)]

theorem tileAlign_ok {s : State} {r : Ref} {N : Nat} (hin : InSeg0 s r N 16) (t : State) : tileAlign t r = .ok () := by
  obtain ⟨hseg, -, hal, -⟩ := hin
  unfold tileAlign
  rw [if_pos hseg]
  refine if_neg (not_not.mpr ?_)
  simpa using hal

/-- A tile of the window is read whole: the first line holds its header (R424). -/
theorem Midst.readTile {s t : State} {m : Nat → Byte} (h : Midst s m t) (hs : PlainBank s) {r : Ref} {n : Nat}
    (hn : (hdrOf (bytesAt m r.off.toNat 16)).len = n) (hin : InSeg0 s r n 16) :
    ∃ u, Machine.readTile t r = .ok (bytesAt m r.off.toNat n, u) ∧ Midst s m u := by
  obtain ⟨hmin, hmax⟩ : 16 ≤ n ∧ n ≤ 4112 := hn ▸ Hdr.len_range _
  have hal := inSeg0_aligned hin
  have hlen : tileLen t r = n := by
    unfold tileLen State.peekAt
    rw [if_neg (Nat.not_lt.mpr h.slot.unit), h.reach (inSeg0_first hin hmin (Nat.mod_one _)) (by omega) rfl]
    dsimp only
    rw [h.winBytes (by have := hin.2.1; have := hin.2.2.2; omega), hn]
  have hbusy := h.busyOn true (winWords r.off.toNat n)
  obtain ⟨u, hu, hmid⟩ := hbusy.unitRd (r := r) (n := min n (128 - r.off.toNat % 128)) (al := 16) (need := { r := true }) (kind := kVR) hs
    (inSeg0_first hin (by omega) hal) (by omega) rfl (unitLen_line (by omega))
  obtain ⟨v, hv, hlast⟩ := hmid.readUnits (r := r) hs hin hal 40 (min n (128 - r.off.toNat % 128)) (n - min n (128 - r.off.toNat % 128))
    (by omega) (by omega)
  refine ⟨v, ?_, hlast⟩
  unfold Machine.readTile
  dsimp only
  rw [h.addrOf hin (by omega), hlen]
  refine M.bind_ok (h.wholeOk hin (by omega) rfl) (M.bind_ok hu ?_)
  dsimp only
  rw [hdrOf_bytesAt m _ (by omega), hn, length_bytesAt]
  refine M.bind_ok hv ?_
  dsimp only
  rw [← bytesAt_add, Nat.add_sub_cancel' (Nat.min_le_left ..), List.take_of_length_le (length_bytesAt ..).le]

theorem tilesOk_ok {s : State} {k : Nat} (hown : bit (s.htregs s.thr.hold) k = true) (hheld : s.heldElse [tileHold k] = false)
    (hpend : s.tilePending k = false) : tilesOk s [] [k] = .ok s.pin := by
  simp [tilesOk, hown, hheld, hpend]

theorem State.refM_pin (s : State) (f : Fields) : s.pin.refM f = s.refM f := by
  have hslot : s.pin.slot.disp = s.slot.disp := by
    unfold State.pin State.modThr State.setThr
    rw [State.slot_modSlot]
  have hgpr : ∀ o, s.pin.g o = s.g o := fun o => by
    unfold State.g State.pin
    rw [State.thr_modThr]
    rfl
  simp only [State.refM, hslot, hgpr]

theorem tilesInWindow : TilesInWindow := by
  intro f s hs hown hheld hpend r
  have htiles := tilesOk_ok hown hheld hpend
  refine ⟨fun h => ?load, fun h => ?store⟩
  case load =>
    intro n hin
    have hp := (Midst.start h hs).pin
    have hmin : 16 ≤ n ∧ n ≤ 4112 := Hdr.len_range _
    obtain ⟨u, hu, hmid⟩ := (hp.holdOn [tileHold f.d.idx.toNat]).readTile hs (r := r) (n := n) (by rw [← State.winBytes_eq]) hin
    refine ⟨_, ((tileRegisterResult f s s.pin).1 h htiles (tileAlign_ok hin _)).1 _ r.off.toNat u ?_ hu, fun a ha => ?_, ?_⟩
    · exact hp.reach (inSeg0_first hin (by omega) (Nat.mod_one _)) Nat.one_pos rfl
    · exact hmid.winByte_of rfl rfl rfl rfl ha
    · rw [hmid.core, State.tileAt_setTile _ _ _ (by rw [length_bytesAt]; omega), length_bytesAt, State.winBytes_eq]
  case store =>
    intro n hin
    have hp := (Midst.start h hs).pin
    have hmin : 16 ≤ n ∧ n ≤ 4112 := Hdr.len_range _
    have hlen : ((s.tile f.d).take n).length = n := by
      rw [List.length_take, State.tile, length_tileAt]
      omega
    obtain ⟨u, hu, hmid⟩ := (hp.holdOn [tileHold f.d.idx.toNat]).bulkStore hs (r := r) (d := (s.tile f.d).take n) (by rwa [hlen]) (by omega) (by omega)
    refine ⟨u, (tileRegisterResult f s s.pin).2.1 u h htiles ?_ ?_, hmid.stored fun _ _ => rfl⟩
    · rw [s.refM_pin]
      exact tileAlign_ok hin _
    · rw [s.refM_pin]
      exact hu

/-- Settles O19: the bodies of the six instructions, and TLD and TST line by line in a window of plain data. -/
theorem tileRegisters : Obligations.TileRegisters := ⟨tileRegisterResult, tilesInWindow⟩

end Sys2Proof.Machine

/-! SUPPORT. Appends of matrix records, and what MXOWN, MXSPILL and MXFILL do with a partition (R280, R281, R440, R441). -/

namespace Sys2Proof.Machine

open Sys2Proof.Claims

theorem leNat_lt (bs : List Byte) : leNat bs < 256 ^ bs.length := by
  induction bs with
  | nil => exact Nat.one_pos
  | cons b bs ih =>
    have hb : b.toNat < 256 := b.isLt
    rw [leNat, List.length_cons, Nat.pow_succ]
    omega

/-- A field of four bytes as an operand is itself. -/
theorem bits_ofNat_recW (bs : List Byte) (off : Nat) : bits (BitVec.ofNat 64 (recW bs off 4)).toNat 31 0 = recW bs off 4 := by
  have hlt : recW bs off 4 < 2 ^ 32 := by
    refine (leNat_lt _).trans_le ?_
    calc 256 ^ ((bs.drop off).take 4).length ≤ 256 ^ 4 := Nat.pow_le_pow_right (by omega) (by rw [List.length_take]; omega)
      _ = 2 ^ 32 := by norm_num
  simp only [bits, BitVec.toNat_ofNat]
  omega

/-- A record that meets the checks of R280 waits for its context, with the headers that it has found. -/
theorem append_ok {f : Fields} {s s1 : State} {bs : List Byte} {tw c : Nat} {short : Bool} {fd : Found} (h : AppendOk s bs tw c short)
    (hfd : findHdrs s bs (clusterOf s.core) (16 * s.ctxPart s.thr.hold c + recC bs) = .ok (fd, s1)) (hp : placesOk s1 bs fd = .ok ()) :
    append f s bs tw short = .ok (.step (appended f bs c fd s s1)) := by
  obtain ⟨hform, hzero, hrsv, hrsv2, hctx⟩ := h.word
  obtain ⟨hx, hy, hk⟩ := h.place
  obtain ⟨hown, hnone⟩ := h.context
  have hword : ¬ ((bits tw 31 30 = 3 || bits tw 29 26 ≠ 0 || bits tw 12 8 ≠ 0 || (bits tw 31 30 ≠ 2 && bits tw 7 2 ≠ 0)) = true) := by
    simp [hform, hzero, hrsv, hrsv2]
  have hplace : ¬ ((bits tw 31 30 ≠ 1 || 64 ≤ bits tw 25 19 || 32 ≤ bits tw 18 13 || bits tw 18 13 * 64 + bits tw 25 19 ≠ clusterOf s.core) = true) := by
    simp only [hform, hk, ne_eq, not_true_eq_false, decide_false, Bool.false_or, Bool.or_false, Bool.or_eq_true, decide_eq_true_eq]
    omega
  have hctxOk : ¬ ((s.hmctx s.thr.hold = 0 || !bit (s.hmctx s.thr.hold) c || s.haparts s.thr.hold = 0 ||
      (namesPos bs && !bit (s.haparts s.thr.hold) (bits (recTiles bs) 9 4 / 16))) = true) := by
    have hpos := h.position
    cases hn : namesPos bs <;> simp_all [h.parts]
  have hheld : ¬ ((namesTile bs && s.partHeld (clusterOf s.core) (s.ctxPart s.thr.hold c)) = true) := by
    have := h.owner
    cases hn : namesTile bs <;> simp_all
  have howner : ¬ ((namesTile bs && ((s.ownerAt (clusterOf s.core) (s.ctxPart s.thr.hold c)).none ||
      (s.ownerAt (clusterOf s.core) (s.ctxPart s.thr.hold c)).id ≠ s.thr.ctxid)) = true) := by
    have := h.owner
    cases hn : namesTile bs <;> simp_all
  unfold append
  dsimp only
  rw [hctx]
  refine M.check_ok hword (M.check_ok hplace (M.check_ok hctxOk (M.check_ok hheld (M.check_ok howner (M.check_ok (by simp [h.fields]) ?_)))))
  have hahead : ¬ (((List.range 4).any (fun q => (s.mctx (clusterOf s.core * 4 + q)).wait.any fun r =>
      (takesApp bs && r.part = s.ctxPart s.thr.hold c && recC r.bytes = recC bs && writesTile r.bytes) ||
      (isMma bs && recType r.bytes = 1 && recPos r.bytes = recPos bs)) || 63 ≤ s.slot.tl) = true) := by
    rw [h.clear, Bool.false_or, decide_eq_true_eq]
    exact Nat.not_le.mpr h.room
  by_cases hflag : recFlag bs 0 = true
  · rw [if_pos hflag]
    obtain ⟨l, hl⟩ := h.timeline hflag
    have htl : timelineM s (BitVec.ofNat 64 (recW bs 8 4)) = .ok l := by
      unfold timelineM
      rw [bits_ofNat_recW, hl]
    refine M.bind_ok htl (M.bind_ok rfl (M.check_ok hahead (M.bind_ok hfd ?_)))
    exact M.bind_ok hp rfl
  · rw [if_neg hflag]
    refine M.check_ok hahead (M.bind_ok hfd ?_)
    exact M.bind_ok hp rfl

theorem matrixAppend : MatrixAppend := by
  refine fun f s c fd s1 => ⟨fun bs s0 h hread hok hfd hp => ?_, fun h hok hfd hp => ?_⟩
  · exact completes_of_body (show execMxa f s = _ from rfl) rfl h (M.bind_ok hread (append_ok hok hfd hp))
  · exact completes_of_body (show execMxb f s = _ from rfl) rfl h (append_ok hok hfd hp)

/-! ### Partitions (R441) -/

theorem partFree_ok {s : State} {p : Nat} (hown : bit (s.haparts s.thr.hold) p = true) (hpend : s.partPending (clusterOf s.core) p = false) :
    partFree s p = .ok () := by simp [partFree, hown, hpend]

theorem accumulatorPartitions : AccumulatorPartitions := by
  intro f s k
  refine ⟨?own, ?spill, ?fill⟩
  case own =>
    intro p hp h hown hpend hheld
    subst hp
    exact completes_of_body (show execMxown f s = _ from rfl) rfl h (M.bind_ok (partFree_ok hown hpend) (M.check_ok (by rw [hheld]; simp) rfl))
  case spill =>
    intro p i u s1 hp hi h hown hpend hreach hstore hd
    subst hp hi
    exact completes_of_body (show execMxspill f s = _ from rfl) rfl h (M.bind_ok (partFree_ok hown hpend) (M.bind_ok hreach (M.bind_ok hstore rfl)))
  case fill =>
    intro p i u d s0 s1 hdr hp hi h hown hpend hhdr hgood hreach hwhole hread e o
    subst hp hi
    refine completes_of_body (show execMxfill f s = _ from rfl) rfl h (M.bind_ok (partFree_ok hown hpend) ?_)
    simp only [Bool.and_eq_true, decide_eq_true_eq]
    rw [← hhdr]
    refine M.check_ok ?_ (M.bind_ok hreach (M.bind_ok hwhole (M.bind_ok hread rfl)))
    cases hdr with
    | none => exact Bool.false_ne_true
    | some h => simp [hgood h rfl]

/-! ### Accumulators in a window (R441) -/

theorem plainBank_holdPart {s : State} (hs : PlainBank s) (k p : Nat) (on : Bool) : PlainBank (s.holdPart k p on) :=
  ⟨hs.entries, hs.full, hs.good, hs.fresh, hs.alone⟩

theorem leBytes_leNat (bs : List Byte) : leBytes bs.length (leNat bs) = bs := by
  induction bs with
  | nil => rfl
  | cons b bs ih =>
    have hb : b.toNat < 256 := b.isLt
    have hhead : BitVec.ofNat 8 (b.toNat + 256 * leNat bs) = b := BitVec.eq_of_toNat_eq (by rw [BitVec.toNat_ofNat]; omega)
    rw [List.length_cons, leBytes, leNat, hhead, show (b.toNat + 256 * leNat bs) / 256 = leNat bs by omega, ih]

theorem flatMap_pieces {α : Type} (k : Nat) (d : List α) (n : Nat) : ((List.range n).flatMap fun i => (d.drop (k * i)).take k) = d.take (k * n) := by
  induction n with
  | zero => simp
  | succ n ih => rw [List.range_succ, List.flatMap_append, ih, Nat.mul_succ, List.take_add, List.flatMap_singleton]

theorem State.length_accBytes (s : State) (k i : Nat) : (s.accBytes k i).length = 4096 := by
  unfold State.accBytes
  rw [List.length_flatMap, List.map_congr_left (g := fun _ => 4) fun v _ => length_leBytes 4 v.toNat]
  rw [List.map_const', List.sum_replicate, State.accEls, List.length_map, List.length_range, smul_eq_mul]

theorem State.accEl_setAccEls (s : State) (k i : Nat) (xs : List (BitVec 32)) {j : Nat} (hj : j < xs.length) :
    (s.setAccEls k i xs).accEl k i j = xs.getD j 0 :=
  Tab.get_foldl_set_mem 0 (fun j => tileKey k i * 1024 + j) (fun j => xs.getD j 0) (List.mem_range.mpr hj)
    (fun _ _ he => Nat.add_left_cancel he) s.en.acc

/-- The elements of a tile that bytes give are those bytes again (R439, R441). -/
theorem State.accBytes_setAccEls (s : State) (k i : Nat) {d : List Byte} (hd : d.length = 4096) :
    (s.setAccEls k i (words32 d)).accBytes k i = d := by
  have hlen : (words32 d).length = 1024 := by simp [words32]
  have hel : ∀ j ∈ List.range 1024, leBytes 4 ((s.setAccEls k i (words32 d)).accEl k i j).toNat = (d.drop (4 * j)).take 4 := by
    intro j hj
    have hj' := List.mem_range.mp hj
    have hfour : ((d.drop (4 * j)).take 4).length = 4 := by
      rw [List.length_take, List.length_drop]
      omega
    have hword : (words32 d).getD j 0 = BitVec.ofNat 32 (leNat ((d.drop (4 * j)).take 4)) := by
      rw [List.getD_eq_getElem _ _ (by rwa [hlen])]
      simp [words32]
    have hlt := leNat_lt ((d.drop (4 * j)).take 4)
    have hback := leBytes_leNat ((d.drop (4 * j)).take 4)
    rw [hfour] at hlt hback
    rw [State.accEl_setAccEls _ _ _ _ (by rwa [hlen]), hword, BitVec.toNat_ofNat, Nat.mod_eq_of_lt (by simpa using hlt), hback]
  unfold State.accBytes State.accEls
  rw [List.flatMap_map, List.flatMap_congr hel, flatMap_pieces, List.take_of_length_le (by omega)]

/-- The bytes of a tile are those of its elements alone. -/
theorem State.accBytes_of_acc {s e : State} {k i : Nat} {d : List Byte} (h : e.en.acc = (s.setAccEls k i (words32 d)).en.acc) (hd : d.length = 4096) :
    e.accBytes k i = d := by
  have hsame : e.accBytes k i = (s.setAccEls k i (words32 d)).accBytes k i := by
    unfold State.accBytes State.accEls State.accEl
    rw [h]
  rw [hsame, State.accBytes_setAccEls s k i hd]

theorem accumulatorsInWindow : AccumulatorsInWindow := by
  intro f s hs k p i r hown hpend hin
  have hmid : ∀ {u : Instr}, ready u s = true → Midst (s.holdPart k p true) (winByte s) (s.holdPart k p true) := fun h =>
    .refl (plainBank_holdPart hs k p true) (Option.isSome_iff_exists.mpr ⟨_, ready_thread h⟩)
  refine ⟨fun h => ?spill, fun hdr h hhdr hgood => ?fill⟩
  case spill =>
    intro hd
    have hreach := (Midst.start h hs).reach hin (by omega) (need := { w := true }) rfl
    obtain ⟨u, hu, hend⟩ := (hmid h).bulkStore (plainBank_holdPart hs k p true) (r := r) (al := 4096) (d := s.accBytes k i)
      (by rw [State.length_accBytes]; exact hin) (by rw [State.length_accBytes]; omega) (by rw [State.length_accBytes]; omega)
    refine ⟨u.holdPart k p false, (accumulatorPartitions f s).2.1 p _ (.win s.core r.off.toNat) u rfl rfl h hown hpend ?_ hu, ?_⟩
    · unfold reachM
      rw [hreach]
    · exact fun a ha => hend.bytes a ha
  case fill =>
    have hstart := Midst.start h hs
    have hreach := hstart.reach hin (by omega) (need := { r := true }) rfl
    obtain ⟨u, hu, hend⟩ := (hmid h).readUnits (plainBank_holdPart hs k p true) (r := r) hin
      (by have := inSeg0_aligned hin; omega) 40 0 4096 (by omega) (by have := inSeg0_aligned hin; omega)
    rw [Nat.add_zero] at hu
    have hen : ∀ x, u.ownerAt k x = s.ownerAt k x := fun x => by
      unfold State.ownerAt
      rw [hend.en]
      rfl
    refine ⟨_, (accumulatorPartitions f s).2.2 p _ (.win s.core r.off.toNat) _ s u hdr rfl rfl h hown hpend hhdr hgood ?_ (hstart.wholeOk hin (by omega) rfl)
      (by rw [hstart.addrOf hin (by omega)]; exact hu), ?_, ?_, ?_⟩
    · unfold reachM
      rw [hreach]
    · rw [State.winBytes_eq]
      refine State.accBytes_of_acc (s := u) ?_ (length_bytesAt ..)
      simp only [State.holdPart, State.setOwner, State.setApp, State.setAccHdr, i, k]
    · exact Tab.get_set_same ..
    · refine (Tab.get_set_same ..).trans ?_
      rw [hen]

/-- Settles O22: a record that meets its checks is appended; the partition's instructions work on the accumulators, and on a window of plain data
line by line. -/
theorem matrixAndAccumulators : Obligations.MatrixAndAccumulators := ⟨matrixAppend, accumulatorPartitions, accumulatorsInWindow⟩

end Sys2Proof.Machine

/-! SUPPORT. Shapes: the order of the bytes that they touch, the bounds of their elements, and the bits that they write (R242 to R244). -/

namespace Sys2Proof.Machine

open Sys2Proof.Claims

/-! ### Rising lists -/

theorem mem_insertNat {n a : Nat} {l : List Nat} : a ∈ insertNat n l ↔ a = n ∨ a ∈ l := by
  induction l with
  | nil => simp [insertNat]
  | cons m l ih =>
    unfold insertNat
    split
    · simp
    · split
      · next h => simp [h]
      · rw [List.mem_cons, ih, List.mem_cons]
        tauto

theorem mem_sortNat {a : Nat} {l : List Nat} : a ∈ sortNat l ↔ a ∈ l := by
  induction l with
  | nil => simp [sortNat]
  | cons n l ih =>
    have hcons : sortNat (n :: l) = insertNat n (sortNat l) := rfl
    rw [hcons, mem_insertNat, ih, List.mem_cons]

theorem rising_insertNat {n : Nat} {l : List Nat} (h : l.Pairwise (· < ·)) : (insertNat n l).Pairwise (· < ·) := by
  induction l with
  | nil => simp [insertNat]
  | cons m l ih =>
    obtain ⟨hm, hl⟩ := List.pairwise_cons.mp h
    unfold insertNat
    split
    · next hlt =>
      refine List.pairwise_cons.mpr ⟨fun a ha => ?_, h⟩
      rcases List.mem_cons.mp ha with rfl | ha
      · exact hlt
      · exact hlt.trans (hm a ha)
    · split
      · exact h
      · refine List.pairwise_cons.mpr ⟨fun a ha => ?_, ih hl⟩
        rcases mem_insertNat.mp ha with rfl | ha
        · omega
        · exact hm a ha

theorem rising_sortNat (l : List Nat) : (sortNat l).Pairwise (· < ·) := by
  induction l with
  | nil => exact .nil
  | cons n l ih => exact rising_insertNat ih

theorem nodup_of_rising {l : List Nat} (h : l.Pairwise (· < ·)) : l.Nodup := h.imp fun hlt => Nat.ne_of_lt hlt

theorem mem_takeWhile_of_rising {a x : Nat} {l : List Nat} (hl : l.Pairwise (· < ·)) (ha : a ∈ l) (hlt : a < x) : a ∈ l.takeWhile (· < x) := by
  induction l with
  | nil => cases ha
  | cons y l ih =>
    obtain ⟨hy, hl⟩ := List.pairwise_cons.mp hl
    rcases List.mem_cons.mp ha with rfl | ha
    · simp [hlt]
    · simp [(hy a ha).trans hlt, ih hl ha]

theorem lt_of_mem_dropWhile {a x : Nat} {l : List Nat} (hl : l.Pairwise (· < ·)) (ha : a ∈ l.dropWhile (· ≤ x)) : x < a := by
  induction l with
  | nil => cases ha
  | cons y l ih =>
    obtain ⟨hy, hl⟩ := List.pairwise_cons.mp hl
    by_cases hyx : y ≤ x
    · exact ih hl (by simpa [hyx] using ha)
    · have ha : a ∈ y :: l := by simpa [hyx] using ha
      rcases List.mem_cons.mp ha with rfl | ha
      · omega
      · have := hy a ha
        omega

/-- Two rising lists are joined without loss. -/
theorem mem_mergeNat {a : Nat} {xs l : List Nat} (hl : l.Pairwise (· < ·)) : a ∈ mergeNat xs l ↔ a ∈ xs ∨ a ∈ l := by
  induction xs generalizing l with
  | nil => simp [mergeNat]
  | cons x xs ih =>
    have hsplit : a ∈ l ↔ a ∈ l.takeWhile (· < x) ∨ (a = x ∧ a ∈ l) ∨ a ∈ l.dropWhile (· ≤ x) := by
      constructor
      · intro ha
        rcases Nat.lt_trichotomy a x with hlt | rfl | hgt
        · exact .inl (mem_takeWhile_of_rising hl ha hlt)
        · exact .inr (.inl ⟨rfl, ha⟩)
        · rw [← List.takeWhile_append_dropWhile (p := (· ≤ x)) (l := l), List.mem_append] at ha
          exact .inr (.inr (ha.resolve_left fun hmem => absurd (List.mem_takeWhile_imp hmem) (by simpa using hgt)))
      · rintro (ha | ⟨-, ha⟩ | ha)
        · exact (List.takeWhile_sublist _).subset ha
        · exact ha
        · exact (List.dropWhile_sublist _).subset ha
    rw [mergeNat, List.mem_append, List.mem_cons, ih (hl.sublist (List.dropWhile_sublist _)), List.mem_cons, hsplit]
    tauto

/-- A rising list that fills a range is the range. -/
theorem eq_range'_of_rising {l : List Nat} (h : l.Pairwise (· < ·)) {lo : Nat} (hin : ∀ a ∈ l, lo ≤ a ∧ a < lo + l.length) :
    l = List.range' lo l.length := by
  induction l generalizing lo with
  | nil => rfl
  | cons x l ih =>
    obtain ⟨hx, hl⟩ := List.pairwise_cons.mp h
    have hlo := hin x (.head _)
    have htail := ih hl (lo := lo + 1) fun a ha => by
      have := hx a ha
      have := hin a (.tail _ ha)
      simp only [List.length_cons] at this
      omega
    have hhead : x = lo := by
      rcases l with _ | ⟨y, l⟩
      · simp only [List.length_cons, List.length_nil] at hlo
        omega
      · have hy : y = lo + 1 := by
          rw [List.length_cons, List.range'_succ] at htail
          exact (List.cons.inj htail).1
        have := hx y (.head _)
        omega
    rw [List.length_cons, List.range'_succ, ← htail, hhead]

/-! ### Tables whose keys rise -/

theorem Tab.get_filter_key {α : Type} (d : α) (t : Tab α) (p : Nat → Bool) (k : Nat) :
    Tab.get d (t.filter fun x => p x.1) k = if p k then Tab.get d t k else d := by
  induction t with
  | nil => simp [Tab.get]
  | cons x t ih =>
    obtain ⟨k', v⟩ := x
    by_cases hk : k' = k
    · subst hk
      cases hp : p k' <;> simp [hp, Tab.get, ih]
    · cases hp : p k' <;> simp [hp, Tab.get, hk, ih]

theorem Tab.get_of_not_mem {α : Type} (d : α) {t : Tab α} {k : Nat} (h : k ∉ t.map Prod.fst) : Tab.get d t k = d := by
  induction t with
  | nil => rfl
  | cons x t ih =>
    obtain ⟨k', v⟩ := x
    rw [List.map_cons, List.mem_cons, not_or] at h
    rw [Tab.get, if_neg (Ne.symm h.1), ih h.2]

theorem Tab.get_getElem {α : Type} (d : α) {t : Tab α} (h : (t.map Prod.fst).Nodup) {i : Nat} (hi : i < t.length) :
    Tab.get d t t[i].1 = t[i].2 := by
  induction t generalizing i with
  | nil => cases hi
  | cons x t ih =>
    obtain ⟨k', v⟩ := x
    rw [List.map_cons, List.nodup_cons] at h
    cases i with
    | zero => simp [Tab.get]
    | succ i =>
      have hi' : i < t.length := Nat.lt_of_succ_lt_succ hi
      have hne : k' ≠ t[i].1 := fun he => h.1 (List.mem_map.mpr ⟨t[i], List.getElem_mem hi', he.symm⟩)
      simp only [List.getElem_cons_succ, Tab.get]
      rw [if_neg hne, ih h.2]

/-! ### Bits over bytes -/

/-- The bytes `m` after bits are written into them. -/
def mergeInto (m : Nat → Byte) (vals : Tab BitsOf) (a : Nat) : Byte := mergeByte (m a) (Tab.get (0, 0) vals a)

theorem mergeByte_none (x : Byte) : mergeByte x (0, 0) = x := by
  have hx : x.toNat &&& 255 = x.toNat := by
    rw [show 255 = 2 ^ 8 - 1 by rfl, Nat.and_two_pow_sub_one_eq_mod]
    exact Nat.mod_eq_of_lt x.isLt
  simp [mergeByte, hx]

theorem mergeInto_nil (m : Nat → Byte) : mergeInto m [] = m := funext fun _ => mergeByte_none _

theorem mergeInto_of_not_mem (m : Nat → Byte) {vals : Tab BitsOf} {a : Nat} (h : a ∉ vals.map Prod.fst) : mergeInto m vals a = m a := by
  rw [mergeInto, Tab.get_of_not_mem _ h, mergeByte_none]

/-- Bits are written group by group, each group once: a group is of one line, or of one beat. -/
theorem mergeInto_group (m : Nat → Byte) (vals : Tab BitsOf) (q : Nat → Nat) {done : List Nat} {g : Nat} (h : g ∉ done) :
    mergeInto (mergeInto m (vals.filter fun p => decide (q p.1 ∈ done))) (vals.filter fun p => decide (q p.1 = g)) =
      mergeInto m (vals.filter fun p => decide (q p.1 ∈ done ++ [g])) := by
  funext a
  have hold := Tab.get_filter_key (0, 0) vals (fun k => decide (q k ∈ done)) a
  have hnew := Tab.get_filter_key (0, 0) vals (fun k => decide (q k = g)) a
  have hall := Tab.get_filter_key (0, 0) vals (fun k => decide (q k ∈ done ++ [g])) a
  unfold mergeInto
  rw [hold, hnew, hall]
  simp only [decide_eq_true_eq, List.mem_append, List.mem_singleton]
  by_cases hdone : q a ∈ done
  · have hg : q a ≠ g := fun he => h (he ▸ hdone)
    simp [hdone, hg, mergeByte_none]
  · by_cases hg : q a = g
    · simp [hg, h, mergeByte_none]
    · simp [hdone, hg, mergeByte_none]

/-! ### Bounds of a shape (R243) -/

theorem foldl_mul (c : Nat) (es : List Nat) : es.foldl (· * ·) c = c * es.foldl (· * ·) 1 := by
  induction es generalizing c with
  | nil => simp
  | cons e es ih => rw [List.foldl_cons, ih, List.foldl_cons, ih (1 * e), Nat.one_mul, Nat.mul_assoc]

/-- The step sums of one dimension lie between 0 and its farthest. -/
theorem dimension_bounds {e j : Nat} (h : j < e) (s : Int) :
    min 0 (((e : Int) - 1) * s) ≤ (j : Int) * s ∧ (j : Int) * s ≤ max 0 (((e : Int) - 1) * s) := by
  have hj : (j : Int) ≤ (e : Int) - 1 := by omega
  have h0 : (0 : Int) ≤ j := Int.natCast_nonneg j
  rcases le_total 0 s with hs | hs
  · exact ⟨(min_le_left _ _).trans (mul_nonneg h0 hs), (mul_le_mul_of_nonneg_right hj hs).trans (le_max_right _ _)⟩
  · exact ⟨(min_le_right _ _).trans (mul_le_mul_of_nonpos_right hj hs), (mul_nonpos_of_nonneg_of_nonpos h0 hs).trans (le_max_left _ _)⟩

/-- The stride sums of a shape lie between its lowest and its highest. -/
theorem strideSum_bounds : ∀ (es : List Nat) (ss : List Int) (k : Nat) (lo hi : Int), k < es.foldl (· * ·) 1 →
    let r := (es.zip ss).foldl (fun p (e, s) =>
      let d := ((e : Int) - 1) * s
      if d < 0 then (p.1 + d, p.2) else (p.1, p.2 + d)) ((lo, hi) : Int × Int)
    r.1 - lo ≤ strideSum es ss k ∧ strideSum es ss k ≤ r.2 - hi := by
  intro es
  induction es with
  | nil =>
    intro ss k lo hi _
    simp [strideSum]
  | cons e es ih =>
    intro ss k lo hi hk
    cases ss with
    | nil => simp [strideSum]
    | cons s ss =>
      rw [List.foldl_cons, foldl_mul, Nat.one_mul] at hk
      have hpos : 0 < e := Nat.pos_of_ne_zero fun he => by simp [he] at hk
      have hdim := dimension_bounds (Nat.mod_lt k hpos) s
      have hrest := fun lo hi => ih ss (k / e) lo hi (Nat.div_lt_of_lt_mul hk)
      dsimp only at hrest ⊢
      rw [List.zip_cons_cons, List.foldl_cons, strideSum]
      split
      · next hneg =>
        have := hrest (lo + ((e : Int) - 1) * s) hi
        rw [min_eq_right hneg.le, max_eq_left hneg.le] at hdim
        constructor <;> linarith
      · next hnn =>
        have := hrest lo (hi + ((e : Int) - 1) * s)
        rw [min_eq_left (not_lt.mp hnn), max_eq_right (not_lt.mp hnn)] at hdim
        constructor <;> linarith

/-- The bytes of an element lie in the shape's span (R243). -/
theorem Shape.byte_lt {h : Shape} {size k i : Nat} (hlo : 0 ≤ h.span.1) (hhi : h.span.2 < size) (hk : k < h.count)
    (hi : i < (h.bitAt k % 8 + h.w + 7) / 8) : h.bitAt k / 8 + i < size := by
  obtain ⟨h1, h2⟩ := strideSum_bounds h.exts h.strs k 0 0 hk
  change h.lowHigh.1 - 0 ≤ _ at h1
  change _ ≤ h.lowHigh.2 - 0 at h2
  have hmul1 : (h.w : Int) * h.lowHigh.1 ≤ h.w * strideSum h.exts h.strs k := mul_le_mul_of_nonneg_left (by omega) (Int.natCast_nonneg _)
  have hmul2 : (h.w : Int) * strideSum h.exts h.strs k ≤ h.w * h.lowHigh.2 := mul_le_mul_of_nonneg_left (by omega) (Int.natCast_nonneg _)
  have hlo' : 0 ≤ (((8 * h.base : Nat) : Int) + h.w * h.lowHigh.1) / 8 := hlo
  have hhi' : (((8 * h.base : Nat) : Int) + h.w * h.lowHigh.2 + h.w - 1) / 8 < size := hhi
  have hbit : ((h.bitAt k : Nat) : Int) = ((8 * h.base : Nat) : Int) + h.w * strideSum h.exts h.strs k := by
    unfold Shape.bitAt
    omega
  omega

theorem mem_touched {h : Shape} {a : Nat} : a ∈ h.touched ↔ ∃ k < h.count, ∃ i < (h.bitAt k % 8 + h.w + 7) / 8, a = h.bitAt k / 8 + i := by
  unfold Shape.touched
  simp only [mem_sortNat, List.mem_flatMap, List.mem_map, List.mem_range, eq_comm]

theorem rising_mergeNat {xs l : List Nat} (hx : xs.Pairwise (· < ·)) (hl : l.Pairwise (· < ·)) : (mergeNat xs l).Pairwise (· < ·) := by
  induction xs generalizing l with
  | nil => exact hl
  | cons x xs ih =>
    obtain ⟨hfirst, hx⟩ := List.pairwise_cons.mp hx
    have hrest := hl.sublist (List.dropWhile_sublist (p := (· ≤ x)))
    have habove : ∀ a ∈ l.dropWhile (· ≤ x), x < a := fun a ha => lt_of_mem_dropWhile hl ha
    rw [mergeNat]
    refine List.pairwise_append.mpr ⟨hl.sublist (List.takeWhile_sublist _), List.pairwise_cons.mpr ⟨fun a ha => ?_, ih hx hrest⟩, fun a ha b hb => ?_⟩
    · rcases (mem_mergeNat hrest).mp ha with ha | ha
      · exact hfirst a ha
      · exact habove a ha
    · have hax : a < x := by simpa using List.mem_takeWhile_imp ha
      rcases List.mem_cons.mp hb with rfl | hb
      · exact hax
      · rcases (mem_mergeNat hrest).mp hb with hb | hb
        · exact hax.trans (hfirst b hb)
        · exact hax.trans (habove b hb)

theorem rising_touchedBy (hs : List Shape) : (touchedBy hs).Pairwise (· < ·) := by
  unfold touchedBy
  induction hs.filter fun h => !h.q with
  | nil => exact .nil
  | cons h hs ih => exact rising_mergeNat (rising_sortNat _) ih

theorem mem_touchedBy {hs : List Shape} {a : Nat} : a ∈ touchedBy hs ↔ ∃ h ∈ hs, h.q = false ∧ a ∈ h.touched := by
  induction hs with
  | nil => simp [touchedBy]
  | cons h hs ih =>
    cases hq : h.q with
    | true =>
      have hskip : touchedBy (h :: hs) = touchedBy hs := by simp [touchedBy, hq]
      rw [hskip, ih]
      simp [hq]
    | false =>
      have hjoin : touchedBy (h :: hs) = mergeNat h.touched (touchedBy hs) := by simp [touchedBy, hq]
      rw [hjoin, mem_mergeNat (rising_touchedBy hs), ih]
      simp [hq]

/-! ### The bits of a destination (R243) -/

theorem Tab.mem_keys_put {α : Type} {t : Tab α} {k a : Nat} {v : α} : a ∈ (Tab.put t k v).map Prod.fst ↔ a = k ∨ a ∈ t.map Prod.fst := by
  induction t with
  | nil => simp [Tab.put]
  | cons x t ih =>
    obtain ⟨k', v'⟩ := x
    unfold Tab.put
    split
    · next he => simp [he]
    · split
      · simp
      · rw [List.map_cons, List.mem_cons, ih, List.map_cons, List.mem_cons]
        tauto

theorem Tab.rising_put {α : Type} {t : Tab α} {k : Nat} {v : α} (h : (t.map Prod.fst).Pairwise (· < ·)) :
    ((Tab.put t k v).map Prod.fst).Pairwise (· < ·) := by
  induction t with
  | nil => simp [Tab.put]
  | cons x t ih =>
    obtain ⟨k', v'⟩ := x
    obtain ⟨hfirst, hrest⟩ := List.pairwise_cons.mp h
    unfold Tab.put
    split
    · next he => exact he ▸ h
    · split
      · next hlt =>
        refine List.pairwise_cons.mpr ⟨fun a ha => ?_, h⟩
        rcases List.mem_cons.mp ha with rfl | ha
        · exact hlt
        · exact hlt.trans (hfirst a ha)
      · refine List.pairwise_cons.mpr ⟨fun a ha => ?_, ih hrest⟩
        rcases Tab.mem_keys_put.mp ha with rfl | ha
        · show k' < a
          omega
        · exact hfirst a ha

theorem joinBits_keys (l : List (Nat × BitsOf)) (t : Tab BitsOf) (h : (t.map Prod.fst).Pairwise (· < ·)) :
    ((joinBits t l).map Prod.fst).Pairwise (· < ·) ∧ ∀ a ∈ (joinBits t l).map Prod.fst, a ∈ l.map Prod.fst ∨ a ∈ t.map Prod.fst := by
  induction l generalizing t with
  | nil => exact ⟨h, fun a ha => .inr ha⟩
  | cons x l ih =>
    obtain ⟨hrise, hmem⟩ := ih _ (Tab.rising_put (k := x.1) h)
    refine ⟨hrise, fun a ha => ?_⟩
    rcases hmem a ha with ha | ha
    · exact .inl (.tail _ ha)
    · rcases Tab.mem_keys_put.mp ha with rfl | ha
      · exact .inl (.head _)
      · exact .inr ha

/-- A destination's bits stand under rising addresses, each of a byte that one of its elements touches. -/
theorem Shape.bitsOf_keys (h : Shape) (codes : List Nat) : ((h.bitsOf codes).map Prod.fst).Pairwise (· < ·) ∧
    ∀ a ∈ (h.bitsOf codes).map Prod.fst, ∃ k < codes.length, ∃ i < (h.bitAt k % 8 + h.w + 7) / 8, a = h.bitAt k / 8 + i := by
  unfold Shape.bitsOf
  refine List.foldlRecOn (motive := fun t : Tab BitsOf => (t.map Prod.fst).Pairwise (· < ·) ∧
    ∀ a ∈ t.map Prod.fst, ∃ k < codes.length, ∃ i < (h.bitAt k % 8 + h.w + 7) / 8, a = h.bitAt k / 8 + i) _ _ ⟨.nil, nofun⟩ ?_
  rintro t ⟨hrise, hmem⟩ ⟨c, k⟩ hck
  have hk : k < codes.length := List.mem_range.mp (List.of_mem_zip hck).2
  obtain ⟨hrise', hmem'⟩ := joinBits_keys (elemBits (h.bitAt k) h.w c) t hrise
  refine ⟨hrise', fun a ha => ?_⟩
  rcases hmem' a ha with ha | ha
  · obtain ⟨x, hx, rfl⟩ := List.mem_map.mp ha
    obtain ⟨i, hi, rfl⟩ := List.mem_map.mp hx
    exact ⟨k, hk, i, List.mem_range.mp hi, rfl⟩
  · exact hmem a ha

end Sys2Proof.Machine

/-! SUPPORT. The line units of vector instructions in a window of plain data (R181, R182, R243, R244, R406). -/

namespace Sys2Proof.Machine

open Sys2Proof.Claims

namespace Midst

variable {s t : State} {m : Nat → Byte}

/-- The words of a line unit answer RETURN, and the unit works on its own line (R176, R181). -/
theorem lineLook (h : Midst s m t) (hs : PlainBank s) (kind : Nat) (need : Need) (touched : List Nat) :
    ∃ u, Machine.lineLook kind need t touched = .ok (.own ((sortNat (touched.map (· / 8))).map fun w => (w, 0)), u) ∧ Midst s m u ∧
      u.slot.unit = t.slot.unit := by
  have hp := h.pin
  have hu := hp.startAt (Ref.mk 0 (touched.headD 0 : Nat))
  refine ⟨_, ?_, hu, ?_⟩
  · have hnone : ∀ me, (t.pin.startAt (Ref.mk 0 (touched.headD 0 : Nat))).2.2.parkedAt me = none := fun me => by
      unfold State.parkedAt
      rw [hu.slot.addr, Option.map_none, ite_self]
    unfold Machine.lineLook
    simp only [hnone, Option.isSome_none, Bool.false_eq_true, if_false]
    refine M.bind_ok (hu.busyPast hs _) ?_
    rw [hu.core, hu.thold, hu.unitLook hs]
  · rw [hp.startAt_eq, State.slot_modSlot]
    exact t.unit_pin

/-- A line unit that reads returns its line (R181). -/
theorem lineRd (h : Midst s m t) (hs : PlainBank s) {line : Nat} {touched : List Nat} (hne : touched ≠ []) (hline : ∀ a ∈ touched, a / 128 = line)
    (hend : line * 128 + 128 ≤ s.winSize s.thr.hold) :
    ∃ u, Machine.lineRd t line touched = .ok (bytesAt m (line * 128) 128, u) ∧ Midst s m u := by
  have hfirst : touched.headD 0 / 128 = line := by
    cases touched with
    | nil => exact absurd rfl hne
    | cons a l => exact hline a (.head _)
  have hlast : touched.getLastD 0 / 128 = line := by
    rw [List.getLastD_eq_getLast?, List.getLast?_eq_some_getLast hne]
    exact hline _ (List.getLast_mem hne)
  unfold Machine.lineRd
  refine h.unitOnce_bind (fun u => (bytesAt m (line * 128) 128, u)) (d := bytesAt m (line * 128) 128) (fun v hv => ?_) fun u hu => ⟨u, ?_, hu⟩
  · obtain ⟨w, hw, hmid, hunit⟩ := hv.lineLook hs kVR { r := true } touched
    refine ⟨w.busyOff (((sortNat (touched.map (· / 8))).map fun w => (w, 0)).map (·.1)), M.bind_ok hw ?_, hmid.busyOff _, ?_⟩
    · dsimp only
      rw [hmid.core, hmid.thold, hmid.unitBad, if_neg Bool.false_ne_true, State.retag_plain, hmid.unitRead hend]
    · rw [State.unit_busyOff, hunit]
  · dsimp only
    rw [length_bytesAt, if_pos (by omega)]

end Midst

/-! ### Writes of bits (R70, R243) -/

/-- The bits of one beat are written (R70). -/
def State.mergeBeat (core hold rgn : Nat) (vals : List (Nat × BitsOf)) (s : State) (b : Nat) : State :=
  let vs := vals.filter fun (a, _) => a / 32 = b
  if vs.length = 32 then
    s.winBeat core hold (32 * b) (vs.map fun (a, p) => mergeByte ((s.winBytes core hold a 1).headD 0) p) rgn (Ref.mk 0 (32 * b : Nat)).word
  else if s.winBad core hold (32 * b) then s.winBeat core hold (32 * b) [] rgn (Ref.mk 0 (32 * b : Nat)).word
  else vs.foldl (fun s (a, p) => s.winPut core hold a [mergeByte ((s.winBytes core hold a 1).headD 0) p]) s

theorem State.winMerge_eq (s : State) (core hold rgn : Nat) (vals : List (Nat × BitsOf)) :
    s.winMerge core hold rgn vals = (sortNat (vals.map fun (a, _) => a / 32)).foldl (State.mergeBeat core hold rgn vals) s := rfl

theorem State.mergeBeat_slot (core hold rgn : Nat) (vals : List (Nat × BitsOf)) (s : State) (b : Nat) :
    (State.mergeBeat core hold rgn vals s b).slot = s.slot := by
  unfold State.mergeBeat
  dsimp only
  split
  · exact (State.winBeat_wrote ..).slot
  · split
    · exact (State.winBeat_wrote ..).slot
    · refine foldl_keeps State.slot (fun s a => ?_) _ s
      exact (State.winPut_wrote ..).slot

theorem State.winMerge_slot (s : State) (core hold rgn : Nat) (vals : List (Nat × BitsOf)) : (s.winMerge core hold rgn vals).slot = s.slot := by
  rw [State.winMerge_eq]
  exact foldl_keeps State.slot (State.mergeBeat_slot core hold rgn vals) _ s

theorem filter_sortNat (vals : Tab BitsOf) (q : Nat → Nat) :
    (vals.filter fun p => decide (q p.1 ∈ sortNat (vals.map fun x => q x.1))) = vals :=
  List.filter_eq_self.mpr fun _ hp => decide_eq_true (mem_sortNat.mpr (List.mem_map_of_mem hp))

namespace Midst

variable {s t : State} {m : Nat → Byte}

theorem headByte (h : Midst s m t) {a : Nat} (ha : a < s.winSize s.thr.hold) : (t.winBytes s.core s.thr.hold a 1).headD 0 = m a := by
  have := h.winBytes (off := a) (n := 1) (by omega)
  rw [h.thold] at this
  rw [this]
  rfl

/-- Bytes written one by one. -/
theorem putBytes : ∀ {vs : Tab BitsOf} {m : Nat → Byte} {t : State}, Midst s m t → (vs.map Prod.fst).Nodup →
    (∀ a ∈ vs.map Prod.fst, a < s.winSize s.thr.hold) → Midst s (mergeInto m vs)
      (vs.foldl (fun s' (a, p) => s'.winPut s.core s.thr.hold a [mergeByte ((s'.winBytes s.core s.thr.hold a 1).headD 0) p]) t)
  | [], m, t, h, _, _ => by
    rw [mergeInto_nil]
    exact h
  | (a, p) :: vs, m, t, h, hnodup, hin => by
    rw [List.map_cons, List.nodup_cons] at hnodup
    have ha : a < s.winSize s.thr.hold := hin a (.head _)
    have hput := h.winPut (off := a) (d := [mergeByte (m a) p]) (by simpa using ha)
    have hrest := putBytes hput hnodup.2 fun b hb => hin b (.tail _ hb)
    have hover : mergeInto (overlay m a [mergeByte (m a) p]) vs = mergeInto m ((a, p) :: vs) := by
      funext b
      by_cases hb : a = b
      · subst hb
        rw [mergeInto_of_not_mem _ hnodup.1]
        simp [overlay, mergeInto, Tab.get]
      · have hout : overlay m a [mergeByte (m a) p] b = m b := if_neg (by simp only [List.length_singleton]; omega)
        simp [mergeInto, hout, Tab.get, hb]
    rw [← hover, List.foldl_cons]
    dsimp only
    rw [h.headByte ha]
    exact hrest

theorem overlay_beat {m : Nat → Byte} {vs : Tab BitsOf} {lo : Nat} (hkeys : vs.map Prod.fst = List.range' lo 32) (hfull : vs.length = 32) :
    overlay m lo (vs.map fun x => mergeByte (m x.1) x.2) = mergeInto m vs := by
  funext a
  unfold overlay
  rw [List.length_map, hfull]
  split
  · next hin =>
    have hi : a - lo < vs.length := by omega
    have hkey : vs[a - lo].1 = a := by
      have hget : (vs.map Prod.fst)[a - lo]'(by rwa [List.length_map]) = lo + (a - lo) := by
        simp only [hkeys]
        simp
      rw [List.getElem_map] at hget
      omega
    have hval := Tab.get_getElem (0, 0) (by rw [hkeys]; exact List.nodup_range') hi
    rw [hkey] at hval
    rw [List.getD_eq_getElem _ _ (by rwa [List.length_map]), List.getElem_map, mergeInto, hval, hkey]
  · next hout =>
    refine (mergeInto_of_not_mem m ?_).symm
    rw [hkeys, List.mem_range'_1]
    omega

theorem mergeBeat (h : Midst s m t) {vals : Tab BitsOf} (hrise : (vals.map Prod.fst).Pairwise (· < ·))
    (hin : ∀ a ∈ vals.map Prod.fst, a < s.winSize s.thr.hold) (rgn b : Nat) :
    Midst s (mergeInto m (vals.filter fun p => decide (p.1 / 32 = b))) (State.mergeBeat s.core s.thr.hold rgn vals t b) := by
  generalize hvs : (vals.filter fun p => decide (p.1 / 32 = b)) = vs
  have hsub : vs.Sublist vals := hvs ▸ List.filter_sublist
  have hriseVs : (vs.map Prod.fst).Pairwise (· < ·) := hrise.sublist (hsub.map Prod.fst)
  have hinVs : ∀ a ∈ vs.map Prod.fst, a < s.winSize s.thr.hold := fun a ha => hin a ((hsub.map Prod.fst).subset ha)
  unfold State.mergeBeat
  dsimp only
  rw [hvs]
  split
  · next hfull =>
    have hbeat : ∀ a ∈ vs.map Prod.fst, a / 32 = b := by
      intro a ha
      obtain ⟨x, hx, rfl⟩ := List.mem_map.mp ha
      rw [← hvs] at hx
      exact of_decide_eq_true (List.mem_filter.mp hx).2
    have hkeys : vs.map Prod.fst = List.range' (32 * b) 32 := by
      have := eq_range'_of_rising hriseVs (lo := 32 * b) fun a ha => by
        have := hbeat a ha
        rw [List.length_map, hfull]
        omega
      rwa [List.length_map, hfull] at this
    have hend := hinVs (32 * b + 31) (by rw [hkeys]; simp)
    have hdata : (vs.map fun (a, p) => mergeByte ((t.winBytes s.core s.thr.hold a 1).headD 0) p) = vs.map fun x => mergeByte (m x.1) x.2 :=
      List.map_congr_left fun x hx => congrArg (mergeByte · x.2) (h.headByte (hinVs x.1 (List.mem_map_of_mem hx)))
    have hlen : (vs.map fun x => mergeByte (m x.1) x.2).length = 32 := by rw [List.length_map, hfull]
    rw [hdata, ← overlay_beat hkeys hfull]
    exact h.winBeat (by rw [hlen]; omega) rgn _
  · rw [h.good, if_neg Bool.false_ne_true]
    exact h.putBytes (nodup_of_rising hriseVs) hinVs

/-- Bits written group by group are all written (R70, R181). -/
theorem groups {vals : Tab BitsOf} {q : Nat → Nat} {step : State → Nat → State} {m : Nat → Byte}
    (hstep : ∀ m t g, Midst s m t → Midst s (mergeInto m (vals.filter fun p => decide (q p.1 = g))) (step t g)) : ∀ {l done : List Nat} {t : State},
    Midst s (mergeInto m (vals.filter fun p => decide (q p.1 ∈ done))) t → (done ++ l).Nodup →
    Midst s (mergeInto m (vals.filter fun p => decide (q p.1 ∈ done ++ l))) (l.foldl step t)
  | [], done, t, h, _ => by rwa [List.append_nil]
  | g :: l, done, t, h, hnodup => by
    have hg : g ∉ done := fun hmem => List.disjoint_of_nodup_append hnodup hmem (.head _)
    have hnext := hstep _ t g h
    rw [mergeInto_group m vals q hg] at hnext
    have hrest := groups hstep hnext (l := l) (by rwa [List.append_assoc])
    rwa [List.append_assoc] at hrest

theorem winMerge (h : Midst s m t) {vals : Tab BitsOf} (hrise : (vals.map Prod.fst).Pairwise (· < ·))
    (hin : ∀ a ∈ vals.map Prod.fst, a < s.winSize s.thr.hold) (rgn : Nat) :
    Midst s (mergeInto m vals) (t.winMerge s.core s.thr.hold rgn vals) := by
  have hfold := groups (vals := vals) (q := (· / 32)) (m := m) (step := State.mergeBeat s.core s.thr.hold rgn vals) (done := [])
    (l := sortNat (vals.map fun x => x.1 / 32)) (t := t) (fun m t g hmid => hmid.mergeBeat hrise hin rgn g)
    (by simpa [mergeInto_nil] using h) (by simpa using nodup_of_rising (rising_sortNat _))
  rw [List.nil_append, filter_sortNat vals (· / 32)] at hfold
  exact hfold

/-- A line unit that writes merges its bits into the bytes of its line (R181, R243). -/
theorem lineWr (h : Midst s m t) (hs : PlainBank s) {vals : Tab BitsOf} (hrise : (vals.map Prod.fst).Pairwise (· < ·))
    (hin : ∀ a ∈ vals.map Prod.fst, a < s.winSize s.thr.hold) : ∃ u, Machine.lineWr t vals = .ok u ∧ Midst s (mergeInto m vals) u := by
  unfold Machine.lineWr
  refine h.unitOnce_bind (fun u => u) (d := []) (fun v hv => ?_) fun u hu => ⟨u, rfl, hu⟩
  obtain ⟨w, hw, hmid, hunit⟩ := hv.destUnit.lineLook hs kVW { w := true } (vals.map (·.1))
  have hlive : (vals.filter fun (a, _) => !dropped ((sortNat ((vals.map (·.1)).map (· / 8))).map fun w => (w, 0)) (a / 8)) = vals :=
    List.filter_eq_self.mpr fun p _ => by simp [dropped_plain]
  have hmerge := hmid.winMerge hrise hin w.thr.rgn
  refine ⟨_, M.bind_ok hw ?_, hmerge.busyOff (((sortNat ((vals.map (·.1)).map (· / 8))).map fun w => (w, 0)).map (·.1)), ?_⟩
  · dsimp only
    rw [hmid.core, hmid.thold, hlive, State.retag_plain]
  · rw [State.unit_busyOff, State.winMerge_slot, hunit]
    unfold State.destUnit
    rw [State.slot_modSlot]

theorem writeLines (hs : PlainBank s) {vals : Tab BitsOf} {m : Nat → Byte} (hrise : (vals.map Prod.fst).Pairwise (· < ·))
    (hin : ∀ a ∈ vals.map Prod.fst, a < s.winSize s.thr.hold) : ∀ {l done : List Nat} {t : State},
    Midst s (mergeInto m (vals.filter fun p => decide (p.1 / 128 ∈ done))) t → (done ++ l).Nodup →
    ∃ u, Machine.writeLines t vals l = .ok u ∧ Midst s (mergeInto m (vals.filter fun p => decide (p.1 / 128 ∈ done ++ l))) u
  | [], done, t, h, _ => ⟨t, rfl, by rwa [List.append_nil]⟩
  | g :: l, done, t, h, hnodup => by
    have hg : g ∉ done := fun hmem => List.disjoint_of_nodup_append hnodup hmem (.head _)
    have hsub : (vals.filter fun p => decide (p.1 / 128 = g)).Sublist vals := List.filter_sublist
    obtain ⟨u, hu, hmid⟩ := h.lineWr hs (hrise.sublist (hsub.map Prod.fst)) fun a ha => hin a ((hsub.map Prod.fst).subset ha)
    rw [mergeInto_group m vals (· / 128) hg] at hmid
    obtain ⟨v, hv, hlast⟩ := writeLines hs hrise hin hmid (l := l) (by rwa [List.append_assoc])
    rw [List.append_assoc] at hlast
    exact ⟨v, M.bind_ok hu hv, hlast⟩

/-- The lines of a shape are read, each with its bytes (R181). -/
theorem readLines (hs : PlainBank s) {touched : List Nat} (hin : ∀ a ∈ touched, a < s.winSize s.thr.hold) : ∀ {l : List Nat} {t : State},
    Midst s m t → (∀ x ∈ l, ∃ a ∈ touched, a / 128 = x) →
    ∃ u, Machine.readLines t touched l = .ok (l.map fun x => (x, bytesAt m (x * 128) 128), u) ∧ Midst s m u
  | [], t, h, _ => ⟨t, rfl, h⟩
  | x :: l, t, h, hl => by
    obtain ⟨a, ha, hax⟩ := hl x (.head _)
    have hne : (touched.filter fun a => decide (a / 128 = x)) ≠ [] :=
      List.ne_nil_of_mem (List.mem_filter.mpr ⟨ha, decide_eq_true hax⟩)
    have hsize : x * 128 + 128 ≤ s.winSize s.thr.hold := by
      have := hin a ha
      unfold State.winSize at this ⊢
      omega
    obtain ⟨u, hu, hmid⟩ := h.lineRd hs (line := x) hne (fun b hb => of_decide_eq_true (List.mem_filter.mp hb).2) hsize
    obtain ⟨v, hv, hlast⟩ := readLines hs hin hmid fun y hy => hl y (.tail _ hy)
    exact ⟨v, M.bind_ok hu (M.bind_ok hv rfl), hlast⟩

end Midst

/-! ### Reads and writes of shapes (R243, R244) -/

/-- The elements of a shape that stands in memory lie in the window. -/
def Shape.Inside (size : Nat) (h : Shape) : Prop := h.q = false → h.count ≠ 0 → 0 ≤ h.span.1 ∧ h.span.2 < size

theorem Shape.Inside.touched_lt {size : Nat} {h : Shape} (hin : h.Inside size) (hq : h.q = false) {a : Nat} (ha : a ∈ h.touched) : a < size := by
  obtain ⟨k, hk, i, hi, rfl⟩ := mem_touched.mp ha
  obtain ⟨hlo, hhi⟩ := hin hq (by omega)
  exact h.byte_lt hlo hhi hk hi

theorem touchedBy_lt {size : Nat} {hs : List Shape} (hin : ∀ h ∈ hs, h.Inside size) {a : Nat} (ha : a ∈ touchedBy hs) : a < size := by
  obtain ⟨h, hh, hq, hmem⟩ := mem_touchedBy.mp ha
  exact (hin h hh).touched_lt hq hmem

/-- Lines that were read give their bytes. -/
theorem byteOf_lines {m : Nat → Byte} {l : List Nat} {a : Nat} (h : a / 128 ∈ l) : byteOf (l.map fun x => (x, bytesAt m (x * 128) 128)) a = m a := by
  have hfind : (l.map fun x => (x, bytesAt m (x * 128) 128)).find? (fun x => decide (x.1 = a / 128)) =
      some (a / 128, bytesAt m (a / 128 * 128) 128) := by
    induction l with
    | nil => cases h
    | cons x l ih =>
      by_cases hx : x = a / 128
      · simp [hx]
      · simpa [hx] using ih ((List.mem_cons.mp h).resolve_left (Ne.symm hx))
  unfold byteOf
  refine (congrArg (fun o : Option (Nat × List Byte) => (o.map fun x => x.2.getD (a % 128) 0).getD 0) hfind).trans ?_
  have hmod : a % 128 < 128 := Nat.mod_lt _ (by decide)
  simp only [Option.map_some, Option.getD_some]
  rw [List.getD_eq_getElem _ _ (by simpa using hmod)]
  simp only [bytesAt, List.getElem_map, List.getElem_range]
  congr 1
  omega

/-- The codes of shapes are those of the bytes that they touch. -/
theorem State.codesOf_congr (s : State) {byte byte' : Nat → Byte} : ∀ (hs before : List Shape),
    (∀ h ∈ hs, h.q = false → ∀ a ∈ h.touched, byte a = byte' a) → s.codesOf byte before hs = s.codesOf byte' before hs
  | [], _, _ => rfl
  | h :: hs, before, heq => by
    have hhead : (List.range h.count).map (if h.q then packedCode h.w
        (if h.q then (headVals (s.qIn s.core s.thr.hold h.base)).drop (entriesOf h.base before) else []) else h.codeAt byte) =
        (List.range h.count).map (if h.q then packedCode h.w
        (if h.q then (headVals (s.qIn s.core s.thr.hold h.base)).drop (entriesOf h.base before) else []) else h.codeAt byte') := by
      cases hq : h.q with
      | true => rfl
      | false =>
        refine List.map_congr_left fun k hk => ?_
        show h.codeAt byte k = h.codeAt byte' k
        unfold Shape.codeAt
        dsimp only
        rw [List.map_congr_left fun i hi => heq h (.head _) hq _
          (mem_touched.mpr ⟨k, List.mem_range.mp hk, i, List.mem_range.mp hi, rfl⟩)]
    unfold State.codesOf
    dsimp only
    rw [hhead, State.codesOf_congr s hs (before ++ [h]) fun g hg => heq g (.tail _ hg)]

namespace Midst

variable {s t : State} {m : Nat → Byte}

section Queues

variable (h : Midst s m t)
include h

theorem hcAt (core hold : Nat) : t.hcAt core hold = s.hcAt core hold := by
  unfold State.hcAt
  rw [h.hc]

theorem qIn (core hold q : Nat) : t.qIn core hold q = s.qIn core hold q := by
  unfold State.qIn
  rw [h.sq, h.hcAt]

theorem qOut (core hold q : Nat) : t.qOut core hold q = s.qOut core hold q := h.qIn ..

theorem shapesGo (d srcs : List Shape) : t.shapesGo d srcs = s.shapesGo d srcs := by
  unfold State.shapesGo
  simp only [h.heldElse, h.core, h.thold, h.qIn, h.qOut]

theorem codesOf (byte : Nat → Byte) : ∀ before hs, t.codesOf byte before hs = s.codesOf byte before hs := by
  intro before hs
  induction hs generalizing before with
  | nil => rfl
  | cons g hs ih =>
    unfold State.codesOf
    dsimp only
    rw [ih, h.core, h.thold, h.qIn]

end Queues

/-- The codes of the source shapes are read (R243, R244). -/
theorem readShapes (h : Midst s m t) (hs : PlainBank s) {d srcs : List Shape} (hgo : s.shapesGo d srcs = true)
    (hin : ∀ g ∈ srcs, g.Inside (s.winSize s.thr.hold)) (vu : Bool) :
    ∃ u, Machine.readShapes t d srcs vu = .ok (s.codesOf m [] srcs, u) ∧ Midst s m u := by
  have hhold := h.holdOn ((srcs.filter Shape.q).map (popKey ·.base) ++ (d.filter Shape.q).map (pushKey ·.base))
  have hbusy := hhold.busyOn vu (sortNat ((touchedBy srcs).map (· / 8)) ++ sortNat ((touchedBy d).map (· / 8)))
  obtain ⟨u, hu, hmid⟩ := hbusy.readLines hs (touched := touchedBy srcs) (l := sortNat ((touchedBy srcs).map (· / 128))) (fun a ha => touchedBy_lt hin ha)
    fun x hx => List.mem_map.mp (mem_sortNat.mp hx)
  refine ⟨u, ?_, hmid⟩
  unfold Machine.readShapes
  rw [h.shapesGo, hgo, Bool.not_true, if_neg Bool.false_ne_true]
  refine M.bind_ok hu ?_
  dsimp only
  rw [hmid.codesOf, State.codesOf_congr s srcs [] fun g hg hq a ha =>
    byteOf_lines (mem_sortNat.mpr (List.mem_map_of_mem (f := (· / 128)) (mem_touchedBy.mpr ⟨g, hg, hq, ha⟩)))]

/-- The codes of a destination that stands in memory are written into it; the queues follow. -/
theorem endShapes (h : Midst s m t) (hs : PlainBank s) {d : Shape} (hin : d.Inside (s.winSize s.thr.hold)) (srcs : List Shape) {codes : List Nat}
    (hlen : codes.length ≤ d.count) : ∃ u, Machine.endShapes t d srcs codes =
      .ok (if d.q then (u.popShapes srcs).pushShape d codes else u.popShapes srcs) ∧ Midst s (if d.q then m else mergeInto m (d.bitsOf codes)) u := by
  unfold Machine.endShapes
  by_cases hzero : d.count = 0
  · have hnil : codes = [] := List.eq_nil_of_length_eq_zero (by omega)
    refine ⟨t, ?_, ?_⟩
    · rw [if_pos hzero, hnil]
      cases d.q <;> rfl
    · have hbits : d.bitsOf codes = [] := by rw [hnil]; rfl
      rw [hbits, mergeInto_nil, ite_self]
      exact h
  · rw [if_neg hzero]
    cases hq : d.q with
    | true => exact ⟨t, rfl, h⟩
    | false =>
      obtain ⟨hrise, hkeys⟩ := d.bitsOf_keys codes
      obtain ⟨hlo, hhi⟩ := hin hq hzero
      obtain ⟨u, hu, hmid⟩ := writeLines hs (m := m) hrise (l := sortNat ((d.bitsOf codes).map fun x => x.1 / 128)) (done := []) (t := t)
        (fun a ha => by
          obtain ⟨k, hk, i, hi, rfl⟩ := hkeys a ha
          exact d.byte_lt hlo hhi (by omega) hi)
        (by simpa [mergeInto_nil] using h) (by simpa using nodup_of_rising (rising_sortNat _))
      rw [List.nil_append, filter_sortNat (d.bitsOf codes) (· / 128)] at hmid
      exact ⟨u, M.bind_ok hu rfl, hmid⟩

end Midst

/-! ### Queues at the end of an instruction (R186, R244) -/

/-- The state `t` differs from `s` in queues alone. -/
def State.Queued (s t : State) : Prop := ∃ sq hc, t = { s with co := { s.co with sq := sq, hc := hc } }

theorem State.Queued.trans {s t u : State} (h : s.Queued t) (k : t.Queued u) : s.Queued u := by
  obtain ⟨_, _, rfl⟩ := h
  obtain ⟨_, _, rfl⟩ := k
  exact ⟨_, _, rfl⟩

theorem State.queued_setQIn (s : State) (core hold q : Nat) (l : List QEnt) : s.Queued (s.setQIn core hold q l) := by
  unfold State.setQIn
  split <;> exact ⟨_, _, rfl⟩

theorem State.queued_popShapes (s : State) (srcs : List Shape) : s.Queued (s.popShapes srcs) := by
  unfold State.popShapes
  exact List.foldlRecOn (motive := s.Queued) _ _ ⟨_, _, rfl⟩ fun t ht _ _ => ht.trans (State.queued_setQIn ..)

theorem State.queued_pushShape (s : State) (d : Shape) (codes : List Nat) : s.Queued (s.pushShape d codes) := by
  unfold State.pushShape
  exact List.foldlRecOn (motive := s.Queued) _ _ ⟨_, _, rfl⟩ fun t ht _ _ => ht.trans (State.queued_setQIn ..)

theorem State.Queued.fields {s t : State} (h : s.Queued t) : t.co.spad = s.co.spad ∧ t.hd = s.hd ∧ t.core = s.core ∧ t.thr = s.thr := by
  obtain ⟨_, _, rfl⟩ := h
  exact ⟨rfl, rfl, rfl, rfl⟩

/-- Two states have the same queues, and the same place of the present step. -/
structure SameQueues (s t : State) : Prop where
  sq   : t.co.sq = s.co.sq
  hc   : t.co.hc = s.co.hc
  core : t.core = s.core
  hold : t.thr.hold = s.thr.hold

namespace SameQueues

variable {s t : State}

theorem qIn (h : SameQueues s t) (core hold q : Nat) : t.qIn core hold q = s.qIn core hold q := by
  unfold State.qIn State.hcAt
  rw [h.sq, h.hc]

theorem setQIn (h : SameQueues s t) (core hold q : Nat) (l : List QEnt) : SameQueues (s.setQIn core hold q l) (t.setQIn core hold q l) := by
  obtain ⟨hsq, hhc, hcore, hhold⟩ := h
  unfold State.setQIn
  split
  · exact ⟨by simp only [hsq], hhc, hcore, hhold⟩
  · exact ⟨hsq, by simp only [State.modHc, State.hcAt, hhc], hcore, hhold⟩

theorem popShapes (h : SameQueues s t) (srcs : List Shape) : SameQueues (s.popShapes srcs) (t.popShapes srcs) := by
  unfold State.popShapes
  refine List.foldl_rel h fun g _ a b hab => ?_
  rw [hab.core, hab.hold, hab.qIn]
  exact hab.setQIn ..

theorem pushShape (h : SameQueues s t) (d : Shape) (codes : List Nat) : SameQueues (s.pushShape d codes) (t.pushShape d codes) := by
  unfold State.pushShape
  refine List.foldl_rel h fun g _ a b hab => ?_
  unfold State.pushQ State.qOut State.setQOut
  rw [hab.core, hab.hold, hab.qIn]
  exact hab.setQIn ..

end SameQueues

theorem Midst.sameQueues {s t : State} {m : Nat → Byte} (h : Midst s m t) : SameQueues s t := ⟨h.sq, h.hc, h.core, h.thold⟩

/-- What the end of an instruction leaves, when its window and queues are as they should be (R243, R244). -/
theorem vecDone {s u : State} {d : Shape} {srcs : List Shape} {codes : List Nat}
    (h : Midst s (if d.q then winByte s else mergeInto (winByte s) (d.bitsOf codes)) u) (hrng : u.thr.rng = s.thr.rng) :
    VecDone s (if d.q then (u.popShapes srcs).pushShape d codes else u.popShapes srcs) d srcs codes s.thr.rng := by
  have hqueues : SameQueues (if d.q then (s.popShapes srcs).pushShape d codes else s.popShapes srcs)
      (if d.q then (u.popShapes srcs).pushShape d codes else u.popShapes srcs) := by
    split
    · exact (h.sameQueues.popShapes srcs).pushShape d codes
    · exact h.sameQueues.popShapes srcs
  have hqueued : u.Queued (if d.q then (u.popShapes srcs).pushShape d codes else u.popShapes srcs) := by
    split
    · exact (u.queued_popShapes srcs).trans (State.queued_pushShape ..)
    · exact u.queued_popShapes srcs
  generalize (if d.q then (u.popShapes srcs).pushShape d codes else u.popShapes srcs) = x at *
  obtain ⟨hspad, hhd, hcore, hthr⟩ := hqueued.fields
  refine ⟨fun a ha => ?_, fun n => ⟨hqueues.qIn .., hqueues.qIn ..⟩, by rw [hthr, hrng]⟩
  rw [h.winByte_of hspad hhd hcore (by rw [hthr]) ha]
  cases d.q <;> rfl

/-- The generator moves last (R227). -/
theorem vecDone_rng {s e : State} {d : Shape} {srcs : List Shape} {codes : List Nat} {g : BitVec 32} (h : VecDone s e d srcs codes g) (g' : BitVec 32) :
    VecDone s (e.modThr fun t => { t with rng := g' }) d srcs codes g' := by
  obtain ⟨hbytes, hqueues, -⟩ := h
  refine ⟨fun a ha => ?_, hqueues, by rw [State.thr_modThr]⟩
  rw [← hbytes a ha]
  have hhold : (e.modThr fun t => { t with rng := g' }).thr.hold = e.thr.hold := by rw [State.thr_modThr]
  unfold winByte
  rw [hhold]
  rfl

end Sys2Proof.Machine

/-! SUPPORT. Vector instructions on shapes in a window of plain data (R403 to R417). -/

namespace Sys2Proof.Machine

open Sys2Proof.Claims

/-- What does not depend on whether a thread roams. -/
theorem Thread.SameButRoam.same {β : Type} {t u : Thread} (h : t.SameButRoam u) (f : Thread → β) (hf : ∀ t, f { t with roam := false } = f t) : f u = f t := by
  rw [← hf u, ← hf t]
  exact congrArg f h

/-! ### The checks of shapes (R242, R243, R403, R417) -/

theorem fmtWidth_pos : ∀ n < 14, n ≠ 0 → 0 < fmtWidth n := by decide

theorem Shape.ofBytes_w {p : Word} {bs : List Byte} {h : Shape} (hrec : Shape.ofBytes p bs = some h) : 0 < h.w := by
  unfold Shape.ofBytes at hrec
  dsimp only at hrec
  split at hrec
  · cases hrec
  · next hok =>
    obtain rfl := Option.some.inj hrec
    simp only [Bool.or_eq_true, decide_eq_true_eq, not_or] at hok
    obtain ⟨⟨⟨-, hne⟩, hle⟩, -⟩ := hok
    exact fmtWidth_pos _ (Nat.lt_succ_of_le (Nat.not_lt.mp hle)) hne

theorem Shape.span_le {h : Shape} (hc : h.count ≠ 0) (hw : 0 < h.w) : h.span.1 ≤ h.span.2 := by
  obtain ⟨h1, h2⟩ := strideSum_bounds h.exts h.strs 0 0 0 (Nat.pos_of_ne_zero hc)
  change h.lowHigh.1 - 0 ≤ _ at h1
  change _ ≤ h.lowHigh.2 - 0 at h2
  have hmul : (h.w : Int) * h.lowHigh.1 ≤ h.w * h.lowHigh.2 := mul_le_mul_of_nonneg_left (by omega) (Int.natCast_nonneg _)
  show (((8 * h.base : Nat) : Int) + h.w * h.lowHigh.1) / 8 ≤ (((8 * h.base : Nat) : Int) + h.w * h.lowHigh.2 + h.w - 1) / 8
  omega

theorem shapeAt_inside {s : State} {p : Word} {h : Shape} (hat : ShapeAt s p h) : h.Inside (s.winSize s.thr.hold) := fun hq hc =>
  ⟨(hat.within hq hc).1, (hat.within hq hc).2.1⟩

namespace Midst

variable {s t : State} {m : Nat → Byte}

section Registers

variable (h : Midst s m t)
include h

theorem gpr (n : Nat) : t.thr.gpr n = s.thr.gpr n := h.sameThr.same (fun t => t.gpr n) fun _ => rfl
theorem g (o : Operand) : t.g o = s.g o := h.gpr _
theorem fpm : t.thr.fpm = s.thr.fpm := h.sameThr.same Thread.fpm fun _ => rfl
theorem rng : t.thr.rng = s.thr.rng := h.sameThr.same Thread.rng fun _ => rfl

theorem rm (md : BitVec 8) : t.rm md = s.rm md := by
  unfold State.rm
  rw [h.fpm]

end Registers

theorem qOwned (h : Midst s m t) (core hold q : Nat) : t.qOwned core hold q = s.qOwned core hold q := by
  obtain ⟨_, _, _, _, _, rfl⟩ := h.rest
  rfl

/-- A shape record of the window is read (R242). -/
theorem readShape (h : Midst s (winByte s) t) (hs : PlainBank s) {p : Word} {g : Shape} (hat : ShapeAt s p g) :
    ∃ u, Machine.readShape t p = .ok (g, u) ∧ Midst s (winByte s) u := by
  obtain ⟨halign, hend⟩ := hat.place
  have hsize := s.winSize_le s.thr.hold
  have hseg : bits p.toNat 63 61 = 0 := by
    simp only [bits]
    omega
  have href : refOf p 0 = ⟨0, p.toNat⟩ := by
    have hoff : bits p.toNat 60 0 = p.toNat := by
      simp only [bits]
      omega
    simp [refOf, hseg, hoff]
  have hin : InSeg0 s (refOf p 0) 32 32 := by
    rw [href]
    exact ⟨rfl, Int.natCast_nonneg _, by dsimp only; omega, by dsimp only; omega⟩
  obtain ⟨u, hu, hmid⟩ := h.unitRd (r := refOf p 0) (n := 32) (al := 32) (need := { r := true }) (kind := kLD) hs hin (by omega) rfl rfl
  have hbytes : bytesAt (winByte s) (refOf p 0).off.toNat 32 = s.winBytes s.core s.thr.hold p.toNat 32 := by
    rw [href, State.winBytes_eq]
    rfl
  refine ⟨u, ?_, hmid⟩
  unfold Machine.readShape
  refine M.check_ok (not_not.mpr hseg) (M.bind_ok hu ?_)
  dsimp only
  rw [hbytes, hat.record]

theorem shapesOk (h : Midst s m t) {f : Fields} {hs : List Shape} (hat : ∀ g ∈ hs, ∃ p, ShapeAt s p g) (hfmt : mdFmt f.md = 13 → coreNo s.core = 0)
    (s0 : State) : Machine.shapesOk f s0 t hs = .ok () := by
  have howned : (hs.any fun g => g.q && !t.qOwned t.core t.thr.hold g.base) = false := by
    rw [List.any_eq_false]
    intro g hg hbad
    obtain ⟨p, hp⟩ := hat g hg
    rw [Bool.and_eq_true, Bool.not_eq_true', h.core, h.thold, h.qOwned] at hbad
    rw [hp.owned hbad.1] at hbad
    exact Bool.noConfusion hbad.2
  have hext : ((mdFmt f.md = 13 || hs.any fun g => g.efmt = 13) && coreNo t.core ≠ 0) = false := by
    by_cases hcore : coreNo s.core = 0
    · simp [h.core, hcore]
    · have hno : (hs.any fun g => g.efmt = 13) = false := by
        rw [List.any_eq_false]
        intro g hg hbad
        obtain ⟨p, hp⟩ := hat g hg
        exact hcore (hp.ext (of_decide_eq_true hbad))
      have hf : mdFmt f.md ≠ 13 := fun he => hcore (hfmt he)
      simp [hno, hf]
  unfold Machine.shapesOk
  rw [howned]
  refine (if_neg ?_).trans (if_neg Bool.false_ne_true)
  simpa using hext

theorem shapesFor (h : Midst s m t) {hs : List Shape} (hat : ∀ g ∈ hs, ∃ p, ShapeAt s p g) (cause : Nat) : Machine.shapesFor t hs cause = .ok () := by
  have hnone : hs.find? (shapeBad t cause) = none := by
    rw [List.find?_eq_none]
    intro g hg hbad
    obtain ⟨p, hp⟩ := hat g hg
    have hw := Shape.ofBytes_w hp.record
    unfold shapeBad at hbad
    simp only [Bool.and_eq_true, Bool.not_eq_true', decide_eq_true_eq, ne_eq] at hbad
    obtain ⟨⟨hq, hc⟩, hbad⟩ := hbad
    obtain ⟨hlo, hhi, hal⟩ := hp.within hq hc
    have hle := Shape.span_le hc hw
    rw [h.thold, h.winSize] at hbad
    split at hbad
    · simp only [Bool.or_eq_true, decide_eq_true_eq] at hbad
      omega
    · exact (of_decide_eq_true hbad) hal
    · have := of_decide_eq_true hbad
      omega
  unfold Machine.shapesFor
  rw [hnone]

/-- Shapes whose records stand in the window pass the checks of their extents (R243). -/
theorem shapesIn (h : Midst s m t) {hs : List Shape} (hat : ∀ g ∈ hs, ∃ p, ShapeAt s p g) : Machine.shapesIn t hs = .ok () :=
  M.bind_ok (h.shapesFor hat 0x10) (M.bind_ok (h.shapesFor hat 0x14) (h.shapesFor hat 0x12))

end Midst

end Sys2Proof.Machine

/-! SUPPORT. Elementwise vector instructions: whose elements are at hand, and on shapes in a window of plain data (R404 to R409). -/

namespace Sys2Proof.Machine

open Sys2Proof.Claims

/-! ### Elements at hand (R404, R408, R409) -/

theorem exec_vecTable : ∀ p ∈ vecTable, ∀ f s, exec (p.instr f) s = vecOp (p.instr f) s p.intOnly p.old p.value := by
  intro p hp f s
  fin_cases hp <;> rfl

theorem encOf_vecTable : ∀ p ∈ vecTable, ∀ f, ∃ opc sh, encOf (p.instr f) = some (opc, f, sh) := by
  intro p hp f
  fin_cases hp <;> exact ⟨_, _, rfl⟩

/-- D's format is the one that FMT asserts, where it asserts one (R403). -/
theorem fmtBad_eq_false {f : Fields} {d : Shape} (h : mdFmt f.md = 0 ∨ mdFmt f.md = d.efmt) : fmtBad f d = false := by
  rcases h with h | h <;> simp [fmtBad, h]

/-- A property of the shapes of D, A and, where it is one, B. -/
theorem any_shapes_eq_false {d a : Shape} {b : Option Shape} {p : Shape → Bool} (hd : p d = false) (ha : p a = false)
    (hb : ∀ h ∈ b, p h = false) : ((d :: a :: b.toList).any p) = false := by
  cases b with
  | none => simp [hd, ha]
  | some h => simp [hd, ha, hb h rfl]

/-- All shapes have D's element count (R403). -/
theorem counts_ok {d a : Shape} {b : Option Shape} (ha : a.count = d.count) (hb : ∀ h ∈ b, h.count = d.count) :
    ¬ (((d :: a :: b.toList).any fun h => h.count ≠ d.count) = true) := by
  rw [any_shapes_eq_false (by simp) (by simpa using ha) (by simpa using hb)]
  exact Bool.false_ne_true

theorem elementwiseResult : ElementwiseResult := by
  intro p hp f s d a b s3 cs s4 s5 h hshapes hold hfa hfb hint hread r hend
  obtain ⟨opc, sh, he⟩ := encOf_vecTable p hp f
  obtain ⟨⟨s1, s2, hd, ha, hb⟩, hok, hin, hfmt, hca, hcb⟩ := hshapes
  have hq : ¬ ((p.old && d.q) = true) := by
    intro hc
    rw [Bool.and_eq_true] at hc
    simp [hold hc.1] at hc
  have hfam : ¬ ((fmtBad f d || (d :: a :: b.toList).any (fun h => h.float ≠ d.float) || (p.intOnly && d.float)) = true) := by
    rw [fmtBad_eq_false hfmt, any_shapes_eq_false (by simp) (by simpa using hfa) (by simpa using hfb)]
    simpa using hint
  refine completes_of_body (exec_vecTable p hp f s) he h ?_
  refine M.bind_ok hd (M.check_ok hq (M.bind_ok ha (M.bind_ok hb (M.bind_ok hok (M.check_ok hfam (M.check_ok (counts_ok hca hcb)
    (M.bind_ok hin (M.bind_ok hread (M.bind_ok hend rfl)))))))))

/-! ### Shapes in a window of plain data (R406, R408, R417) -/

theorem length_drawAll (draws : Bool) (enc : BitVec 32 → ExtNum → Nat) (xs : List ExtNum) (g : BitVec 32) :
    (drawAll draws enc g xs).1.length = xs.length := by
  induction xs generalizing g with
  | nil => rfl
  | cons x xs ih => exact congrArg (· + 1) (ih _)

theorem length_codesOf_head (s : State) (byte : Nat → Byte) (a : Shape) (l : List Shape) :
    ((s.codesOf byte [] (a :: l)).headD []).length = a.count := by simp [State.codesOf]

theorem length_vecCodes_le (p : VecForm) (f : Fields) (s : State) (d a : Shape) (b : Option Shape) (cs : List (List Nat)) :
    (vecCodes p f s d a b cs).1.length ≤ (cs.headD []).length := by
  unfold vecCodes
  dsimp only
  rw [length_drawAll, List.length_map, List.length_zip, List.length_map]
  exact Nat.min_le_left ..

/-- The format that FMT asserts asks for no extension that D does not ask for (R403). -/
theorem fmt_ext {f : Fields} {s : State} {p : Word} {d : Shape} (hat : ShapeAt s p d) (h : mdFmt f.md = 0 ∨ mdFmt f.md = d.efmt) :
    mdFmt f.md = 13 → coreNo s.core = 0 := fun he => hat.ext (by rcases h with h | h <;> omega)

theorem Midst.readB {s t : State} (h : Midst s (winByte s) t) (hs : PlainBank s) {f : Fields} {b : Option Shape} (hb : ShapeB s f b) :
    ∃ u, Machine.readB t f = .ok (b, u) ∧ Midst s (winByte s) u := by
  unfold ShapeB at hb
  unfold Machine.readB
  split
  · next hcls =>
    rw [if_pos hcls] at hb
    obtain ⟨g, rfl, hat⟩ := hb
    obtain ⟨u, hu, hmid⟩ := h.readShape hs hat
    rw [h.g]
    exact ⟨u, M.bind_ok hu rfl, hmid⟩
  · next hcls =>
    rw [if_neg hcls] at hb
    subst hb
    exact ⟨t, rfl, h⟩

theorem shapeB_at {s : State} {f : Fields} {b : Option Shape} (hb : ShapeB s f b) {g : Shape} (hg : g ∈ b.toList) : ∃ p, ShapeAt s p g := by
  unfold ShapeB at hb
  split at hb
  · obtain ⟨h, rfl, hat⟩ := hb
    obtain rfl : g = h := by simpa using hg
    exact ⟨_, hat⟩
  · subst hb
    cases hg

/-- Three shapes that stand in the window are read, and pass their checks. -/
theorem threeShapes_of_at {f : Fields} {s : State} {d a : Shape} {b : Option Shape} (hm : Midst s (winByte s) s) (hs : PlainBank s)
    (hd : ShapeAt s (s.g f.d) d) (ha : ShapeAt s (s.g f.a) a) (hb : ShapeB s f b) (hfmt : mdFmt f.md = 0 ∨ mdFmt f.md = d.efmt)
    (hca : a.count = d.count) (hcb : ∀ h ∈ b, h.count = d.count) : ∃ s3, ThreeShapes f s d a b s3 ∧ Midst s (winByte s) s3 := by
  obtain ⟨s1, h1, m1⟩ := hm.readShape hs hd
  obtain ⟨s2, h2, m2⟩ := m1.readShape hs ha
  obtain ⟨s3, h3, m3⟩ := m2.readB hs hb
  have hat : ∀ g ∈ d :: a :: b.toList, ∃ p, ShapeAt s p g := by
    intro g hg
    rcases List.mem_cons.mp hg with rfl | hg
    · exact ⟨_, hd⟩
    rcases List.mem_cons.mp hg with rfl | hg
    · exact ⟨_, ha⟩
    · exact shapeB_at hb hg
  exact ⟨s3, ⟨⟨s1, s2, h1, by rw [m1.g, h2], h3⟩, m3.shapesOk hat (fmt_ext hd hfmt) s, m3.shapesIn hat, hfmt, hca, hcb⟩, m3⟩

theorem elementwiseInWindow : ElementwiseInWindow := by
  intro p hp f s d a b h hs hd ha hb hold hfmt hfa hfb hint hca hcb hgo
  have hm := Midst.start h hs
  obtain ⟨s3, hshapes, m3⟩ := threeShapes_of_at hm hs hd ha hb hfmt hca hcb
  have hsrc : ∀ g ∈ vecSources p d a b, g.Inside (s.winSize s.thr.hold) := by
    intro g hg
    unfold vecSources at hg
    rcases List.mem_append.mp hg with hg | hg
    · rcases List.mem_cons.mp hg with rfl | hg
      · exact shapeAt_inside ha
      · obtain ⟨q, hq⟩ := shapeB_at hb hg
        exact shapeAt_inside hq
    · split at hg
      · obtain rfl := List.mem_singleton.mp hg
        exact shapeAt_inside hd
      · cases hg
  obtain ⟨s4, h4, m4⟩ := m3.readShapes hs hgo hsrc true
  have hcodes : vecCodes p f s4 d a b (s.codesOf (winByte s) [] (vecSources p d a b)) =
      vecCodes p f s d a b (s.codesOf (winByte s) [] (vecSources p d a b)) := by
    simp only [vecCodes, m4.rm, m4.fpm, m4.rng]
  obtain ⟨u, hu, hmid⟩ := m4.endShapes hs (shapeAt_inside hd) (vecSources p d a b)
    (codes := (vecCodes p f s d a b (s.codesOf (winByte s) [] (vecSources p d a b))).1)
    ((length_vecCodes_le ..).trans ((length_codesOf_head ..).trans hca).le)
  rw [← hcodes] at hu
  refine ⟨_, elementwiseResult p hp f s d a b s3 _ s4 _ h hshapes hold hfa hfb hint h4 hu, ?_⟩
  rw [hcodes]
  exact vecDone_rng (vecDone hmid hmid.rng) _

/-- Settles O15: elements at hand are combined one by one; in a window of plain data the shapes and lines are at hand. -/
theorem vectorElementwise : Obligations.VectorElementwise := ⟨elementwiseResult, elementwiseInWindow⟩

end Sys2Proof.Machine

/-! SUPPORT. VGATH and VSCAT: with their elements at hand, and in a window of plain data (R416). -/

namespace Sys2Proof.Machine

open Sys2Proof.Claims

theorem gatherScatterResult : GatherScatterResult := by
  intro f s b s2 cb
  refine ⟨fun d s1 s3 s4 cs s5 s6 h hd hb hok hw hidx hcount hin hread => ?gather, fun a s1 s3 s4 s5 h ha hb hok hw hidx hcount hin hread => ?scatter⟩
  case gather =>
    intro refs hcheck hgather hend
    have hfam : ¬ ((d.w < 8 || !indexFmt b) = true) := by simp [hidx, Nat.not_lt.mpr hw]
    exact completes_of_body (show execVgath f s = _ from rfl) rfl h (M.bind_ok hd (M.bind_ok hb (M.bind_ok hok (M.check_ok hfam
      (M.check_ok (not_not.mpr hcount) (M.bind_ok hin (M.bind_ok hread (M.bind_ok hcheck (M.bind_ok hgather (M.bind_ok hend rfl))))))))))
  case scatter =>
    intro refs hcheck hscatter
    have hfam : ¬ ((a.w < 8 || !indexFmt b) = true) := by simp [hidx, Nat.not_lt.mpr hw]
    exact completes_of_body (show execVscat f s = _ from rfl) rfl h (M.bind_ok ha (M.bind_ok hb (M.bind_ok hok (M.check_ok hfam
      (M.check_ok (not_not.mpr hcount) (M.bind_ok hin (M.bind_ok hread (M.bind_ok hcheck (M.bind_ok hscatter rfl)))))))))

/-! ### Elements in a window of plain data -/

/-- A size of whole bytes divides a line. -/
theorem fmtWidth_bytes (n : Nat) (h : 8 ≤ fmtWidth n) : 0 < fmtWidth n / 8 ∧ 128 % (fmtWidth n / 8) = 0 := by
  unfold fmtWidth at h ⊢
  split at h <;> simp_all

theorem element_in_line {off n : Nat} (hdiv : 128 % n = 0) (hal : off % n = 0) : off % 128 + n ≤ 128 := by
  obtain ⟨k, hk⟩ := Nat.dvd_of_mod_eq_zero hdiv
  have hmod : off % 128 % n = 0 := by rw [Nat.mod_mod_of_dvd off (Nat.dvd_of_mod_eq_zero hdiv), hal]
  obtain ⟨j, hj⟩ := Nat.dvd_of_mod_eq_zero hmod
  have hlt : off % 128 < 128 := Nat.mod_lt _ (by decide)
  rw [hj, hk] at hlt ⊢
  have hjk : j < k := Nat.lt_of_mul_lt_mul_left hlt
  calc n * j + n = n * (j + 1) := by ring
    _ ≤ n * k := Nat.mul_le_mul_left n hjk

namespace Midst

variable {s : State} {m : Nat → Byte} {n : Nat}

theorem checkRefs (hn : 0 < n) {need : Need} (hx : need.x = false) {t : State} (h : Midst s m t) : ∀ {refs : List Ref}, InWindow s n refs →
    Machine.checkRefs n need t refs = .ok t
  | [], _ => rfl
  | r :: rs, hin => by
    unfold Machine.checkRefs Machine.reachM
    rw [h.reach (hin r (.head _)) hn hx]
    exact checkRefs hn hx h fun q hq => hin q (.tail _ hq)

theorem gather (hs : PlainBank s) (hn : 0 < n) (hdiv : 128 % n = 0) : ∀ {refs : List Ref} {t : State}, Midst s m t → InWindow s n refs →
    ∃ u, Machine.gather n t refs = .ok (refs.map fun r => leNat (bytesAt m r.off.toNat n), u) ∧ Midst s m u
  | [], t, h, _ => ⟨t, rfl, h⟩
  | r :: rs, t, h, hin => by
    have hr := hin r (.head _)
    obtain ⟨u, hu, hmid⟩ := h.destUnit.unitRd (r := r) (n := n) (al := n) (need := { r := true }) (kind := kVR) hs hr hn rfl
      (unitLen_line (element_in_line hdiv (inSeg0_aligned hr)))
    obtain ⟨v, hv, hlast⟩ := gather hs hn hdiv hmid fun q hq => hin q (.tail _ hq)
    exact ⟨v, M.bind_ok hu (M.bind_ok hv rfl), hlast⟩

theorem overlay_laid (m : Nat → Byte) (r : Ref) (c : Nat) (l : List (Ref × Nat)) :
    laid n l (overlay m r.off.toNat (leBytes n c)) = laid n ((r, c) :: l) m := by
  unfold laid
  rw [List.foldl_cons]
  congr 1
  funext a
  unfold overlay
  rw [length_leBytes]

theorem scatter (hs : PlainBank s) (hn : 0 < n) (hdiv : 128 % n = 0) : ∀ {l : List (Ref × Nat)} {m : Nat → Byte} {t : State}, Midst s m t →
    (∀ p ∈ l, InSeg0 s p.1 n n) → ∃ u, Machine.scatter n t l = .ok u ∧ Midst s (laid n l m) u
  | [], m, t, h, _ => ⟨t, rfl, h⟩
  | (r, c) :: l, m, t, h, hin => by
    have hr : InSeg0 s r n n := hin (r, c) (.head _)
    have hlen := length_leBytes n c
    obtain ⟨u, hu, hmid⟩ := h.destUnit.unitWr (r := r) (d := leBytes n c) (al := n) hs (by rwa [hlen]) (List.ne_nil_of_length_pos (by rwa [hlen]))
      (by rw [hlen]; exact unitLen_line (element_in_line hdiv (inSeg0_aligned hr)))
    obtain ⟨v, hv, hlast⟩ := scatter hs hn hdiv hmid fun p hp => hin p (.tail _ hp)
    rw [overlay_laid] at hlast
    exact ⟨v, M.bind_ok hu hv, hlast⟩

end Midst

/-- A ready instruction whose MOD is 0 asks for no extension (R316). -/
theorem mdFmt_zero {i : Instr} {opc : Nat} {f : Fields} {sh : EncRule} {s : State} (he : encOf i = some (opc, f, sh)) (h : ready i s = true)
    (hsh : sh.md = .zero) : mdFmt f.md ≠ 13 := by
  have hmd := ready_modOk he h
  rw [hsh] at hmd
  have hzero : f.md = 0 := of_decide_eq_true hmd
  rw [hzero]
  decide

theorem gatherScatterInWindow : GatherScatterInWindow := by
  intro f s b hs hb hidx
  refine ⟨fun d h hd hw hcount hgo => ?gather, fun a h ha hw hcount hgo => ?scatter⟩
  case gather =>
    intro refs hwin
    obtain ⟨hn, hdiv⟩ := fmtWidth_bytes _ hw
    have hm := Midst.start h hs
    obtain ⟨s1, h1, m1⟩ := hm.readShape hs hd
    obtain ⟨s2, h2, m2⟩ := m1.readShape hs hb
    have hat : ∀ g ∈ [d, b], ∃ p, ShapeAt s p g := by
      simp only [List.mem_cons, List.not_mem_nil, or_false, forall_eq_or_imp, forall_eq]
      exact ⟨⟨_, hd⟩, ⟨_, hb⟩⟩
    obtain ⟨s3, h3, m3⟩ := m2.readShapes hs hgo (by simpa using shapeAt_inside hb) true
    obtain ⟨s5, h5, m5⟩ := m3.gather hs hn hdiv hwin
    have hlen : refs.length = d.count :=
      (List.length_map ..).trans ((List.length_map ..).trans ((length_codesOf_head s (winByte s) b []).trans hcount))
    obtain ⟨u, hu, hmid⟩ := m5.endShapes hs (shapeAt_inside hd) [b] (codes := refs.map fun r => leNat (bytesAt (winByte s) r.off.toNat (d.w / 8)))
      ((List.length_map ..).trans hlen).le
    refine ⟨_, (gatherScatterResult f s b s2 _).1 d s1 s3 s3 _ s5 _ h h1 (by rw [m1.g, h2]) (m2.shapesOk hat (fun he => absurd he (mdFmt_zero rfl h rfl)) s)
      hw hidx hcount (m2.shapesIn hat) h3 ?_ ?_ hu, ?_⟩
    · rw [m3.g]
      exact m3.checkRefs hn rfl hwin
    · rw [m3.g]
      exact h5
    · simp only [State.winBytes_eq]
      exact vecDone hmid hmid.rng
  case scatter =>
    intro cs refs hwin
    obtain ⟨hn, hdiv⟩ := fmtWidth_bytes _ hw
    have hm := Midst.start h hs
    obtain ⟨s1, h1, m1⟩ := hm.readShape hs ha
    obtain ⟨s2, h2, m2⟩ := m1.readShape hs hb
    have hat : ∀ g ∈ [a, b], ∃ p, ShapeAt s p g := by
      simp only [List.mem_cons, List.not_mem_nil, or_false, forall_eq_or_imp, forall_eq]
      exact ⟨⟨_, ha⟩, ⟨_, hb⟩⟩
    obtain ⟨s3, h3, m3⟩ := m2.readShapes hs hgo (fun g hg => (hat g hg).elim fun _ hp => shapeAt_inside hp) true
    obtain ⟨s5, h5, m5⟩ := m3.scatter hs hn hdiv (l := refs.zip (cs.headD [])) fun p hp => hwin p.1 (List.of_mem_zip hp).1
    refine ⟨_, (gatherScatterResult f s b s2 _).2 a s1 s3 s3 s5 h h1 (by rw [m1.g, h2]) (m2.shapesOk hat (fun he => absurd he (mdFmt_zero rfl h rfl)) s)
      hw hidx hcount (m2.shapesIn hat) h3 ?_ ?_, fun x hx => ?_, fun n => (m5.sameQueues.popShapes [a, b]).qIn ..⟩
    · rw [m3.g]
      exact m3.checkRefs hn rfl hwin
    · rw [m3.g]
      exact h5
    · obtain ⟨hspad, hhd, hcore, hthr⟩ := (s5.queued_popShapes [a, b]).fields
      exact m5.winByte_of hspad hhd hcore (by rw [hthr]) hx

/-- Settles O17: the elements are units of their own, each at its aligned address; in a window of plain data they are at hand. -/
theorem gatherAndScatter : Obligations.GatherAndScatter := ⟨gatherScatterResult, gatherScatterInWindow⟩

end Sys2Proof.Machine

/-! SUPPORT. The special function unit: its requests and how it serves them (R298, R418, R420). -/

namespace Sys2Proof.Machine

open Sys2Proof.Claims

theorem Midst.sfuQ {s t : State} {m : Nat → Byte} (h : Midst s m t) (k : Nat) : t.sfuQ k = s.sfuQ k := by
  unfold State.sfuQ
  rw [h.en]

theorem completes_sfn {f : Fields} {s : State} (h : ready (.sfn f) s = true) (hld : s.slot.ld < 63) (hroom : (s.sfuQ (clusterOf s.core)).length < 32) :
    let v := s.src f.a (f.imm.zeroExtend 64)
    let rm := v.2.rm f.md
    let r := v.2.draw1 rm
    let d := r.2.dstOf f.d false
    let q : SfuReq := ⟨d.2.core, d.2.slotNo, f.fn.toNat, scalarFmt f.md, v.1, rm.code, mdSat f.md, r.1, d.1, false⟩
    let k := clusterOf s.core
    Completes (.sfn f) f s ((d.2.setSfuQ k (d.2.sfuQ k ++ [q])).modSlot fun v => { v with ld := v.ld + 1, sfu := true }) :=
  completes_of_body (show execSfn f s = _ from rfl) rfl h (M.bind_ok (ldFull_ok hld) (M.check_ok (Nat.not_le.mpr hroom) rfl))

/-- Two shapes that stand in the window are read, and pass their checks. -/
theorem twoShapes_of_at {f : Fields} {s : State} {d a : Shape} (hm : Midst s (winByte s) s) (hs : PlainBank s) (hd : ShapeAt s (s.g f.d) d)
    (ha : ShapeAt s (s.g f.a) a) (hfmt : mdFmt f.md = 0 ∨ mdFmt f.md = d.efmt) : ∃ s2, TwoShapes f s d a s2 ∧ Midst s (winByte s) s2 := by
  obtain ⟨s1, h1, m1⟩ := hm.readShape hs hd
  obtain ⟨s2, h2, m2⟩ := m1.readShape hs ha
  have hat : ∀ g ∈ [d, a], ∃ p, ShapeAt s p g := by
    simp only [List.mem_cons, List.not_mem_nil, or_false, forall_eq_or_imp, forall_eq]
    exact ⟨⟨_, hd⟩, ⟨_, ha⟩⟩
  exact ⟨s2, ⟨⟨s1, h1, by rw [m1.g, h2]⟩, m2.shapesOk hat (fmt_ext hd hfmt) s, m2.shapesIn hat, hfmt⟩, m2⟩

/-- The state after a VSFN has sent its elements to the unit (R420). -/
def State.sentVec (s : State) (fn : Nat) : State :=
  (s.setSfuQ (clusterOf s.core) (s.sfuQ (clusterOf s.core) ++ [⟨s.core, s.slotNo, fn, 1, 0, 0, false, 0, .none, true⟩])).modSlot fun v =>
    { v with ld := v.ld + 1, sfu := true }

theorem State.slot_sentVec (s : State) (fn : Nat) : (s.sentVec fn).slot = { s.slot with ld := s.slot.ld + 1, sfu := true } := by
  unfold State.sentVec
  rw [State.slot_modSlot]
  rfl

/-- A slot that stays keeps its place, its thread and its counters. -/
theorem slot_stay (yld : Bool) (core : Nat) (s : State) (p : Power) : ({ conclude yld core (.error (.stay s)) with pw := p } : State).slot =
    { s.slot with stalled := some (Tab.get 0 s.co.cyc core), unit := 0 } := State.slot_modSlot s fun v => { v with stalled := some (Tab.get 0 s.co.cyc core), unit := 0 }

/-- A VSFN that has not been served joins the unit's queue, and its slot stays (R298, R420). -/
theorem vsfn_sends {f : Fields} {s : State} {d a : Shape} (h : ready (.vsfn f) s = true) (hs : PlainBank s) (hserved : s.slot.resume.served = false)
    (hd : ShapeAt s (s.g f.d) d) (ha : ShapeAt s (s.g f.a) a) (hfmt : mdFmt f.md = 0 ∨ mdFmt f.md = d.efmt) (hfa : a.float = true)
    (hfd : d.float = true) (hea : a.efmt ≠ 13) (hed : d.efmt ≠ 13) (hcount : a.count = d.count) (hgo : s.shapesGo [d] [a] = true)
    (hld : s.slot.ld < 63) (hroom : (s.sfuQ (clusterOf s.core)).length < 32) : ∃ u, Midst s (winByte s) u ∧
    exec (.vsfn f) s = .next { conclude f.yld s.core (.error (.stay (u.sentVec f.fn.toNat))) with pw := s.pw } := by
  obtain ⟨s2, ⟨⟨s1, h1, h2⟩, hok, hin, -⟩, m2⟩ := twoShapes_of_at (Midst.start h hs) hs hd ha hfmt
  obtain ⟨u, hu, mu⟩ := m2.readShapes hs hgo (by simpa using shapeAt_inside ha) false
  refine ⟨u, mu, ?_⟩
  have hfam : ¬ ((fmtBad f d || !d.float || !a.float || d.efmt = 13 || a.efmt = 13) = true) := by
    simp [fmtBad_eq_false hfmt, hfa, hfd, hea, hed]
  have hldFull : ldFull s2 = .ok () := ldFull_ok (by rwa [m2.slot.ld])
  have hroom2 : sfuRoom s2 = .ok () := by
    have hlt : ¬ 32 ≤ (s2.sfuQ (clusterOf s2.core)).length := by
      rw [m2.core, m2.sfuQ]
      exact Nat.not_le.mpr hroom
    unfold sfuRoom
    rw [decide_eq_false hlt]
    rfl
  have hsend : sendVec u f.fn.toNat = stay (u.sentVec f.fn.toNat) := by
    unfold sendVec
    rw [mu.slot.served, hserved]
    rfl
  rw [show exec (.vsfn f) s = execVsfn f s from rfl, execVsfn, issue_ready rfl h]
  refine congrArg (fun x : M Fin => Host.Outcome.next { conclude f.yld s.core x with pw := s.pw }) ?_
  refine M.bind_ok h1 (M.bind_ok h2 (M.bind_ok hok (M.check_ok hfam (M.check_ok (not_not.mpr hcount) (M.bind_ok hin ?_)))))
  dsimp only
  rw [m2.slot.served, hserved]
  refine M.bind_ok hldFull (M.bind_ok hroom2 (M.bind_ok hu ?_))
  dsimp only
  rw [hsend]
  rfl

/-- The unit gives a VSFN its results: its instruction goes on (R298, R420). -/
theorem happens_sfuServe_vec {s : State} {q : SfuReq} {l : List SfuReq} (hq : s.sfuQ s.ctl.here.unit = q :: l) (hv : q.vec = true) :
    Happens .sfuServe s ((s.setSfuQ s.ctl.here.unit l).modSlotAt q.core q.slot Slot.serveVec) := by
  refine happens_of rfl ?_
  simp only [hq, hv, if_true]

theorem happens_sfuServe {s : State} {q : SfuReq} {l : List SfuReq} (hq : s.sfuQ s.ctl.here.unit = q :: l) (hv : q.vec = false) :
    let h := ((s.slotAt q.core q.slot).thr.map (·.hold)).getD 0
    Happens .sfuServe s (((s.setSfuQ s.ctl.here.unit l).land q.core q.slot h q.dst ⟨8, false⟩ (some (leBytes 8 q.result.toNat))).modSlotAt
      q.core q.slot fun v => { v with ld := v.ld - 1, sfu := false }) := by
  refine happens_of rfl ?_
  simp only [hq, hv, Bool.false_eq_true, if_false]

/-- Settles O18: SFN and a VSFN that has not been served join the queue of the unit, which serves its oldest request. -/
theorem specialFunction : Obligations.SpecialFunction := by
  refine ⟨fun f s h hld hroom => completes_sfn h hld hroom, fun f s d a h hs hserved hd ha hfmt hfa hfd hea hed hcount hgo hld hroom => ?_,
    fun s q l => happens_sfuServe_vec, fun s q l => happens_sfuServe⟩
  obtain ⟨u, mu, hexec⟩ := vsfn_sends h hs hserved hd ha hfmt hfa hfd hea hed hcount hgo hld hroom
  refine ⟨_, hexec, ?_, ?_, fun x hx => ?_⟩
  · rw [← mu.sfuQ, ← mu.core, ← mu.slotNo]
    exact Tab.get_set_same ..
  · rw [← mu.slot.ld, ← mu.core, ← mu.slotNo]
    refine (congrArg Slot.ld (slot_stay f.yld u.core (u.sentVec f.fn.toNat) s.pw)).trans ?_
    rw [State.slot_sentVec]
  · have hhold : ({ conclude f.yld s.core (.error (.stay (u.sentVec f.fn.toNat))) with pw := s.pw } : State).thr.hold = u.thr.hold := by
      unfold State.thr
      rw [slot_stay, State.slot_sentVec]
    exact mu.winByte_of (e := { conclude f.yld s.core (.error (.stay (u.sentVec f.fn.toNat))) with pw := s.pw }) rfl rfl rfl hhold hx

end Sys2Proof.Machine

/-! SUPPORT. What a translation leaves of the cores: it writes page tables, caches at the homes and what functions are told (R206, R260). -/

namespace Sys2Proof.Machine

open Sys2Proof.Claims

@[simp] theorem State.choose_co (s : State) (n : Nat) : (s.choose n).2.co = s.co := by
  unfold State.choose
  split <;> rfl

@[simp] theorem State.burst_co (s : State) (line hold : Nat) : (s.burst line hold).co = s.co := rfl

@[simp] theorem State.writtenBy_co (s : State) (pa n : Nat) (w : Option (Nat × Nat)) : (s.writtenBy pa n w).co = s.co := rfl

@[simp] theorem State.forget_co (s : State) (r : Req) : (s.forget r).co = s.co := State.unwait_co s (some r)

@[simp] theorem State.l2Evict_co (s : State) (home line : Nat) : (s.l2Evict home line).co = s.co := by
  rw [State.l2Evict_eq]

@[simp] theorem State.l2Room_co (s : State) (home : Nat) : (s.l2Room home).co = s.co := by
  unfold State.l2Room
  dsimp only
  split
  · rfl
  · split
    · split <;> simp
    · simp

@[simp] theorem State.l2In_co (s : State) (a : AtHome) (line : Nat) : (s.l2In a line).co = s.co := by
  have hfill : ∀ s : State, (State.l2In.fill a line s).co = s.co := fun s => by simp [State.l2In.fill]
  unfold State.l2In
  split
  · split
    · rfl
    · simp [hfill]
  · exact hfill s

@[simp] theorem State.modL2_co (s : State) (a : AtHome) (line : Nat) (f : L2Line → L2Line) :
    (s.modL2 a line f).co = s.co := by
  unfold State.modL2
  dsimp only
  split <;> simp

@[simp] theorem State.setPoison_co (s : State) (a : AtHome) (pa : Nat) (b : Bool) : (s.setPoison a pa b).co = s.co :=
  State.modL2_co s a _ _

@[simp] theorem State.bump_co (s : State) (pa : Nat) : (s.bump pa).co = s.co := by
  unfold State.bump
  refine foldl_keeps State.co (fun s h => ?_) _ s
  split <;> rfl

@[simp] theorem State.eccClear_co (s : State) (pa : Nat) (full : Bool) : (s.eccClear pa full).co = s.co := by
  unfold State.eccClear
  split <;> rfl

@[simp] theorem State.memPut_co (s : State) (a : AtHome) (pa : Nat) (data : List Byte) :
    (s.memPut a pa data).co = s.co := by
  unfold State.memPut
  dsimp only
  split
  · simp
  · simp

@[simp] theorem State.dropCopy_co (s : State) (core w : Nat) : (s.dropCopy core w).co = s.co := by
  unfold State.dropCopy
  split
  · split <;> rfl
  · rfl

@[simp] theorem State.applyEnt_co (s : State) (core : Nat) (e : PoolEnt) : (s.applyEnt core e).co = s.co := by
  simp [State.applyEnt]

@[simp] theorem State.pullCore_co (s : State) (home w core : Nat) : (s.pullCore home w core).co = s.co := by
  unfold State.pullCore
  dsimp only
  rw [State.setPools_co, foldl_keeps State.co fun s e => State.applyEnt_co s core e, State.forget_co]

@[simp] theorem State.pull_co (s : State) (home w : Nat) : (s.pull home w).co = s.co := by
  unfold State.pull
  split
  · exact foldl_keeps State.co (fun s c => State.pullCore_co s home w c) _ s
  · rfl

@[simp] theorem State.homeWord_co (s : State) (a : AtHome) (w : Nat) : (s.homeWord a w).2.co = s.co := by
  unfold State.homeWord
  dsimp only
  split <;> simp

@[simp] theorem State.rawGet_co (s : State) (pa : Nat) : (s.rawGet pa).2.co = s.co := by
  unfold State.rawGet
  split
  · exact State.homeWord_co s _ _
  · rfl

@[simp] theorem State.waitHalf_co (s : State) (who : Option Req) (half hold rgn : Nat) : (s.waitHalf who half hold rgn).co = s.co := by
  unfold State.waitHalf
  split
  · rfl
  · split <;> rfl

@[simp] theorem State.hdmGate_co (s : State) (who : Option Req) (pa n : Nat) (write : Bool) (hold rgn : Nat) :
    (s.hdmGate who pa n write hold rgn).2.co = s.co := by
  unfold State.hdmGate
  split
  · rfl
  · split
    · exact State.unwait_co s who
    · dsimp only
      split <;> exact State.waitHalf_co s who _ hold rgn

@[simp] theorem State.gateWords_co (s : State) (q : Asker) (l : List Nat) : (s.gateWords q l).2.co = s.co := by
  induction l generalizing s with
  | nil => rfl
  | cons pa l ih =>
    have hgate := State.hdmGate_co s (some q.who) pa 8 false q.hold q.rgn
    unfold State.gateWords
    split
    · next s1 h =>
      rw [h] at hgate
      rw [ih, State.rawGet_co, hgate]
    · next s1 h =>
      rw [h] at hgate
      rw [hgate]

@[simp] theorem State.l1Evict_co (s : State) (core w : Nat) : (s.l1Evict core w).co = s.co := by
  unfold State.l1Evict
  split
  · rfl
  · dsimp only
    split
    · rfl
    · split <;> simp

@[simp] theorem State.revoke_co (s : State) (home w : Nat) : (s.revoke home w).co = s.co := by
  unfold State.revoke
  split
  · simp
  · rfl

@[simp] theorem State.settle_co (s : State) (home w : Nat) : (s.settle home w).co = s.co := by simp [State.settle]

@[simp] theorem State.rawPut_co (s : State) (hold rgn pa : Nat) (v : Word) : (s.rawPut hold rgn pa v).co = s.co := by
  unfold State.rawPut
  dsimp only
  split
  · simp
  · split
    · rw [State.addFault_co, State.modFn_co]
    · simp only [State.bump_co]

@[simp] theorem State.walkNow_co (s : State) (q : Asker) (mva n l tbl : Nat) : (s.walkNow q mva n l tbl).2.co = s.co := by
  have hgate : (s.walkReady q mva n l tbl).2.co = s.co := State.gateWords_co s q _
  unfold State.walkNow
  split <;> (rename_i h; rw [h] at hgate; exact hgate)

@[simp] theorem State.findLeaf_co (s : State) (q : Asker) (k mva : Nat) : (s.findLeaf q k mva).2.co = s.co := by
  unfold State.findLeaf
  dsimp only
  split
  · split <;> simp
  · split
    · next l at_ e s1 h =>
      have hwalk := congrArg (fun x => x.2.co) h
      simp only [State.walkNow_co, State.choose_co] at hwalk
      split
      · exact (State.choose_co s1 2).trans hwalk.symm
      · exact (State.choose_co s1 2).trans hwalk.symm
    · next x s1 h =>
      have hwalk := congrArg (fun x => x.2.co) h
      simpa using hwalk.symm

@[simp] theorem State.useLeaf_co (s : State) (q : Asker) (k mva : Nat) (need : Need) (l at_ : Nat) (e : Word) :
    (s.useLeaf q k mva need l at_ e).2.co = s.co := by
  have hgate := State.hdmGate_co s (some q.who) at_ 8 true q.hold q.rgn
  unfold State.useLeaf
  dsimp only
  split
  · rfl
  split
  · rfl
  split
  · next s1 h => rwa [h] at hgate
  · next s1 h =>
    rw [h] at hgate
    split
    · exact (State.rawPut_co ..).trans hgate
    · exact (State.rawPut_co ..).trans hgate

@[simp] theorem State.translate_co (s : State) (q : Asker) (k mva : Nat) (need : Need) : (s.translate q k mva need).2.co = s.co := by
  have hfind := State.findLeaf_co s q k mva
  unfold State.translate
  split
  · next x s1 h => rwa [h] at hfind
  · next l at_ e s1 h =>
    rw [h] at hfind
    split
    · have hwalk := State.walkNow_co s1 q mva 4 3 (s1.hword q.hold 0x40)
      split
      · next x s2 h2 => rw [h2] at hwalk; exact hwalk.trans hfind
      · next l2 at2 e2 s2 h2 => rw [h2] at hwalk; rw [State.useLeaf_co]; exact hwalk.trans hfind
    · rw [State.useLeaf_co, hfind]

/-! ### The pages of an access -/

/-- The part wrote neither the cores nor the place of the present step. -/
def State.SameCores (s t : State) : Prop := t.co = s.co ∧ t.ctl.here = s.ctl.here

theorem State.SameCores.trans {s t u : State} (h : s.SameCores t) (k : t.SameCores u) : s.SameCores u :=
  ⟨k.1.trans h.1, k.2.trans h.2⟩

theorem State.sameCores_translate (s : State) (q : Asker) (k mva : Nat) (need : Need) : s.SameCores (s.translate q k mva need).2 :=
  ⟨s.translate_co q k mva need, State.here_of_kept (s.translate_kept q k mva need)⟩

theorem walksReady_co {s t : State} {addr : Word} {write : Bool} {l : List Nat} (h : walksReady s addr write l = .ok t) : t.co = s.co := by
  induction l generalizing s with
  | nil => cases h; rfl
  | cons a l ih =>
    obtain ⟨-, -, h⟩ := M.bind_eq_ok.mp h
    have hroot : (s.rootReady s.asker a).2.co = s.co := State.gateWords_co s _ _
    split at h
    · exact ih h
    · split at h
      · next s1 h1 =>
        rw [h1] at hroot
        exact (ih h).trans hroot
      · cases h

theorem sameCores_samePages {s t : State} {a b : Nat} {addr : Word} {write : Bool} (h : samePages s a b addr write = .ok t) :
    s.SameCores t := by
  refine ⟨?_, State.here_of_kept (samePages_kept h)⟩
  obtain ⟨s1, h1, h⟩ := M.bind_eq_ok.mp h
  have hwalks := walksReady_co h1
  split at h
  · split at h
    · cases h
    · cases h; exact hwalks
  · cases h; exact hwalks

theorem sameCores_transOne {s t : State} {hold k mva : Nat} {need : Need} {addr : Word} {x : Tgt}
    (h : transOne s hold k mva need addr = .ok (x, t)) : s.SameCores t := by
  unfold transOne at h
  split at h
  · split at h
    · cases h
      exact ⟨rfl, rfl⟩
    · cases h
  · split at h
    · cases h
    · have htr := s.sameCores_translate s.asker k mva need
      split at h
      · next t1 s1 h1 =>
        rw [h1] at htr
        split at h
        · cases h
        · cases h
          exact htr
      · unfold pageOut at h
        split at h <;> cases h
      · cases h
      · cases h

theorem sameCores_transParts {s t : State} {hold k mva n : Nat} {need : Need} {addr : Word} {l : List (Tgt × Nat)}
    (h : transParts s hold k mva n need addr = .ok (l, t)) : s.SameCores t := by
  unfold transParts at h
  dsimp only at h
  split at h
  · obtain ⟨⟨x, s1⟩, h1, h⟩ := M.bind_eq_ok.mp h
    cases h
    exact sameCores_transOne h1
  · obtain ⟨s1, h1, h⟩ := M.bind_eq_ok.mp h
    obtain ⟨⟨x, s2⟩, h2, h⟩ := M.bind_eq_ok.mp h
    have htwo := (sameCores_samePages h1).trans (sameCores_transOne h2)
    dsimp only at h
    split at h
    · cases h
    · cases h
      exact htwo
    · obtain ⟨⟨y, s3⟩, h3, h⟩ := M.bind_eq_ok.mp h
      cases h
      exact htwo.trans (sameCores_transOne h3)

end Sys2Proof.Machine

/-! SUPPORT. What the units of a vector instruction leave of its own slot: the thread with its generator, and whether the special function
unit has served it (R182, R227, R420). -/

namespace Sys2Proof.Machine

open Sys2Proof.Claims

/-- The state `t` comes after `s` along one instruction: the place of the present step, its thread, the thread's generator and what the special
function unit has served are as before. -/
structure State.Along (s t : State) : Prop where
  here   : t.ctl.here = s.ctl.here
  live   : s.slot.thr.isSome = true → t.slot.thr.isSome = true
  rng    : t.thr.rng = s.thr.rng
  served : t.slot.resume.served = s.slot.resume.served

namespace State.Along

variable {s t u : State}

theorem refl (s : State) : Along s s := ⟨rfl, id, rfl, rfl⟩

theorem trans (h : Along s t) (k : Along t u) : Along s u :=
  ⟨k.here.trans h.here, k.live ∘ h.live, k.rng.trans h.rng, k.served.trans h.served⟩

theorem of_slot (hhere : t.ctl.here = s.ctl.here) (hslot : t.slot = s.slot) : Along s t :=
  ⟨hhere, by rw [hslot]; exact id, by unfold State.thr; rw [hslot], by rw [hslot]⟩

theorem of_slots (hhere : t.ctl.here = s.ctl.here) (hslots : t.co.slots = s.co.slots) : Along s t := by
  refine of_slot hhere ?_
  unfold State.slot State.slotAt State.core State.slotNo
  rw [hhere, hslots]

theorem of_sameCores (h : s.SameCores t) : Along s t := of_slots h.2 (congrArg Cores.slots h.1)

theorem of_queued (h : s.Queued t) : Along s t := by
  obtain ⟨_, _, rfl⟩ := h
  exact of_slots rfl rfl

/-- The own slot changes in neither. -/
theorem modSlot (s : State) {g : Slot → Slot} (hthr : ∀ v, (g v).thr = v.thr := by exact fun _ => rfl)
    (hserved : ∀ v, (g v).resume.served = v.resume.served := by exact fun _ => rfl) : Along s (s.modSlot g) := by
  refine ⟨rfl, ?_, ?_, ?_⟩
  · rw [State.slot_modSlot, hthr]
    exact id
  · rw [State.thr_modSlot, hthr]
    rfl
  · rw [State.slot_modSlot, hserved]

theorem pin (s : State) : Along s s.pin := by
  unfold State.pin State.modThr State.setThr
  refine ⟨rfl, ?_, ?_, ?_⟩
  · rw [State.slot_modSlot]
    exact fun _ => rfl
  · rw [State.thr_modSlot]
    rfl
  · rw [State.slot_modSlot]

theorem choose (s : State) (n : Nat) : Along s (s.choose n).2 := of_slots (State.here_of_kept (s.choose_kept n)) (congrArg Cores.slots (s.choose_co n))

theorem holdOn (s : State) (keys : List Nat) : Along s (s.holdOn keys) := modSlot s

theorem destUnit (s : State) : Along s s.destUnit := modSlot s

theorem startAt (s : State) (r : Ref) : Along s (s.startAt r).2.2 :=
  modSlot s (g := fun v => { v with resume := { v.resume with cur := (s.slot.unit, r.word) } })

theorem restAt (s : State) : Along s s.restAt.2.2 := modSlot s (g := fun v => { v with resume := { v.resume with cur := v.resume.own } })

theorem goOn (s : State) (r : Ref) (redirs : Nat) : Along s (s.goOn r redirs) := modSlot s

theorem newStore (s : State) (parts : Nat) (bank : Option Nat) : Along s (s.newStore parts bank).2 :=
  modSlot s (g := fun v => Slot.redrain { v with issued := s.slot.issued + 1, stores := v.stores ++ [(⟨s.slot.issued + 1, parts, true, bank⟩ : StoreOut)] })

theorem toPost (s : State) (l : List PqEnt) : Along s (s.toPost l) := modSlot s

theorem busyOn (s : State) (vu : Bool) (ws : List Nat) : Along s (s.busyOn vu ws) := by
  unfold State.busyOn
  split
  · exact refl s
  · have hid : Along s s.newId.2 := of_slots rfl rfl
    exact hid.trans (modSlot _ (g := fun v => { v with busyAt := some s.newId.1, busy := s.newId.2.physWords ws, vu := vu }))

theorem busyOff (s : State) (ws : List Nat) : Along s (s.busyOff ws) := by
  unfold State.busyOff
  split
  · exact refl s
  · exact modSlot s

theorem foldl {α : Type} {f : State → α → State} (hf : ∀ s a, Along s (f s a)) (l : List α) (s : State) : Along s (l.foldl f s) :=
  List.foldlRecOn l f (motive := Along s) (.refl s) fun t ht a _ => ht.trans (hf t a)

/-! ### Wakings and retags -/

theorem modSlotAt (s : State) (core slot : Nat) {g : Slot → Slot} (hthr : ∀ v, (g v).thr = v.thr) (hres : ∀ v, (g v).resume = v.resume) :
    Along s (s.modSlotAt core slot g) := by
  by_cases hk : slotKey s.core s.slotNo = slotKey core slot
  · have hown : (s.modSlotAt core slot g).slot = g s.slot := by
      show Tab.get {} (Tab.set {} s.co.slots (slotKey core slot) (g (s.slotAt core slot))) (slotKey s.core s.slotNo) = _
      rw [hk, Tab.get_set_same, State.slot, State.slotAt, State.slotAt, hk]
    refine ⟨rfl, ?_, ?_, ?_⟩
    · rw [hown, hthr]
      exact id
    · unfold State.thr
      rw [hown, hthr]
    · rw [hown, hres]
  · exact of_slot rfl (Tab.get_set_other _ _ _ hk)

theorem wakeIf (s : State) (core : Nat) (p : Slot → Park → Bool) : Along s (s.wakeIf core p) := by
  refine foldl (fun s k => ?_) _ s
  split
  · split
    · exact modSlotAt s core k (fun _ => rfl) fun _ => rfl
    · exact refl s
  · exact refl s

theorem setTag (s : State) (core hold w : Nat) (x : BitVec 4) : Along s (s.setTag core hold w x) := by
  have htag : Along s { s with co := { s.co with tag := Tab.set 0 s.co.tag (tagKey core (s.winPhys hold (8 * w) / 8)) x } } := of_slots rfl rfl
  unfold State.setTag
  exact htag.trans (wakeIf _ core _)

theorem retag (s : State) (core hold : Nat) (acts : List (Nat × Nat)) : Along s (s.retag core hold acts) := by
  refine foldl (fun s a => ?_) acts s
  dsimp only
  split
  · exact setTag s core hold _ _
  · exact refl s

theorem winMerge (s : State) (core hold rgn : Nat) (vals : List (Nat × BitsOf)) : Along s (s.winMerge core hold rgn vals) := by
  refine of_slot ?_ (s.winMerge_slot core hold rgn vals)
  rw [State.winMerge_eq]
  refine foldl_keeps (fun s : State => s.ctl.here) (fun s b => ?_) _ s
  unfold State.mergeBeat
  dsimp only
  split
  · exact congrArg Ctl.here (State.winBeat_wrote ..).ctl
  · split
    · exact congrArg Ctl.here (State.winBeat_wrote ..).ctl
    · exact foldl_keeps (fun s : State => s.ctl.here) (fun _ _ => congrArg Ctl.here (State.winPut_wrote ..).ctl) _ s

end State.Along

/-! ### Where a unit lands -/

open State (Along)

theorem along_locate {kind n al : Nat} {need : Need} {move : Bool} {fuel : Nat} {s t : State} {r r' : Ref} {redirs k : Nat} {hit : Hit}
    (h : locate kind n al need move fuel s r redirs = .ok (hit, r', k, t)) : Along s t := by
  induction fuel generalizing s r redirs with
  | zero => cases h
  | succ fuel ih =>
    obtain ⟨p, -, h⟩ := M.bind_eq_ok.mp h
    cases p with
    | win core off =>
      obtain ⟨-, -, h⟩ := M.bind_eq_ok.mp h
      split at h
      · obtain ⟨-, -, h⟩ := M.bind_eq_ok.mp h
        split at h
        · cases h
        · cases h
        · cases h
        · split at h
          · cases h
          split at h
          · cases h
          · exact (Along.pin s).trans (ih h)
        · cases h
          exact .pin _
      · split at h
        · cases h
        · cases h
          exact .refl _
    | mva a =>
      obtain ⟨⟨parts, s1⟩, h1, h⟩ := M.bind_eq_ok.mp h
      obtain ⟨-, -, h⟩ := M.bind_eq_ok.mp h
      split at h
      · cases h
      · cases h
        exact .of_sameCores (sameCores_transParts h1)

/-! ### Units that read -/

theorem along_unitOnce {k : State → M (List Byte × State)} (hk : ∀ {u v d}, k u = .ok (d, v) → Along u v) {s t : State} {d : List Byte}
    (h : unitOnce s k = .ok (d, t)) : Along s t := by
  have hnext : Along s (s.modSlot fun v => { v with unit := s.slot.unit + 1 }) := .modSlot s
  unfold unitOnce at h
  dsimp only at h
  split at h
  · cases h
    exact hnext
  split at h
  · cases h
  · obtain ⟨⟨d', s1⟩, h1, h⟩ := M.bind_eq_ok.mp h
    dsimp only at h
    split at h
    · cases h
    · cases h
      exact hnext.trans ((hk h1).trans (.trans (.modSlot s1) (.choose _ 2)))

/-- A read that is sent answers later (R182). -/
theorem State.sendRead_waits {s t : State} {parts : List (Tgt × Nat × Nat)} {size al redirs : Nat} {addr : Word} {d : List Byte} :
    s.sendRead parts size al addr redirs ≠ .ok (d, t) := by
  intro h
  obtain ⟨-, -, h⟩ := M.bind_eq_ok.mp h
  cases h

/-- What a unit of the own bank leaves when it has been performed: its retags, and the pointer at which its rest goes on. -/
theorem State.Along.performed {s t : State} (h : Along s t) (acts : List (Nat × Nat)) (ws : List Nat) (r : Ref) (k : Nat) (c : Prop) [Decidable c] :
    Along s (if c then ((t.retag t.core t.thr.hold acts).busyOff ws).goOn r k else (t.retag t.core t.thr.hold acts).busyOff ws) := by
  have hdone := h.trans ((Along.retag t t.core t.thr.hold acts).trans (.busyOff _ ws))
  split
  · exact hdone.trans (.goOn ..)
  · exact hdone

theorem along_readFrom {kind n al redirs : Nat} {need : Need} {s t : State} {r : Ref} {d : List Byte}
    (h : readFrom kind need s r redirs n al = .ok (d, t)) : Along s t := by
  obtain ⟨⟨hit, r', k, s1⟩, h1, h⟩ := M.bind_eq_ok.mp h
  have hloc := along_locate h1
  cases hit with
  | here off acts =>
    dsimp only at h
    split at h
    · cases h
    · cases h
      exact hloc.performed ..
  | far core off =>
    obtain ⟨-, -, h⟩ := M.bind_eq_ok.mp h
    exact absurd h State.sendRead_waits
  | glob parts =>
    obtain ⟨-, -, h⟩ := M.bind_eq_ok.mp h
    exact absurd h State.sendRead_waits

theorem along_unitRd {kind n al : Nat} {need : Need} {s t : State} {r : Ref} {d : List Byte} (h : unitRd kind need s r n al = .ok (d, t)) :
    Along s t := by
  obtain ⟨⟨d1, s1⟩, h1, h⟩ := M.bind_eq_ok.mp h
  have hfirst := along_unitOnce (fun {u v e} hu => (Along.startAt u r).trans (along_readFrom hu)) h1
  dsimp only at h
  split at h
  · cases h
    exact hfirst
  · obtain ⟨⟨d2, s2⟩, h2, h⟩ := M.bind_eq_ok.mp h
    cases h
    exact hfirst.trans (along_unitOnce (fun {u v e} hu => (Along.restAt u).trans (along_readFrom hu)) h2)

theorem along_readShape {s t : State} {p : Word} {d : Shape} (h : readShape s p = .ok (d, t)) : Along s t := by
  unfold readShape at h
  split at h
  · cases h
  · obtain ⟨⟨bs, s1⟩, h1, h⟩ := M.bind_eq_ok.mp h
    dsimp only at h
    split at h
    · cases h
      exact along_unitRd h1
    · cases h

/-! ### Line units -/

theorem along_lineLook {kind : Nat} {need : Need} {s t : State} {touched : List Nat} {x : LineHit} (h : lineLook kind need s touched = .ok (x, t)) :
    Along s t := by
  have hstart := (Along.pin s).trans (.startAt s.pin (Ref.mk 0 (touched.headD 0 : Nat)))
  unfold lineLook at h
  dsimp only at h
  split at h
  · obtain ⟨⟨hit, r, k, s1⟩, h1, h⟩ := M.bind_eq_ok.mp h
    cases h
    exact hstart.trans (along_locate h1)
  · obtain ⟨-, -, h⟩ := M.bind_eq_ok.mp h
    split at h
    · cases h
    · cases h
    · cases h
    · split at h
      · cases h
      · obtain ⟨⟨hit, r, k, s1⟩, h1, h⟩ := M.bind_eq_ok.mp h
        cases h
        exact hstart.trans (along_locate h1)
    · cases h
      exact hstart

theorem along_redirRd {s t : State} {hit : Hit} {r : Ref} {k n pad : Nat} {d : List Byte} (h : redirRd s hit r k n pad = .ok (d, t)) : Along s t := by
  cases hit with
  | here off acts =>
    unfold redirRd at h
    dsimp only at h
    split at h
    · cases h
    · cases h
      exact (Along.refl s).performed ..
  | far core off =>
    obtain ⟨-, -, h⟩ := M.bind_eq_ok.mp h
    exact absurd h State.sendRead_waits
  | glob parts =>
    obtain ⟨-, -, h⟩ := M.bind_eq_ok.mp h
    exact absurd h State.sendRead_waits

theorem along_lineRd {s t : State} {line : Nat} {touched : List Nat} {d : List Byte} (h : lineRd s line touched = .ok (d, t)) : Along s t := by
  obtain ⟨⟨d1, s1⟩, h1, h⟩ := M.bind_eq_ok.mp h
  have hfirst : Along s s1 := by
    refine along_unitOnce (fun {u v e} hu => ?_) h1
    obtain ⟨⟨x, u1⟩, hlook, hu⟩ := M.bind_eq_ok.mp hu
    have hl := along_lineLook hlook
    cases x with
    | own acts =>
      dsimp only at hu
      split at hu
      · cases hu
      · cases hu
        exact hl.trans ((Along.retag ..).trans (.busyOff ..))
    | other lo hit r k => exact hl.trans (along_redirRd hu)
  dsimp only at h
  split at h
  · cases h
    exact hfirst
  · obtain ⟨⟨d2, s2⟩, h2, h⟩ := M.bind_eq_ok.mp h
    cases h
    refine hfirst.trans (along_unitOnce (fun {u v e} hu => ?_) h2)
    obtain ⟨⟨hit, r, k, u1⟩, hloc, hu⟩ := M.bind_eq_ok.mp hu
    exact (Along.restAt u).trans ((along_locate hloc).trans (along_redirRd hu))

theorem along_readLines {touched l : List Nat} {s t : State} {x : List (Nat × List Byte)} (h : readLines s touched l = .ok (x, t)) : Along s t := by
  induction l generalizing s x with
  | nil =>
    cases h
    exact .refl _
  | cons a l ih =>
    obtain ⟨⟨d, s1⟩, h1, h⟩ := M.bind_eq_ok.mp h
    obtain ⟨⟨y, s2⟩, h2, h⟩ := M.bind_eq_ok.mp h
    cases h
    exact (along_lineRd h1).trans (ih h2)

/-- Reading its shapes' codes keeps the thread of a vector instruction. -/
theorem along_readShapes {s t : State} {d srcs : List Shape} {vu : Bool} {cs : List (List Nat)} (h : readShapes s d srcs vu = .ok (cs, t)) :
    Along s t := by
  unfold readShapes at h
  split at h
  · cases h
  · obtain ⟨⟨ls, s1⟩, h1, h⟩ := M.bind_eq_ok.mp h
    cases h
    exact (Along.holdOn s _).trans ((Along.busyOn ..).trans (along_readLines h1))

/-! ### Units that write -/

theorem along_farStore {s t : State} {core off al redirs : Nat} {vals : List (Nat × BitsOf)} {r : Ref}
    (h : farStore s core off vals al r redirs = .ok t) : Along s t := by
  obtain ⟨-, -, h⟩ := M.bind_eq_ok.mp h
  cases h
  exact (Along.newStore s _ _).trans (.toPost ..)

theorem along_storeBytes {s t : State} {ts : List (Tgt × BitsOf)} {addr : Word} {k : Nat} (h : storeBytes s ts addr k = .ok t) : Along s t := by
  obtain ⟨-, -, h⟩ := M.bind_eq_ok.mp h
  cases h
  exact (Along.newStore s _ _).trans ((Along.modSlot _).trans (.toPost ..))

theorem along_redirWr {s t : State} {hit : Hit} {r : Ref} {k : Nat} {vals : List (Nat × BitsOf)} {d : List Byte}
    (h : redirWr s hit r k vals = .ok (d, t)) : Along s t := by
  cases hit with
  | here off acts =>
    unfold redirWr at h
    dsimp only at h
    split at h
    · cases h
      exact (Along.winMerge ..).trans ((Along.retag ..).trans ((Along.busyOff ..).trans (.goOn ..)))
    · cases h
      exact (Along.winMerge ..).trans ((Along.retag ..).trans (.busyOff ..))
  | far core off =>
    obtain ⟨s1, h1, h⟩ := M.bind_eq_ok.mp h
    cases h
    exact along_farStore h1
  | glob parts =>
    unfold redirWr at h
    dsimp only at h
    split at h
    · cases h
    · obtain ⟨s1, h1, h⟩ := M.bind_eq_ok.mp h
      cases h
      exact along_storeBytes h1

theorem along_lineWr {s t : State} {vals : List (Nat × BitsOf)} (h : lineWr s vals = .ok t) : Along s t := by
  obtain ⟨⟨d, s1⟩, h1, h⟩ := M.bind_eq_ok.mp h
  have hfirst : Along s s1 := by
    refine along_unitOnce (fun {u v e} hu => ?_) h1
    obtain ⟨⟨x, u1⟩, hlook, hu⟩ := M.bind_eq_ok.mp hu
    have hl := (Along.destUnit u).trans (along_lineLook hlook)
    cases x with
    | own acts =>
      cases hu
      exact hl.trans ((Along.winMerge ..).trans ((Along.retag ..).trans (.busyOff ..)))
    | other lo hit r k => exact hl.trans (along_redirWr hu)
  cases d with
  | nil =>
    cases h
    exact hfirst
  | cons m d =>
    obtain ⟨⟨e, s2⟩, h2, h⟩ := M.bind_eq_ok.mp h
    cases h
    refine hfirst.trans (along_unitOnce (fun {u v e} hu => ?_) h2)
    obtain ⟨⟨hit, r, k, u1⟩, hloc, hu⟩ := M.bind_eq_ok.mp hu
    exact (Along.destUnit u).trans ((Along.restAt _).trans ((along_locate hloc).trans (along_redirWr hu)))

theorem along_writeLines {vals : List (Nat × BitsOf)} {l : List Nat} {s t : State} (h : writeLines s vals l = .ok t) : Along s t := by
  induction l generalizing s with
  | nil =>
    cases h
    exact .refl _
  | cons a l ih =>
    obtain ⟨s1, h1, h⟩ := M.bind_eq_ok.mp h
    exact (along_lineWr h1).trans (ih h)

/-- Writing its codes keeps the thread of a vector instruction. -/
theorem along_endShapes {s t : State} {d : Shape} {srcs : List Shape} {codes : List Nat} (h : endShapes s d srcs codes = .ok t) : Along s t := by
  have hpop := fun u : State => Along.of_queued (u.queued_popShapes srcs)
  unfold endShapes at h
  split at h
  · cases h
    exact hpop s
  split at h
  · cases h
    exact (hpop s).trans (.of_queued (State.queued_pushShape ..))
  · obtain ⟨u, hu, h⟩ := M.bind_eq_ok.mp h
    cases h
    exact (along_writeLines hu).trans (hpop u)

end Sys2Proof.Machine

/-! SUPPORT. Vector instructions of one source shape, VCMP, VSEL and VFILL: with their elements at hand, and in a window of plain data
(R406, R410 to R415, R417, R420). -/

namespace Sys2Proof.Machine

open Sys2Proof.Claims

/-! ### A thread whose generator stays -/

theorem Tab.put_put {α : Type} (t : Tab α) (k : Nat) (v w : α) : Tab.put (Tab.put t k v) k w = Tab.put t k w := by
  induction t with
  | nil => simp [Tab.put]
  | cons q t ih =>
    obtain ⟨k', v'⟩ := q
    simp only [Tab.put]
    split
    · simp [Tab.put]
    · next hne =>
      split
      · simp [Tab.put]
      · next hlt => simp only [Tab.put, if_neg hne, if_neg hlt, ih]

theorem Tab.del_put {α : Type} (t : Tab α) (k : Nat) (v : α) : Tab.del (Tab.put t k v) k = Tab.del t k := by
  simp only [Tab.del_eq_filter]
  exact Tab.filter_put t k v fun _ => by simp

/-- A second write to a key replaces the first, where that put an entry. -/
theorem Tab.set_set {α : Type} [DecidableEq α] {d v : α} (hv : v ≠ d) (t : Tab α) (k : Nat) (w : α) :
    Tab.set d (Tab.set d t k v) k w = Tab.set d t k w := by
  unfold Tab.set
  rw [if_neg hv]
  split
  · exact Tab.del_put t k v
  · exact Tab.put_put t k v w

/-- Writing a slot that has a thread back changes nothing of what is then done to it. -/
theorem State.modSlot_setSlot_same {e : State} (hlive : e.slot.thr.isSome = true) (g : Slot → Slot) :
    (e.setSlot e.slot).modSlot g = e.modSlot g := by
  have hne : e.slot ≠ {} := fun hc => by
    rw [hc] at hlive
    cases hlive
  have hslot : (e.setSlot e.slot).slot = e.slot := State.slotAt_setSlotAt e e.core e.slotNo e.slot
  have htwice : (e.setSlot e.slot).setSlot (g e.slot) = e.setSlot (g e.slot) := by
    unfold State.setSlot State.setSlotAt
    exact congrArg (fun l => { e with co := { e.co with slots := l } }) (Tab.set_set hne ..)
  exact (congrArg (fun v => (e.setSlot e.slot).setSlot (g v)) hslot).trans htwice

/-- Giving its thread the generator that it has changes nothing of the completion of an instruction. -/
theorem State.finish_same_rng {e : State} {g : BitVec 32} (hlive : e.slot.thr.isSome = true) (hg : g = e.thr.rng) (f : Fields) (core : Nat) :
    (e.modThr fun t => { t with rng := g }).finish f core = e.finish f core := by
  obtain ⟨t, ht⟩ := Option.isSome_iff_exists.mp hlive
  have hthr : e.thr = t := by
    unfold State.thr
    rw [ht]
    rfl
  have hsame : ({ e.slot with thr := some { e.thr with rng := g } } : Slot) = e.slot := by
    rw [hg, hthr, show some { t with rng := t.rng } = e.slot.thr from ht.symm]
  have hback : e.modThr (fun t => { t with rng := g }) = e.setSlot e.slot := congrArg e.setSlot hsame
  unfold State.finish
  rw [hback, State.modSlot_setSlot_same hlive]

/-- An instruction that leaves its thread's generator completes also where the generator is written back. -/
theorem completes_same_rng {i : Instr} {f : Fields} {s e : State} {g : BitVec 32} (hlive : e.slot.thr.isSome = true) (hg : g = e.thr.rng)
    (h : Completes i f s e) : Completes i f s (e.modThr fun t => { t with rng := g }) := by
  unfold Completes at h ⊢
  rw [h, State.finish_same_rng hlive hg]

/-! ### Instructions of one source shape -/

open State (Along)

/-- Reading two shapes goes along the instruction. -/
theorem along_twoShapes {f : Fields} {s s2 : State} {d a : Shape} (h : TwoShapes f s d a s2) : Along s s2 := by
  obtain ⟨⟨s1, hd, ha⟩, -, -, -⟩ := h
  exact (along_readShape hd).trans (along_readShape ha)

section Unary

variable {f : Fields} {s s2 s4 s5 : State} {d a : Shape} {cs : List (List Nat)}

theorem completes_vcvt (h : ready (.vcvt f) s = true) (hs : TwoShapes f s d a s2) (hcount : a.count = d.count)
    (hread : readShapes s2 [d] [a] = .ok (cs, s4)) :
    let r := drawn f s4 d (fun rm => cvtElem a.efmt d.efmt rm (mdSat f.md) s4.thr.fpm) ((cs.headD []).map (decodeNum a.efmt))
    endShapes s4 d [a] r.1 = .ok s5 → Completes (.vcvt f) f s (s5.modThr fun t => { t with rng := r.2 }) := by
  intro r hend
  obtain ⟨⟨s1, hd, ha⟩, hok, hin, hfmt⟩ := hs
  have hfam : ¬ (fmtBad f d = true) := by simp [fmtBad_eq_false hfmt]
  exact completes_of_body (show execVcvt f s = _ from rfl) rfl h (M.bind_ok hd (M.bind_ok ha (M.bind_ok hok (M.check_ok hfam
    (M.check_ok (not_not.mpr hcount) (M.bind_ok hin (M.bind_ok hread (M.bind_ok hend rfl))))))))

theorem completes_vred (h : ready (.vred f) s = true) (hs : TwoShapes f s d a s2) (hfloat : a.float = d.float) (hone : d.count = 1)
    (hread : readShapes s2 [d] [a] = .ok (cs, s4)) :
    let r := drawn f s4 d (fun rm g x => if a.count = 0 ∧ f.fn.toNat ≠ 0 then redEmpty f.fn.toNat d.efmt else encElem d.efmt rm (mdSat f.md) s4.thr.fpm g x)
      [redValue f.fn.toNat a.efmt ((cs.headD []).map (decodeNum a.efmt))]
    endShapes s4 d [a] r.1 = .ok s5 → Completes (.vred f) f s (s5.modThr fun t => { t with rng := r.2 }) := by
  intro r hend
  obtain ⟨⟨s1, hd, ha⟩, hok, hin, hfmt⟩ := hs
  have hfam : ¬ ((fmtBad f d || a.float ≠ d.float) = true) := by simp [fmtBad_eq_false hfmt, hfloat]
  have hempty : ((decide (a.count = 0) && decide (f.fn.toNat ≠ 0)) = true) = (a.count = 0 ∧ f.fn.toNat ≠ 0) := by simp
  refine completes_of_body (show execVred f s = _ from rfl) rfl h (M.bind_ok hd (M.bind_ok ha (M.bind_ok hok (M.check_ok hfam
    (M.check_ok (not_not.mpr hone) (M.bind_ok hin (M.bind_ok hread ?_)))))))
  dsimp only
  simp only [hempty]
  exact M.bind_ok hend rfl

theorem completes_vscan (h : ready (.vscan f) s = true) (hs : TwoShapes f s d a s2) (hfloat : a.float = d.float) (hcount : a.count = d.count)
    (hread : readShapes s2 [d] [a] = .ok (cs, s4)) :
    let r := scanAll (s4.rm f.md = .rsto && d.float) d.efmt (s4.rm f.md) (mdSat f.md) s4.thr.fpm s4.thr.rng (.zero false)
      ((cs.headD []).map (decodeNum a.efmt))
    endShapes s4 d [a] r.1 = .ok s5 → Completes (.vscan f) f s (s5.modThr fun t => { t with rng := r.2 }) := by
  intro r hend
  obtain ⟨⟨s1, hd, ha⟩, hok, hin, hfmt⟩ := hs
  have hfam : ¬ ((fmtBad f d || a.float ≠ d.float) = true) := by simp [fmtBad_eq_false hfmt, hfloat]
  exact completes_of_body (show execVscan f s = _ from rfl) rfl h (M.bind_ok hd (M.bind_ok ha (M.bind_ok hok (M.check_ok hfam
    (M.check_ok (not_not.mpr hcount) (M.bind_ok hin (M.bind_ok hread (M.bind_ok hend rfl))))))))

theorem completes_vcopy (h : ready (.vcopy f) s = true) (hs : TwoShapes f s d a s2) (hfmts : a.efmt = d.efmt) (hcount : a.count = d.count)
    (hread : readShapes s2 [d] [a] = .ok (cs, s4)) (hend : endShapes s4 d [a] (cs.headD []) = .ok s5) : Completes (.vcopy f) f s s5 := by
  obtain ⟨⟨s1, hd, ha⟩, hok, hin, hfmt⟩ := hs
  have hfam : ¬ ((fmtBad f d || a.efmt ≠ d.efmt) = true) := by simp [fmtBad_eq_false hfmt, hfmts]
  exact completes_of_body (show execVcopy f s = _ from rfl) rfl h (M.bind_ok hd (M.bind_ok ha (M.bind_ok hok (M.check_ok hfam
    (M.check_ok (not_not.mpr hcount) (M.bind_ok hin (M.bind_ok hread (M.bind_ok hend rfl))))))))

/-- A VSFN that the unit has served needs no place at it, and sends it nothing (R420). -/
theorem completes_vsfn (h : ready (.vsfn f) s = true) (hs : TwoShapes f s d a s2) (hfa : a.float = true) (hfd : d.float = true) (hea : a.efmt ≠ 13)
    (hed : d.efmt ≠ 13) (hcount : a.count = d.count) (hserved : s2.slot.resume.served = true)
    (hread : readShapes s2 [d] [a] false = .ok (cs, s4)) :
    let r := drawn f s4 d (fun rm => vsfnElem f.fn.toNat d.efmt rm (mdSat f.md) s4.thr.fpm) ((cs.headD []).map (decodeNum a.efmt))
    endShapes s4 d [a] r.1 = .ok s5 → Completes (.vsfn f) f s (s5.modThr fun t => { t with rng := r.2 }) := by
  intro r hend
  obtain ⟨⟨s1, hd, ha⟩, hok, hin, hfmt⟩ := hs
  have hfam : ¬ ((fmtBad f d || !d.float || !a.float || d.efmt = 13 || a.efmt = 13) = true) := by
    simp [fmtBad_eq_false hfmt, hfa, hfd, hea, hed]
  have hroom : sfuRoom s2 = .ok () := by
    unfold sfuRoom
    rw [hserved, Bool.not_true, Bool.and_false]
    rfl
  have hsend : sendVec s4 f.fn.toNat = .ok () := by
    unfold sendVec
    rw [(along_readShapes hread).served, hserved]
    rfl
  refine completes_of_body (show execVsfn f s = _ from rfl) rfl h (M.bind_ok hd (M.bind_ok ha (M.bind_ok hok (M.check_ok hfam
    (M.check_ok (not_not.mpr hcount) (M.bind_ok hin ?_))))))
  dsimp only
  rw [hserved, Bool.not_true, if_neg Bool.false_ne_true]
  exact M.bind_ok hroom (M.bind_ok hread (M.bind_ok hsend (M.bind_ok hend rfl)))

end Unary

theorem vectorUnary : VectorUnary := by
  intro p hp f s d a s2 cs s4 s5 h hs hfit hread r hend
  fin_cases hp
  · exact completes_vcvt h hs hfit hread hend
  · exact completes_vred h hs hfit.1 hfit.2 hread hend
  · exact completes_vscan h hs hfit.1 hfit.2 hread hend
  · have hlast := along_endShapes hend
    have hall : Along s s5 := (along_twoShapes hs).trans ((along_readShapes hread).trans hlast)
    exact completes_same_rng (hall.live (by rw [ready_thread h]; rfl)) hlast.rng.symm (completes_vcopy h hs hfit.1 hfit.2 hread hend)
  · obtain ⟨hfa, hfd, hea, hed, hcount, hserved⟩ := hfit
    exact completes_vsfn h hs hfa hfd hea hed hcount hserved hread hend

/-! ### One source shape in a window of plain data -/

theorem length_scanAll (draws : Bool) (fmt : Nat) (rm : Rm) (sat : Bool) (fpm : BitVec 4) (xs : List ExtNum) (g : BitVec 32) (p : ExtNum) :
    (scanAll draws fmt rm sat fpm g p xs).1.length = xs.length := by
  induction xs generalizing g p with
  | nil => rfl
  | cons x xs ih => exact congrArg (· + 1) (ih ..)

theorem length_drawn (f : Fields) (s : State) (d : Shape) (enc : Rm → BitVec 32 → ExtNum → Nat) (xs : List ExtNum) :
    (drawn f s d enc xs).1.length = xs.length := length_drawAll ..

/-- An instruction of one source shape that fits gives a code for each element of D. -/
theorem length_unaryCodes : ∀ p ∈ unaryTable, ∀ {f : Fields} {s : State} {d a : Shape} {ca : List Nat}, p.fits s d a → ca.length = a.count →
    (p.codes f s d a ca).1.length = d.count := by
  intro p hp f s d a ca hfit hlen
  fin_cases hp
  · exact (length_drawn ..).trans ((List.length_map ..).trans (hlen.trans hfit))
  · exact (length_drawn ..).trans hfit.2.symm
  · exact (length_scanAll ..).trans ((List.length_map ..).trans (hlen.trans hfit.2))
  · exact hlen.trans hfit.2
  · obtain ⟨-, -, -, -, hcount, -⟩ := hfit
    exact (length_drawn ..).trans ((List.length_map ..).trans (hlen.trans hcount))

namespace Midst

variable {s t : State} {m : Nat → Byte}

theorem drawn (h : Midst s m t) (f : Fields) (d : Shape) (enc : Rm → BitVec 32 → ExtNum → Nat) (xs : List ExtNum) :
    Claims.drawn f t d enc xs = Claims.drawn f s d enc xs := by
  unfold Claims.drawn
  rw [h.rm, h.rng]

/-- The codes of an instruction of one source shape do not depend on its units. -/
theorem unaryCodes (h : Midst s m t) : ∀ p ∈ unaryTable, ∀ (f : Fields) (d a : Shape) (ca : List Nat), p.codes f t d a ca = p.codes f s d a ca := by
  intro p hp f d a ca
  fin_cases hp
  · simp only [h.drawn, h.fpm]
  · simp only [h.drawn, h.fpm]
  · simp only [h.rm, h.fpm, h.rng]
  · simp only [h.rng]
  · simp only [h.drawn, h.fpm]

theorem unaryFits (h : Midst s m t) : ∀ p ∈ unaryTable, ∀ {d a : Shape}, p.fits s d a → p.fits t d a := by
  intro p hp d a hfit
  fin_cases hp
  pick_goal 5
  · obtain ⟨hfa, hfd, hea, hed, hcount, hserved⟩ := hfit
    exact ⟨hfa, hfd, hea, hed, hcount, h.slot.served.trans hserved⟩
  all_goals exact hfit

end Midst

theorem unaryInWindow : UnaryInWindow := by
  intro p hp f s d a h hs hd ha hfmt hfit hgo r
  obtain ⟨s2, hshapes, m2⟩ := twoShapes_of_at (Midst.start h hs) hs hd ha hfmt
  obtain ⟨s4, h4, m4⟩ := m2.readShapes hs hgo (by simpa using shapeAt_inside ha) p.vu
  have hcodes := m4.unaryCodes p hp f d a ((s.codesOf (winByte s) [] [a]).headD [])
  obtain ⟨u, hu, hmid⟩ := m4.endShapes hs (shapeAt_inside hd) [a] (length_unaryCodes p hp (f := f) hfit (length_codesOf_head s (winByte s) a [])).le
  rw [← hcodes] at hu
  refine ⟨_, vectorUnary p hp f s d a s2 _ s4 _ h hshapes (m2.unaryFits p hp hfit) h4 hu, ?_⟩
  rw [hcodes]
  exact vecDone_rng (vecDone hmid hmid.rng) _

/-! ### VCMP, VSEL and VFILL -/

section Select

variable {f : Fields} {s : State}

theorem completes_vcmp {d a : Shape} {b : Option Shape} {s3 s4 s5 : State} {cs : List (List Nat)} (h : ready (.vcmp f) s = true)
    (hs : ThreeShapes f s d a b s3) (hint : d.float = false) (hfb : ∀ h ∈ b, h.float = a.float)
    (hread : readShapes s3 [d] (a :: b.toList) = .ok (cs, s4)) (hend : endShapes s4 d (a :: b.toList) (cmpCodes f d a b cs) = .ok s5) :
    Completes (.vcmp f) f s s5 := by
  obtain ⟨⟨s1, s2, hd, ha, hb⟩, hok, hin, hfmt, hca, hcb⟩ := hs
  have hfam : ¬ ((fmtBad f d || d.float || b.any (fun h => h.float ≠ a.float)) = true) := by
    have hsame : b.any (fun h => decide (h.float ≠ a.float)) = false := by
      cases b with
      | none => rfl
      | some g => simp [hfb g rfl]
    rw [fmtBad_eq_false hfmt, hint, hsame]
    exact Bool.false_ne_true
  exact completes_of_body (show execVcmp f s = _ from rfl) rfl h (M.bind_ok hd (M.bind_ok ha (M.bind_ok hb (M.bind_ok hok (M.check_ok hfam
    (M.check_ok (counts_ok hca hcb) (M.bind_ok hin (M.bind_ok hread (M.bind_ok hend rfl)))))))))

theorem completes_vsel {d a b c : Shape} {s1 s2 s3 s4 s5 s6 : State} {cs : List (List Nat)} (h : ready (.vsel f) s = true)
    (hd : readShape s (s.g f.d) = .ok (d, s1)) (ha : readShape s1 (s1.g f.a) = .ok (a, s2)) (hb : readShape s2 (s2.g f.b) = .ok (b, s3))
    (hc : readShape s3 (s3.thr.gpr (bits f.imm.toNat 4 0)) = .ok (c, s4)) (hok : shapesOk f s s4 [d, a, b, c] = .ok ())
    (hfmt : mdFmt f.md = 0 ∨ mdFmt f.md = d.efmt) (hint : c.float = false) (hea : a.efmt = d.efmt) (heb : b.efmt = d.efmt)
    (hca : a.count = d.count) (hcb : b.count = d.count) (hcc : c.count = d.count) (hin : shapesIn s4 [d, a, b, c] = .ok ())
    (hread : readShapes s4 [d] [a, b, c] = .ok (cs, s5)) (hend : endShapes s5 d [a, b, c] (selCodes cs) = .ok s6) :
    Completes (.vsel f) f s s6 := by
  have hfam : ¬ ((fmtBad f d || c.float || a.efmt ≠ d.efmt || b.efmt ≠ d.efmt) = true) := by simp [fmtBad_eq_false hfmt, hint, hea, heb]
  have hcount : ¬ (([d, a, b, c].any fun h => h.count ≠ d.count) = true) := by simp [hca, hcb, hcc]
  exact completes_of_body (show execVsel f s = _ from rfl) rfl h (M.bind_ok hd (M.bind_ok ha (M.bind_ok hb (M.bind_ok hc (M.bind_ok hok
    (M.check_ok hfam (M.check_ok hcount (M.bind_ok hin (M.bind_ok hread (M.bind_ok hend rfl))))))))))

theorem completes_vfill {d : Shape} {s1 s2 s3 : State} {cs : List (List Nat)} (h : ready (.vfill f) s = true)
    (hd : readShape s (s.g f.d) = .ok (d, s1)) (hok : shapesOk f s s1 [d] = .ok ()) (hfmt : mdFmt f.md = 0 ∨ mdFmt f.md = d.efmt)
    (hin : shapesIn s1 [d] = .ok ()) (hread : readShapes s1 [d] [] = .ok (cs, s2)) :
    let r := fillCodes f s2 d
    endShapes s2 d [] r.1 = .ok s3 → Completes (.vfill f) f s (s3.modThr fun t => { t with rng := r.2 }) := by
  intro r hend
  have hfam : ¬ (fmtBad f d = true) := by simp [fmtBad_eq_false hfmt]
  by_cases hcls : f.a.cls = .G
  · have hr : r = (List.replicate d.count ((s2.g f.a).toNat % 2 ^ d.w), s2.thr.rng) := if_pos hcls
    rw [hr] at hend ⊢
    have hlast := along_endShapes hend
    have hall : Along s s3 := (along_readShape hd).trans ((along_readShapes hread).trans hlast)
    refine completes_same_rng (hall.live (by rw [ready_thread h]; rfl)) hlast.rng.symm ?_
    refine completes_of_body (show execVfill f s = _ from rfl) rfl h (M.bind_ok hd (M.bind_ok hok (M.check_ok hfam
      (M.bind_ok hin (M.bind_ok hread ?_)))))
    exact (if_pos hcls).trans (M.bind_ok hend rfl)
  · have hr : r = _ := if_neg hcls
    rw [hr] at hend ⊢
    refine completes_of_body (show execVfill f s = _ from rfl) rfl h (M.bind_ok hd (M.bind_ok hok (M.check_ok hfam
      (M.bind_ok hin (M.bind_ok hread ?_)))))
    exact (if_neg hcls).trans (M.bind_ok hend rfl)

end Select

theorem vectorSelect : VectorSelect := fun _ _ => ⟨fun _ _ _ _ _ _ _ => completes_vcmp, fun _ _ _ _ _ _ _ _ _ _ _ => completes_vsel,
  fun _ _ _ _ _ => completes_vfill⟩

/-! ### VCMP, VSEL and VFILL in a window of plain data -/

theorem length_cmpCodes_le (f : Fields) (d a : Shape) (b : Option Shape) (cs : List (List Nat)) :
    (cmpCodes f d a b cs).length ≤ (cs.headD []).length := by
  unfold cmpCodes
  rw [List.length_map, List.length_zip, List.length_map]
  exact Nat.min_le_left ..

theorem length_selCodes_le (s : State) (byte : Nat → Byte) (a b c : Shape) : (selCodes (s.codesOf byte [] [a, b, c])).length ≤ a.count := by
  simp [selCodes, State.codesOf]

theorem length_fillCodes (f : Fields) (s : State) (d : Shape) : (fillCodes f s d).1.length = d.count := by
  unfold fillCodes
  split <;> exact List.length_replicate

theorem Midst.fillCodes {s t : State} {m : Nat → Byte} (h : Midst s m t) (f : Fields) (d : Shape) : Claims.fillCodes f t d = Claims.fillCodes f s d := by
  unfold Claims.fillCodes
  simp only [h.g, h.rng, h.drawn, h.fpm]

theorem selectInWindow : SelectInWindow := by
  intro f s d hs hd hfmt
  refine ⟨fun a b h ha hb hint hfb hca hcb hgo => ?cmp, fun a b c h ha hb hc hint hea heb hca hcb hcc hgo => ?sel, fun h hgo => ?fill⟩
  case cmp =>
    obtain ⟨s3, hshapes, m3⟩ := threeShapes_of_at (Midst.start h hs) hs hd ha hb hfmt hca hcb
    have hsrc : ∀ g ∈ a :: b.toList, g.Inside (s.winSize s.thr.hold) := by
      intro g hg
      rcases List.mem_cons.mp hg with rfl | hg
      · exact shapeAt_inside ha
      · obtain ⟨q, hq⟩ := shapeB_at hb hg
        exact shapeAt_inside hq
    obtain ⟨s4, h4, m4⟩ := m3.readShapes hs hgo hsrc true
    obtain ⟨u, hu, hmid⟩ := m4.endShapes hs (shapeAt_inside hd) (a :: b.toList)
      (codes := cmpCodes f d a b (s.codesOf (winByte s) [] (a :: b.toList)))
      ((length_cmpCodes_le ..).trans ((length_codesOf_head ..).trans hca).le)
    exact ⟨_, completes_vcmp h hshapes hint hfb h4 hu, vecDone hmid hmid.rng⟩
  case sel =>
    obtain ⟨s1, h1, m1⟩ := (Midst.start h hs).readShape hs hd
    obtain ⟨s2, h2, m2⟩ := m1.readShape hs ha
    obtain ⟨s3, h3, m3⟩ := m2.readShape hs hb
    obtain ⟨s4, h4, m4⟩ := m3.readShape hs hc
    have hat : ∀ g ∈ [d, a, b, c], ∃ p, ShapeAt s p g := by
      simp only [List.mem_cons, List.not_mem_nil, or_false, forall_eq_or_imp, forall_eq]
      exact ⟨⟨_, hd⟩, ⟨_, ha⟩, ⟨_, hb⟩, ⟨_, hc⟩⟩
    obtain ⟨s5, h5, m5⟩ := m4.readShapes hs hgo (fun g hg => (hat g (.tail _ hg)).elim fun _ hp => shapeAt_inside hp) true
    obtain ⟨u, hu, hmid⟩ := m5.endShapes hs (shapeAt_inside hd) [a, b, c] (codes := selCodes (s.codesOf (winByte s) [] [a, b, c]))
      ((length_selCodes_le ..).trans hca.le)
    exact ⟨_, completes_vsel h h1 (by rw [m1.g, h2]) (by rw [m2.g, h3]) (by rw [m3.gpr, h4]) (m4.shapesOk hat (fmt_ext hd hfmt) s) hfmt hint hea heb
      hca hcb hcc (m4.shapesIn hat) h5 hu, vecDone hmid hmid.rng⟩
  case fill =>
    obtain ⟨s1, h1, m1⟩ := (Midst.start h hs).readShape hs hd
    have hat : ∀ g ∈ [d], ∃ p, ShapeAt s p g := by simpa using ⟨_, hd⟩
    obtain ⟨s2, h2, m2⟩ := m1.readShapes hs hgo (fun _ hg => absurd hg List.not_mem_nil) true
    obtain ⟨u, hu, hmid⟩ := m2.endShapes hs (shapeAt_inside hd) [] (codes := (fillCodes f s d).1) (length_fillCodes f s d).le
    rw [← m2.fillCodes] at hu
    refine ⟨_, completes_vfill h h1 (m1.shapesOk hat (fmt_ext hd hfmt) s) hfmt (m1.shapesIn hat) h2 hu, ?_⟩
    rw [m2.fillCodes]
    exact vecDone_rng (vecDone hmid hmid.rng) _

/-- Settles O16: elements at hand give their codes, with the generator as each instruction leaves it; in a window of plain data they are at hand. -/
theorem vectorUnaryAndSelect : Obligations.VectorUnaryAndSelect := ⟨vectorUnary, unaryInWindow, vectorSelect, selectInWindow⟩

end Sys2Proof.Machine
